-- ==== Sys2Proof/Word.lean ====
section
/-! DEFINITION. The sizes of R5: byte, half, word, dword and vector, as bit vectors. -/

namespace Sys2Proof

/-- 8 bits (R5). -/
abbrev Byte := BitVec 8
/-- 16 bits: a code parcel (R21). -/
abbrev Parcel := BitVec 16
/-- 32 bits: the unit that carries a full/empty bit (R5, R180). -/
abbrev Word := BitVec 32
/-- 64 bits: a scalar register (R9). -/
abbrev DWord := BitVec 64
/-- 512 bits: a vector register (R9). -/
abbrev V512 := BitVec 512

end Sys2Proof
end

