-- ==== Sys2Proof/Syntax.lean ====
section
/-! DEFINITION. The syntax of Gnovan: one constructor for each row of the opcode table. The 227
encoded instructions carry the fields of their format (R24, R33); the 117 events, which have no
encoding, carry the agent they happen at and whatever an outside party presents. -/

namespace Sys2Proof

/-- A 6-bit scalar or vector specifier (R29): 0-31 a register, 32-35 a queue, 36-39 N, E, S, W. -/
abbrev Sc := Fin 40
/-- A vector specifier (R29). -/
abbrev Vc := Fin 40
/-- A 5-bit scalar code (R29): w0-w23, g0-g7. -/
abbrev R5 := Fin 32
/-- A pointer register p0-p15. -/
abbrev Pr := Fin 16
/-- A lane mask m0-m7. -/
abbrev Mk := Fin 8
/-- An accumulator tile c0-c3. -/
abbrev Tl := Fin 4
/-- A tensor map tm0-tm7. -/
abbrev Tm := Fin 8
/-- A byte offset in the management window (R360). -/
abbrev MReg := BitVec 27

/-- The fields of an XP parcel (R27): lane mask, rounding mode and type code. -/
structure Xp where
  m : Fin 8
  rm : Fin 8
  ty : Fin 16
  deriving DecidableEq, Repr

/-- What selects a vector instruction's type, mask and rounding (R28, R40): its ty2 field and the XP
parcel before it, if there is one. -/
structure Vx where
  ty2 : Fin 4
  pre : Option Xp
  deriving DecidableEq, Repr

/-- The answer that a remote message's sender gets from the receiving package (R421). -/
inductive Answer where
  | ack
  | refusal
  | held
  deriving DecidableEq, Repr

/-- A scale-out packet as the transport sees it (R427, R428): where it came from, and its transport
header and body. -/
structure Packet where
  srcAddr : BitVec 128
  srcPort : BitVec 16
  udp : BitVec 16
  kind : BitVec 4
  count : BitVec 16
  seq : BitVec 32
  cum : BitVec 32
  sack : BitVec 32
  body : List Byte
  /-- the frame is IPv6 without extension headers, carrying UDP (R426); the other fields of one that is not mean nothing -/
  plain : Bool := true
  deriving DecidableEq, Repr

/-- One instruction or event: one constructor for each row of the opcode table. -/
inductive Instr where
  | add (wd : Bool) (d : Sc) (a : Sc) (b : Sc)
  | sub (wd : Bool) (d : Sc) (a : Sc) (b : Sc)
  | mul (wd : Bool) (d : Sc) (a : Sc) (b : Sc)
  | mulh (wd : Bool) (d : Sc) (a : Sc) (b : Sc)
  | mulhn (wd : Bool) (d : Sc) (a : Sc) (b : Sc)
  | div (wd : Bool) (d : Sc) (a : Sc) (b : Sc)
  | divn (wd : Bool) (d : Sc) (a : Sc) (b : Sc)
  | rem (wd : Bool) (d : Sc) (a : Sc) (b : Sc)
  | remn (wd : Bool) (d : Sc) (a : Sc) (b : Sc)
  | and (wd : Bool) (d : Sc) (a : Sc) (b : Sc)
  | or (wd : Bool) (d : Sc) (a : Sc) (b : Sc)
  | xor (wd : Bool) (d : Sc) (a : Sc) (b : Sc)
  | shl (wd : Bool) (d : Sc) (a : Sc) (b : Sc)
  | shr (wd : Bool) (d : Sc) (a : Sc) (b : Sc)
  | sar (wd : Bool) (d : Sc) (a : Sc) (b : Sc)
  | rol (wd : Bool) (d : Sc) (a : Sc) (b : Sc)
  | clz (wd : Bool) (d : Sc) (a : Sc)
  | ctz (wd : Bool) (d : Sc) (a : Sc)
  | popc (wd : Bool) (d : Sc) (a : Sc)
  | abs (wd : Bool) (d : Sc) (a : Sc)
  | min (wd : Bool) (d : Sc) (a : Sc) (b : Sc)
  | minn (wd : Bool) (d : Sc) (a : Sc) (b : Sc)
  | max (wd : Bool) (d : Sc) (a : Sc) (b : Sc)
  | maxn (wd : Bool) (d : Sc) (a : Sc) (b : Sc)
  | seq (wd : Bool) (d : Sc) (a : Sc) (b : Sc)
  | sne (wd : Bool) (d : Sc) (a : Sc) (b : Sc)
  | slt (wd : Bool) (d : Sc) (a : Sc) (b : Sc)
  | slb (wd : Bool) (d : Sc) (a : Sc) (b : Sc)
  | sel (wd : Bool) (d : Sc) (c : Fin 16) (a : Sc) (b : Sc)
  | addi (wd : Bool) (d : Sc) (a : Sc) (imm : BitVec 10)
  | andi (wd : Bool) (d : Sc) (a : Sc) (imm : BitVec 10)
  | ori (wd : Bool) (d : Sc) (a : Sc) (imm : BitVec 10)
  | xori (wd : Bool) (d : Sc) (a : Sc) (imm : BitVec 10)
  | shli (wd : Bool) (d : Sc) (a : Sc) (n : Fin 64)
  | shri (wd : Bool) (d : Sc) (a : Sc) (n : Fin 64)
  | sari (wd : Bool) (d : Sc) (a : Sc) (n : Fin 64)
  | movi (d : Sc) (imm : BitVec 18)
  | movhi (d : Sc) (imm : BitVec 16) (k : Fin 4)
  | bfx (d : Sc) (a : Sc) (pos : Fin 64) (lm : Fin 64)
  | bfi (d : Sc) (a : Sc) (pos : Fin 64) (lm : Fin 64)
  | beq (a : Sc) (b : Sc) (off : BitVec 10)
  | bne (a : Sc) (b : Sc) (off : BitVec 10)
  | blt (a : Sc) (b : Sc) (off : BitVec 10)
  | bge (a : Sc) (b : Sc) (off : BitVec 10)
  | blo (a : Sc) (b : Sc) (off : BitVec 10)
  | bhs (a : Sc) (b : Sc) (off : BitVec 10)
  | bz (a : Sc) (off : BitVec 10)
  | bnz (a : Sc) (off : BitVec 10)
  | b (t : BitVec 24)
  | j (t : BitVec 24)
  | call (t : BitVec 24)
  | loop (a : Sc) (len : BitVec 16)
  | loopi (n : BitVec 8) (len : BitVec 16)
  | sig (t : BitVec 24)
  | done
  | yield
  | wfe
  | sev
  | brk (imm : BitVec 12)
  | sysc (imm : BitVec 12)
  | eret
  | jr (a : Sc)
  | callr (a : Sc)
  | ret
  | clen (a : Sc)
  | cldis (a : Sc)
  | clpend (b : Sc) (a : Sc)
  | savew (a : Sc)
  | loadw (a : Sc)
  | ctxrd (b : Sc) (a : Sc)
  | ctxwr (a : Sc) (b : Sc)
  | fence (pred : BitVec 3) (succ : BitVec 3) (scope : Fin 8)
  | linkc (dir : Fin 4)
  | linkf (dir : Fin 4)
  | gbar (a : Sc)
  | gwait (a : Sc)
  | sift (a : Sc)
  | launch (p : Pr)
  | cancel (a : Sc)
  | xinv (p : Pr)
  | trace (a : Sc)
  | ctrsnap (p : Pr)
  | csrr (d : Sc) (csr : BitVec 12)
  | csrw (d : Sc) (csr : BitVec 12)
  | csrset (d : Sc) (csr : BitVec 12)
  | csrclr (d : Sc) (csr : BitVec 12)
  | ld (d : Sc) (x : Bool) (sgn : Bool) (sz : Fin 4) (os : Fin 16) (p : Pr) (off : Fin 32)
  | ldw (d : Sc) (x : Bool) (sgn : Bool) (sz : Fin 4) (os : Fin 16) (p : Pr) (off : Fin 32)
  | ldc (d : Sc) (x : Bool) (sgn : Bool) (sz : Fin 4) (os : Fin 16) (p : Pr) (off : Fin 32)
  | st (d : Sc) (x : Bool) (sgn : Bool) (sz : Fin 4) (os : Fin 16) (p : Pr) (off : Fin 32)
  | stf (d : Sc) (x : Bool) (sgn : Bool) (sz : Fin 4) (os : Fin 16) (p : Pr) (off : Fin 32)
  | feget (d : Sc) (x : Bool) (os : Fin 16) (p : Pr) (off : Fin 32)
  | feset (d : Sc) (x : Bool) (full : Bool) (os : Fin 16) (p : Pr) (off : Fin 32)
  | pld (q : Pr) (x : Bool) (os : Fin 16) (p : Pr) (off : Fin 32)
  | pst (q : Pr) (x : Bool) (os : Fin 16) (p : Pr) (off : Fin 32)
  | new (pd : Pr) (kind : Fin 16) (a : Sc) (perm : BitVec 5)
  | newp (pd : Pr) (kind : Fin 16) (a : Sc) (perm : BitVec 5)
  | vld (v : Vc) (x : Bool) (m : Mk) (os : Fin 16) (p : Pr) (off : Fin 32)
  | vldw (v : Vc) (x : Bool) (m : Mk) (os : Fin 16) (p : Pr) (off : Fin 32)
  | vldc (v : Vc) (x : Bool) (m : Mk) (os : Fin 16) (p : Pr) (off : Fin 32)
  | vst (v : Vc) (x : Bool) (m : Mk) (os : Fin 16) (p : Pr) (off : Fin 32)
  | vstf (v : Vc) (x : Bool) (m : Mk) (os : Fin 16) (p : Pr) (off : Fin 32)
  | vgath (v : Vc) (m : Mk) (os : Fin 16) (p : Pr) (vi : Fin 32)
  | vscat (v : Vc) (m : Mk) (os : Fin 16) (p : Pr) (vi : Fin 32)
  | padd (pa : Pr) (pb : Pr) (s : Sc)
  | pnarrow (pa : Pr) (pb : Pr) (s : Sc) (t : Sc)
  | pview (pa : Pr) (pb : Pr) (view : Fin 8)
  | pperm (pa : Pr) (pb : Pr) (mask : BitVec 4)
  | plen (s : Sc) (pb : Pr)
  | pcmp (s : Sc) (pa : Pr) (pb : Pr)
  | pmov (pa : Pr) (pb : Pr)
  | touch (pa : Pr)
  | acq (pa : Pr) (scope : Fin 8)
  | rel (pa : Pr) (scope : Fin 8)
  | vadd (vx : Vx) (d : Vc) (a : Vc) (b : Vc)
  | vsub (vx : Vx) (d : Vc) (a : Vc) (b : Vc)
  | vmul (vx : Vx) (d : Vc) (a : Vc) (b : Vc)
  | vfma (vx : Vx) (d : Vc) (a : Vc) (b : Vc)
  | vfms (vx : Vx) (d : Vc) (a : Vc) (b : Vc)
  | vmin (vx : Vx) (d : Vc) (a : Vc) (b : Vc)
  | vmax (vx : Vx) (d : Vc) (a : Vc) (b : Vc)
  | vclamp (vx : Vx) (d : Vc) (a : Vc) (b : Vc)
  | vand (vx : Vx) (d : Vc) (a : Vc) (b : Vc)
  | vor (vx : Vx) (d : Vc) (a : Vc) (b : Vc)
  | vxor (vx : Vx) (d : Vc) (a : Vc) (b : Vc)
  | vshl (vx : Vx) (d : Vc) (a : Vc) (b : Vc)
  | vshr (vx : Vx) (d : Vc) (a : Vc) (b : Vc)
  | vsar (vx : Vx) (d : Vc) (a : Vc) (b : Vc)
  | vdot (vx : Vx) (d : Vc) (a : Vc) (b : Vc)
  | vperm (vx : Vx) (d : Vc) (a : Vc) (b : Vc)
  | vabs (vx : Vx) (d : Vc) (a : Vc)
  | vneg (vx : Vx) (d : Vc) (a : Vc)
  | vrcp (vx : Vx) (d : Vc) (a : Vc)
  | vrsq (vx : Vx) (d : Vc) (a : Vc)
  | vexp2 (vx : Vx) (d : Vc) (a : Vc)
  | vlog2 (vx : Vx) (d : Vc) (a : Vc)
  | vmov (vx : Vx) (d : Vc) (a : Vc)
  | viota (vx : Vx) (d : Vc)
  | vbcast (vx : Vx) (d : Vc) (a : Sc)
  | vins (vx : Vx) (d : Vc) (a : Sc) (lane : Fin 64)
  | vext (vx : Vx) (d : Sc) (a : Vc) (lane : Fin 64)
  | vcmp (vx : Vx) (md : Mk) (a : Vc) (b : Vc) (cond : Fin 8)
  | vsel (vx : Vx) (d : Vc) (a : Vc) (b : Vc)
  | vred (vx : Vx) (d : Vc) (a : Vc) (op : Fin 64)
  | vscan (vx : Vx) (d : Vc) (a : Vc) (op : Fin 64)
  | vcvt (vx : Vx) (d : Vc) (a : Vc) (src : Fin 64)
  | vqnt (vx : Vx) (d : Vc) (a : Vc)
  | vdq (vx : Vx) (d : Vc) (a : Vc)
  | mand (md : Mk) (ma : Mk) (mb : Mk)
  | mor (md : Mk) (ma : Mk) (mb : Mk)
  | mxor (md : Mk) (ma : Mk) (mb : Mk)
  | mnot (md : Mk) (ma : Mk)
  | many (d : Sc) (ma : Mk)
  | mall (d : Sc) (ma : Mk)
  | mpop (d : Sc) (ma : Mk)
  | mfirst (d : Sc) (ma : Mk)
  | mfrom (md : Mk) (a : Sc)
  | mto (d : Sc) (ma : Mk)
  | mset (md : Mk) (imm : BitVec 16)
  | mma (c : Tl) (pa : Pr) (tma : Tm) (pb : Pr) (tmb : Tm) (ty : Fin 16)
  | mmaz (c : Tl) (pa : Pr) (tma : Tm) (pb : Pr) (tmb : Tm) (ty : Fin 16)
  | mcks (c : Tl) (pa : Pr) (tma : Tm) (pb : Pr) (tmb : Tm) (ty : Fin 16)
  | shmma (c : Tl) (pa : Pr) (tma : Tm) (pb : Pr) (tmb : Tm) (ty : Fin 16)
  | mchk (s : Sc) (c : Tl)
  | mfix (c : Tl) (s : Sc)
  | mld (p : Pr) (tm : Tm)
  | maccld (c : Tl) (p : Pr)
  | maccst (p : Pr) (c : Tl)
  | mzero (c : Tl)
  | mtr (c : Tl)
  | mcmd (s : Sc) (p : Pr)
  | tmset (tm : Tm) (p : Pr)
  | tmget (p : Pr) (tm : Tm)
  | wdrun (p : Pr) (slot : Fin 16)
  | wdres
  | wdq (s : Sc)
  | send (a : Sc) (b : Sc) (p : Pr)
  | sendv (a : Sc) (b : Sc) (v : Vc)
  | reply (b : Sc) (p : Pr)
  | sendh (a : Sc) (b : Sc) (p : Pr)
  | copy (d : Sc) (p : Pr) (pg : Pr)
  | copyq (d : Sc) (a : Sc)
  | copyw (a : Sc)
  | quiesce
  | strm (x : Fin 8) (p : Pr) (tm : Tm)
  | strmx (x : Fin 8)
  | rise (p : Pr) (a : Sc)
  | risew (p : Pr) (a : Sc)
  | hatch (a : Sc)
  | shjoin (a : Sc)
  | shleave
  | amoadd (d : R5) (p : Pr) (b : Sc) (os : Fin 16) (ty : Fin 4)
  | amofadd (d : R5) (p : Pr) (b : Sc) (os : Fin 16) (ty : Fin 4)
  | amomin (d : R5) (p : Pr) (b : Sc) (os : Fin 16) (ty : Fin 4)
  | amomax (d : R5) (p : Pr) (b : Sc) (os : Fin 16) (ty : Fin 4)
  | amoswp (d : R5) (p : Pr) (b : Sc) (os : Fin 16) (ty : Fin 4)
  | amocas (d : R5) (p : Pr) (b : Sc) (os : Fin 16) (ty : Fin 4)
  | amologAnd (d : R5) (p : Pr) (b : Sc) (os : Fin 16) (ty : Fin 4)
  | amologOr (d : R5) (p : Pr) (b : Sc) (os : Fin 16) (ty : Fin 4)
  | amologXor (d : R5) (p : Pr) (b : Sc) (os : Fin 16) (ty : Fin 4)
  | addiCompact (d : R5) (imm : BitVec 6)
  | moviCompact (d : R5) (imm : BitVec 6)
  | shliCompact (d : R5) (n : Fin 64)
  | shriCompact (d : R5) (n : Fin 64)
  | sariCompact (d : R5) (n : Fin 64)
  | addCompact (d : R5) (a : R5)
  | subCompact (d : R5) (a : R5)
  | andCompact (d : R5) (a : R5)
  | orCompact (d : R5) (a : R5)
  | xorCompact (d : R5) (a : R5)
  | addMoveCompact (d : R5) (a : R5)
  | bzCompact (a : R5) (off : BitVec 6)
  | bnzCompact (a : R5) (off : BitVec 6)
  | bCompact (off : BitVec 11)
  | ldS64Compact (d : R5) (p : Fin 8) (k : Fin 8)
  | stS64Compact (d : R5) (p : Fin 8) (k : Fin 8)
  | ldS32Compact (d : R5) (p : Fin 8) (k : Fin 8)
  | stS32Compact (d : R5) (p : Fin 8) (k : Fin 8)
  | doneCompact
  | yieldCompact
  | retCompact
  | jrCompact (a : Sc)
  | wfeCompact
  | sevCompact
  | callrCompact (a : Sc)
  | vaddF32Compact (d : Fin 32) (a : Fin 32)
  | vmulF32Compact (d : Fin 32) (a : Fin 32)
  | messageArrival (core : Fin 1024)
  | dispatchDecision (core : Fin 1024)
  | activationEntry (core : Fin 1024) (ctx : Fin 8)
  | linkFlitArrival (core : Fin 1024) (dir : Fin 4)
  | feRecheck (core : Fin 1024) (ctx : Fin 8)
  | feParkTimeout (core : Fin 1024) (ctx : Fin 8)
  | subByteWrite
  | coreSift (core : Fin 1024)
  | clusterSift (clu : Fin 64)
  | dieSift (die : Fin 4) (reg : Fin 8)
  | expanderFill (clu : Fin 64) (blk : Fin 131072)
  | patrolScrub (core : Fin 1024) (gran : Fin 65536)
  | heapPatrolScrub (stk : Fin 12) (gran : Nat)
  | copyAccept (unit : Fin 128)
  | copyBeat (unit : Fin 128)
  | copyCompletion (unit : Fin 128)
  | streamRefill (core : Fin 1024) (ctx : Fin 8) (x : Fin 8)
  | mldFill (core : Fin 1024)
  | matrixCommandAccept (core : Fin 1024)
  | matrixCommandRepeat (core : Fin 1024)
  | sheetPairing (core : Fin 1024)
  | sheetPartialMerge (core : Fin 1024)
  | weightBlockFetch (core : Fin 1024) (ctx : Fin 8)
  | bnop (core : Fin 1024) (ctx : Fin 8)
  | bmv (core : Fin 1024) (ctx : Fin 8)
  | bmvz (core : Fin 1024) (ctx : Fin 8)
  | bbias (core : Fin 1024) (ctx : Fin 8)
  | bscale (core : Fin 1024) (ctx : Fin 8)
  | bact (core : Fin 1024) (ctx : Fin 8)
  | bsend (core : Fin 1024) (ctx : Fin 8)
  | blink (core : Fin 1024) (ctx : Fin 8)
  | bend (core : Fin 1024) (ctx : Fin 8)
  | bwait (core : Fin 1024) (ctx : Fin 8)
  | bwaitBudgetExpiry (core : Fin 1024) (ctx : Fin 8)
  | preemptionRequest (slot : Fin 128) (core : Fin 1024)
  | preemptEntry (core : Fin 1024) (ctx : Fin 8)
  | saveTimerExpiry (core : Fin 1024) (ctx : Fin 8)
  | sealEvent (core : Fin 1024) (ctx : Fin 8)
  | priorityPreempt (core : Fin 1024)
  | resumeDispatch (core : Fin 1024)
  | resumeRequestSubmit (core : Fin 1024)
  | stealProbe (core : Fin 1024)
  | stealTransfer (core : Fin 1024)
  | stealBackoffExpiry (core : Fin 1024)
  | refusalRetry (id : Nat)
  | ticketPresent (id : Nat)
  | heldRetry (id : Nat)
  | atomicService (core : Fin 1024)
  | atomicReply (core : Fin 1024) (ctx : Fin 8)
  | groupArrival (core : Fin 1024)
  | gwaitRecheck (core : Fin 1024) (ctx : Fin 8)
  | timerExpiry (core : Fin 1024)
  | timerEntry (core : Fin 1024) (ctx : Fin 8)
  | traceRecordWrite (core : Fin 1024)
  | coreStop (core : Fin 1024)
  | coreGo (core : Fin 1024)
  | stopComplete (core : Fin 1024)
  | dieHalt (die : Fin 4)
  | dieRun (die : Fin 4)
  | dieOffline (die : Fin 4)
  | dieShutter (die : Fin 4)
  | dieReopen (die : Fin 4)
  | translationWalk (part : Fin 16) (va : BitVec 45)
  | faultListRepresent (stk : Fin 12)
  | pageAnswerMap (die : Fin 4) (v : BitVec 64)
  | pageAnswerRefuse (die : Fin 4) (v : BitVec 64)
  | padRegisterWrite (reg : MReg) (v : BitVec 64)
  | saveRegisterWrite (reg : MReg) (v : BitVec 64)
  | trbaseWrite (reg : MReg) (v : BitVec 64)
  | mgmtRegisterWrite (reg : MReg) (v : BitVec 64)
  | loadImage
  | loadCore (core : Fin 1024)
  | clockStepRequest (v : BitVec 64)
  | clockHandshake
  | clkstatWrite (v : BitVec 64)
  | queueDoorbell (v : BitVec 64)
  | slotMap
  | slotRelease (slot : Fin 128)
  | start (slot : Fin 128)
  | messagePlacement (slot : Fin 128)
  | stop (slot : Fin 128)
  | launchComplete (id : Nat)
  | abandon (q : BitVec 128)
  | precmd (v : BitVec 64)
  | cancelq (v : BitVec 64)
  | hostPostedWrite (bar4 : Bool) (off : BitVec 32) (data : List Byte) (poisoned : Bool)
  | routeRelease
  | landingStep (route : Fin 5)
  | routeAck (route : Fin 5)
  | hostRead (bar4 : Bool) (off : BitVec 32) (n : Nat)
  | hostQueueWrite (h : Fin 256)
  | hqheadWrite (h : Fin 256) (v : BitVec 64)
  | functionLevelReset
  | perstReset
  | mainPowerLoss
  | boot
  | recoveryVerifyRun (img : List Byte)
  | recoveryVerifyFlashRun (img : List Byte)
  | attestationRequest
  | attestationReportDone (nonce : List Byte)
  | securityAlarm (src : Fin 6)
  | checkpointSave
  | checkpointRestore (image : List Byte)
  | checkpointAbort
  | checkpointComplete (ok : Bool) (us : BitVec 32)
  | powerControlTick (avg : BitVec 12)
  | fabricPortUp (port : Fin 36)
  | flitReceive (port : Fin 36) (flit : List Byte)
  | creditFlit (port : Fin 36) (c0 : BitVec 16) (c1 : BitVec 16) (init : Bool)
  | creditReport (port : Fin 36)
  | endToEndAck (id : Nat) (ans : Answer)
  | eyeMonitorWindow (link : Fin 52) (mgn : BitVec 32) (corr : Bool)
  | linkRetrain (link : Fin 52)
  | portStepWrite (link : Fin 52) (v : BitVec 64)
  | scaleoutPacketReceive (port : Fin 16) (pkt : Packet)
  | retransmitTimeout (peer : Fin 223) (seq : BitVec 32)
  | sqheadWrite (die : Fin 4) (v : BitVec 64)
  deriving DecidableEq, Repr

end Sys2Proof
end

