-- ==== Sys2Proof/WellFormed.lean ====
section
/-! DEFINITION. Which field values an encoding may hold (R27-R45 and the entries they send to): one
named check for each rule, and Instr.wf, their use at each instruction. An instruction that fails
its checks raises ILLEGAL (R45). -/

namespace Sys2Proof

/-- The effective type code (R28, R31): XP's ty, unless it is 15 or there is no XP; then ty2. -/
def Vx.type (vx : Vx) : Nat :=
  let short := match vx.ty2.val with
    | 0 => 9
    | 1 => 8
    | 2 => 2
    | _ => 6
  match vx.pre with
  | none => short
  | some x => if x.ty.val == 15 then short else x.ty.val

/-- The rounding mode (R27): XP's rm, or RNE without one. -/
def Vx.mode (vx : Vx) : Nat :=
  match vx.pre with
  | none => 0
  | some x => x.rm.val

/-- The lane mask (R133): XP's m, or m0 without one. -/
def Vx.mask (vx : Vx) : Mk :=
  match vx.pre with
  | none => 0
  | some x => x.m

/-- The lanes of a type (R132): 8 for the 64-bit types, otherwise 16. -/
def lanesOf (ty : Nat) : Nat := if ty == 3 || ty == 7 || ty == 8 then 8 else 16

/-- s8-n64: codes 0-7 (R31). -/
def intType (ty : Nat) : Bool := ty < 8
/-- f64, f32, f16, bf16 (R31). -/
def realType (ty : Nat) : Bool := 8 ≤ ty && ty ≤ 11
/-- R134, row 1: s8-n64, f64, f32, f16, bf16. -/
def numType (ty : Nat) : Bool := ty ≤ 11
/-- R134: any of codes 0-14. -/
def anyType (ty : Nat) : Bool := ty ≤ 14
/-- R134, VIOTA: s32, n32, s64, n64, f32, f64. -/
def iotaType (ty : Nat) : Bool := ty == 2 || ty == 6 || ty == 3 || ty == 7 || ty == 9 || ty == 8
/-- R134, VQNT: q4. -/
def q4Type (ty : Nat) : Bool := ty == 14
/-- R134, VDQ: f32, f16, bf16. -/
def dqType (ty : Nat) : Bool := 9 ≤ ty && ty ≤ 11

/-- R134: RNE only. -/
def rneOnly (_ty mode : Nat) : Bool := mode == 0
/-- R134: every mode. -/
def anyMode (_ty _mode : Nat) : Bool := true
/-- R134: every mode for float types, RNE only for integer types. -/
def modeByType (ty mode : Nat) : Bool := !intType ty || mode == 0

/-- R27, R28, R134: the rounding mode is 0-4, a type given by XP leaves ty2 zero, and the entry
accepts the type and the mode. -/
def Vx.ok (vx : Vx) (tys : Nat → Bool) (modes : Nat → Nat → Bool) : Bool :=
  (match vx.pre with
   | none => true
   | some x => x.rm.val ≤ 4 && (x.ty.val == 15 || vx.ty2.val == 0)) &&
  tys vx.type && modes vx.type vx.mode

/-- R34: a 32-bit shift count is 0-31. -/
def shiftOk (wd : Bool) (n : Fin 64) : Bool := !wd || n.val ≤ 31
/-- R34: pos + lm + 1 is at most 64. -/
def fieldOk (pos lm : Fin 64) : Bool := pos.val + lm.val + 1 ≤ 64
/-- R34: an absolute target is a parcel index 0-32,767. -/
def targetOk (t : BitVec 24) : Bool := t.toNat ≤ 32767
/-- R34: a loop body has at least one parcel. -/
def lenOk (len : BitVec 16) : Bool := len != 0
/-- R37: no empty set, and scope 0-4. -/
def fenceOk (pred succ : BitVec 3) (scope : Fin 8) : Bool := pred != 0 && succ != 0 && scope.val ≤ 4
/-- R39: scope 0-4. -/
def scopeOk (scope : Fin 8) : Bool := scope.val ≤ 4
/-- R58: the CSR numbers that exist. -/
def csrListed (csr : BitVec 12) : Bool :=
  let n := csr.toNat
  n ≤ 9 || n == 0x10 || n == 0x11 || (0x20 ≤ n && n ≤ 0x2B) || n == 0x30 || n == 0x31 ||
  (0x40 ≤ n && n ≤ 0x45) || (0x100 ≤ n && n ≤ 0x107) || (0x110 ≤ n && n ≤ 0x112) ||
  (0x200 ≤ n && n ≤ 0x23F)
/-- R58: access RO. -/
def csrReadOnly (csr : BitVec 12) : Bool :=
  let n := csr.toNat
  n ≤ 9 || n == 0x10 || n == 0x11 || n == 0x26 || n == 0x2A || n == 0x2B || n == 0x30 ||
  (0x110 ≤ n && n ≤ 0x112) || (0x200 ≤ n && n ≤ 0x23F)
/-- R58: access RP, writable only when privileged. -/
def csrPrivWrite (csr : BitVec 12) : Bool :=
  let n := csr.toNat
  n == 0x31 || (0x40 ≤ n && n ≤ 0x45) || (0x100 ≤ n && n ≤ 0x107)
/-- R32: os 0-9 on a load. -/
def loadOrder (os : Fin 16) : Bool := os.val ≤ 9
/-- R32: os 0-4 or 10-14 on a store. -/
def storeOrder (os : Fin 16) : Bool := os.val ≤ 4 || (10 ≤ os.val && os.val ≤ 14)
/-- R32: no order on FEGET and FESET. -/
def plainOrder (os : Fin 16) : Bool := os.val ≤ 4
/-- R32: os is not 15. -/
def amoOrder (os : Fin 16) : Bool := os.val ≤ 14
/-- R44: AMOFADD takes f32 and f64. -/
def famoType (ty : Fin 4) : Bool := ty.val ≤ 1
/-- R192: kind 7 and kinds 9-15 are illegal. -/
def kindOk (kind : Fin 16) : Bool := kind.val ≤ 6 || kind.val == 8
/-- R40: the lane exists. -/
def laneOk (vx : Vx) (lane : Fin 64) : Bool := lane.val < lanesOf vx.type
/-- R30: m0 is no destination. -/
def maskDest (md : Mk) : Bool := md.val != 0
/-- R40: conditions 0-5. -/
def condOk (cond : Fin 8) : Bool := cond.val ≤ 5
/-- R40, R140: op 0-5, and 3-5 for integer types only. -/
def redOk (vx : Vx) (op : Fin 64) : Bool := op.val ≤ 2 || (op.val ≤ 5 && intType vx.type)
/-- R141: source types 0-14. -/
def srcOk (src : Fin 64) : Bool := src.val ≤ 14
/-- R143, R144: an even register v0-v30. -/
def evenReg (v : Vc) : Bool := v.val ≤ 30 && v.val % 2 == 0
/-- R142: an odd mask names no pair. -/
def maskPair (vx : Vx) : Bool := vx.mask.val % 2 == 0
/-- R42, R146: operand formats 8-14, and an FP64 accumulator is named by c0 or c2. -/
def mmaType (c : Tl) (ty : Fin 16) : Bool :=
  8 ≤ ty.val && ty.val ≤ 14 && (ty.val != 8 || c.val % 2 == 0)
/-- R152, R276: MCKS and SHMMA do not take f64. -/
def notF64 (ty : Fin 16) : Bool := ty.val != 8
/-- R378: CANCEL's operand is a register. -/
def regOnly (a : Sc) : Bool := a.val ≤ 31

/-- Every field holds a value its rule accepts. -/
def Instr.wf (i : Instr) : Bool :=
  match i with
  | .add _ _ _ _ => true
  | .sub _ _ _ _ => true
  | .mul _ _ _ _ => true
  | .mulh _ _ _ _ => true
  | .mulhn _ _ _ _ => true
  | .div _ _ _ _ => true
  | .divn _ _ _ _ => true
  | .rem _ _ _ _ => true
  | .remn _ _ _ _ => true
  | .and _ _ _ _ => true
  | .or _ _ _ _ => true
  | .xor _ _ _ _ => true
  | .shl _ _ _ _ => true
  | .shr _ _ _ _ => true
  | .sar _ _ _ _ => true
  | .rol _ _ _ _ => true
  | .clz _ _ _ => true
  | .ctz _ _ _ => true
  | .popc _ _ _ => true
  | .abs _ _ _ => true
  | .min _ _ _ _ => true
  | .minn _ _ _ _ => true
  | .max _ _ _ _ => true
  | .maxn _ _ _ _ => true
  | .seq _ _ _ _ => true
  | .sne _ _ _ _ => true
  | .slt _ _ _ _ => true
  | .slb _ _ _ _ => true
  | .sel _ _ _ _ _ => true
  | .addi _ _ _ _ => true
  | .andi _ _ _ _ => true
  | .ori _ _ _ _ => true
  | .xori _ _ _ _ => true
  | .shli wd _ _ n => shiftOk wd n
  | .shri wd _ _ n => shiftOk wd n
  | .sari wd _ _ n => shiftOk wd n
  | .movi _ _ => true
  | .movhi _ _ _ => true
  | .bfx _ _ pos lm => fieldOk pos lm
  | .bfi _ _ pos lm => fieldOk pos lm
  | .beq _ _ _ => true
  | .bne _ _ _ => true
  | .blt _ _ _ => true
  | .bge _ _ _ => true
  | .blo _ _ _ => true
  | .bhs _ _ _ => true
  | .bz _ _ => true
  | .bnz _ _ => true
  | .b _ => true
  | .j t => targetOk t
  | .call t => targetOk t
  | .loop _ len => lenOk len
  | .loopi _ len => lenOk len
  | .sig _ => true
  | .done => true
  | .yield => true
  | .wfe => true
  | .sev => true
  | .brk _ => true
  | .sysc _ => true
  | .eret => true
  | .jr _ => true
  | .callr _ => true
  | .ret => true
  | .clen _ => true
  | .cldis _ => true
  | .clpend _ _ => true
  | .savew _ => true
  | .loadw _ => true
  | .ctxrd _ _ => true
  | .ctxwr _ _ => true
  | .fence pred succ scope => fenceOk pred succ scope
  | .linkc _ => true
  | .linkf _ => true
  | .gbar _ => true
  | .gwait _ => true
  | .sift _ => true
  | .launch _ => true
  | .cancel a => regOnly a
  | .xinv _ => true
  | .trace _ => true
  | .ctrsnap _ => true
  | .csrr _ csr => csrListed csr
  | .csrw _ csr => csrListed csr && !csrReadOnly csr
  | .csrset _ csr => csrListed csr && !csrReadOnly csr
  | .csrclr _ csr => csrListed csr && !csrReadOnly csr
  | .ld _ _ _ _ os _ _ => loadOrder os
  | .ldw _ _ _ _ os _ _ => loadOrder os
  | .ldc _ _ _ _ os _ _ => loadOrder os
  | .st _ _ _ _ os _ _ => storeOrder os
  | .stf _ _ _ _ os _ _ => storeOrder os
  | .feget _ _ os _ _ => plainOrder os
  | .feset _ _ _ os _ _ => plainOrder os
  | .pld _ _ os _ _ => loadOrder os
  | .pst _ _ os _ _ => storeOrder os
  | .new _ kind _ _ => kindOk kind
  | .newp _ kind _ _ => kindOk kind
  | .vld _ _ _ os _ _ => loadOrder os
  | .vldw _ _ _ os _ _ => loadOrder os
  | .vldc _ _ _ os _ _ => loadOrder os
  | .vst _ _ _ os _ _ => storeOrder os
  | .vstf _ _ _ os _ _ => storeOrder os
  | .vgath _ _ os _ _ => loadOrder os
  | .vscat _ _ os _ _ => storeOrder os
  | .padd _ _ _ => true
  | .pnarrow _ _ _ _ => true
  | .pview _ _ _ => true
  | .pperm _ _ _ => true
  | .plen _ _ => true
  | .pcmp _ _ _ => true
  | .pmov _ _ => true
  | .touch _ => true
  | .acq _ scope => scopeOk scope
  | .rel _ scope => scopeOk scope
  | .vadd vx _ _ _ => vx.ok numType modeByType
  | .vsub vx _ _ _ => vx.ok numType modeByType
  | .vmul vx _ _ _ => vx.ok numType modeByType
  | .vfma vx _ _ _ => vx.ok numType modeByType
  | .vfms vx _ _ _ => vx.ok numType modeByType
  | .vmin vx _ _ _ => vx.ok numType modeByType
  | .vmax vx _ _ _ => vx.ok numType modeByType
  | .vclamp vx _ _ _ => vx.ok numType modeByType
  | .vand vx _ _ _ => vx.ok intType rneOnly
  | .vor vx _ _ _ => vx.ok intType rneOnly
  | .vxor vx _ _ _ => vx.ok intType rneOnly
  | .vshl vx _ _ _ => vx.ok intType rneOnly
  | .vshr vx _ _ _ => vx.ok intType rneOnly
  | .vsar vx _ _ _ => vx.ok intType rneOnly
  | .vdot vx _ _ _ => vx.ok numType modeByType
  | .vperm vx _ _ _ => vx.ok anyType rneOnly
  | .vabs vx _ _ => vx.ok numType modeByType
  | .vneg vx _ _ => vx.ok numType modeByType
  | .vrcp vx _ _ => vx.ok realType anyMode
  | .vrsq vx _ _ => vx.ok realType anyMode
  | .vexp2 vx _ _ => vx.ok realType anyMode
  | .vlog2 vx _ _ => vx.ok realType anyMode
  | .vmov vx _ _ => vx.ok anyType rneOnly
  | .viota vx _ => vx.ok iotaType rneOnly
  | .vbcast vx _ _ => vx.ok anyType rneOnly
  | .vins vx _ _ lane => vx.ok anyType rneOnly && laneOk vx lane
  | .vext vx _ _ lane => vx.ok anyType rneOnly && laneOk vx lane
  | .vcmp vx md _ _ cond => vx.ok numType modeByType && maskDest md && condOk cond
  | .vsel vx _ _ _ => vx.ok anyType rneOnly
  | .vred vx _ _ op => vx.ok numType modeByType && redOk vx op
  | .vscan vx _ _ op => vx.ok numType modeByType && redOk vx op
  | .vcvt vx _ _ src => vx.ok anyType anyMode && srcOk src
  | .vqnt vx _ a => vx.ok q4Type anyMode && evenReg a && maskPair vx
  | .vdq vx d _ => vx.ok dqType anyMode && evenReg d && maskPair vx
  | .mand md _ _ => maskDest md
  | .mor md _ _ => maskDest md
  | .mxor md _ _ => maskDest md
  | .mnot md _ => maskDest md
  | .many _ _ => true
  | .mall _ _ => true
  | .mpop _ _ => true
  | .mfirst _ _ => true
  | .mfrom md _ => maskDest md
  | .mto _ _ => true
  | .mset md _ => maskDest md
  | .mma c _ _ _ _ ty => mmaType c ty
  | .mmaz c _ _ _ _ ty => mmaType c ty
  | .mcks c _ _ _ _ ty => mmaType c ty && notF64 ty
  | .shmma c _ _ _ _ ty => mmaType c ty && notF64 ty
  | .mchk _ _ => true
  | .mfix _ _ => true
  | .mld _ _ => true
  | .maccld _ _ => true
  | .maccst _ _ => true
  | .mzero _ => true
  | .mtr _ => true
  | .mcmd _ _ => true
  | .tmset _ _ => true
  | .tmget _ _ => true
  | .wdrun _ _ => true
  | .wdres => true
  | .wdq _ => true
  | .send _ _ _ => true
  | .sendv _ _ _ => true
  | .reply _ _ => true
  | .sendh _ _ _ => true
  | .copy _ _ _ => true
  | .copyq _ _ => true
  | .copyw _ => true
  | .quiesce => true
  | .strm _ _ _ => true
  | .strmx _ => true
  | .rise _ _ => true
  | .risew _ _ => true
  | .hatch _ => true
  | .shjoin _ => true
  | .shleave => true
  | .amoadd _ _ _ os _ => amoOrder os
  | .amofadd _ _ _ os ty => amoOrder os && famoType ty
  | .amomin _ _ _ os _ => amoOrder os
  | .amomax _ _ _ os _ => amoOrder os
  | .amoswp _ _ _ os _ => amoOrder os
  | .amocas _ _ _ os _ => amoOrder os
  | .amologAnd _ _ _ os _ => amoOrder os
  | .amologOr _ _ _ os _ => amoOrder os
  | .amologXor _ _ _ os _ => amoOrder os
  | .addiCompact _ _ => true
  | .moviCompact _ _ => true
  | .shliCompact _ _ => true
  | .shriCompact _ _ => true
  | .sariCompact _ _ => true
  | .addCompact _ _ => true
  | .subCompact _ _ => true
  | .andCompact _ _ => true
  | .orCompact _ _ => true
  | .xorCompact _ _ => true
  | .addMoveCompact _ _ => true
  | .bzCompact _ _ => true
  | .bnzCompact _ _ => true
  | .bCompact _ => true
  | .ldS64Compact _ _ _ => true
  | .stS64Compact _ _ _ => true
  | .ldS32Compact _ _ _ => true
  | .stS32Compact _ _ _ => true
  | .doneCompact => true
  | .yieldCompact => true
  | .retCompact => true
  | .jrCompact _ => true
  | .wfeCompact => true
  | .sevCompact => true
  | .callrCompact _ => true
  | .vaddF32Compact _ _ => true
  | .vmulF32Compact _ _ => true
  | .messageArrival _ => true
  | .dispatchDecision _ => true
  | .activationEntry _ _ => true
  | .linkFlitArrival _ _ => true
  | .feRecheck _ _ => true
  | .feParkTimeout _ _ => true
  | .subByteWrite => true
  | .coreSift _ => true
  | .clusterSift _ => true
  | .dieSift _ _ => true
  | .expanderFill _ _ => true
  | .patrolScrub _ _ => true
  | .heapPatrolScrub _ _ => true
  | .copyAccept _ => true
  | .copyBeat _ => true
  | .copyCompletion _ => true
  | .streamRefill _ _ _ => true
  | .mldFill _ => true
  | .matrixCommandAccept _ => true
  | .matrixCommandRepeat _ => true
  | .sheetPairing _ => true
  | .sheetPartialMerge _ => true
  | .weightBlockFetch _ _ => true
  | .bnop _ _ => true
  | .bmv _ _ => true
  | .bmvz _ _ => true
  | .bbias _ _ => true
  | .bscale _ _ => true
  | .bact _ _ => true
  | .bsend _ _ => true
  | .blink _ _ => true
  | .bend _ _ => true
  | .bwait _ _ => true
  | .bwaitBudgetExpiry _ _ => true
  | .preemptionRequest _ _ => true
  | .preemptEntry _ _ => true
  | .saveTimerExpiry _ _ => true
  | .sealEvent _ _ => true
  | .priorityPreempt _ => true
  | .resumeDispatch _ => true
  | .resumeRequestSubmit _ => true
  | .stealProbe _ => true
  | .stealTransfer _ => true
  | .stealBackoffExpiry _ => true
  | .refusalRetry _ => true
  | .ticketPresent _ => true
  | .heldRetry _ => true
  | .atomicService _ => true
  | .atomicReply _ _ => true
  | .groupArrival _ => true
  | .gwaitRecheck _ _ => true
  | .timerExpiry _ => true
  | .timerEntry _ _ => true
  | .traceRecordWrite _ => true
  | .coreStop _ => true
  | .coreGo _ => true
  | .stopComplete _ => true
  | .dieHalt _ => true
  | .dieRun _ => true
  | .dieOffline _ => true
  | .dieShutter _ => true
  | .dieReopen _ => true
  | .translationWalk _ _ => true
  | .faultListRepresent _ => true
  | .pageAnswerMap _ _ => true
  | .pageAnswerRefuse _ _ => true
  | .padRegisterWrite _ _ => true
  | .saveRegisterWrite _ _ => true
  | .trbaseWrite _ _ => true
  | .mgmtRegisterWrite _ _ => true
  | .loadImage => true
  | .loadCore _ => true
  | .clockStepRequest _ => true
  | .clockHandshake => true
  | .clkstatWrite _ => true
  | .queueDoorbell _ => true
  | .slotMap => true
  | .slotRelease _ => true
  | .start _ => true
  | .messagePlacement _ => true
  | .stop _ => true
  | .launchComplete _ => true
  | .abandon _ => true
  | .precmd _ => true
  | .cancelq _ => true
  | .hostPostedWrite _ _ _ _ => true
  | .routeRelease => true
  | .landingStep _ => true
  | .routeAck _ => true
  | .hostRead _ _ _ => true
  | .hostQueueWrite _ => true
  | .hqheadWrite _ _ => true
  | .functionLevelReset => true
  | .perstReset => true
  | .mainPowerLoss => true
  | .boot => true
  | .recoveryVerifyRun _ => true
  | .recoveryVerifyFlashRun _ => true
  | .attestationRequest => true
  | .attestationReportDone _ => true
  | .securityAlarm _ => true
  | .checkpointSave => true
  | .checkpointRestore _ => true
  | .checkpointAbort => true
  | .checkpointComplete _ _ => true
  | .powerControlTick _ => true
  | .fabricPortUp _ => true
  | .flitReceive _ _ => true
  | .creditFlit _ _ _ _ => true
  | .creditReport _ => true
  | .endToEndAck _ _ => true
  | .eyeMonitorWindow _ _ _ => true
  | .linkRetrain _ => true
  | .portStepWrite _ _ => true
  | .scaleoutPacketReceive _ _ => true
  | .retransmitTimeout _ _ => true
  | .sqheadWrite _ _ => true

end Sys2Proof
end

