-- ==== Sys2Proof/Decode.lean ====
section
/-! DEFINITION. The decoder of R21-R45, total on any parcels and rejecting by name, and after it the
encoder written from the same tables. A 32-bit word I is read as the number I[31:0]; fields are
taken out by division and remainder. What a field's value forbids (R45) is checked by Instr.wf. -/

namespace Sys2Proof

/-- Why parcels are no instruction (R45). Each raises ILLEGAL at the first parcel (R45), which the
step takes as a trap; so a rejection never stops the machine. -/
inductive Reject where
  /-- compact op 0 or 22, or a KY fn of 7-31 (R25, R26) -/
  | compact
  /-- an unassigned major (R35) -/
  | major
  /-- an unassigned fn (R36-R44) -/
  | fn
  /-- a non-zero res0 field (R33, R45) -/
  | res0
  /-- a specifier code 40-63 (R29) -/
  | specifier
  /-- an XP parcel not followed by a word of major VA, VB or VC (R28) -/
  | xpUnit
  /-- the last parcel lies beyond what is given (R23) -/
  | truncated
  deriving DecidableEq, Repr

/-- A 6-bit specifier field (R29). -/
def spec (n : Nat) : Except Reject (Fin 40) :=
  if h : n < 40 then .ok ⟨n, h⟩ else .error .specifier

/-- Bit k of w. -/
def bitAt (w k : Nat) : Bool := w / 2 ^ k % 2 == 1

/-- The ty2 field, I[7:6], with the XP parcel before the word (R28). -/
def mkVx (w : Nat) (pre : Option Xp) : Vx := ⟨Fin.ofNat 4 (w / 64 % 4), pre⟩

/-- Major 0x00. -/
def decodeMajor00 (w : Nat) : Except Reject Instr :=
  match w / 268435456 % 16 with
  | 0 =>
      if w / 128 % 2 == 0 then (do
        let d ← spec (w % 64)
        let a ← spec (w / 65536 % 64)
        let b ← spec (w / 4194304 % 64)
        pure (.add (bitAt w 6) d a b))
      else .error .res0
  | 1 =>
      if w / 128 % 2 == 0 then (do
        let d ← spec (w % 64)
        let a ← spec (w / 65536 % 64)
        let b ← spec (w / 4194304 % 64)
        pure (.sub (bitAt w 6) d a b))
      else .error .res0
  | 2 =>
      if w / 128 % 2 == 0 then (do
        let d ← spec (w % 64)
        let a ← spec (w / 65536 % 64)
        let b ← spec (w / 4194304 % 64)
        pure (.mul (bitAt w 6) d a b))
      else .error .res0
  | 3 =>
      if w / 128 % 2 == 0 then (do
        let d ← spec (w % 64)
        let a ← spec (w / 65536 % 64)
        let b ← spec (w / 4194304 % 64)
        pure (.mulh (bitAt w 6) d a b))
      else .error .res0
  | 4 =>
      if w / 128 % 2 == 0 then (do
        let d ← spec (w % 64)
        let a ← spec (w / 65536 % 64)
        let b ← spec (w / 4194304 % 64)
        pure (.mulhn (bitAt w 6) d a b))
      else .error .res0
  | 5 =>
      if w / 128 % 2 == 0 then (do
        let d ← spec (w % 64)
        let a ← spec (w / 65536 % 64)
        let b ← spec (w / 4194304 % 64)
        pure (.div (bitAt w 6) d a b))
      else .error .res0
  | 6 =>
      if w / 128 % 2 == 0 then (do
        let d ← spec (w % 64)
        let a ← spec (w / 65536 % 64)
        let b ← spec (w / 4194304 % 64)
        pure (.divn (bitAt w 6) d a b))
      else .error .res0
  | 7 =>
      if w / 128 % 2 == 0 then (do
        let d ← spec (w % 64)
        let a ← spec (w / 65536 % 64)
        let b ← spec (w / 4194304 % 64)
        pure (.rem (bitAt w 6) d a b))
      else .error .res0
  | 8 =>
      if w / 128 % 2 == 0 then (do
        let d ← spec (w % 64)
        let a ← spec (w / 65536 % 64)
        let b ← spec (w / 4194304 % 64)
        pure (.remn (bitAt w 6) d a b))
      else .error .res0
  | 9 =>
      if w / 128 % 2 == 0 then (do
        let d ← spec (w % 64)
        let a ← spec (w / 65536 % 64)
        let b ← spec (w / 4194304 % 64)
        pure (.and (bitAt w 6) d a b))
      else .error .res0
  | 10 =>
      if w / 128 % 2 == 0 then (do
        let d ← spec (w % 64)
        let a ← spec (w / 65536 % 64)
        let b ← spec (w / 4194304 % 64)
        pure (.or (bitAt w 6) d a b))
      else .error .res0
  | 11 =>
      if w / 128 % 2 == 0 then (do
        let d ← spec (w % 64)
        let a ← spec (w / 65536 % 64)
        let b ← spec (w / 4194304 % 64)
        pure (.xor (bitAt w 6) d a b))
      else .error .res0
  | 12 =>
      if w / 128 % 2 == 0 then (do
        let d ← spec (w % 64)
        let a ← spec (w / 65536 % 64)
        let b ← spec (w / 4194304 % 64)
        pure (.shl (bitAt w 6) d a b))
      else .error .res0
  | 13 =>
      if w / 128 % 2 == 0 then (do
        let d ← spec (w % 64)
        let a ← spec (w / 65536 % 64)
        let b ← spec (w / 4194304 % 64)
        pure (.shr (bitAt w 6) d a b))
      else .error .res0
  | 14 =>
      if w / 128 % 2 == 0 then (do
        let d ← spec (w % 64)
        let a ← spec (w / 65536 % 64)
        let b ← spec (w / 4194304 % 64)
        pure (.sar (bitAt w 6) d a b))
      else .error .res0
  | 15 =>
      if w / 128 % 2 == 0 then (do
        let d ← spec (w % 64)
        let a ← spec (w / 65536 % 64)
        let b ← spec (w / 4194304 % 64)
        pure (.rol (bitAt w 6) d a b))
      else .error .res0
  | _ => .error .fn

/-- Major 0x01. -/
def decodeMajor01 (w : Nat) : Except Reject Instr :=
  match w / 268435456 % 16 with
  | 0 =>
      if w / 128 % 2 == 0 && w / 4194304 % 64 == 0 then (do
        let d ← spec (w % 64)
        let a ← spec (w / 65536 % 64)
        pure (.clz (bitAt w 6) d a))
      else .error .res0
  | 1 =>
      if w / 128 % 2 == 0 && w / 4194304 % 64 == 0 then (do
        let d ← spec (w % 64)
        let a ← spec (w / 65536 % 64)
        pure (.ctz (bitAt w 6) d a))
      else .error .res0
  | 2 =>
      if w / 128 % 2 == 0 && w / 4194304 % 64 == 0 then (do
        let d ← spec (w % 64)
        let a ← spec (w / 65536 % 64)
        pure (.popc (bitAt w 6) d a))
      else .error .res0
  | 3 =>
      if w / 128 % 2 == 0 && w / 4194304 % 64 == 0 then (do
        let d ← spec (w % 64)
        let a ← spec (w / 65536 % 64)
        pure (.abs (bitAt w 6) d a))
      else .error .res0
  | 4 =>
      if w / 128 % 2 == 0 then (do
        let d ← spec (w % 64)
        let a ← spec (w / 65536 % 64)
        let b ← spec (w / 4194304 % 64)
        pure (.min (bitAt w 6) d a b))
      else .error .res0
  | 5 =>
      if w / 128 % 2 == 0 then (do
        let d ← spec (w % 64)
        let a ← spec (w / 65536 % 64)
        let b ← spec (w / 4194304 % 64)
        pure (.minn (bitAt w 6) d a b))
      else .error .res0
  | 6 =>
      if w / 128 % 2 == 0 then (do
        let d ← spec (w % 64)
        let a ← spec (w / 65536 % 64)
        let b ← spec (w / 4194304 % 64)
        pure (.max (bitAt w 6) d a b))
      else .error .res0
  | 7 =>
      if w / 128 % 2 == 0 then (do
        let d ← spec (w % 64)
        let a ← spec (w / 65536 % 64)
        let b ← spec (w / 4194304 % 64)
        pure (.maxn (bitAt w 6) d a b))
      else .error .res0
  | 8 =>
      if w / 128 % 2 == 0 then (do
        let d ← spec (w % 64)
        let a ← spec (w / 65536 % 64)
        let b ← spec (w / 4194304 % 64)
        pure (.seq (bitAt w 6) d a b))
      else .error .res0
  | 9 =>
      if w / 128 % 2 == 0 then (do
        let d ← spec (w % 64)
        let a ← spec (w / 65536 % 64)
        let b ← spec (w / 4194304 % 64)
        pure (.sne (bitAt w 6) d a b))
      else .error .res0
  | 10 =>
      if w / 128 % 2 == 0 then (do
        let d ← spec (w % 64)
        let a ← spec (w / 65536 % 64)
        let b ← spec (w / 4194304 % 64)
        pure (.slt (bitAt w 6) d a b))
      else .error .res0
  | 11 =>
      if w / 128 % 2 == 0 then (do
        let d ← spec (w % 64)
        let a ← spec (w / 65536 % 64)
        let b ← spec (w / 4194304 % 64)
        pure (.slb (bitAt w 6) d a b))
      else .error .res0
  | _ => .error .fn

/-- Major 0x02. -/
def decodeMajor02 (w : Nat) : Except Reject Instr :=
  if w / 128 % 2 == 0 then (do
        let d ← spec (w % 64)
        let a ← spec (w / 65536 % 64)
        let b ← spec (w / 4194304 % 64)
        pure (.sel (bitAt w 6) d (Fin.ofNat 16 (w / 268435456 % 16)) a b))
      else .error .res0

/-- Major 0x03. -/
def decodeMajor03 (w : Nat) : Except Reject Instr :=
  if w / 128 % 2 == 0 then (do
        let d ← spec (w % 64)
        let a ← spec (w / 65536 % 64)
        pure (.addi (bitAt w 6) d a (BitVec.ofNat 10 (w / 4194304 % 1024))))
      else .error .res0

/-- Major 0x04. -/
def decodeMajor04 (w : Nat) : Except Reject Instr :=
  if w / 128 % 2 == 0 then (do
        let d ← spec (w % 64)
        let a ← spec (w / 65536 % 64)
        pure (.andi (bitAt w 6) d a (BitVec.ofNat 10 (w / 4194304 % 1024))))
      else .error .res0

/-- Major 0x05. -/
def decodeMajor05 (w : Nat) : Except Reject Instr :=
  if w / 128 % 2 == 0 then (do
        let d ← spec (w % 64)
        let a ← spec (w / 65536 % 64)
        pure (.ori (bitAt w 6) d a (BitVec.ofNat 10 (w / 4194304 % 1024))))
      else .error .res0

/-- Major 0x06. -/
def decodeMajor06 (w : Nat) : Except Reject Instr :=
  if w / 128 % 2 == 0 then (do
        let d ← spec (w % 64)
        let a ← spec (w / 65536 % 64)
        pure (.xori (bitAt w 6) d a (BitVec.ofNat 10 (w / 4194304 % 1024))))
      else .error .res0

/-- Major 0x07. -/
def decodeMajor07 (w : Nat) : Except Reject Instr :=
  match w / 268435456 % 16 with
  | 0 =>
      if w / 128 % 2 == 0 then (do
        let d ← spec (w % 64)
        let a ← spec (w / 65536 % 64)
        pure (.shli (bitAt w 6) d a (Fin.ofNat 64 (w / 4194304 % 64))))
      else .error .res0
  | 1 =>
      if w / 128 % 2 == 0 then (do
        let d ← spec (w % 64)
        let a ← spec (w / 65536 % 64)
        pure (.shri (bitAt w 6) d a (Fin.ofNat 64 (w / 4194304 % 64))))
      else .error .res0
  | 2 =>
      if w / 128 % 2 == 0 then (do
        let d ← spec (w % 64)
        let a ← spec (w / 65536 % 64)
        pure (.sari (bitAt w 6) d a (Fin.ofNat 64 (w / 4194304 % 64))))
      else .error .res0
  | _ => .error .fn

/-- Major 0x08. -/
def decodeMajor08 (w : Nat) : Except Reject Instr :=
  do
        let d ← spec (w % 64)
        pure (.movi d (BitVec.ofNat 18 (w / 64 % 4 + w / 65536 % 65536 * 4)))

/-- Major 0x09. -/
def decodeMajor09 (w : Nat) : Except Reject Instr :=
  do
        let d ← spec (w % 64)
        pure (.movhi d (BitVec.ofNat 16 (w / 65536 % 65536)) (Fin.ofNat 4 (w / 64 % 4)))

/-- Major 0x0A. -/
def decodeMajor0A (w : Nat) : Except Reject Instr :=
  do
        let d ← spec (w % 64)
        let a ← spec (w / 65536 % 64)
        pure (.bfx d a (Fin.ofNat 64 (w / 4194304 % 64)) (Fin.ofNat 64 (w / 268435456 % 16 + w / 64 % 4 * 16)))

/-- Major 0x0B. -/
def decodeMajor0B (w : Nat) : Except Reject Instr :=
  do
        let d ← spec (w % 64)
        let a ← spec (w / 65536 % 64)
        pure (.bfi d a (Fin.ofNat 64 (w / 4194304 % 64)) (Fin.ofNat 64 (w / 268435456 % 16 + w / 64 % 4 * 16)))

/-- Major 0x10. -/
def decodeMajor10 (w : Nat) : Except Reject Instr :=
  match w / 64 % 4 with
  | 0 =>
      do
        let a ← spec (w % 64)
        let b ← spec (w / 65536 % 64)
        pure (.beq a b (BitVec.ofNat 10 (w / 4194304 % 1024)))
  | 1 =>
      do
        let a ← spec (w % 64)
        let b ← spec (w / 65536 % 64)
        pure (.bne a b (BitVec.ofNat 10 (w / 4194304 % 1024)))
  | 2 =>
      do
        let a ← spec (w % 64)
        let b ← spec (w / 65536 % 64)
        pure (.blt a b (BitVec.ofNat 10 (w / 4194304 % 1024)))
  | 3 =>
      do
        let a ← spec (w % 64)
        let b ← spec (w / 65536 % 64)
        pure (.bge a b (BitVec.ofNat 10 (w / 4194304 % 1024)))
  | _ => .error .fn

/-- Major 0x11. -/
def decodeMajor11 (w : Nat) : Except Reject Instr :=
  match w / 64 % 4 with
  | 0 =>
      do
        let a ← spec (w % 64)
        let b ← spec (w / 65536 % 64)
        pure (.blo a b (BitVec.ofNat 10 (w / 4194304 % 1024)))
  | 1 =>
      do
        let a ← spec (w % 64)
        let b ← spec (w / 65536 % 64)
        pure (.bhs a b (BitVec.ofNat 10 (w / 4194304 % 1024)))
  | 2 =>
      if w / 65536 % 64 == 0 then (do
        let a ← spec (w % 64)
        pure (.bz a (BitVec.ofNat 10 (w / 4194304 % 1024))))
      else .error .res0
  | 3 =>
      if w / 65536 % 64 == 0 then (do
        let a ← spec (w % 64)
        pure (.bnz a (BitVec.ofNat 10 (w / 4194304 % 1024))))
      else .error .res0
  | _ => .error .fn

/-- Major 0x12. -/
def decodeMajor12 (w : Nat) : Except Reject Instr :=
  pure (.b (BitVec.ofNat 24 (w % 256 + w / 65536 % 65536 * 256)))

/-- Major 0x13. -/
def decodeMajor13 (w : Nat) : Except Reject Instr :=
  pure (.j (BitVec.ofNat 24 (w % 256 + w / 65536 % 65536 * 256)))

/-- Major 0x14. -/
def decodeMajor14 (w : Nat) : Except Reject Instr :=
  pure (.call (BitVec.ofNat 24 (w % 256 + w / 65536 % 65536 * 256)))

/-- Major 0x15. -/
def decodeMajor15 (w : Nat) : Except Reject Instr :=
  if w / 64 % 4 == 0 then (do
        let a ← spec (w % 64)
        pure (.loop a (BitVec.ofNat 16 (w / 65536 % 65536))))
      else .error .res0

/-- Major 0x16. -/
def decodeMajor16 (w : Nat) : Except Reject Instr :=
  pure (.loopi (BitVec.ofNat 8 (w % 256)) (BitVec.ofNat 16 (w / 65536 % 65536)))

/-- Major 0x18. -/
def decodeMajor18 (w : Nat) : Except Reject Instr :=
  match w / 4194304 % 64 with
  | 0 =>
      if w % 256 == 0 && w / 65536 % 64 == 0 && w / 268435456 % 16 == 0 then (pure (.done))
      else .error .res0
  | 1 =>
      if w % 256 == 0 && w / 65536 % 64 == 0 && w / 268435456 % 16 == 0 then (pure (.yield))
      else .error .res0
  | 2 =>
      if w % 256 == 0 && w / 65536 % 64 == 0 && w / 268435456 % 16 == 0 then (pure (.wfe))
      else .error .res0
  | 3 =>
      if w % 256 == 0 && w / 65536 % 64 == 0 && w / 268435456 % 16 == 0 then (pure (.sev))
      else .error .res0
  | 4 =>
      if w / 64 % 4 == 0 && w / 268435456 % 16 == 0 then (pure (.brk (BitVec.ofNat 12 (w % 64 + w / 65536 % 64 * 64))))
      else .error .res0
  | 5 =>
      if w / 64 % 4 == 0 && w / 268435456 % 16 == 0 then (pure (.sysc (BitVec.ofNat 12 (w % 64 + w / 65536 % 64 * 64))))
      else .error .res0
  | 6 =>
      if w % 256 == 0 && w / 65536 % 64 == 0 && w / 268435456 % 16 == 0 then (pure (.eret))
      else .error .res0
  | 7 =>
      if w / 64 % 4 == 0 && w / 65536 % 64 == 0 && w / 268435456 % 16 == 0 then (do
        let a ← spec (w % 64)
        pure (.jr a))
      else .error .res0
  | 8 =>
      if w / 64 % 4 == 0 && w / 65536 % 64 == 0 && w / 268435456 % 16 == 0 then (do
        let a ← spec (w % 64)
        pure (.callr a))
      else .error .res0
  | 9 =>
      if w % 256 == 0 && w / 65536 % 64 == 0 && w / 268435456 % 16 == 0 then (pure (.ret))
      else .error .res0
  | 10 =>
      if w / 64 % 4 == 0 && w / 65536 % 64 == 0 && w / 268435456 % 16 == 0 then (do
        let a ← spec (w % 64)
        pure (.clen a))
      else .error .res0
  | 11 =>
      if w / 64 % 4 == 0 && w / 65536 % 64 == 0 && w / 268435456 % 16 == 0 then (do
        let a ← spec (w % 64)
        pure (.cldis a))
      else .error .res0
  | 12 =>
      if w / 64 % 4 == 0 && w / 268435456 % 16 == 0 then (do
        let b ← spec (w / 65536 % 64)
        let a ← spec (w % 64)
        pure (.clpend b a))
      else .error .res0
  | 13 =>
      if w / 64 % 4 == 0 && w / 65536 % 64 == 0 && w / 268435456 % 16 == 0 then (do
        let a ← spec (w % 64)
        pure (.savew a))
      else .error .res0
  | 14 =>
      if w / 64 % 4 == 0 && w / 65536 % 64 == 0 && w / 268435456 % 16 == 0 then (do
        let a ← spec (w % 64)
        pure (.loadw a))
      else .error .res0
  | 15 =>
      if w / 64 % 4 == 0 && w / 268435456 % 16 == 0 then (do
        let b ← spec (w / 65536 % 64)
        let a ← spec (w % 64)
        pure (.ctxrd b a))
      else .error .res0
  | 16 =>
      if w / 64 % 4 == 0 && w / 268435456 % 16 == 0 then (do
        let a ← spec (w % 64)
        let b ← spec (w / 65536 % 64)
        pure (.ctxwr a b))
      else .error .res0
  | 17 =>
      if w / 64 % 4 == 0 && w / 524288 % 8 == 0 && w / 268435456 % 16 == 0 then (pure (.fence (BitVec.ofNat 3 (w % 8)) (BitVec.ofNat 3 (w / 8 % 8)) (Fin.ofNat 8 (w / 65536 % 8))))
      else .error .res0
  | 18 =>
      if w / 4 % 64 == 9 && w / 65536 % 64 == 0 && w / 268435456 % 16 == 0 then (pure (.linkc (Fin.ofNat 4 (w % 4))))
      else .error .res0
  | 19 =>
      if w / 4 % 64 == 9 && w / 65536 % 64 == 0 && w / 268435456 % 16 == 0 then (pure (.linkf (Fin.ofNat 4 (w % 4))))
      else .error .res0
  | 20 =>
      if w / 64 % 4 == 0 && w / 65536 % 64 == 0 && w / 268435456 % 16 == 0 then (do
        let a ← spec (w % 64)
        pure (.gbar a))
      else .error .res0
  | 21 =>
      if w / 64 % 4 == 0 && w / 65536 % 64 == 0 && w / 268435456 % 16 == 0 then (do
        let a ← spec (w % 64)
        pure (.gwait a))
      else .error .res0
  | 22 =>
      if w / 64 % 4 == 0 && w / 65536 % 64 == 0 && w / 268435456 % 16 == 0 then (do
        let a ← spec (w % 64)
        pure (.sift a))
      else .error .res0
  | 23 =>
      if w % 256 == 0 && w / 1048576 % 4 == 0 && w / 268435456 % 16 == 0 then (pure (.launch (Fin.ofNat 16 (w / 65536 % 16))))
      else .error .res0
  | 24 =>
      if w / 64 % 4 == 0 && w / 65536 % 64 == 0 && w / 268435456 % 16 == 0 then (do
        let a ← spec (w % 64)
        pure (.cancel a))
      else .error .res0
  | 25 =>
      if w % 256 == 0 && w / 1048576 % 4 == 0 && w / 268435456 % 16 == 0 then (pure (.xinv (Fin.ofNat 16 (w / 65536 % 16))))
      else .error .res0
  | 26 =>
      if w / 64 % 4 == 0 && w / 65536 % 64 == 0 && w / 268435456 % 16 == 0 then (do
        let a ← spec (w % 64)
        pure (.trace a))
      else .error .res0
  | 27 =>
      if w % 256 == 0 && w / 1048576 % 4 == 0 && w / 268435456 % 16 == 0 then (pure (.ctrsnap (Fin.ofNat 16 (w / 65536 % 16))))
      else .error .res0
  | _ => .error .fn

/-- Major 0x19. -/
def decodeMajor19 (w : Nat) : Except Reject Instr :=
  match w / 64 % 4 with
  | 0 =>
      if w / 268435456 % 16 == 0 then (do
        let d ← spec (w % 64)
        pure (.csrr d (BitVec.ofNat 12 (w / 65536 % 4096))))
      else .error .res0
  | 1 =>
      if w / 268435456 % 16 == 0 then (do
        let d ← spec (w % 64)
        pure (.csrw d (BitVec.ofNat 12 (w / 65536 % 4096))))
      else .error .res0
  | 2 =>
      if w / 268435456 % 16 == 0 then (do
        let d ← spec (w % 64)
        pure (.csrset d (BitVec.ofNat 12 (w / 65536 % 4096))))
      else .error .res0
  | 3 =>
      if w / 268435456 % 16 == 0 then (do
        let d ← spec (w % 64)
        pure (.csrclr d (BitVec.ofNat 12 (w / 65536 % 4096))))
      else .error .res0
  | _ => .error .fn

/-- Major 0x1A. -/
def decodeMajor1A (w : Nat) : Except Reject Instr :=
  pure (.sig (BitVec.ofNat 24 (w % 256 + w / 65536 % 65536 * 256)))

/-- Major 0x20. -/
def decodeMajor20 (w : Nat) : Except Reject Instr :=
  if w / 262144 % 2 == 0 then (do
        let d ← spec (w % 64)
        pure (.ld d (bitAt w 6) (bitAt w 7) (Fin.ofNat 4 (w / 65536 % 4)) (Fin.ofNat 16 (w / 524288 % 16)) (Fin.ofNat 16 (w / 8388608 % 16)) (Fin.ofNat 32 (w / 134217728 % 32))))
      else .error .res0

/-- Major 0x21. -/
def decodeMajor21 (w : Nat) : Except Reject Instr :=
  if w / 262144 % 2 == 0 then (do
        let d ← spec (w % 64)
        pure (.ldw d (bitAt w 6) (bitAt w 7) (Fin.ofNat 4 (w / 65536 % 4)) (Fin.ofNat 16 (w / 524288 % 16)) (Fin.ofNat 16 (w / 8388608 % 16)) (Fin.ofNat 32 (w / 134217728 % 32))))
      else .error .res0

/-- Major 0x22. -/
def decodeMajor22 (w : Nat) : Except Reject Instr :=
  if w / 262144 % 2 == 0 then (do
        let d ← spec (w % 64)
        pure (.ldc d (bitAt w 6) (bitAt w 7) (Fin.ofNat 4 (w / 65536 % 4)) (Fin.ofNat 16 (w / 524288 % 16)) (Fin.ofNat 16 (w / 8388608 % 16)) (Fin.ofNat 32 (w / 134217728 % 32))))
      else .error .res0

/-- Major 0x23. -/
def decodeMajor23 (w : Nat) : Except Reject Instr :=
  if w / 262144 % 2 == 0 then (do
        let d ← spec (w % 64)
        pure (.st d (bitAt w 6) (bitAt w 7) (Fin.ofNat 4 (w / 65536 % 4)) (Fin.ofNat 16 (w / 524288 % 16)) (Fin.ofNat 16 (w / 8388608 % 16)) (Fin.ofNat 32 (w / 134217728 % 32))))
      else .error .res0

/-- Major 0x24. -/
def decodeMajor24 (w : Nat) : Except Reject Instr :=
  if w / 262144 % 2 == 0 then (do
        let d ← spec (w % 64)
        pure (.stf d (bitAt w 6) (bitAt w 7) (Fin.ofNat 4 (w / 65536 % 4)) (Fin.ofNat 16 (w / 524288 % 16)) (Fin.ofNat 16 (w / 8388608 % 16)) (Fin.ofNat 32 (w / 134217728 % 32))))
      else .error .res0

/-- Major 0x25. -/
def decodeMajor25 (w : Nat) : Except Reject Instr :=
  match w / 262144 % 2 with
  | 0 =>
      if w / 128 % 2 == 0 && w / 65536 % 4 == 2 then (do
        let d ← spec (w % 64)
        pure (.feget d (bitAt w 6) (Fin.ofNat 16 (w / 524288 % 16)) (Fin.ofNat 16 (w / 8388608 % 16)) (Fin.ofNat 32 (w / 134217728 % 32))))
      else .error .res0
  | 1 =>
      if w / 65536 % 4 == 2 then (do
        let d ← spec (w % 64)
        pure (.feset d (bitAt w 6) (bitAt w 7) (Fin.ofNat 16 (w / 524288 % 16)) (Fin.ofNat 16 (w / 8388608 % 16)) (Fin.ofNat 32 (w / 134217728 % 32))))
      else .error .res0
  | _ => .error .fn

/-- Major 0x26. -/
def decodeMajor26 (w : Nat) : Except Reject Instr :=
  match w / 262144 % 2 with
  | 0 =>
      if w / 16 % 4 == 0 && w / 128 % 2 == 0 && w / 65536 % 4 == 0 then (pure (.pld (Fin.ofNat 16 (w % 16)) (bitAt w 6) (Fin.ofNat 16 (w / 524288 % 16)) (Fin.ofNat 16 (w / 8388608 % 16)) (Fin.ofNat 32 (w / 134217728 % 32))))
      else .error .res0
  | 1 =>
      if w / 16 % 4 == 0 && w / 128 % 2 == 0 && w / 65536 % 4 == 0 then (pure (.pst (Fin.ofNat 16 (w % 16)) (bitAt w 6) (Fin.ofNat 16 (w / 524288 % 16)) (Fin.ofNat 16 (w / 8388608 % 16)) (Fin.ofNat 32 (w / 134217728 % 32))))
      else .error .res0
  | _ => .error .fn

/-- Major 0x27. -/
def decodeMajor27 (w : Nat) : Except Reject Instr :=
  match w / 268435456 % 2 with
  | 0 =>
      if w / 134217728 % 2 == 0 && w / 536870912 % 8 == 0 then (do
        let a ← spec (w / 65536 % 64)
        pure (.new (Fin.ofNat 16 (w % 16)) (Fin.ofNat 16 (w / 16 % 16)) a (BitVec.ofNat 5 (w / 4194304 % 32))))
      else .error .res0
  | 1 =>
      if w / 134217728 % 2 == 0 && w / 536870912 % 8 == 0 then (do
        let a ← spec (w / 65536 % 64)
        pure (.newp (Fin.ofNat 16 (w % 16)) (Fin.ofNat 16 (w / 16 % 16)) a (BitVec.ofNat 5 (w / 4194304 % 32))))
      else .error .res0
  | _ => .error .fn

/-- Major 0x28. -/
def decodeMajor28 (w : Nat) : Except Reject Instr :=
  if w / 128 % 2 == 0 then (do
        let v ← spec (w % 64)
        pure (.vld v (bitAt w 6) (Fin.ofNat 8 (w / 65536 % 8)) (Fin.ofNat 16 (w / 524288 % 16)) (Fin.ofNat 16 (w / 8388608 % 16)) (Fin.ofNat 32 (w / 134217728 % 32))))
      else .error .res0

/-- Major 0x29. -/
def decodeMajor29 (w : Nat) : Except Reject Instr :=
  if w / 128 % 2 == 0 then (do
        let v ← spec (w % 64)
        pure (.vldw v (bitAt w 6) (Fin.ofNat 8 (w / 65536 % 8)) (Fin.ofNat 16 (w / 524288 % 16)) (Fin.ofNat 16 (w / 8388608 % 16)) (Fin.ofNat 32 (w / 134217728 % 32))))
      else .error .res0

/-- Major 0x2A. -/
def decodeMajor2A (w : Nat) : Except Reject Instr :=
  if w / 128 % 2 == 0 then (do
        let v ← spec (w % 64)
        pure (.vldc v (bitAt w 6) (Fin.ofNat 8 (w / 65536 % 8)) (Fin.ofNat 16 (w / 524288 % 16)) (Fin.ofNat 16 (w / 8388608 % 16)) (Fin.ofNat 32 (w / 134217728 % 32))))
      else .error .res0

/-- Major 0x2B. -/
def decodeMajor2B (w : Nat) : Except Reject Instr :=
  if w / 128 % 2 == 0 then (do
        let v ← spec (w % 64)
        pure (.vst v (bitAt w 6) (Fin.ofNat 8 (w / 65536 % 8)) (Fin.ofNat 16 (w / 524288 % 16)) (Fin.ofNat 16 (w / 8388608 % 16)) (Fin.ofNat 32 (w / 134217728 % 32))))
      else .error .res0

/-- Major 0x2C. -/
def decodeMajor2C (w : Nat) : Except Reject Instr :=
  if w / 128 % 2 == 0 then (do
        let v ← spec (w % 64)
        pure (.vstf v (bitAt w 6) (Fin.ofNat 8 (w / 65536 % 8)) (Fin.ofNat 16 (w / 524288 % 16)) (Fin.ofNat 16 (w / 8388608 % 16)) (Fin.ofNat 32 (w / 134217728 % 32))))
      else .error .res0

/-- Major 0x2D. -/
def decodeMajor2D (w : Nat) : Except Reject Instr :=
  match w / 128 % 2 with
  | 0 =>
      if w / 64 % 2 == 0 then (do
        let v ← spec (w % 64)
        pure (.vgath v (Fin.ofNat 8 (w / 65536 % 8)) (Fin.ofNat 16 (w / 524288 % 16)) (Fin.ofNat 16 (w / 8388608 % 16)) (Fin.ofNat 32 (w / 134217728 % 32))))
      else .error .res0
  | 1 =>
      if w / 64 % 2 == 0 then (do
        let v ← spec (w % 64)
        pure (.vscat v (Fin.ofNat 8 (w / 65536 % 8)) (Fin.ofNat 16 (w / 524288 % 16)) (Fin.ofNat 16 (w / 8388608 % 16)) (Fin.ofNat 32 (w / 134217728 % 32))))
      else .error .res0
  | _ => .error .fn

/-- Major 0x2E. -/
def decodeMajor2E (w : Nat) : Except Reject Instr :=
  match w / 268435456 % 16 with
  | 0 =>
      if w / 4194304 % 64 == 0 then (do
        let s ← spec (w / 65536 % 64)
        pure (.padd (Fin.ofNat 16 (w % 16)) (Fin.ofNat 16 (w / 16 % 16)) s))
      else .error .res0
  | 1 =>
      do
        let s ← spec (w / 65536 % 64)
        let t ← spec (w / 4194304 % 64)
        pure (.pnarrow (Fin.ofNat 16 (w % 16)) (Fin.ofNat 16 (w / 16 % 16)) s t)
  | 2 =>
      if w / 65536 % 64 == 0 && w / 33554432 % 8 == 0 then (pure (.pview (Fin.ofNat 16 (w % 16)) (Fin.ofNat 16 (w / 16 % 16)) (Fin.ofNat 8 (w / 4194304 % 8))))
      else .error .res0
  | 3 =>
      if w / 65536 % 64 == 0 && w / 67108864 % 4 == 0 then (pure (.pperm (Fin.ofNat 16 (w % 16)) (Fin.ofNat 16 (w / 16 % 16)) (BitVec.ofNat 4 (w / 4194304 % 16))))
      else .error .res0
  | 4 =>
      if w % 16 == 0 && w / 4194304 % 64 == 0 then (do
        let s ← spec (w / 65536 % 64)
        pure (.plen s (Fin.ofNat 16 (w / 16 % 16))))
      else .error .res0
  | 5 =>
      if w / 4194304 % 64 == 0 then (do
        let s ← spec (w / 65536 % 64)
        pure (.pcmp s (Fin.ofNat 16 (w % 16)) (Fin.ofNat 16 (w / 16 % 16))))
      else .error .res0
  | 6 =>
      if w / 65536 % 4096 == 0 then (pure (.pmov (Fin.ofNat 16 (w % 16)) (Fin.ofNat 16 (w / 16 % 16))))
      else .error .res0
  | 7 =>
      if w / 16 % 16 == 0 && w / 65536 % 4096 == 0 then (pure (.touch (Fin.ofNat 16 (w % 16))))
      else .error .res0
  | 8 =>
      if w / 16 % 16 == 0 && w / 65536 % 64 == 0 && w / 33554432 % 8 == 0 then (pure (.acq (Fin.ofNat 16 (w % 16)) (Fin.ofNat 8 (w / 4194304 % 8))))
      else .error .res0
  | 9 =>
      if w / 16 % 16 == 0 && w / 65536 % 64 == 0 && w / 33554432 % 8 == 0 then (pure (.rel (Fin.ofNat 16 (w % 16)) (Fin.ofNat 8 (w / 4194304 % 8))))
      else .error .res0
  | _ => .error .fn

/-- Major 0x30. -/
def decodeMajor30 (w : Nat) (pre : Option Xp) : Except Reject Instr :=
  match w / 268435456 % 16 with
  | 0 =>
      do
        let d ← spec (w % 64)
        let a ← spec (w / 65536 % 64)
        let b ← spec (w / 4194304 % 64)
        pure (.vadd (mkVx w pre) d a b)
  | 1 =>
      do
        let d ← spec (w % 64)
        let a ← spec (w / 65536 % 64)
        let b ← spec (w / 4194304 % 64)
        pure (.vsub (mkVx w pre) d a b)
  | 2 =>
      do
        let d ← spec (w % 64)
        let a ← spec (w / 65536 % 64)
        let b ← spec (w / 4194304 % 64)
        pure (.vmul (mkVx w pre) d a b)
  | 3 =>
      do
        let d ← spec (w % 64)
        let a ← spec (w / 65536 % 64)
        let b ← spec (w / 4194304 % 64)
        pure (.vfma (mkVx w pre) d a b)
  | 4 =>
      do
        let d ← spec (w % 64)
        let a ← spec (w / 65536 % 64)
        let b ← spec (w / 4194304 % 64)
        pure (.vfms (mkVx w pre) d a b)
  | 5 =>
      do
        let d ← spec (w % 64)
        let a ← spec (w / 65536 % 64)
        let b ← spec (w / 4194304 % 64)
        pure (.vmin (mkVx w pre) d a b)
  | 6 =>
      do
        let d ← spec (w % 64)
        let a ← spec (w / 65536 % 64)
        let b ← spec (w / 4194304 % 64)
        pure (.vmax (mkVx w pre) d a b)
  | 7 =>
      do
        let d ← spec (w % 64)
        let a ← spec (w / 65536 % 64)
        let b ← spec (w / 4194304 % 64)
        pure (.vclamp (mkVx w pre) d a b)
  | 8 =>
      do
        let d ← spec (w % 64)
        let a ← spec (w / 65536 % 64)
        let b ← spec (w / 4194304 % 64)
        pure (.vand (mkVx w pre) d a b)
  | 9 =>
      do
        let d ← spec (w % 64)
        let a ← spec (w / 65536 % 64)
        let b ← spec (w / 4194304 % 64)
        pure (.vor (mkVx w pre) d a b)
  | 10 =>
      do
        let d ← spec (w % 64)
        let a ← spec (w / 65536 % 64)
        let b ← spec (w / 4194304 % 64)
        pure (.vxor (mkVx w pre) d a b)
  | 11 =>
      do
        let d ← spec (w % 64)
        let a ← spec (w / 65536 % 64)
        let b ← spec (w / 4194304 % 64)
        pure (.vshl (mkVx w pre) d a b)
  | 12 =>
      do
        let d ← spec (w % 64)
        let a ← spec (w / 65536 % 64)
        let b ← spec (w / 4194304 % 64)
        pure (.vshr (mkVx w pre) d a b)
  | 13 =>
      do
        let d ← spec (w % 64)
        let a ← spec (w / 65536 % 64)
        let b ← spec (w / 4194304 % 64)
        pure (.vsar (mkVx w pre) d a b)
  | 14 =>
      do
        let d ← spec (w % 64)
        let a ← spec (w / 65536 % 64)
        let b ← spec (w / 4194304 % 64)
        pure (.vdot (mkVx w pre) d a b)
  | 15 =>
      do
        let d ← spec (w % 64)
        let a ← spec (w / 65536 % 64)
        let b ← spec (w / 4194304 % 64)
        pure (.vperm (mkVx w pre) d a b)
  | _ => .error .fn

/-- Major 0x31. -/
def decodeMajor31 (w : Nat) (pre : Option Xp) : Except Reject Instr :=
  match w / 268435456 % 16 with
  | 0 =>
      if w / 4194304 % 64 == 0 then (do
        let d ← spec (w % 64)
        let a ← spec (w / 65536 % 64)
        pure (.vabs (mkVx w pre) d a))
      else .error .res0
  | 1 =>
      if w / 4194304 % 64 == 0 then (do
        let d ← spec (w % 64)
        let a ← spec (w / 65536 % 64)
        pure (.vneg (mkVx w pre) d a))
      else .error .res0
  | 2 =>
      if w / 4194304 % 64 == 0 then (do
        let d ← spec (w % 64)
        let a ← spec (w / 65536 % 64)
        pure (.vrcp (mkVx w pre) d a))
      else .error .res0
  | 3 =>
      if w / 4194304 % 64 == 0 then (do
        let d ← spec (w % 64)
        let a ← spec (w / 65536 % 64)
        pure (.vrsq (mkVx w pre) d a))
      else .error .res0
  | 4 =>
      if w / 4194304 % 64 == 0 then (do
        let d ← spec (w % 64)
        let a ← spec (w / 65536 % 64)
        pure (.vexp2 (mkVx w pre) d a))
      else .error .res0
  | 5 =>
      if w / 4194304 % 64 == 0 then (do
        let d ← spec (w % 64)
        let a ← spec (w / 65536 % 64)
        pure (.vlog2 (mkVx w pre) d a))
      else .error .res0
  | 6 =>
      if w / 4194304 % 64 == 0 then (do
        let d ← spec (w % 64)
        let a ← spec (w / 65536 % 64)
        pure (.vmov (mkVx w pre) d a))
      else .error .res0
  | 7 =>
      if w / 65536 % 4096 == 0 then (do
        let d ← spec (w % 64)
        pure (.viota (mkVx w pre) d))
      else .error .res0
  | 8 =>
      if w / 4194304 % 64 == 0 then (do
        let d ← spec (w % 64)
        let a ← spec (w / 65536 % 64)
        pure (.vbcast (mkVx w pre) d a))
      else .error .res0
  | 9 =>
      do
        let d ← spec (w % 64)
        let a ← spec (w / 65536 % 64)
        pure (.vins (mkVx w pre) d a (Fin.ofNat 64 (w / 4194304 % 64)))
  | 10 =>
      do
        let d ← spec (w % 64)
        let a ← spec (w / 65536 % 64)
        pure (.vext (mkVx w pre) d a (Fin.ofNat 64 (w / 4194304 % 64)))
  | 11 =>
      do
        let a ← spec (w / 65536 % 64)
        let b ← spec (w / 4194304 % 64)
        pure (.vcmp (mkVx w pre) (Fin.ofNat 8 (w % 8)) a b (Fin.ofNat 8 (w / 8 % 8)))
  | 12 =>
      do
        let d ← spec (w % 64)
        let a ← spec (w / 65536 % 64)
        let b ← spec (w / 4194304 % 64)
        pure (.vsel (mkVx w pre) d a b)
  | 13 =>
      do
        let d ← spec (w % 64)
        let a ← spec (w / 65536 % 64)
        pure (.vred (mkVx w pre) d a (Fin.ofNat 64 (w / 4194304 % 64)))
  | 14 =>
      do
        let d ← spec (w % 64)
        let a ← spec (w / 65536 % 64)
        pure (.vscan (mkVx w pre) d a (Fin.ofNat 64 (w / 4194304 % 64)))
  | _ => .error .fn

/-- Major 0x32. -/
def decodeMajor32 (w : Nat) (pre : Option Xp) : Except Reject Instr :=
  match w / 268435456 % 16 with
  | 0 =>
      do
        let d ← spec (w % 64)
        let a ← spec (w / 65536 % 64)
        pure (.vcvt (mkVx w pre) d a (Fin.ofNat 64 (w / 4194304 % 64)))
  | 1 =>
      if w / 4194304 % 64 == 0 then (do
        let d ← spec (w % 64)
        let a ← spec (w / 65536 % 64)
        pure (.vqnt (mkVx w pre) d a))
      else .error .res0
  | 2 =>
      if w / 4194304 % 64 == 0 then (do
        let d ← spec (w % 64)
        let a ← spec (w / 65536 % 64)
        pure (.vdq (mkVx w pre) d a))
      else .error .res0
  | _ => .error .fn

/-- Major 0x33. -/
def decodeMajor33 (w : Nat) : Except Reject Instr :=
  match w / 268435456 % 16 with
  | 0 =>
      if w / 8 % 32 == 0 && w / 524288 % 8 == 0 && w / 33554432 % 8 == 0 then (pure (.mand (Fin.ofNat 8 (w % 8)) (Fin.ofNat 8 (w / 65536 % 8)) (Fin.ofNat 8 (w / 4194304 % 8))))
      else .error .res0
  | 1 =>
      if w / 8 % 32 == 0 && w / 524288 % 8 == 0 && w / 33554432 % 8 == 0 then (pure (.mor (Fin.ofNat 8 (w % 8)) (Fin.ofNat 8 (w / 65536 % 8)) (Fin.ofNat 8 (w / 4194304 % 8))))
      else .error .res0
  | 2 =>
      if w / 8 % 32 == 0 && w / 524288 % 8 == 0 && w / 33554432 % 8 == 0 then (pure (.mxor (Fin.ofNat 8 (w % 8)) (Fin.ofNat 8 (w / 65536 % 8)) (Fin.ofNat 8 (w / 4194304 % 8))))
      else .error .res0
  | 3 =>
      if w / 8 % 32 == 0 && w / 524288 % 512 == 0 then (pure (.mnot (Fin.ofNat 8 (w % 8)) (Fin.ofNat 8 (w / 65536 % 8))))
      else .error .res0
  | 4 =>
      if w / 64 % 4 == 0 && w / 524288 % 512 == 0 then (do
        let d ← spec (w % 64)
        pure (.many d (Fin.ofNat 8 (w / 65536 % 8))))
      else .error .res0
  | 5 =>
      if w / 64 % 4 == 0 && w / 524288 % 512 == 0 then (do
        let d ← spec (w % 64)
        pure (.mall d (Fin.ofNat 8 (w / 65536 % 8))))
      else .error .res0
  | 6 =>
      if w / 64 % 4 == 0 && w / 524288 % 512 == 0 then (do
        let d ← spec (w % 64)
        pure (.mpop d (Fin.ofNat 8 (w / 65536 % 8))))
      else .error .res0
  | 7 =>
      if w / 64 % 4 == 0 && w / 524288 % 512 == 0 then (do
        let d ← spec (w % 64)
        pure (.mfirst d (Fin.ofNat 8 (w / 65536 % 8))))
      else .error .res0
  | 8 =>
      if w / 8 % 32 == 0 && w / 4194304 % 64 == 0 then (do
        let a ← spec (w / 65536 % 64)
        pure (.mfrom (Fin.ofNat 8 (w % 8)) a))
      else .error .res0
  | 9 =>
      if w / 64 % 4 == 0 && w / 524288 % 512 == 0 then (do
        let d ← spec (w % 64)
        pure (.mto d (Fin.ofNat 8 (w / 65536 % 8))))
      else .error .res0
  | _ => .error .fn

/-- Major 0x34. -/
def decodeMajor34 (w : Nat) : Except Reject Instr :=
  if w / 8 % 32 == 0 then (pure (.mset (Fin.ofNat 8 (w % 8)) (BitVec.ofNat 16 (w / 65536 % 65536))))
      else .error .res0

/-- Major 0x35. -/
def decodeMajor35 (w : Nat) : Except Reject Instr :=
  match w / 64 % 4 with
  | 0 =>
      if w / 1073741824 % 4 == 0 then (pure (.mma (Fin.ofNat 4 (w % 4)) (Fin.ofNat 16 (w / 4 % 16)) (Fin.ofNat 8 (w / 65536 % 8)) (Fin.ofNat 16 (w / 524288 % 16)) (Fin.ofNat 8 (w / 8388608 % 8)) (Fin.ofNat 16 (w / 67108864 % 16))))
      else .error .res0
  | 1 =>
      if w / 1073741824 % 4 == 0 then (pure (.mmaz (Fin.ofNat 4 (w % 4)) (Fin.ofNat 16 (w / 4 % 16)) (Fin.ofNat 8 (w / 65536 % 8)) (Fin.ofNat 16 (w / 524288 % 16)) (Fin.ofNat 8 (w / 8388608 % 8)) (Fin.ofNat 16 (w / 67108864 % 16))))
      else .error .res0
  | 2 =>
      if w / 1073741824 % 4 == 0 then (pure (.mcks (Fin.ofNat 4 (w % 4)) (Fin.ofNat 16 (w / 4 % 16)) (Fin.ofNat 8 (w / 65536 % 8)) (Fin.ofNat 16 (w / 524288 % 16)) (Fin.ofNat 8 (w / 8388608 % 8)) (Fin.ofNat 16 (w / 67108864 % 16))))
      else .error .res0
  | 3 =>
      if w / 1073741824 % 4 == 0 then (pure (.shmma (Fin.ofNat 4 (w % 4)) (Fin.ofNat 16 (w / 4 % 16)) (Fin.ofNat 8 (w / 65536 % 8)) (Fin.ofNat 16 (w / 524288 % 16)) (Fin.ofNat 8 (w / 8388608 % 8)) (Fin.ofNat 16 (w / 67108864 % 16))))
      else .error .res0
  | _ => .error .fn

/-- Major 0x36. -/
def decodeMajor36 (w : Nat) : Except Reject Instr :=
  match w / 268435456 % 16 with
  | 0 =>
      if w / 4 % 64 == 0 && w / 4194304 % 64 == 0 then (do
        let s ← spec (w / 65536 % 64)
        pure (.mchk s (Fin.ofNat 4 (w % 4))))
      else .error .res0
  | 1 =>
      if w / 4 % 64 == 0 && w / 4194304 % 64 == 0 then (do
        let s ← spec (w / 65536 % 64)
        pure (.mfix (Fin.ofNat 4 (w % 4)) s))
      else .error .res0
  | 2 =>
      if w % 4 == 0 && w / 64 % 4 == 0 && w / 65536 % 64 == 0 && w / 33554432 % 8 == 0 then (pure (.mld (Fin.ofNat 16 (w / 4 % 16)) (Fin.ofNat 8 (w / 4194304 % 8))))
      else .error .res0
  | 3 =>
      if w / 64 % 4 == 0 && w / 65536 % 4096 == 0 then (pure (.maccld (Fin.ofNat 4 (w % 4)) (Fin.ofNat 16 (w / 4 % 16))))
      else .error .res0
  | 4 =>
      if w / 64 % 4 == 0 && w / 65536 % 4096 == 0 then (pure (.maccst (Fin.ofNat 16 (w / 4 % 16)) (Fin.ofNat 4 (w % 4))))
      else .error .res0
  | 5 =>
      if w / 4 % 64 == 0 && w / 65536 % 4096 == 0 then (pure (.mzero (Fin.ofNat 4 (w % 4))))
      else .error .res0
  | 6 =>
      if w / 4 % 64 == 0 && w / 65536 % 4096 == 0 then (pure (.mtr (Fin.ofNat 4 (w % 4))))
      else .error .res0
  | 7 =>
      if w % 4 == 0 && w / 64 % 4 == 0 && w / 4194304 % 64 == 0 then (do
        let s ← spec (w / 65536 % 64)
        pure (.mcmd s (Fin.ofNat 16 (w / 4 % 16))))
      else .error .res0
  | 8 =>
      if w % 4 == 0 && w / 64 % 4 == 0 && w / 65536 % 64 == 0 && w / 33554432 % 8 == 0 then (pure (.tmset (Fin.ofNat 8 (w / 4194304 % 8)) (Fin.ofNat 16 (w / 4 % 16))))
      else .error .res0
  | 9 =>
      if w % 4 == 0 && w / 64 % 4 == 0 && w / 65536 % 64 == 0 && w / 33554432 % 8 == 0 then (pure (.tmget (Fin.ofNat 16 (w / 4 % 16)) (Fin.ofNat 8 (w / 4194304 % 8))))
      else .error .res0
  | _ => .error .fn

/-- Major 0x37. -/
def decodeMajor37 (w : Nat) : Except Reject Instr :=
  match w / 268435456 % 16 with
  | 0 =>
      if w / 65536 % 4096 == 0 then (pure (.wdrun (Fin.ofNat 16 (w % 16)) (Fin.ofNat 16 (w / 16 % 16))))
      else .error .res0
  | 1 =>
      if w % 256 == 0 && w / 65536 % 4096 == 0 then (pure (.wdres))
      else .error .res0
  | 2 =>
      if w % 256 == 0 && w / 4194304 % 64 == 0 then (do
        let s ← spec (w / 65536 % 64)
        pure (.wdq s))
      else .error .res0
  | _ => .error .fn

/-- Major 0x38. -/
def decodeMajor38 (w : Nat) : Except Reject Instr :=
  match w / 64 % 4 with
  | 0 =>
      if w / 67108864 % 64 == 0 then (do
        let a ← spec (w % 64)
        let b ← spec (w / 65536 % 64)
        pure (.send a b (Fin.ofNat 16 (w / 4194304 % 16))))
      else .error .res0
  | 1 =>
      if w / 4194304 % 16 == 0 then (do
        let a ← spec (w % 64)
        let b ← spec (w / 65536 % 64)
        let v ← spec (w / 67108864 % 64)
        pure (.sendv a b v))
      else .error .res0
  | 2 =>
      if w % 64 == 0 && w / 67108864 % 64 == 0 then (do
        let b ← spec (w / 65536 % 64)
        pure (.reply b (Fin.ofNat 16 (w / 4194304 % 16))))
      else .error .res0
  | 3 =>
      if w / 67108864 % 64 == 0 then (do
        let a ← spec (w % 64)
        let b ← spec (w / 65536 % 64)
        pure (.sendh a b (Fin.ofNat 16 (w / 4194304 % 16))))
      else .error .res0
  | _ => .error .fn

/-- Major 0x39. -/
def decodeMajor39 (w : Nat) : Except Reject Instr :=
  match w / 64 % 4 with
  | 0 =>
      if w / 65536 % 64 == 0 && w / 1073741824 % 4 == 0 then (do
        let d ← spec (w % 64)
        pure (.copy d (Fin.ofNat 16 (w / 4194304 % 16)) (Fin.ofNat 16 (w / 67108864 % 16))))
      else .error .res0
  | 1 =>
      if w / 4194304 % 1024 == 0 then (do
        let d ← spec (w % 64)
        let a ← spec (w / 65536 % 64)
        pure (.copyq d a))
      else .error .res0
  | 2 =>
      if w % 64 == 0 && w / 4194304 % 1024 == 0 then (do
        let a ← spec (w / 65536 % 64)
        pure (.copyw a))
      else .error .res0
  | 3 =>
      if w % 64 == 0 && w / 65536 % 65536 == 0 then (pure (.quiesce))
      else .error .res0
  | _ => .error .fn

/-- Major 0x3A. -/
def decodeMajor3A (w : Nat) : Except Reject Instr :=
  match w / 536870912 % 8 with
  | 0 =>
      if w % 256 == 0 && w / 524288 % 8 == 0 then (pure (.strm (Fin.ofNat 8 (w / 67108864 % 8)) (Fin.ofNat 16 (w / 4194304 % 16)) (Fin.ofNat 8 (w / 65536 % 8))))
      else .error .res0
  | 1 =>
      if w % 256 == 0 && w / 65536 % 1024 == 0 then (pure (.strmx (Fin.ofNat 8 (w / 67108864 % 8))))
      else .error .res0
  | 2 =>
      if w / 64 % 4 == 0 && w / 65536 % 64 == 0 && w / 67108864 % 8 == 0 then (do
        let a ← spec (w % 64)
        pure (.rise (Fin.ofNat 16 (w / 4194304 % 16)) a))
      else .error .res0
  | 3 =>
      if w / 64 % 4 == 0 && w / 65536 % 64 == 0 && w / 67108864 % 8 == 0 then (do
        let a ← spec (w % 64)
        pure (.risew (Fin.ofNat 16 (w / 4194304 % 16)) a))
      else .error .res0
  | 4 =>
      if w / 64 % 4 == 0 && w / 65536 % 8192 == 0 then (do
        let a ← spec (w % 64)
        pure (.hatch a))
      else .error .res0
  | 5 =>
      if w / 64 % 4 == 0 && w / 65536 % 8192 == 0 then (do
        let a ← spec (w % 64)
        pure (.shjoin a))
      else .error .res0
  | 6 =>
      if w % 256 == 0 && w / 65536 % 8192 == 0 then (pure (.shleave))
      else .error .res0
  | _ => .error .fn

/-- Major 0x3B. -/
def decodeMajor3B (w : Nat) : Except Reject Instr :=
  match w / 32 % 8 with
  | 0 =>
      do
        let b ← spec (w / 65536 % 64)
        pure (.amoadd (Fin.ofNat 32 (w % 32)) (Fin.ofNat 16 (w / 4194304 % 16)) b (Fin.ofNat 16 (w / 67108864 % 16)) (Fin.ofNat 4 (w / 1073741824 % 4)))
  | 1 =>
      do
        let b ← spec (w / 65536 % 64)
        pure (.amofadd (Fin.ofNat 32 (w % 32)) (Fin.ofNat 16 (w / 4194304 % 16)) b (Fin.ofNat 16 (w / 67108864 % 16)) (Fin.ofNat 4 (w / 1073741824 % 4)))
  | 2 =>
      do
        let b ← spec (w / 65536 % 64)
        pure (.amomin (Fin.ofNat 32 (w % 32)) (Fin.ofNat 16 (w / 4194304 % 16)) b (Fin.ofNat 16 (w / 67108864 % 16)) (Fin.ofNat 4 (w / 1073741824 % 4)))
  | 3 =>
      do
        let b ← spec (w / 65536 % 64)
        pure (.amomax (Fin.ofNat 32 (w % 32)) (Fin.ofNat 16 (w / 4194304 % 16)) b (Fin.ofNat 16 (w / 67108864 % 16)) (Fin.ofNat 4 (w / 1073741824 % 4)))
  | 4 =>
      do
        let b ← spec (w / 65536 % 64)
        pure (.amoswp (Fin.ofNat 32 (w % 32)) (Fin.ofNat 16 (w / 4194304 % 16)) b (Fin.ofNat 16 (w / 67108864 % 16)) (Fin.ofNat 4 (w / 1073741824 % 4)))
  | 5 =>
      do
        let b ← spec (w / 65536 % 64)
        pure (.amocas (Fin.ofNat 32 (w % 32)) (Fin.ofNat 16 (w / 4194304 % 16)) b (Fin.ofNat 16 (w / 67108864 % 16)) (Fin.ofNat 4 (w / 1073741824 % 4)))
  | _ => .error .fn

/-- Major 0x3C. -/
def decodeMajor3C (w : Nat) : Except Reject Instr :=
  match w / 32 % 8 with
  | 0 =>
      do
        let b ← spec (w / 65536 % 64)
        pure (.amologAnd (Fin.ofNat 32 (w % 32)) (Fin.ofNat 16 (w / 4194304 % 16)) b (Fin.ofNat 16 (w / 67108864 % 16)) (Fin.ofNat 4 (w / 1073741824 % 4)))
  | 1 =>
      do
        let b ← spec (w / 65536 % 64)
        pure (.amologOr (Fin.ofNat 32 (w % 32)) (Fin.ofNat 16 (w / 4194304 % 16)) b (Fin.ofNat 16 (w / 67108864 % 16)) (Fin.ofNat 4 (w / 1073741824 % 4)))
  | 2 =>
      do
        let b ← spec (w / 65536 % 64)
        pure (.amologXor (Fin.ofNat 32 (w % 32)) (Fin.ofNat 16 (w / 4194304 % 16)) b (Fin.ofNat 16 (w / 67108864 % 16)) (Fin.ofNat 4 (w / 1073741824 % 4)))
  | _ => .error .fn

/-- A 32-bit word (R22): the major opcode I[13:8] fixes the format. A word after an XP parcel shall be
of major VA, VB or VC (R28). -/
def decodeWord (pre : Option Xp) (w : Nat) : Except Reject Instr :=
  let major := w / 256 % 64
  if pre.isSome && !(major == 0x30 || major == 0x31 || major == 0x32) then .error .xpUnit else
  match major with
  | 0 => decodeMajor00 w
  | 1 => decodeMajor01 w
  | 2 => decodeMajor02 w
  | 3 => decodeMajor03 w
  | 4 => decodeMajor04 w
  | 5 => decodeMajor05 w
  | 6 => decodeMajor06 w
  | 7 => decodeMajor07 w
  | 8 => decodeMajor08 w
  | 9 => decodeMajor09 w
  | 10 => decodeMajor0A w
  | 11 => decodeMajor0B w
  | 16 => decodeMajor10 w
  | 17 => decodeMajor11 w
  | 18 => decodeMajor12 w
  | 19 => decodeMajor13 w
  | 20 => decodeMajor14 w
  | 21 => decodeMajor15 w
  | 22 => decodeMajor16 w
  | 24 => decodeMajor18 w
  | 25 => decodeMajor19 w
  | 26 => decodeMajor1A w
  | 32 => decodeMajor20 w
  | 33 => decodeMajor21 w
  | 34 => decodeMajor22 w
  | 35 => decodeMajor23 w
  | 36 => decodeMajor24 w
  | 37 => decodeMajor25 w
  | 38 => decodeMajor26 w
  | 39 => decodeMajor27 w
  | 40 => decodeMajor28 w
  | 41 => decodeMajor29 w
  | 42 => decodeMajor2A w
  | 43 => decodeMajor2B w
  | 44 => decodeMajor2C w
  | 45 => decodeMajor2D w
  | 46 => decodeMajor2E w
  | 48 => decodeMajor30 w pre
  | 49 => decodeMajor31 w pre
  | 50 => decodeMajor32 w pre
  | 51 => decodeMajor33 w
  | 52 => decodeMajor34 w
  | 53 => decodeMajor35 w
  | 54 => decodeMajor36 w
  | 55 => decodeMajor37 w
  | 56 => decodeMajor38 w
  | 57 => decodeMajor39 w
  | 58 => decodeMajor3A w
  | 59 => decodeMajor3B w
  | 60 => decodeMajor3C w
  | _ => .error .major

/-- A compact parcel (R24-R26). -/
def decodeCompact (w : Nat) : Except Reject Instr :=
  match w / 2048 % 32 with
  | 1 =>
      pure (.addiCompact (Fin.ofNat 32 (w / 64 % 32)) (BitVec.ofNat 6 (w % 64)))
  | 2 =>
      pure (.moviCompact (Fin.ofNat 32 (w / 64 % 32)) (BitVec.ofNat 6 (w % 64)))
  | 3 =>
      pure (.shliCompact (Fin.ofNat 32 (w / 64 % 32)) (Fin.ofNat 64 (w % 64)))
  | 4 =>
      pure (.shriCompact (Fin.ofNat 32 (w / 64 % 32)) (Fin.ofNat 64 (w % 64)))
  | 5 =>
      pure (.sariCompact (Fin.ofNat 32 (w / 64 % 32)) (Fin.ofNat 64 (w % 64)))
  | 6 =>
      if w % 2 == 0 then (pure (.addCompact (Fin.ofNat 32 (w / 64 % 32)) (Fin.ofNat 32 (w / 2 % 32))))
      else .error .res0
  | 7 =>
      if w % 2 == 0 then (pure (.subCompact (Fin.ofNat 32 (w / 64 % 32)) (Fin.ofNat 32 (w / 2 % 32))))
      else .error .res0
  | 8 =>
      if w % 2 == 0 then (pure (.andCompact (Fin.ofNat 32 (w / 64 % 32)) (Fin.ofNat 32 (w / 2 % 32))))
      else .error .res0
  | 9 =>
      if w % 2 == 0 then (pure (.orCompact (Fin.ofNat 32 (w / 64 % 32)) (Fin.ofNat 32 (w / 2 % 32))))
      else .error .res0
  | 10 =>
      if w % 2 == 0 then (pure (.xorCompact (Fin.ofNat 32 (w / 64 % 32)) (Fin.ofNat 32 (w / 2 % 32))))
      else .error .res0
  | 11 =>
      if w % 2 == 0 then (pure (.addMoveCompact (Fin.ofNat 32 (w / 64 % 32)) (Fin.ofNat 32 (w / 2 % 32))))
      else .error .res0
  | 12 =>
      pure (.bzCompact (Fin.ofNat 32 (w / 64 % 32)) (BitVec.ofNat 6 (w % 64)))
  | 13 =>
      pure (.bnzCompact (Fin.ofNat 32 (w / 64 % 32)) (BitVec.ofNat 6 (w % 64)))
  | 14 =>
      pure (.bCompact (BitVec.ofNat 11 (w % 2048)))
  | 15 =>
      pure (.ldS64Compact (Fin.ofNat 32 (w / 64 % 32)) (Fin.ofNat 8 (w / 8 % 8)) (Fin.ofNat 8 (w % 8)))
  | 16 =>
      pure (.stS64Compact (Fin.ofNat 32 (w / 64 % 32)) (Fin.ofNat 8 (w / 8 % 8)) (Fin.ofNat 8 (w % 8)))
  | 17 =>
      pure (.ldS32Compact (Fin.ofNat 32 (w / 64 % 32)) (Fin.ofNat 8 (w / 8 % 8)) (Fin.ofNat 8 (w % 8)))
  | 18 =>
      pure (.stS32Compact (Fin.ofNat 32 (w / 64 % 32)) (Fin.ofNat 8 (w / 8 % 8)) (Fin.ofNat 8 (w % 8)))
  | 20 =>
      if w % 2 == 0 then (pure (.vaddF32Compact (Fin.ofNat 32 (w / 64 % 32)) (Fin.ofNat 32 (w / 2 % 32))))
      else .error .res0
  | 21 =>
      if w % 2 == 0 then (pure (.vmulF32Compact (Fin.ofNat 32 (w / 64 % 32)) (Fin.ofNat 32 (w / 2 % 32))))
      else .error .res0
  | 19 =>
    match w / 64 % 32 with
    | 0 =>
      if w % 64 == 0 then (pure (.doneCompact))
      else .error .res0
    | 1 =>
      if w % 64 == 0 then (pure (.yieldCompact))
      else .error .res0
    | 2 =>
      if w % 64 == 0 then (pure (.retCompact))
      else .error .res0
    | 3 =>
      do
        let a ← spec (w % 64)
        pure (.jrCompact a)
    | 4 =>
      if w % 64 == 0 then (pure (.wfeCompact))
      else .error .res0
    | 5 =>
      if w % 64 == 0 then (pure (.sevCompact))
      else .error .res0
    | 6 =>
      do
        let a ← spec (w % 64)
        pure (.callrCompact a)
    | _ => .error .compact
  | _ => .error .compact

/-- The XP parcel's fields (R27). -/
def xpOf (w : Nat) : Xp :=
  ⟨Fin.ofNat 8 (w / 256 % 8), Fin.ofNat 8 (w / 32 % 8), Fin.ofNat 16 (w / 2 % 16)⟩

/-- The unit at the head of a list of parcels (R21, R23, R28). -/
def decode (ps : List Parcel) : Except Reject Instr :=
  match ps with
  | [] => .error .truncated
  | p :: rest =>
    if p.toNat / 16384 == 3 then
      match rest with
      | [] => .error .truncated
      | q :: _ => decodeWord none (p.toNat + 65536 * q.toNat)
    else if p.toNat / 2048 == 23 then
      if p.toNat % 2 == 1 then .error .res0 else
      match rest with
      | [] => .error .xpUnit
      | q :: rest' =>
        if q.toNat / 16384 == 3 then
          match rest' with
          | [] => .error .truncated
          | r :: _ => decodeWord (some (xpOf p.toNat)) (q.toNat + 65536 * r.toNat)
        else .error .xpUnit
    else decodeCompact p.toNat

/-- The parcels of bytes in memory order (R21: little-endian). -/
def parcelsOf : List Byte → List Parcel
  | lo :: hi :: rest => (hi ++ lo) :: parcelsOf rest
  | _ => []

/-- The decoder on bytes: total, and a rejection has a name. -/
def decodeBytes (bs : List Byte) : Except Reject Instr := decode (parcelsOf bs)

/-- The host's numbering: bit 0 of w is bit 0 of the first parcel. The parcels are laid out as the
routine store holds them, with zero parcels above nbits, and given to the decoder. -/
def decodeTableWord (nbits w : Nat) : Option Instr :=
  let v := w % 2 ^ nbits
  match decode [BitVec.ofNat 16 v, BitVec.ofNat 16 (v / 65536), BitVec.ofNat 16 (v / 4294967296)] with
  | .ok i => some i
  | .error _ => none

/-- The two parcels of a 32-bit word. -/
def wordParcels (w : Nat) : List Parcel := [BitVec.ofNat 16 (w % 65536), BitVec.ofNat 16 (w / 65536)]

/-- The parcels of a vector word, after its XP parcel where there is one (R27). -/
def vecParcels (vx : Vx) (w : Nat) : List Parcel :=
  match vx.pre with
  | none => wordParcels (w + vx.ty2.val * 64)
  | some x =>
    BitVec.ofNat 16 (0xB800 + x.m.val * 256 + x.rm.val * 32 + x.ty.val * 2) ::
      wordParcels (w + vx.ty2.val * 64)

/-- The encoder, from the same tables (R24-R44). An event has no encoding. -/
def encode (i : Instr) : Option (List Parcel) :=
  match i with
  | .add wd d a b => some (wordParcels (0xC000 + wd.toNat * 64 + d.val + a.val * 65536 + b.val * 4194304))
  | .sub wd d a b => some (wordParcels (0x1000C000 + wd.toNat * 64 + d.val + a.val * 65536 + b.val * 4194304))
  | .mul wd d a b => some (wordParcels (0x2000C000 + wd.toNat * 64 + d.val + a.val * 65536 + b.val * 4194304))
  | .mulh wd d a b => some (wordParcels (0x3000C000 + wd.toNat * 64 + d.val + a.val * 65536 + b.val * 4194304))
  | .mulhn wd d a b => some (wordParcels (0x4000C000 + wd.toNat * 64 + d.val + a.val * 65536 + b.val * 4194304))
  | .div wd d a b => some (wordParcels (0x5000C000 + wd.toNat * 64 + d.val + a.val * 65536 + b.val * 4194304))
  | .divn wd d a b => some (wordParcels (0x6000C000 + wd.toNat * 64 + d.val + a.val * 65536 + b.val * 4194304))
  | .rem wd d a b => some (wordParcels (0x7000C000 + wd.toNat * 64 + d.val + a.val * 65536 + b.val * 4194304))
  | .remn wd d a b => some (wordParcels (0x8000C000 + wd.toNat * 64 + d.val + a.val * 65536 + b.val * 4194304))
  | .and wd d a b => some (wordParcels (0x9000C000 + wd.toNat * 64 + d.val + a.val * 65536 + b.val * 4194304))
  | .or wd d a b => some (wordParcels (0xA000C000 + wd.toNat * 64 + d.val + a.val * 65536 + b.val * 4194304))
  | .xor wd d a b => some (wordParcels (0xB000C000 + wd.toNat * 64 + d.val + a.val * 65536 + b.val * 4194304))
  | .shl wd d a b => some (wordParcels (0xC000C000 + wd.toNat * 64 + d.val + a.val * 65536 + b.val * 4194304))
  | .shr wd d a b => some (wordParcels (0xD000C000 + wd.toNat * 64 + d.val + a.val * 65536 + b.val * 4194304))
  | .sar wd d a b => some (wordParcels (0xE000C000 + wd.toNat * 64 + d.val + a.val * 65536 + b.val * 4194304))
  | .rol wd d a b => some (wordParcels (0xF000C000 + wd.toNat * 64 + d.val + a.val * 65536 + b.val * 4194304))
  | .clz wd d a => some (wordParcels (0xC100 + wd.toNat * 64 + d.val + a.val * 65536))
  | .ctz wd d a => some (wordParcels (0x1000C100 + wd.toNat * 64 + d.val + a.val * 65536))
  | .popc wd d a => some (wordParcels (0x2000C100 + wd.toNat * 64 + d.val + a.val * 65536))
  | .abs wd d a => some (wordParcels (0x3000C100 + wd.toNat * 64 + d.val + a.val * 65536))
  | .min wd d a b => some (wordParcels (0x4000C100 + wd.toNat * 64 + d.val + a.val * 65536 + b.val * 4194304))
  | .minn wd d a b => some (wordParcels (0x5000C100 + wd.toNat * 64 + d.val + a.val * 65536 + b.val * 4194304))
  | .max wd d a b => some (wordParcels (0x6000C100 + wd.toNat * 64 + d.val + a.val * 65536 + b.val * 4194304))
  | .maxn wd d a b => some (wordParcels (0x7000C100 + wd.toNat * 64 + d.val + a.val * 65536 + b.val * 4194304))
  | .seq wd d a b => some (wordParcels (0x8000C100 + wd.toNat * 64 + d.val + a.val * 65536 + b.val * 4194304))
  | .sne wd d a b => some (wordParcels (0x9000C100 + wd.toNat * 64 + d.val + a.val * 65536 + b.val * 4194304))
  | .slt wd d a b => some (wordParcels (0xA000C100 + wd.toNat * 64 + d.val + a.val * 65536 + b.val * 4194304))
  | .slb wd d a b => some (wordParcels (0xB000C100 + wd.toNat * 64 + d.val + a.val * 65536 + b.val * 4194304))
  | .sel wd d c a b => some (wordParcels (0xC200 + wd.toNat * 64 + d.val + c.val * 268435456 + a.val * 65536 + b.val * 4194304))
  | .addi wd d a imm => some (wordParcels (0xC300 + wd.toNat * 64 + d.val + a.val * 65536 + imm.toNat * 4194304))
  | .andi wd d a imm => some (wordParcels (0xC400 + wd.toNat * 64 + d.val + a.val * 65536 + imm.toNat * 4194304))
  | .ori wd d a imm => some (wordParcels (0xC500 + wd.toNat * 64 + d.val + a.val * 65536 + imm.toNat * 4194304))
  | .xori wd d a imm => some (wordParcels (0xC600 + wd.toNat * 64 + d.val + a.val * 65536 + imm.toNat * 4194304))
  | .shli wd d a n => some (wordParcels (0xC700 + wd.toNat * 64 + d.val + a.val * 65536 + n.val * 4194304))
  | .shri wd d a n => some (wordParcels (0x1000C700 + wd.toNat * 64 + d.val + a.val * 65536 + n.val * 4194304))
  | .sari wd d a n => some (wordParcels (0x2000C700 + wd.toNat * 64 + d.val + a.val * 65536 + n.val * 4194304))
  | .movi d imm => some (wordParcels (0xC800 + d.val + imm.toNat % 4 * 64 + imm.toNat / 4 * 65536))
  | .movhi d imm k => some (wordParcels (0xC900 + d.val + imm.toNat * 65536 + k.val * 64))
  | .bfx d a pos lm => some (wordParcels (0xCA00 + d.val + a.val * 65536 + pos.val * 4194304 + lm.val % 16 * 268435456 + lm.val / 16 * 64))
  | .bfi d a pos lm => some (wordParcels (0xCB00 + d.val + a.val * 65536 + pos.val * 4194304 + lm.val % 16 * 268435456 + lm.val / 16 * 64))
  | .beq a b off => some (wordParcels (0xD000 + a.val + b.val * 65536 + off.toNat * 4194304))
  | .bne a b off => some (wordParcels (0xD040 + a.val + b.val * 65536 + off.toNat * 4194304))
  | .blt a b off => some (wordParcels (0xD080 + a.val + b.val * 65536 + off.toNat * 4194304))
  | .bge a b off => some (wordParcels (0xD0C0 + a.val + b.val * 65536 + off.toNat * 4194304))
  | .blo a b off => some (wordParcels (0xD100 + a.val + b.val * 65536 + off.toNat * 4194304))
  | .bhs a b off => some (wordParcels (0xD140 + a.val + b.val * 65536 + off.toNat * 4194304))
  | .bz a off => some (wordParcels (0xD180 + a.val + off.toNat * 4194304))
  | .bnz a off => some (wordParcels (0xD1C0 + a.val + off.toNat * 4194304))
  | .b t => some (wordParcels (0xD200 + t.toNat % 256 + t.toNat / 256 * 65536))
  | .j t => some (wordParcels (0xD300 + t.toNat % 256 + t.toNat / 256 * 65536))
  | .call t => some (wordParcels (0xD400 + t.toNat % 256 + t.toNat / 256 * 65536))
  | .loop a len => some (wordParcels (0xD500 + a.val + len.toNat * 65536))
  | .loopi n len => some (wordParcels (0xD600 + n.toNat + len.toNat * 65536))
  | .sig t => some (wordParcels (0xDA00 + t.toNat % 256 + t.toNat / 256 * 65536))
  | .done => some (wordParcels (0xD800))
  | .yield => some (wordParcels (0x40D800))
  | .wfe => some (wordParcels (0x80D800))
  | .sev => some (wordParcels (0xC0D800))
  | .brk imm => some (wordParcels (0x100D800 + imm.toNat % 64 + imm.toNat / 64 * 65536))
  | .sysc imm => some (wordParcels (0x140D800 + imm.toNat % 64 + imm.toNat / 64 * 65536))
  | .eret => some (wordParcels (0x180D800))
  | .jr a => some (wordParcels (0x1C0D800 + a.val))
  | .callr a => some (wordParcels (0x200D800 + a.val))
  | .ret => some (wordParcels (0x240D800))
  | .clen a => some (wordParcels (0x280D800 + a.val))
  | .cldis a => some (wordParcels (0x2C0D800 + a.val))
  | .clpend b a => some (wordParcels (0x300D800 + b.val * 65536 + a.val))
  | .savew a => some (wordParcels (0x340D800 + a.val))
  | .loadw a => some (wordParcels (0x380D800 + a.val))
  | .ctxrd b a => some (wordParcels (0x3C0D800 + b.val * 65536 + a.val))
  | .ctxwr a b => some (wordParcels (0x400D800 + a.val + b.val * 65536))
  | .fence pred succ scope => some (wordParcels (0x440D800 + pred.toNat + succ.toNat * 8 + scope.val * 65536))
  | .linkc dir => some (wordParcels (0x480D824 + dir.val))
  | .linkf dir => some (wordParcels (0x4C0D824 + dir.val))
  | .gbar a => some (wordParcels (0x500D800 + a.val))
  | .gwait a => some (wordParcels (0x540D800 + a.val))
  | .sift a => some (wordParcels (0x580D800 + a.val))
  | .launch p => some (wordParcels (0x5C0D800 + p.val * 65536))
  | .cancel a => some (wordParcels (0x600D800 + a.val))
  | .xinv p => some (wordParcels (0x640D800 + p.val * 65536))
  | .trace a => some (wordParcels (0x680D800 + a.val))
  | .ctrsnap p => some (wordParcels (0x6C0D800 + p.val * 65536))
  | .csrr d csr => some (wordParcels (0xD900 + d.val + csr.toNat * 65536))
  | .csrw d csr => some (wordParcels (0xD940 + d.val + csr.toNat * 65536))
  | .csrset d csr => some (wordParcels (0xD980 + d.val + csr.toNat * 65536))
  | .csrclr d csr => some (wordParcels (0xD9C0 + d.val + csr.toNat * 65536))
  | .ld d x sgn sz os p off => some (wordParcels (0xE000 + d.val + x.toNat * 64 + sgn.toNat * 128 + sz.val * 65536 + os.val * 524288 + p.val * 8388608 + off.val * 134217728))
  | .ldw d x sgn sz os p off => some (wordParcels (0xE100 + d.val + x.toNat * 64 + sgn.toNat * 128 + sz.val * 65536 + os.val * 524288 + p.val * 8388608 + off.val * 134217728))
  | .ldc d x sgn sz os p off => some (wordParcels (0xE200 + d.val + x.toNat * 64 + sgn.toNat * 128 + sz.val * 65536 + os.val * 524288 + p.val * 8388608 + off.val * 134217728))
  | .st d x sgn sz os p off => some (wordParcels (0xE300 + d.val + x.toNat * 64 + sgn.toNat * 128 + sz.val * 65536 + os.val * 524288 + p.val * 8388608 + off.val * 134217728))
  | .stf d x sgn sz os p off => some (wordParcels (0xE400 + d.val + x.toNat * 64 + sgn.toNat * 128 + sz.val * 65536 + os.val * 524288 + p.val * 8388608 + off.val * 134217728))
  | .feget d x os p off => some (wordParcels (0x2E500 + d.val + x.toNat * 64 + os.val * 524288 + p.val * 8388608 + off.val * 134217728))
  | .feset d x full os p off => some (wordParcels (0x6E500 + d.val + x.toNat * 64 + full.toNat * 128 + os.val * 524288 + p.val * 8388608 + off.val * 134217728))
  | .pld q x os p off => some (wordParcels (0xE600 + q.val + x.toNat * 64 + os.val * 524288 + p.val * 8388608 + off.val * 134217728))
  | .pst q x os p off => some (wordParcels (0x4E600 + q.val + x.toNat * 64 + os.val * 524288 + p.val * 8388608 + off.val * 134217728))
  | .new pd kind a perm => some (wordParcels (0xE700 + pd.val + kind.val * 16 + a.val * 65536 + perm.toNat * 4194304))
  | .newp pd kind a perm => some (wordParcels (0x1000E700 + pd.val + kind.val * 16 + a.val * 65536 + perm.toNat * 4194304))
  | .vld v x m os p off => some (wordParcels (0xE800 + v.val + x.toNat * 64 + m.val * 65536 + os.val * 524288 + p.val * 8388608 + off.val * 134217728))
  | .vldw v x m os p off => some (wordParcels (0xE900 + v.val + x.toNat * 64 + m.val * 65536 + os.val * 524288 + p.val * 8388608 + off.val * 134217728))
  | .vldc v x m os p off => some (wordParcels (0xEA00 + v.val + x.toNat * 64 + m.val * 65536 + os.val * 524288 + p.val * 8388608 + off.val * 134217728))
  | .vst v x m os p off => some (wordParcels (0xEB00 + v.val + x.toNat * 64 + m.val * 65536 + os.val * 524288 + p.val * 8388608 + off.val * 134217728))
  | .vstf v x m os p off => some (wordParcels (0xEC00 + v.val + x.toNat * 64 + m.val * 65536 + os.val * 524288 + p.val * 8388608 + off.val * 134217728))
  | .vgath v m os p vi => some (wordParcels (0xED00 + v.val + m.val * 65536 + os.val * 524288 + p.val * 8388608 + vi.val * 134217728))
  | .vscat v m os p vi => some (wordParcels (0xED80 + v.val + m.val * 65536 + os.val * 524288 + p.val * 8388608 + vi.val * 134217728))
  | .padd pa pb s => some (wordParcels (0xEE00 + pa.val + pb.val * 16 + s.val * 65536))
  | .pnarrow pa pb s t => some (wordParcels (0x1000EE00 + pa.val + pb.val * 16 + s.val * 65536 + t.val * 4194304))
  | .pview pa pb view => some (wordParcels (0x2000EE00 + pa.val + pb.val * 16 + view.val * 4194304))
  | .pperm pa pb mask => some (wordParcels (0x3000EE00 + pa.val + pb.val * 16 + mask.toNat * 4194304))
  | .plen s pb => some (wordParcels (0x4000EE00 + s.val * 65536 + pb.val * 16))
  | .pcmp s pa pb => some (wordParcels (0x5000EE00 + s.val * 65536 + pa.val + pb.val * 16))
  | .pmov pa pb => some (wordParcels (0x6000EE00 + pa.val + pb.val * 16))
  | .touch pa => some (wordParcels (0x7000EE00 + pa.val))
  | .acq pa scope => some (wordParcels (0x8000EE00 + pa.val + scope.val * 4194304))
  | .rel pa scope => some (wordParcels (0x9000EE00 + pa.val + scope.val * 4194304))
  | .vadd vx d a b => some (vecParcels vx (0xF000 + d.val + a.val * 65536 + b.val * 4194304))
  | .vsub vx d a b => some (vecParcels vx (0x1000F000 + d.val + a.val * 65536 + b.val * 4194304))
  | .vmul vx d a b => some (vecParcels vx (0x2000F000 + d.val + a.val * 65536 + b.val * 4194304))
  | .vfma vx d a b => some (vecParcels vx (0x3000F000 + d.val + a.val * 65536 + b.val * 4194304))
  | .vfms vx d a b => some (vecParcels vx (0x4000F000 + d.val + a.val * 65536 + b.val * 4194304))
  | .vmin vx d a b => some (vecParcels vx (0x5000F000 + d.val + a.val * 65536 + b.val * 4194304))
  | .vmax vx d a b => some (vecParcels vx (0x6000F000 + d.val + a.val * 65536 + b.val * 4194304))
  | .vclamp vx d a b => some (vecParcels vx (0x7000F000 + d.val + a.val * 65536 + b.val * 4194304))
  | .vand vx d a b => some (vecParcels vx (0x8000F000 + d.val + a.val * 65536 + b.val * 4194304))
  | .vor vx d a b => some (vecParcels vx (0x9000F000 + d.val + a.val * 65536 + b.val * 4194304))
  | .vxor vx d a b => some (vecParcels vx (0xA000F000 + d.val + a.val * 65536 + b.val * 4194304))
  | .vshl vx d a b => some (vecParcels vx (0xB000F000 + d.val + a.val * 65536 + b.val * 4194304))
  | .vshr vx d a b => some (vecParcels vx (0xC000F000 + d.val + a.val * 65536 + b.val * 4194304))
  | .vsar vx d a b => some (vecParcels vx (0xD000F000 + d.val + a.val * 65536 + b.val * 4194304))
  | .vdot vx d a b => some (vecParcels vx (0xE000F000 + d.val + a.val * 65536 + b.val * 4194304))
  | .vperm vx d a b => some (vecParcels vx (0xF000F000 + d.val + a.val * 65536 + b.val * 4194304))
  | .vabs vx d a => some (vecParcels vx (0xF100 + d.val + a.val * 65536))
  | .vneg vx d a => some (vecParcels vx (0x1000F100 + d.val + a.val * 65536))
  | .vrcp vx d a => some (vecParcels vx (0x2000F100 + d.val + a.val * 65536))
  | .vrsq vx d a => some (vecParcels vx (0x3000F100 + d.val + a.val * 65536))
  | .vexp2 vx d a => some (vecParcels vx (0x4000F100 + d.val + a.val * 65536))
  | .vlog2 vx d a => some (vecParcels vx (0x5000F100 + d.val + a.val * 65536))
  | .vmov vx d a => some (vecParcels vx (0x6000F100 + d.val + a.val * 65536))
  | .viota vx d => some (vecParcels vx (0x7000F100 + d.val))
  | .vbcast vx d a => some (vecParcels vx (0x8000F100 + d.val + a.val * 65536))
  | .vins vx d a lane => some (vecParcels vx (0x9000F100 + d.val + a.val * 65536 + lane.val * 4194304))
  | .vext vx d a lane => some (vecParcels vx (0xA000F100 + d.val + a.val * 65536 + lane.val * 4194304))
  | .vcmp vx md a b cond => some (vecParcels vx (0xB000F100 + md.val + a.val * 65536 + b.val * 4194304 + cond.val * 8))
  | .vsel vx d a b => some (vecParcels vx (0xC000F100 + d.val + a.val * 65536 + b.val * 4194304))
  | .vred vx d a op => some (vecParcels vx (0xD000F100 + d.val + a.val * 65536 + op.val * 4194304))
  | .vscan vx d a op => some (vecParcels vx (0xE000F100 + d.val + a.val * 65536 + op.val * 4194304))
  | .vcvt vx d a src => some (vecParcels vx (0xF200 + d.val + a.val * 65536 + src.val * 4194304))
  | .vqnt vx d a => some (vecParcels vx (0x1000F200 + d.val + a.val * 65536))
  | .vdq vx d a => some (vecParcels vx (0x2000F200 + d.val + a.val * 65536))
  | .mand md ma mb => some (wordParcels (0xF300 + md.val + ma.val * 65536 + mb.val * 4194304))
  | .mor md ma mb => some (wordParcels (0x1000F300 + md.val + ma.val * 65536 + mb.val * 4194304))
  | .mxor md ma mb => some (wordParcels (0x2000F300 + md.val + ma.val * 65536 + mb.val * 4194304))
  | .mnot md ma => some (wordParcels (0x3000F300 + md.val + ma.val * 65536))
  | .many d ma => some (wordParcels (0x4000F300 + d.val + ma.val * 65536))
  | .mall d ma => some (wordParcels (0x5000F300 + d.val + ma.val * 65536))
  | .mpop d ma => some (wordParcels (0x6000F300 + d.val + ma.val * 65536))
  | .mfirst d ma => some (wordParcels (0x7000F300 + d.val + ma.val * 65536))
  | .mfrom md a => some (wordParcels (0x8000F300 + md.val + a.val * 65536))
  | .mto d ma => some (wordParcels (0x9000F300 + d.val + ma.val * 65536))
  | .mset md imm => some (wordParcels (0xF400 + md.val + imm.toNat * 65536))
  | .mma c pa tma pb tmb ty => some (wordParcels (0xF500 + c.val + pa.val * 4 + tma.val * 65536 + pb.val * 524288 + tmb.val * 8388608 + ty.val * 67108864))
  | .mmaz c pa tma pb tmb ty => some (wordParcels (0xF540 + c.val + pa.val * 4 + tma.val * 65536 + pb.val * 524288 + tmb.val * 8388608 + ty.val * 67108864))
  | .mcks c pa tma pb tmb ty => some (wordParcels (0xF580 + c.val + pa.val * 4 + tma.val * 65536 + pb.val * 524288 + tmb.val * 8388608 + ty.val * 67108864))
  | .shmma c pa tma pb tmb ty => some (wordParcels (0xF5C0 + c.val + pa.val * 4 + tma.val * 65536 + pb.val * 524288 + tmb.val * 8388608 + ty.val * 67108864))
  | .mchk s c => some (wordParcels (0xF600 + s.val * 65536 + c.val))
  | .mfix c s => some (wordParcels (0x1000F600 + c.val + s.val * 65536))
  | .mld p tm => some (wordParcels (0x2000F600 + p.val * 4 + tm.val * 4194304))
  | .maccld c p => some (wordParcels (0x3000F600 + c.val + p.val * 4))
  | .maccst p c => some (wordParcels (0x4000F600 + p.val * 4 + c.val))
  | .mzero c => some (wordParcels (0x5000F600 + c.val))
  | .mtr c => some (wordParcels (0x6000F600 + c.val))
  | .mcmd s p => some (wordParcels (0x7000F600 + s.val * 65536 + p.val * 4))
  | .tmset tm p => some (wordParcels (0x8000F600 + tm.val * 4194304 + p.val * 4))
  | .tmget p tm => some (wordParcels (0x9000F600 + p.val * 4 + tm.val * 4194304))
  | .wdrun p slot => some (wordParcels (0xF700 + p.val + slot.val * 16))
  | .wdres => some (wordParcels (0x1000F700))
  | .wdq s => some (wordParcels (0x2000F700 + s.val * 65536))
  | .send a b p => some (wordParcels (0xF800 + a.val + b.val * 65536 + p.val * 4194304))
  | .sendv a b v => some (wordParcels (0xF840 + a.val + b.val * 65536 + v.val * 67108864))
  | .reply b p => some (wordParcels (0xF880 + b.val * 65536 + p.val * 4194304))
  | .sendh a b p => some (wordParcels (0xF8C0 + a.val + b.val * 65536 + p.val * 4194304))
  | .copy d p pg => some (wordParcels (0xF900 + d.val + p.val * 4194304 + pg.val * 67108864))
  | .copyq d a => some (wordParcels (0xF940 + d.val + a.val * 65536))
  | .copyw a => some (wordParcels (0xF980 + a.val * 65536))
  | .quiesce => some (wordParcels (0xF9C0))
  | .strm x p tm => some (wordParcels (0xFA00 + x.val * 67108864 + p.val * 4194304 + tm.val * 65536))
  | .strmx x => some (wordParcels (0x2000FA00 + x.val * 67108864))
  | .rise p a => some (wordParcels (0x4000FA00 + p.val * 4194304 + a.val))
  | .risew p a => some (wordParcels (0x6000FA00 + p.val * 4194304 + a.val))
  | .hatch a => some (wordParcels (0x8000FA00 + a.val))
  | .shjoin a => some (wordParcels (0xA000FA00 + a.val))
  | .shleave => some (wordParcels (0xC000FA00))
  | .amoadd d p b os ty => some (wordParcels (0xFB00 + d.val + p.val * 4194304 + b.val * 65536 + os.val * 67108864 + ty.val * 1073741824))
  | .amofadd d p b os ty => some (wordParcels (0xFB20 + d.val + p.val * 4194304 + b.val * 65536 + os.val * 67108864 + ty.val * 1073741824))
  | .amomin d p b os ty => some (wordParcels (0xFB40 + d.val + p.val * 4194304 + b.val * 65536 + os.val * 67108864 + ty.val * 1073741824))
  | .amomax d p b os ty => some (wordParcels (0xFB60 + d.val + p.val * 4194304 + b.val * 65536 + os.val * 67108864 + ty.val * 1073741824))
  | .amoswp d p b os ty => some (wordParcels (0xFB80 + d.val + p.val * 4194304 + b.val * 65536 + os.val * 67108864 + ty.val * 1073741824))
  | .amocas d p b os ty => some (wordParcels (0xFBA0 + d.val + p.val * 4194304 + b.val * 65536 + os.val * 67108864 + ty.val * 1073741824))
  | .amologAnd d p b os ty => some (wordParcels (0xFC00 + d.val + p.val * 4194304 + b.val * 65536 + os.val * 67108864 + ty.val * 1073741824))
  | .amologOr d p b os ty => some (wordParcels (0xFC20 + d.val + p.val * 4194304 + b.val * 65536 + os.val * 67108864 + ty.val * 1073741824))
  | .amologXor d p b os ty => some (wordParcels (0xFC40 + d.val + p.val * 4194304 + b.val * 65536 + os.val * 67108864 + ty.val * 1073741824))
  | .addiCompact d imm => some [BitVec.ofNat 16 (0x800 + d.val * 64 + imm.toNat)]
  | .moviCompact d imm => some [BitVec.ofNat 16 (0x1000 + d.val * 64 + imm.toNat)]
  | .shliCompact d n => some [BitVec.ofNat 16 (0x1800 + d.val * 64 + n.val)]
  | .shriCompact d n => some [BitVec.ofNat 16 (0x2000 + d.val * 64 + n.val)]
  | .sariCompact d n => some [BitVec.ofNat 16 (0x2800 + d.val * 64 + n.val)]
  | .addCompact d a => some [BitVec.ofNat 16 (0x3000 + d.val * 64 + a.val * 2)]
  | .subCompact d a => some [BitVec.ofNat 16 (0x3800 + d.val * 64 + a.val * 2)]
  | .andCompact d a => some [BitVec.ofNat 16 (0x4000 + d.val * 64 + a.val * 2)]
  | .orCompact d a => some [BitVec.ofNat 16 (0x4800 + d.val * 64 + a.val * 2)]
  | .xorCompact d a => some [BitVec.ofNat 16 (0x5000 + d.val * 64 + a.val * 2)]
  | .addMoveCompact d a => some [BitVec.ofNat 16 (0x5800 + d.val * 64 + a.val * 2)]
  | .bzCompact a off => some [BitVec.ofNat 16 (0x6000 + a.val * 64 + off.toNat)]
  | .bnzCompact a off => some [BitVec.ofNat 16 (0x6800 + a.val * 64 + off.toNat)]
  | .bCompact off => some [BitVec.ofNat 16 (0x7000 + off.toNat)]
  | .ldS64Compact d p k => some [BitVec.ofNat 16 (0x7800 + d.val * 64 + p.val * 8 + k.val)]
  | .stS64Compact d p k => some [BitVec.ofNat 16 (0x8000 + d.val * 64 + p.val * 8 + k.val)]
  | .ldS32Compact d p k => some [BitVec.ofNat 16 (0x8800 + d.val * 64 + p.val * 8 + k.val)]
  | .stS32Compact d p k => some [BitVec.ofNat 16 (0x9000 + d.val * 64 + p.val * 8 + k.val)]
  | .doneCompact => some [BitVec.ofNat 16 (0x9800)]
  | .yieldCompact => some [BitVec.ofNat 16 (0x9840)]
  | .retCompact => some [BitVec.ofNat 16 (0x9880)]
  | .jrCompact a => some [BitVec.ofNat 16 (0x98C0 + a.val)]
  | .wfeCompact => some [BitVec.ofNat 16 (0x9900)]
  | .sevCompact => some [BitVec.ofNat 16 (0x9940)]
  | .callrCompact a => some [BitVec.ofNat 16 (0x9980 + a.val)]
  | .vaddF32Compact d a => some [BitVec.ofNat 16 (0xA000 + d.val * 64 + a.val * 2)]
  | .vmulF32Compact d a => some [BitVec.ofNat 16 (0xA800 + d.val * 64 + a.val * 2)]
  | .messageArrival _ => none
  | .dispatchDecision _ => none
  | .activationEntry _ _ => none
  | .linkFlitArrival _ _ => none
  | .feRecheck _ _ => none
  | .feParkTimeout _ _ => none
  | .subByteWrite => none
  | .coreSift _ => none
  | .clusterSift _ => none
  | .dieSift _ _ => none
  | .expanderFill _ _ => none
  | .patrolScrub _ _ => none
  | .heapPatrolScrub _ _ => none
  | .copyAccept _ => none
  | .copyBeat _ => none
  | .copyCompletion _ => none
  | .streamRefill _ _ _ => none
  | .mldFill _ => none
  | .matrixCommandAccept _ => none
  | .matrixCommandRepeat _ => none
  | .sheetPairing _ => none
  | .sheetPartialMerge _ => none
  | .weightBlockFetch _ _ => none
  | .bnop _ _ => none
  | .bmv _ _ => none
  | .bmvz _ _ => none
  | .bbias _ _ => none
  | .bscale _ _ => none
  | .bact _ _ => none
  | .bsend _ _ => none
  | .blink _ _ => none
  | .bend _ _ => none
  | .bwait _ _ => none
  | .bwaitBudgetExpiry _ _ => none
  | .preemptionRequest _ _ => none
  | .preemptEntry _ _ => none
  | .saveTimerExpiry _ _ => none
  | .sealEvent _ _ => none
  | .priorityPreempt _ => none
  | .resumeDispatch _ => none
  | .resumeRequestSubmit _ => none
  | .stealProbe _ => none
  | .stealTransfer _ => none
  | .stealBackoffExpiry _ => none
  | .refusalRetry _ => none
  | .ticketPresent _ => none
  | .heldRetry _ => none
  | .atomicService _ => none
  | .atomicReply _ _ => none
  | .groupArrival _ => none
  | .gwaitRecheck _ _ => none
  | .timerExpiry _ => none
  | .timerEntry _ _ => none
  | .traceRecordWrite _ => none
  | .coreStop _ => none
  | .coreGo _ => none
  | .stopComplete _ => none
  | .dieHalt _ => none
  | .dieRun _ => none
  | .dieOffline _ => none
  | .dieShutter _ => none
  | .dieReopen _ => none
  | .translationWalk _ _ => none
  | .faultListRepresent _ => none
  | .pageAnswerMap _ _ => none
  | .pageAnswerRefuse _ _ => none
  | .padRegisterWrite _ _ => none
  | .saveRegisterWrite _ _ => none
  | .trbaseWrite _ _ => none
  | .mgmtRegisterWrite _ _ => none
  | .loadImage => none
  | .loadCore _ => none
  | .clockStepRequest _ => none
  | .clockHandshake => none
  | .clkstatWrite _ => none
  | .queueDoorbell _ => none
  | .slotMap => none
  | .slotRelease _ => none
  | .start _ => none
  | .messagePlacement _ => none
  | .stop _ => none
  | .launchComplete _ => none
  | .abandon _ => none
  | .precmd _ => none
  | .cancelq _ => none
  | .hostPostedWrite _ _ _ _ => none
  | .routeRelease => none
  | .landingStep _ => none
  | .routeAck _ => none
  | .hostRead _ _ _ => none
  | .hostQueueWrite _ => none
  | .hqheadWrite _ _ => none
  | .functionLevelReset => none
  | .perstReset => none
  | .mainPowerLoss => none
  | .boot => none
  | .recoveryVerifyRun _ => none
  | .recoveryVerifyFlashRun _ => none
  | .attestationRequest => none
  | .attestationReportDone _ => none
  | .securityAlarm _ => none
  | .checkpointSave => none
  | .checkpointRestore _ => none
  | .checkpointAbort => none
  | .checkpointComplete _ _ => none
  | .powerControlTick _ => none
  | .fabricPortUp _ => none
  | .flitReceive _ _ => none
  | .creditFlit _ _ _ _ => none
  | .creditReport _ => none
  | .endToEndAck _ _ => none
  | .eyeMonitorWindow _ _ _ => none
  | .linkRetrain _ => none
  | .portStepWrite _ _ => none
  | .scaleoutPacketReceive _ _ => none
  | .retransmitTimeout _ _ => none
  | .sqheadWrite _ _ => none

/-- The bytes a unit occupies in the routine store (R21, R23, R28); 0 for an event. -/
def Instr.size (i : Instr) : Nat :=
  match encode i with
  | some ps => 2 * ps.length
  | none => 0

end Sys2Proof
end

