-- ==== Sys2Proof/Config.lean ====
section
/-! DEFINITION. What an implementation fixes, and the free values: constants without a body, which no
proof can look into (log 3, log 10, log 11). -/

namespace Sys2Proof.Config

/-- How far the timestamp counter moves in one step of the model (R366, log 3). -/
opaque tick : Nat → DWord
/-- What a read of a stall, RUNCK, SEARCHCK or IDLECK counter finds beyond the count of the model's
own steps (R338, R341, log 3). -/
opaque count : Nat → DWord
/-- Whether an overlapped copy element reads its original value (R264, log 4). -/
opaque overlapOld : Nat → Bool
/-- The number under which a masked-off lane of VSCAN rounds under RS, by SRSEED and the lane's two values: R123 lets no
such lane step the generator (log 39). -/
opaque maskedDraw : DWord → Nat → Nat → BitVec 32
/-- SHA-384 of bytes (R397, log 10). -/
opaque sha384 : List Byte → BitVec 384
/-- RSA-3072 verification of a signature over a digest, under a public key with this hash (R397, log 10). -/
opaque rsaVerifies : BitVec 384 → List Byte → BitVec 384 → Bool
/-- SLH-DSA verification of a signature over a digest, under a public key with this hash (R397, log 10). -/
opaque slhVerifies : BitVec 384 → List Byte → BitVec 384 → Bool
/-- RSA-3072 signature under the identity derived from a seed (R400, log 10). -/
opaque rsaSign : BitVec 384 → BitVec 384 → List Byte
/-- SLH-DSA signature under the identity derived from a seed (R400, log 10). -/
opaque slhSign : BitVec 384 → BitVec 384 → List Byte
/-- The CRC-64 of a fabric flit (R418 names no polynomial, log 10). -/
opaque crc64 : List Byte → BitVec 64
/-- Which line a translation cache replaces when it is full (R306 states no rule, log 11). -/
opaque victim : Nat → Nat
/-- The stepping byte of an attestation report, which the silicon revision fixes (R401, log 12). -/
opaque stepping : Byte

end Sys2Proof.Config
end

