-- ==== Sys2Proof/Machine/SMap.lean ====
section
/-! DEFINITION. Sparse data: maps and sets of natural numbers as lists with strictly rising keys. An
erasing write of the default value keeps a map canonical, so that equal contents are equal data. -/

namespace Sys2Proof.Machine

/-- A map from numbers, sorted by key. -/
abbrev SMap (α : Type) := List (Nat × α)

/-- The value at k, or d where k is not listed. -/
def SMap.get {α : Type} (d : α) : SMap α → Nat → α
  | [], _ => d
  | (j, x) :: t, k => if j == k then x else if k < j then d else SMap.get d t k

/-- The value at k, if it is listed. -/
def SMap.find {α : Type} : SMap α → Nat → Option α
  | [], _ => none
  | (j, x) :: t, k => if j == k then some x else if k < j then none else SMap.find t k

/-- k holds x. -/
def SMap.put {α : Type} : SMap α → Nat → α → SMap α
  | [], k, x => [(k, x)]
  | (j, y) :: t, k, x =>
    if j == k then (k, x) :: t
    else if k < j then (k, x) :: (j, y) :: t
    else (j, y) :: SMap.put t k x

/-- k is not listed. -/
def SMap.erase {α : Type} : SMap α → Nat → SMap α
  | [], _ => []
  | (j, y) :: t, k => if j == k then t else if k < j then (j, y) :: t else (j, y) :: SMap.erase t k

/-- k holds x, and is not listed where x is the default. -/
def SMap.set {α : Type} [DecidableEq α] (d : α) (m : SMap α) (k : Nat) (x : α) : SMap α :=
  if x = d then m.erase k else m.put k x

/-- The keys from lo up to but not including hi are not listed. -/
def SMap.clear {α : Type} (m : SMap α) (lo hi : Nat) : SMap α :=
  m.filter fun e => e.1 < lo || hi ≤ e.1

/-- The entries from lo up to but not including hi. -/
def SMap.slice {α : Type} (m : SMap α) (lo hi : Nat) : SMap α :=
  m.filter fun e => lo ≤ e.1 && e.1 < hi

/-- Lists the entries of a second map over the first. -/
def SMap.overlay {α : Type} (m : SMap α) (es : SMap α) : SMap α :=
  es.foldl (fun m e => m.put e.1 e.2) m

/-- The n keys from dst hold what the n keys from src held. -/
def SMap.copy {α : Type} (m : SMap α) (src dst n : Nat) : SMap α :=
  (m.clear dst (dst + n)).overlay ((m.slice src (src + n)).map fun e => (e.1 - src + dst, e.2))

/-- A set of numbers, sorted. -/
abbrev NSet := List Nat

/-- k is in the set. -/
def NSet.has : NSet → Nat → Bool
  | [], _ => false
  | j :: t, k => j == k || (j < k && NSet.has t k)

/-- The set with k. -/
def NSet.add : NSet → Nat → NSet
  | [], k => [k]
  | j :: t, k => if j == k then j :: t else if k < j then k :: j :: t else j :: NSet.add t k

/-- The set without k. -/
def NSet.del : NSet → Nat → NSet
  | [], _ => []
  | j :: t, k => if j == k then t else if k < j then j :: t else j :: NSet.del t k

/-- k is in the set as b says. -/
def NSet.setTo (s : NSet) (k : Nat) (b : Bool) : NSet := if b then s.add k else s.del k

/-- The set without the numbers from lo up to but not including hi. -/
def NSet.clear (s : NSet) (lo hi : Nat) : NSet := s.filter fun k => k < lo || hi ≤ k

/-- The members from lo up to but not including hi. -/
def NSet.slice (s : NSet) (lo hi : Nat) : NSet := s.filter fun k => lo ≤ k && k < hi

/-- Membership of the n numbers from dst becomes that of the n from src. -/
def NSet.copy (s : NSet) (src dst n : Nat) : NSet :=
  ((s.slice src (src + n)).map fun k => k - src + dst).foldl NSet.add (s.clear dst (dst + n))

/-- The greatest member at most k. -/
def NSet.floor (s : NSet) (k : Nat) : Option Nat := (s.filter fun j => j ≤ k).getLast?

/-- Strictly rising: the canonical form. -/
def rising : List Nat → Bool
  | [] => true
  | [_] => true
  | a :: b :: t => a < b && rising (b :: t)

end Sys2Proof.Machine
end

