-- ==== Sys2Proof/Machine/State.lean ====
section
/-! DEFINITION. The state of a Lamagon B9 package, all of it plain data: contexts, cores, clusters,
dies and the package, and the memory they share. The reset value of each field stands beside it:
the value the spec gives, or one that a log entry names. -/

namespace Sys2Proof.Machine

/-- Why the machine stops. No rule of the spec stops it: traps are taken, kills are recorded. -/
inductive Fault where
  /-- Never raised: kept so that the type is inhabited. Safe. -/
  | never
  deriving DecidableEq, Repr

/-- Why the model has no next state. -/
inductive Refusal where
  /-- An instruction with no meaning yet, by its mnemonic. Safe. -/
  | notModelled (mnemonic : String)
  deriving DecidableEq, Repr

/-! ## Small data -/

/-- A pointer register or a granule: 128 bits and the tag (R163). -/
structure PReg where
  bits : BitVec 128 := 0
  tag : Bool := false
  deriving DecidableEq, Repr

/-- A flit of a mesh link with its width tag (R107, R109). -/
inductive Flit where
  | scalar (x : DWord)
  | vector (x : V512)
  deriving DecidableEq, Repr

/-- A message with its header (03, 12 R255): class, route tag, WUID, priority, sender, capability,
redelivery count, transform ID and payload. slot is the launch's hardware queue slot, which every
activation carries (R280), and part the partition of its queue (R297); launch numbers the launch, from 1, or
is 0 outside any (R374). -/
structure Msg where
  cls : BitVec 8 := 0
  tag : BitVec 32 := 0
  wuid : BitVec 24 := 0
  prio : BitVec 6 := 0
  sender : BitVec 22 := 0
  cap : BitVec 32 := 0
  redel : BitVec 2 := 0
  xf : BitVec 4 := 0
  body : List Byte := []
  /-- chunks of 64 bytes that decompression could not decode: their words are left empty (R251) -/
  holes : BitVec 4 := 0
  slot : BitVec 7 := 0
  part : BitVec 4 := 0
  launch : Nat := 0
  /-- an initial message on a core chosen from the mask, which a thief may take (R320) -/
  steal : Bool := false
  deriving DecidableEq, Repr

/-- A message held in an outbox or on its way, with its destination value (R254): core, cluster, die
and package in SENDER's layout. handler marks a SENDH call (R328). -/
structure OutMsg where
  dst : BitVec 22 := 0
  msg : Msg := {}
  handler : Bool := false
  deriving DecidableEq, Repr

/-- A stream binding (R270): pointer, map, the pane value current at STRM, strips popped, and strips
refilled ahead, oldest first; none stands for a strip whose bytes were poisoned (R233). -/
structure Stream where
  ptr : PReg
  map : V512
  pane : DWord
  popped : Nat := 0
  ahead : List (Option V512) := []
  deriving DecidableEq, Repr

/-- The kinds of waiting access (R182). -/
inductive FeKind where
  | load | consume | fill
  deriving DecidableEq, Repr

/-- What a waiting context waits for, as R182 waits: its condition is tested at the home. -/
inductive Need where
  /-- LDW, LDC, STF and the vector forms, and a guard word: the words at these byte offsets from
  p(preg), n bytes each, all full or all empty; data is what a filling store writes. -/
  | words (kind : FeKind) (preg : Fin 16) (n : Nat) (offs : List Nat) (data : List Nat)
  /-- ACQ of the object of p(preg) (R194) -/
  | acq (preg : Fin 16)
  /-- RISEW of the rise word of p(preg), for generation gen (R268) -/
  | gen (preg : Fin 16) (gen : Word)
  /-- COPYW of a job (R273): budgeted by the park limit alone -/
  | job (id : DWord)
  /-- SHMMA, for its partners (R276): budgeted by the park limit alone; with its operands, and the panes of A and B
  that were current at its issue (R115) -/
  | sheet (pa : Fin 16) (tma : Fin 8) (pb : Fin 16) (tmb : Fin 8) (ty : Nat) (panes : Nat × Nat)
  /-- GWAIT on a group, for generation gen (R334) -/
  | group (idx : Nat) (gen : Word)
  /-- LAUNCH of the block of p(preg), for room in the ring of a queue (R377) -/
  | ring (preg : Fin 16) (queue : Nat)
  deriving DecidableEq, Repr

/-- How a waiter waits (R182, R184): re-checking, with the re-checks left before it parks; parked in
the home's node table; or re-checking for want of a node, with its park timer running. -/
inductive Phase where
  | spin (left : Nat)
  | parked
  | spinner
  deriving DecidableEq, Repr

/-- A waiting access: what it needs, how it waits, the lowest offset whose condition failed, and the
ck at which its park timer started. -/
structure Waiter where
  need : Need
  phase : Phase
  failed : Nat := 0
  since : Nat := 0
  deriving DecidableEq, Repr

/-- What a context does (R96 STATE, R99). -/
inductive Run where
  /-- it holds no activation -/
  | free
  /-- dispatched, before its first issue (R53) -/
  | entering
  /-- it issues units -/
  | live
  /-- asleep in WFE (R86) -/
  | asleep
  /-- in a waiting access (R182) -/
  | waiting (w : Waiter)
  /-- a COPY request at its copy unit, not accepted yet (R261) -/
  | copying
  /-- in weight-driven mode, with the image of the current block in the buffer (R218), and the ck since
  which a BWAIT strip has waited (R223) -/
  | weights (image : Option (List Byte)) (since : Option Nat)
  /-- suspended by PAGE at a heap virtual address (R228); in weight-driven mode (R224) -/
  | paged (va : Nat) (mode : Bool)
  /-- sealing (R285) -/
  | sealing
  deriving DecidableEq, Repr

/-- A context (05 R99). -/
structure Ctx where
  /-- reset free -/
  run : Run := .free
  /-- names the activation in the context; the model's own (log 1) -/
  actId : Nat := 0
  /-- the message that started the activation, kept for redelivery (R61) -/
  msg : Msg := {}
  /-- its entry was stolen (R344) -/
  stolen : Bool := false
  /-- the class is idempotent, as the dispatch found it (R49) -/
  idem : Bool := false
  /-- a completion activation (R272) -/
  completion : Bool := false
  /-- 64 bits (R21); DESIGN CHOICE 0 (log 5) -/
  pc : DWord := 0
  /-- w0-w23 (R55); DESIGN CHOICE 0 (log 5) -/
  w : Vector DWord 24 := Vector.replicate 24 0
  /-- the resident frames below the window, the caller's first: each two octets (R55, R56) -/
  below : List (Vector DWord 16) := []
  /-- DEPTH (R77) -/
  depth : DWord := 0
  /-- g0-g7 (R9); g0 is never read -/
  g : Vector DWord 8 := Vector.replicate 8 0
  /-- p0-p15 (R163) -/
  p : Vector PReg 16 := Vector.replicate 16 {}
  /-- v0-v31 (R9) -/
  v : Vector V512 32 := Vector.replicate 32 0
  /-- m0-m7 (R9); m0 is never read -/
  m : Vector (BitVec 16) 8 := Vector.replicate 8 0
  /-- tm0-tm7 (R149); all zero is invalid -/
  tm : Vector V512 8 := Vector.replicate 8 0
  /-- the bindings of v24-v31 (R270) -/
  strm : Vector (Option Stream) 8 := Vector.replicate 8 none
  /-- codes of w and g registers whose atomic reply is to come (R329): index in the window's stack -/
  replies : List Nat := []
  /-- AMOFADDs whose reply is to come (R90) -/
  fadds : Nat := 0
  /-- the number of its latest atomic with .acq (R386); the model's own (log 4) -/
  acq : Option Nat := none
  /-- EVT (R85) -/
  evt : Bool := false
  /-- S (R92) -/
  sig : BitVec 24 := 0
  /-- SV (R231) -/
  sv : Bool := true
  /-- YIELD (R84): contexts that have yet to issue, and the ck left -/
  yieldTo : List Nat := []
  yieldCk : Nat := 0
  /-- the stall identity under which the next unit was last found not ready (R337) -/
  blocked : Option Nat := none
  /-- what the home granted to the waiting access that re-issues now (R182) -/
  latch : Option (List Nat) := none
  /-- its next unit is a SIFT that has met a running sift of the pad (R335); the model's own (log 41) -/
  metSift : Bool := false
  /-- CLASSNO -/
  classno : BitVec 8 := 0
  /-- ROUTETAG -/
  routetag : BitVec 32 := 0
  /-- WUID -/
  wuid : BitVec 24 := 0
  /-- PRIO -/
  prio : BitVec 6 := 0
  /-- SENDER -/
  sender : BitVec 22 := 0
  /-- MSGLEN, 0-256 -/
  msglen : BitVec 9 := 0
  /-- REDEL -/
  redel : BitVec 2 := 0
  /-- ACTSTAT.MODE -/
  mode : Bool := false
  /-- ACTSTAT.OC -/
  oc : Bool := false
  /-- ACTSTAT.TS -/
  ts : Bool := false
  /-- ACTSTAT.HND -/
  hnd : Bool := false
  /-- the mode saved at trap entry (R93) -/
  savedMode : Bool := false
  /-- ACTSTART -/
  actstart : DWord := 0
  /-- the message's enqueue stamp (R342) -/
  enq : DWord := 0
  /-- the stamp of its dispatch into this context, which R345's times count from; the model's own (log 1) -/
  disp : DWord := 0
  /-- HBUDGET (R65) -/
  hbudget : DWord := 0
  /-- FEXC [4:0] (R124), reset 0 -/
  fexc : BitVec 5 := 0
  /-- SRSEED (R123) -/
  srseed : DWord := 0
  /-- RANGEFLAG (R168), reset 0 -/
  rangeflag : DWord := 0
  /-- RANGECTL [0] -/
  rangectl : Bool := false
  /-- WAITBUDGET (R181) -/
  waitbudget : DWord := 0
  /-- ABFTTOL (R232) -/
  abfttol : DWord := 0
  /-- JOBDONE (R272) -/
  jobdone : DWord := 0
  /-- LCOUNT (R80) -/
  lcount : BitVec 32 := 0
  /-- LSTART -/
  lstart : DWord := 0
  /-- LEND -/
  lend : DWord := 0
  /-- WB (R209), reset 0 -/
  wb : DWord := 0
  /-- WP (R209), reset 0 -/
  wp : DWord := 0
  /-- WDQ's end, bop, reason and nblk (R222), reset 0 -/
  wdEnd : BitVec 3 := 0
  wdBop : BitVec 8 := 0
  wdReason : BitVec 4 := 0
  wdNblk : BitVec 32 := 0
  /-- SPILLTOP (R56) -/
  spilltop : DWord := 0
  /-- SPILLCAP (R57) -/
  spillcap : DWord := 0
  /-- the spill-object pointer (R57) -/
  spill : PReg := {}
  /-- TRAPCAUSE -/
  trapcause : BitVec 8 := 0
  /-- TRAPPC -/
  trappc : DWord := 0
  /-- TRAPINST -/
  trapinst : BitVec 32 := 0
  /-- TRAPVAL -/
  trapval : DWord := 0
  /-- TRAPVEC [15:0] -/
  trapvec : BitVec 16 := 0
  /-- TRAPPTR -/
  trapptr : BitVec 5 := 0
  /-- the outbox, oldest first (R60) -/
  outbox : List OutMsg := []
  /-- a pre-emption request to take; true: by priority (R280, R287 why) -/
  request : Option Bool := none
  /-- saving (R284), and the ck at which the save timer started -/
  saving : Bool := false
  saveSince : Nat := 0
  /-- joined to a sheet with this descriptor (R275), and the number of SHMMAs issued -/
  sheet : Option DWord := none
  sheetN : Nat := 0
  /-- objects held by ACQ, in order (R194) -/
  holds : List PReg := []
  /-- the launch's hardware queue slot (R280) -/
  slot : BitVec 7 := 0
  /-- the partition of its launch's queue (R297) and the number of the launch (R374) -/
  part : BitVec 4 := 0
  launch : Nat := 0
  /-- the pads' bump pointers at the activation's start (R61): (place, bump) -/
  marks : List (Nat × Nat) := []
  /-- footprints that the activation allocated (R61) -/
  news : List Nat := []
  /-- STALL0-63 (R339); DESIGN CHOICE 0 (log 5) -/
  stalls : SMap DWord := []
  /-- the counters as latched at dispatch (R340) -/
  stallsAt : SMap DWord := []
  deriving DecidableEq, Repr

/-! ## Cores -/

/-- A slot of a queue register (R106): filled, or reserved by a context's issued unit. -/
inductive QSlot (α : Type) where
  | filled (x : α)
  | reserved (ctx : Nat)
  deriving DecidableEq, Repr

/-- A queue register (R105, R106): its slots, head first, and the context that reserved the head. -/
structure Queue (α : Type) where
  slots : List (QSlot α) := []
  head : Option Nat := none
  deriving DecidableEq, Repr

/-- One direction of a core's mesh links (R107, R108): the incoming buffer, flits on their way into
it, and the context that claimed the direction. -/
structure Link where
  buf : List Flit := []
  flying : List Flit := []
  claim : Option (Fin 8) := none
  deriving DecidableEq, Repr

/-- An accumulator tile (R146, R147): 256 FP32 elements row-major, the row and column checksums, the
valid bit and the owner. -/
structure Tile where
  acc : BitVec 8192 := 0
  cr : V512 := 0
  cc : V512 := 0
  cv : Bool := true
  owner : Option (Fin 8) := none
  deriving DecidableEq, Repr

/-- An entry of the class table (R49); pend is computed from the held messages. -/
abbrev ClassEntry := BitVec 64

/-- A resume request (R291, R319): the slot, the restore routine's entry / 4, and the priority. byPrio
marks a request placed by the core itself (R319), with the context it came from. -/
structure ResumeReq where
  slot : PReg := {}
  ent : BitVec 14 := 0
  prio : BitVec 6 := 0
  byPrio : Option (Fin 8) := none
  deriving DecidableEq, Repr

/-- A completion activation to raise (R272): routine entry, job identifier, and the issuing
activation's header. -/
structure Completion where
  ent : BitVec 16 := 0
  job : DWord := 0
  msg : Msg := {}
  deriving DecidableEq, Repr

/-- What an entry of the run queue starts (R314). -/
inductive Work where
  | message (m : Msg)
  | completion (c : Completion)
  | resume (r : ResumeReq)
  deriving DecidableEq, Repr

/-- An entry of a run queue (R314): its effective priority, whether it needs context 7, its enqueue
stamp, whether a thief may take it (R320) or took it (R344), and the ck of its arrival (R323; the model's own, log 1). -/
structure Entry where
  prio : BitVec 6 := 0
  hnd : Bool := false
  work : Work
  stamp : DWord := 0
  stealable : Bool := false
  stolen : Bool := false
  came : Nat := 0
  deriving DecidableEq, Repr

/-- The atomic operations (R330). -/
inductive AmoOp where
  | add | fadd | min | max | swp | cas | and | or | xor
  deriving DecidableEq, Repr

/-- An operation on its way to an owner's handler queue (R323). reply is the register, by its place in the window's
stack (g registers above them), or none; part and launch are the issuing activation's. -/
inductive HOp where
  | amo (op : AmoOp) (ty : Fin 4) (ptr : PReg) (x e : DWord) (reply : Option Nat) (part launch : Nat)
  | arrive (launch : Nat) (g : BitVec 8) (gen : Word) (wuid : BitVec 24)
  deriving DecidableEq, Repr

/-- A remote matrix command (R159, R160): the block's 192 bytes, its pointers, the map bases moved so
far, repeats done, and the done word's place. -/
structure MCmd where
  blk : List Byte := []
  pa : PReg := {}
  pb : PReg := {}
  repeats : Nat := 0
  finished : Nat := 0
  done : PReg := {}
  key : BitVec 32 := 0
  /-- who issued it -/
  core : Nat := 0
  ctx : Fin 8 := 0
  actId : Nat := 0
  part : BitVec 4 := 0
  /-- the target lies outside the sender's cluster -/
  away : Bool := false
  /-- the tile that it waits for has lost its owner since it was accepted (R285): it is refused -/
  lost : Bool := false
  deriving DecidableEq, Repr

/-- What a refusable request carries (R326). -/
inductive Load where
  | message (o : OutMsg)
  /-- a launch's initial message (R373) -/
  | initial (o : OutMsg)
  | handler (op : HOp)
  | matrix (c : MCmd)
  | hostQueue (h : Nat) (o : OutMsg)
  deriving DecidableEq, Repr

/-- Where a request stands under R327. -/
inductive Standing where
  /-- behind an earlier request of its context to the same core, or on its way -/
  | sent
  /-- refused n times; presented again after its wait -/
  | refused (n : Nat)
  /-- holds a ticket -/
  | ticket (t : BitVec 32)
  /-- in the reservation queue -/
  | reserved
  /-- answered HELD by a halted die (R355) -/
  | held (n : Nat)
  deriving DecidableEq, Repr

/-- A refusable request in flight (R327): its number, its sender, the receiving core. -/
structure Req where
  id : Nat
  core : Nat
  ctx : Fin 8
  actId : Nat
  dst : Nat
  load : Load
  prio : BitVec 6 := 0
  standing : Standing := .sent
  /-- the ck at which it comes to its receiver (R238) -/
  due : Nat := 0
  /-- it releases: an atomic with .rel, or an arrival of GBAR (R386) -/
  rel : Bool := false
  deriving DecidableEq, Repr

/-- The reservations of one resource (R327): the queue of 16, the ticket and the serving counter. -/
structure Resv where
  queue : List Nat := []
  ticket : BitVec 32 := 0
  serving : BitVec 32 := 0
  deriving DecidableEq, Repr

/-- An operation in a handler queue (R323), with the number of its request, whether it releases (R386), and the ck of
its arrival (the model's own, log 1). -/
structure HEntry where
  id : Nat := 0
  prio : BitVec 6
  core : Nat
  ctx : Fin 8
  actId : Nat
  op : HOp
  rel : Bool := false
  came : Nat := 0
  deriving DecidableEq, Repr

/-- A trace record that waits to be written (R346). own names, of a record that TRACE made, the activation and the
number of the next request at its issue (R380, log 4). -/
structure TraceRec where
  bits : BitVec 256
  own : Option (Nat × Nat) := none
  deriving DecidableEq, Repr

/-- The operand buffer (R154): the MLD's pointer, the place of its first byte, and its map, the rows filled and the rows
to fill; wrong lists bits of it that a silent injection has flipped (R235). -/
structure OpBuf where
  ptr : PReg
  place : Nat := 0
  map : V512
  filled : Nat := 0
  rows : Nat
  wrong : List Nat := []
  deriving DecidableEq, Repr

/-- An atomic's reply on its way (R329, R331): the requester, its register, the old value, the flags,
whether it is AMOFADD's, and whether the word was poisoned (R233). -/
structure Answered where
  ctx : Fin 8
  actId : Nat
  slot : Nat
  value : DWord
  flags : BitVec 5 := 0
  fadd : Bool := false
  bad : Bool := false
  deriving DecidableEq, Repr

/-- A pre-emption by the supervisor in force on a core (R280, R292): the launch slot, the contexts
that received it, and those that have sealed or been killed. -/
structure Preempting where
  slot : BitVec 7
  got : List Nat := []
  sealed : BitVec 8 := 0
  killed : BitVec 8 := 0
  deriving DecidableEq, Repr

/-- A breakpoint stop's cause (R352). -/
structure StopCause where
  bph : Bool := false
  bpi : BitVec 2 := 0
  entry : Option Entry := none
  deriving DecidableEq, Repr

/-- A thief's state (R320): the next core to probe, failed probes in a row, backing off, and an
accepted message on its way. -/
structure Thief where
  next : Nat := 1
  failed : Nat := 0
  backing : Bool := false
  coming : List Entry := []
  deriving DecidableEq, Repr

/-- A core (R99). -/
structure Core where
  ctxs : Vector Ctx 8 := Vector.replicate 8 {}
  /-- the round-robin pointer, reset 7 (R100) -/
  last : Fin 8 := 7
  /-- the source that its crossbar port served last (R238): a core of the cluster, or 19, the die port; DESIGN CHOICE 19
  (log 5) -/
  port : Nat := 19
  /-- an activation in context 7 has issued a unit since the last operation was served (R323) -/
  owes : Bool := false
  /-- q0-q3 and q4-q7 (R105) -/
  qs : Vector (Queue DWord) 4 := Vector.replicate 4 {}
  qv : Vector (Queue V512) 4 := Vector.replicate 4 {}
  /-- N, E, S, W (R107) -/
  links : Vector Link 4 := Vector.replicate 4 {}
  /-- c0-c3 (R146) -/
  tiles : Vector Tile 4 := Vector.replicate 4 {}
  /-- the class table, reset 0 (R49) -/
  classes : SMap ClassEntry := []
  /-- PANECFG0-7, reset fmt 0xF (R113) -/
  panes : Vector DWord 8 := Vector.replicate 8 15
  /-- messages of classes whose en is 0, in arrival order (R51) -/
  heldMsgs : List Msg := []
  /-- the run queue, highest priority first (R314) -/
  runq : List Entry := []
  /-- held resume requests: through the management interface, and for priority (R315) -/
  resumeHeld : Option ResumeReq := none
  resumePrio : List ResumeReq := []
  /-- the handler queue's operations (R323) -/
  handler : List HEntry := []
  /-- remote matrix commands accepted, the first in progress (R161) -/
  cmds : List MCmd := []
  /-- replies of atomics on their way to this core's contexts, in order -/
  answers : List Answered := []
  /-- reservations at the input buffer, the handler queue and the command queue (R326) -/
  resvIn : Resv := {}
  resvHnd : Resv := {}
  resvCmd : Resv := {}
  /-- stored words whose code is in error (R235): array, index, and whether it is uncorrectable -/
  flips : List (Nat × Nat × Bool) := []
  /-- the operand buffer (R154) -/
  opbuf : Option OpBuf := none
  /-- the context that holds the weight buffer (R218) -/
  wbuf : Option (Fin 8) := none
  /-- hatch limits of the own half's and the other half's unit, reset 64 (R265) -/
  hatch : Vector (BitVec 7) 2 := Vector.replicate 2 64
  /-- the trace buffer (R346) -/
  tbuf : List TraceRec := []
  /-- a pending timer (R350) -/
  timer : Bool := false
  /-- the breakpoint that the next dispatch passes over (R352) -/
  passBp : Option (BitVec 2) := none
  stopCause : StopCause := {}
  /-- a core stop asked for and complete (R352) -/
  stopping : Bool := false
  stopped : Bool := false
  thief : Thief := {}
  preempts : List Preempting := []
  /-- requests of the supervisor that a stopped core holds (R353) -/
  heldPreempts : List (BitVec 7) := []
  /-- RUNCK, SEARCHCK, IDLECK (R341); DESIGN CHOICE 0 (log 5) -/
  runck : DWord := 0
  searchck : DWord := 0
  idleck : DWord := 0
  deriving DecidableEq, Repr

/-! ## Clusters -/

/-- A copy job (R258-R274). elem is the next element of the tile in pattern order, tiles the tiles
completed; finished says that its last write is performed, and doneAt when its completion actions are due.
olds holds the original bytes of source bytes that it has overwritten itself (R264). -/
structure Job where
  /-- its number in its unit (R258) -/
  num : Nat := 0
  core : Nat := 0
  ctx : Fin 8 := 0
  actId : Nat := 0
  part : BitVec 4 := 0
  /-- bits [1023:384] of the snapshot, with the three pointers apart (R259) -/
  blk : BitVec 1024 := 0
  src : PReg := {}
  dst : PReg := {}
  rise : PReg := {}
  guard : Word := 0
  /-- the header of the issuing activation (R272) -/
  msg : Msg := {}
  tiles : Nat := 0
  elem : Nat := 0
  rng : Bool := false
  finished : Bool := false
  doneAt : Nat := 0
  /-- the ck from which data may move (R279) -/
  startAt : Nat := 0
  olds : List Host.Cell := []
  /-- stop at the end of the current tile, and report this state (R274) -/
  stopAt : Option (BitVec 3) := none
  deriving DecidableEq, Repr

/-- A COPY waiting for acceptance (R258, R261); waits says that it has found no entry of the job queue free. -/
structure CopyReq where
  core : Nat
  ctx : Fin 8
  actId : Nat
  p : Fin 16
  guard : Word
  waits : Bool := false
  deriving DecidableEq, Repr

/-- An entry of a unit's parameter-block cache (R262): of a pointer that reaches len of the 128 bytes. -/
structure CacheLine where
  key : Nat
  version : BitVec 16
  len : Nat
  blk : BitVec 1024
  src : PReg
  dst : PReg
  rise : PReg
  deriving DecidableEq, Repr

/-- A copy unit (R258): requests, accepted jobs oldest first, the next sequence number, the cache most
recent first, the reports of its 64 last jobs, completion activations held (R314), and the jobs of saving
activations that have stopped and wait for their records (R285). -/
structure CopyUnit where
  reqs : List CopyReq := []
  jobs : List Job := []
  num : Nat := 0
  cache : List CacheLine := []
  report : List (Nat × DWord) := []
  held : List (Nat × Completion) := []
  stopped : List Job := []
  turn : Nat := 0
  lastCore : Nat := 0
  deriving DecidableEq, Repr

/-- The block header of R240. -/
structure BlkHdr where
  sect : BitVec 19 := 0
  n : BitVec 3 := 0
  sch : Bool := false
  z : Bool := true
  deriving DecidableEq, Repr

/-- An expander entry (R245): the logical block and whether it is dirty. -/
structure ExpEntry where
  blk : Nat
  dirty : Bool
  deriving DecidableEq, Repr

/-- The pad registers of R169 and R296, with the ownership register. -/
structure PadRegs where
  lo : Nat := 0
  hi : Nat := 0
  hwm : Nat := 0
  bump : Nat := 0
  pinLo : Nat := 0
  pinHi : Nat := 0
  pinBump : Nat := 0
  rootTab : Nat := 0
  owner : BitVec 5 := 0
  /-- census: live, pin, time (R303) -/
  live : BitVec 40 := 0
  pin : BitVec 40 := 0
  time : DWord := 0
  deriving DecidableEq, Repr

/-- A write of four bits by a copy job on its way to a core's pad (R186): the pointer and the byte offset, the
half, the value, the full/empty bit that its word gets, and whether the value is poisoned; the job, and the number of
the first element of its beat. -/
structure SubByte where
  ptr : PReg
  part : Nat
  off : Nat
  high : Bool
  value : BitVec 4
  fe : Option Bool
  bad : Bool
  unit : Nat
  num : Nat
  beat : Nat := 0
  deriving DecidableEq, Repr

/-- A sheet partial on its way to member (r, 0) (R277): slice number and 256 FP32 elements. -/
structure Partial where
  core : Nat
  slice : Nat
  acc : BitVec 8192
  deriving DecidableEq, Repr

/-- A cluster (11). -/
structure Cluster where
  units : Vector CopyUnit 2 := Vector.replicate 2 {}
  pad : PadRegs := {}
  /-- the block table's coding fields; fe, tag and poi lie in the memory (R240) -/
  blocks : SMap BlkHdr := []
  /-- sectors in use (R241) -/
  sectors : NSet := []
  /-- sectors, and headers of blocks, whose code has an uncorrectable error (R248) -/
  badSect : NSet := []
  badHdr : NSet := []
  /-- the expander, most recent first (R245) -/
  exp : List ExpEntry := []
  /-- blocks whose write-back found no frame (R241) -/
  held : List Nat := []
  /-- the pad's sift runs, which reaches held blocks; within a step only (log 23) -/
  sifting : Bool := false
  cluerr : DWord := 0
  capfault : BitVec 32 := 0
  partials : List Partial := []
  deriving DecidableEq, Repr

/-! ## Dies -/

/-- A cached translation (R306): partition, page number (64 KiB units of the 41-bit offset), and the
leaf entry found. -/
structure TEntry where
  part : Nat
  page : Nat
  big : Bool
  leaf : BitVec 64
  deriving DecidableEq, Repr

/-- Who waits for a page (R307): an activation, a store made by one and not performed yet, a copy job,
a sift, a landing step (R413), or the load engine. -/
inductive PageWaiter where
  | act (core : Nat) (ctx : Fin 8) (actId : Nat)
  | store (core : Nat) (ctx : Fin 8) (actId : Nat) (va : Nat) (data : List Byte) (fe : Option Bool)
  | job (unit num : Nat)
  /-- the sift of pad lost; again is the pad whose event runs it, where no unit does -/
  | sift (lost : Nat) (again : Option Nat)
  | landing (route : Nat)
  | load
  /-- a write that an engine has posted -/
  | post
  deriving DecidableEq, Repr

/-- An entry of a fault list (R307): partition, page, attribute needed (bit of R306) and the waiter. -/
structure PageFault where
  part : Nat
  page : Nat
  need : Nat
  who : PageWaiter
  deriving DecidableEq, Repr

/-- A memory stack with its translation unit (R305-R309): arenas and roots by partition, the cache,
the fault list, and accesses that found it full. -/
structure Stack where
  hbump : SMap Nat := []
  hend : SMap Nat := []
  turoot : SMap DWord := []
  cache : List TEntry := []
  faults : List PageFault := []
  waiting : List PageFault := []
  deriving DecidableEq, Repr

/-- A die (14-16). -/
structure Die where
  /-- the fuse that says that the upper SRAM die is present (R359); DESIGN CHOICE present (log 12) -/
  upper : Bool := true
  /-- DREG0-7 (R296) -/
  regs : Vector PadRegs 8 := Vector.replicate 8 {}
  stks : Vector Stack 3 := Vector.replicate 3 {}
  /-- the next stack of the rotation, by partition (R305) -/
  rotate : SMap Nat := []
  /-- DIECMD, reset 0 (R311) -/
  cmd : DWord := 0
  /-- DIEDBG, reset 0 (R354) -/
  dbg : DWord := 0
  /-- the ck at which the die was halted; the model's own (log 1) -/
  haltedAt : Nat := 0
  /-- DIEHND, reset 0 (R322) -/
  hnd : DWord := 0
  /-- the supervisor queue (R403) -/
  sqbase : PReg := {}
  sqhead : DWord := 0
  sqtail : DWord := 0
  sqovf : DWord := 0
  /-- page requests and reports held while the supervisor queue is full (R403) -/
  sqheld : List (List Byte) := []
  /-- PAGEANS (R403) -/
  pageans : DWord := 0
  deriving DecidableEq, Repr

/-! ## The package -/

/-- The steps of a load (R361): what the engine does next. -/
inductive LoadStep where
  | header
  | object (k : Nat)
  | reloc (k : Nat)
  | cores
  | finished
  deriving DecidableEq, Repr

/-- A load in progress (R361): its step, the pointers of the objects built, and the cores still to
load. -/
structure Loading where
  step : LoadStep := .header
  objs : List PReg := []
  cores : List Nat := []
  deriving DecidableEq, Repr

/-- How far a launch has come (R373). -/
inductive LaunchPhase where
  /-- a START read, waiting for its wait word -/
  | waits
  /-- its wait is over, and its snapshot is made -/
  | reads
  /-- validated, placing WUIDs from this one -/
  | placing (next : Nat)
  /-- every message placed, or the rest dropped -/
  | placed
  deriving DecidableEq, Repr

/-- A launch in flight (R373, R374): its identifier, slot, queue and partition, the block snapshot (192
bytes with its seven pointers, none until it is made), messages placed, activations started and not ended, ends counted, FP
flags, and the status a CANCEL gave. -/
structure Launch where
  uid : Nat
  id : BitVec 42
  slot : BitVec 7
  queue : Nat
  part : Nat
  blk : List Byte := []
  ptrs : List PReg := []
  phase : LaunchPhase := .waits
  /-- the pointer to its block, as its packet gave it -/
  blkptr : PReg := {}
  /-- as its start found them: the core mask of its queue, the dwords of its placement table, and its payload template
  (R370, R373) -/
  mask : BitVec 1024 := 0
  places : List Nat := []
  pay : List Byte := []
  nplaced : Nat := 0
  unaccepted : Nat := 0
  active : Nat := 0
  completed : Nat := 0
  killed : Nat := 0
  rolled : Nat := 0
  sealed : Nat := 0
  fp : BitVec 5 := 0
  cancelled : Option (BitVec 3) := none
  /-- its packet was read from the ring, and not cancelled in it (R375, R378) -/
  read : Bool := true
  startTime : DWord := 0
  deriving DecidableEq, Repr

/-- A group record (R333): the member set's size and terms (first, last, stride; R372), arrivals, generation,
strays, and the waiters. -/
structure Group where
  terms : List (Nat × Nat × Nat) := []
  members : BitVec 25 := 0
  arrived : BitVec 25 := 0
  gen : BitVec 32 := 0
  stray : BitVec 32 := 0
  waiters : List (Nat × Fin 8 × Nat) := []
  deriving DecidableEq, Repr

/-- A hardware slot (R371): the queue it serves, its effective priority, the time it was mapped, the
last core a placement used, and its stall totals (R340). -/
structure Slot where
  queue : Option Nat := none
  part : BitVec 4 := 0
  eff : Nat := 0
  since : DWord := 0
  lastCore : Nat := 1023
  totals : SMap DWord := []
  deriving DecidableEq, Repr

/-- A host write at the ordering point (R368), or a host read that waits there: its offset in BAR4 or in BAR2, its
bytes or the number it reads, the window's pointer and control as it entered (R412), its route if it has one, and how
many of its bytes have landed. -/
structure HostWrite where
  bar4 : Bool
  off : Nat
  data : List Byte := []
  read : Option Nat := none
  /-- the item of R96 that a read in BAR2 names (R353) -/
  item : Option (BitVec 64) := none
  /-- the offset is in BAR0 (R415) -/
  bar0 : Bool := false
  poisoned : Bool := false
  ptr : PReg := {}
  ctl : DWord := 0
  route : Option (Fin 5) := none
  released : Bool := false
  /-- the bytes that its window's pointer reached as it was released -/
  total : Nat := 0
  landed : Nat := 0
  deriving DecidableEq, Repr

/-- A host queue (R369). -/
structure HostQueue where
  base : DWord := 0
  size : DWord := 0
  head : DWord := 0
  tail : DWord := 0
  key : DWord := 0
  resv : Resv := {}
  deriving DecidableEq, Repr

/-- A fabric port (R417-R424): its register FPORT, trained or not, the credits held of each class
(none until the advertisement), the counts freed and reported, flits waiting, the replay buffer of sent
flits, the next sequence number, and the one expected. waiting holds, of messages, the bytes that are to be packed. -/
structure Port where
  reg : DWord := 0
  adv : Bool := false
  credit : Vector Nat 2 := Vector.replicate 2 0
  seen : Vector (BitVec 16) 2 := Vector.replicate 2 0
  freed : Vector (BitVec 16) 2 := Vector.replicate 2 0
  told : Vector (BitVec 16) 2 := Vector.replicate 2 0
  waiting : List (BitVec 2 × List Byte) := []
  replay : List (List Byte) := []
  seq : BitVec 16 := 0
  seqIn : BitVec 16 := 0
  /-- by source package, the bytes of a message that continues in its next flit -/
  rest : SMap (List Byte) := []
  deriving DecidableEq, Repr

/-- A message on its way to another package (R420, R421, R428): the pair it belongs to, the port it
took, its peer number on the scale-out path, whether it has been sent, whether no answer has come since (R424), and
refusals met. -/
structure Remote where
  id : Nat
  core : Nat
  ctx : Fin 8
  actId : Nat := 0
  dst : BitVec 22
  msg : Msg
  handler : Bool := false
  port : Option Nat := none
  peer : Option Nat := none
  sent : Bool := false
  flying : Bool := false
  refusals : Nat := 0
  deriving DecidableEq, Repr

/-- A scale-out connection (R428): the next sequence number to send and to deliver, packets sent and
not acknowledged with their resends, packets held out of order, and marked down. -/
structure Peer where
  nextSeq : BitVec 32 := 0
  expect : BitVec 32 := 0
  sent : List (BitVec 32 × Nat × List Byte) := []
  ahead : List (BitVec 32 × Packet) := []
  down : Bool := false
  turn : Nat := 0
  deriving DecidableEq, Repr

/-- What the package hands to its surroundings, oldest first (00 R1): frames for a port, interrupts,
answers to host reads, writes to host memory, and packets for an Ethernet port. -/
inductive Outward where
  | flit (port : Nat) (bytes : List Byte)
  | packet (port : Nat) (bytes : List Byte)
  /-- a vector of the MSI-X table, with its entry's address and data (R415) -/
  | msix (vector addr : Nat) (data : BitVec 32)
  | readData (bytes : List Byte)
  | hostMem (addr : Nat) (bytes : List Byte)
  /-- the PWRGOOD signal changes (R363) -/
  | pwrgood (on : Bool)
  /-- an Unsupported Request (R360) -/
  | unsupported
  deriving DecidableEq, Repr

/-- A checkpoint command under way (R407): 1 save, 2 restore; of a save, the bytes of its last segment that are
not sent yet, the segments sent, and the digest of the image. -/
structure Checkpoint where
  cmd : BitVec 2
  /-- the timestamp of its start -/
  since : DWord := 0
  tail : List Byte := []
  segments : Nat := 0
  digest : BitVec 384 := 0
  deriving DecidableEq, Repr

/-- The package (18-22). -/
structure Package where
  /-- the 64-bit timestamp counter (R366); DESIGN CHOICE 0 (log 5) -/
  time : DWord := 0
  /-- CLKCTL.step and CLKSTAT, reset 0; a write waiting for the handshake to end (R364, R365) -/
  clkstep : BitVec 5 := 0
  clkstat : DWord := 0
  clkPending : Bool := false
  /-- the step that the handshake under way moves to -/
  clkgoal : BitVec 5 := 0
  /-- QTBASE, and the other launch registers (R360) -/
  qtbase : PReg := {}
  qdoor : DWord := 0
  precmd : DWord := 0
  cancelq : DWord := 0
  abandon : PReg := {}
  premask : BitVec 1024 := 0
  /-- slots 0-127 (R371) and the launches in flight -/
  slots : SMap Slot := []
  launches : List Launch := []
  launchNext : Nat := 1
  /-- since when each queue without a slot has work (R371) -/
  ageing : SMap DWord := []
  /-- the record of each queue's most recent START (R375) -/
  records : SMap (Nat × PReg) := []
  /-- sealed activations: the place of the frame, the launch (R374), the partition, and the activation; the model's own
  (log 1) -/
  sealed : List (Nat × Nat × Nat × Nat) := []
  groups : SMap Group := []
  /-- placement turn of the launch engine (R373) -/
  placeTurn : Nat := 0
  /-- BOOTSTAT, reset 0 (R398) -/
  bootstat : DWord := 0
  /-- the running images' digests of stages 1-3 (R401) -/
  images : Vector (BitVec 384) 3 := Vector.replicate 3 0
  /-- ALARMCTL, reset levels 1, 1, 1, 2, 2, 1 (R404) -/
  alarmctl : DWord := 0x695
  alarmlog : DWord := 0
  /-- ATTADDR, ATTCMD (R401) -/
  attaddr : DWord := 0
  attcmd : DWord := 0
  pkgerr : DWord := 0
  /-- CKPTCMD (R407) -/
  ckptcmd : DWord := 0
  ckpt : Option Checkpoint := none
  /-- PWRLIM, reset 2,000; PWRSTAT, step p and ms below the limit (R409) -/
  pwrlim : BitVec 12 := 2000
  pwravg : BitVec 12 := 0
  pwrp : BitVec 5 := 0
  pwrn : BitVec 32 := 0
  pwrlow : Nat := 0
  /-- RCVADDR, RCVLEN, RCVCMD, RCVSTAT (R399) -/
  rcvaddr : DWord := 0
  rcvlen : DWord := 0
  rcvcmd : DWord := 0
  rcvstat : DWord := 0
  /-- PKGID, reset 0; PKGMAP (R416) -/
  pkgid : BitVec 9 := 0
  pkgmap : BitVec 288 := 0
  ports : Vector Port 36 := Vector.replicate 36 { reg := 0x180000000000 }
  /-- EPORT0-15 (R426) -/
  eports : Vector DWord 16 := Vector.replicate 16 0
  /-- DDLINK0-15: thr 0x18, en reads 1 (R423) -/
  ddlinks : Vector DWord 16 := Vector.replicate 16 0x180000000008
  sotbase : PReg := {}
  ckpttgt : PReg := {}
  /-- SOCTL: 0x4C42, 9,000, 50 (R426) -/
  soctl : DWord := 0x0000003223284C42
  remotes : List Remote := []
  /-- end-to-end answers that wait for a port that is up: destination package, kind and body (R421) -/
  answersOut : List (Nat × Nat × List Byte) := []
  /-- the last message of each pair of another package that came into an input buffer: sending core and context,
  receiving core, and number (R424) -/
  landedFrom : List (Nat × Fin 8 × Nat × Nat) := []
  /-- faster steps asked for, which wait for the end of the link's window (R425) -/
  stepAsk : SMap (BitVec 2) := []
  peers : SMap Peer := []
  /-- LDMASK, LDIMG, LDCMD (R361) -/
  ldmask : BitVec 1024 := 0
  ldimg : PReg := {}
  ldcmd : DWord := 0
  loading : Option Loading := none
  /-- data windows: pointer and control (R367) -/
  windows : SMap (PReg × DWord) := []
  /-- the ordering point's queue, oldest first (R368) -/
  orderQ : List HostWrite := []
  /-- host queues (R369) -/
  hostq : SMap HostQueue := []
  /-- BAR0: the dwords of the MSI-X table, and the vectors pending (R415, log 50) -/
  msixTab : SMap (BitVec 32) := []
  pba : NSet := []
  /-- fuses: key hashes by slot, revocation bits, anti-rollback count (R398), identity seed (R400) -/
  keys : Vector (BitVec 768) 4 := Vector.replicate 4 0
  revoked : BitVec 4 := 0
  antiroll : BitVec 8 := 0
  seed : BitVec 384 := 0
  /-- the module flash's images of stages 1-3 (R397) -/
  flash : List (List Byte) := []
  /-- the certificates of the identity keys, in the flash (R400); DESIGN CHOICE none (log 12) -/
  certs : List Byte := []
  /-- the volatile identity private keys, by the seed that boot has derived them from (R400, R402) -/
  identity : Option (BitVec 384) := none
  /-- main power holds (R363) -/
  powered : Bool := true
  outward : List Outward := []
  deriving DecidableEq, Repr

/-! ## Memory -/

/-- Bytes, full/empty bits, tags and poison marks (R180, R165, R233), in canonical form: an unlisted
byte reads 0 and an unlisted word is empty, untagged and clean (R405, log 8). A byte's number is 2^46
times its space plus its locator; a word's is a quarter of its first byte's, a granule's a sixteenth.
Spaces: 0-1023 local stores, 1024-1087 cluster pads, 2048-2051 die pads, 3072-3083 stks, 4096-5119
routine stores. starts holds the first bytes of footprints, divided by 32 (R166); a heap footprint is
listed in the virtual space 8192 + partition. fwd names where a forwarded footprint is now, and where a
risen one came from (log 6). -/
structure Memory where
  bytes : List Host.Cell := []
  full : NSet := []
  tags : NSet := []
  poison : NSet := []
  starts : NSet := []
  fwd : SMap Nat := []
  deriving DecidableEq, Repr

/-- A parked access in a home's node table (R183, R184), in arrival order: the context, the footprint whose
list it is on, and the node's index in the table, from 1 (R166). -/
structure Node where
  core : Nat
  ctx : Fin 8
  foot : Nat
  idx : Nat := 0
  deriving DecidableEq, Repr

/-- Sifts, or an escape, that wait for their drain or for a heap page (R177, R302): the pads, innermost first, and
the context whose unit runs them, if one does. -/
structure Sifting where
  pads : List Nat
  owner : Option (Nat × Fin 8) := none
  deriving DecidableEq, Repr

/-- What a posted write of an engine does: it stores its bytes; it releases the hold (R194) of a holder, once the atomics
and the trace records of an activation are performed (R386); or it marks the object at its pointer dead (R61). -/
inductive PostKind where
  | store
  | release (id act : Nat)
  | dead
  deriving DecidableEq, Repr

/-- A write by an engine that waits for its page, its block or its die (R307, R241, R355): the engine, whose
writes stay in order, the pointer with its partition, the offset, the bytes, and the full/empty bit that
their words get; what it does; and, of a record that TRACE made, whose it is. -/
structure Post where
  /-- 0 the launch engine, 1 to 1024 the trace buffers, 2048 + 8c + x context x of core c, 16384 + c core c's
  matrix unit, 65536 + n the supervisor's resume requests -/
  src : Nat
  ptr : PReg
  part : Nat
  off : Nat
  data : List Byte
  fe : Option Bool
  kind : PostKind := .store
  own : Option (Nat × Nat) := none
  deriving DecidableEq, Repr

/-! ## The whole state -/

/-- An event that the machine itself brings about later (log 1), with the numbers of the agent it happens
at: each names the event of the opcode table with the same name. -/
inductive Due where
  | dispatch (core : Nat)
  | linkFlit (core dir : Nat)
  | recheck (core ctx : Nat)
  | parkTimeout (core ctx : Nat)
  | groupRecheck (core ctx : Nat)
  | subByte
  | coreSift (core : Nat)
  | clusterSift (clu : Nat)
  | dieSift (die reg : Nat)
  | copyAccept (unit : Nat)
  | copyBeat (unit : Nat)
  | copyDone (unit : Nat)
  | strmRefill (core ctx x : Nat)
  | mldFill (core : Nat)
  | mcmdAccept (core : Nat)
  | mcmdRepeat (core : Nat)
  | sheetPair (core : Nat)
  | sheetMerge (core : Nat)
  | waitExpiry (core ctx : Nat)
  | preempt (slot core : Nat)
  | saveExpiry (core ctx : Nat)
  | seal (core ctx : Nat)
  | priority (core : Nat)
  | probe (core : Nat)
  | transfer (core : Nat)
  | backoff (core : Nat)
  | cancelq (v : BitVec 64)
  /-- a refusal reaches a waiter of a die that was halted (R307, R354) -/
  | refuse (f : PageFault)
  /-- the scrubber comes round in a local store that holds errors (R233) -/
  | patrol (core : Nat)
  | refusal (id : Nat)
  | ticket (id : Nat)
  | heldAgain (id : Nat)
  | atomicReply (core ctx : Nat)
  | message (core : Nat)
  | timer (core : Nat)
  | traceWrite (core : Nat)
  | stopDone (core : Nat)
  | faults (stk : Nat)
  | load
  | loadCore (core : Nat)
  | handshake
  | mapSlot
  | start (slot : Nat)
  | place (slot : Nat)
  | stop (slot : Nat)
  | launchDone (id : Nat)
  | release
  | landing (route : Nat)
  | ack (route : Nat)
  | hostQueue (h : Nat)
  | boot
  | offline (die : Nat)
  | credit (port : Nat)
  /-- the window of a link in which a faster step was asked for is over (R425) -/
  | stepApply (link : Nat)
  /-- a trip during a clock handshake retrains its link after it (R425) -/
  | retrain (link : Nat)
  | resend (peer : Nat) (seq : Nat)
  /-- posted writes of engines are tried again -/
  | posts
  deriving DecidableEq, Repr

/-- What a disturbance does to the code words that an event reads (R248, R295, R406): nothing, an error that the code
corrects, one that it does not correct, one of the latter in a running job's snapshot, or, of a block in a cluster pad,
errors in some sectors of its run and perhaps in its header (log 18). -/
inductive Upset where
  | none
  | corrected
  | lost
  | snapshot
  | block (bad : BitVec 8) (hdr : Bool)
  deriving DecidableEq, Repr

/-- What a management access reaches: the register at its offset (R360), the item of R96 that a selector names in the
core of its offset (R353), the fuses, which the management firmware blows on a supervisor command (R398, log 37), or
BAR0, where the offset lies in it (R415). -/
inductive Access where
  | register
  | item (sel : BitVec 64)
  | fuses
  | bar0
  deriving DecidableEq, Repr

/-- Who moves next (log 1): a due event, by its place in the list; the oldest input; or a core. -/
inductive Turn where
  | due (k : Nat)
  | input
  | core (c : Nat)
  deriving DecidableEq, Repr

/-- The whole machine, with the model's own scheduling fields (log 1): sched says which agent moves
next, pending holds events in progress with the ck they are due at, inputs what the surroundings present,
oldest first (log 12), upsets what disturbs the words that the next events read (log 18), accesses what the
next management accesses reach (log 37), ck counts steps, fresh feeds the free values (log 3), core and ctx name the
context that issues, coreTurn the core served last. -/
structure State where
  cores : SMap Core := []
  clusters : SMap Cluster := []
  dies : Vector Die 4 := Vector.replicate 4 {}
  pkg : Package := {}
  mem : Memory := {}
  nodes : List Node := []
  subs : List SubByte := []
  sifts : List Sifting := []
  posts : List Post := []
  reqs : List Req := []
  reqNext : Nat := 0
  /-- management registers at core scope, by byte offset in BAR2 (R360) -/
  mgmt : SMap DWord := []
  /-- pointer registers of the management interface that are tagged, by the low half's offset -/
  mtags : NSet := []
  actNext : Nat := 1
  sched : List Turn := []
  pending : List (Nat × Due) := []
  inputs : List Instr := []
  upsets : List Upset := []
  accesses : List Access := []
  ck : Nat := 0
  fresh : Nat := 0
  core : Nat := 0
  ctx : Fin 8 := 0
  coreTurn : Nat := 1023
  deriving DecidableEq, Repr

/-- The machine right after reset: every field at its reset value. -/
def State.reset : State := {}

end Sys2Proof.Machine
end

