-- ==== Sys2Proof/Machine/Mem.lean ====
section
/-! DEFINITION. Bit fields, little-endian bytes, the memory's own operations, object pointers (07
R163, R164) and object headers (R166). -/

namespace Sys2Proof.Machine

/-! ## Fields and bytes -/

/-- Bits [lo + n - 1 : lo] of a number. -/
def fld (x lo n : Nat) : Nat := x / 2 ^ lo % 2 ^ n

/-- x with bits [lo + n - 1 : lo] replaced by v. -/
def setFld (x lo n v : Nat) : Nat := x - fld x lo n * 2 ^ lo + v % 2 ^ n * 2 ^ lo

/-- Bit k of a number. -/
def bit (x k : Nat) : Bool := x / 2 ^ k % 2 == 1

/-- A number's n bytes, least significant first (R5). -/
def bytesOf : Nat → Nat → List Byte
  | 0, _ => []
  | n + 1, x => BitVec.ofNat 8 x :: bytesOf n (x / 256)

/-- The number of little-endian bytes (R5). -/
def natOf : List Byte → Nat
  | [] => 0
  | b :: bs => b.toNat + 256 * natOf bs

/-- Bytes lo to lo + n - 1 of a list, as a number; missing bytes read zero. -/
def leAt (bs : List Byte) (lo n : Nat) : Nat := natOf ((bs.drop lo).take n)

/-- Bit field [lo + n - 1 : lo] of bytes taken as one little-endian number. -/
def fldAt (bs : List Byte) (lo n : Nat) : Nat := fld (natOf bs) lo n

/-- A list of exactly n bytes: cut off, or filled with zeros. -/
def padTo (n : Nat) (bs : List Byte) : List Byte := bs.take n ++ List.replicate (n - bs.length) 0

/-- Numbers below n, rising. -/
def upTo (n : Nat) : List Nat := List.range n

/-! ## Spaces (R164, R309, R21) -/

/-- The size of one space in the memory's numbering. -/
def spaceSize : Nat := 2 ^ 46
/-- The local store of core c. -/
def localBase (c : Nat) : Nat := c * spaceSize
/-- The logical space of cluster k's pad. -/
def cluBase (k : Nat) : Nat := (1024 + k) * spaceSize
/-- The die pad of die d. -/
def dieBase (d : Nat) : Nat := (2048 + d) * spaceSize
/-- The physical data of stack s of die d. -/
def stackBase (d s : Nat) : Nat := (3072 + 3 * d + s) * spaceSize
/-- The routine store of core c. -/
def routineBase (c : Nat) : Nat := (4096 + c) * spaceSize
/-- The virtual heap addresses of partition p. -/
def heapBase (p : Nat) : Nat := (8192 + p) * spaceSize
/-- The space a number lies in. -/
def spaceOf (k : Nat) : Nat := k / spaceSize
/-- The locator within its space. -/
def locOf (k : Nat) : Nat := k % spaceSize
/-- The number lies in a heap's virtual space. -/
def isHeap (k : Nat) : Bool := 8192 ≤ spaceOf k

/-- The level of a space (R163). -/
def levelOf (k : Nat) : Nat :=
  let s := spaceOf k
  if s < 1024 then 0 else if s < 2048 then 1 else if s < 3072 then 2 else 3

/-- The die of a place. -/
def dieOf (k : Nat) : Nat :=
  let s := spaceOf k
  if s < 1024 then s / 256 else if s < 2048 then (s - 1024) / 16
  else if s < 3072 then s - 2048 else if s < 4096 then (s - 3072) / 3
  else locOf k / 2 ^ 43 % 4

/-- The cluster (0-63) of a place at level 0 or 1. -/
def cluOf (k : Nat) : Nat :=
  let s := spaceOf k
  if s < 1024 then s / 16 else s - 1024

/-! ## The memory's operations -/

/-- The byte at k. -/
def Memory.byte (m : Memory) (k : Nat) : Byte := SMap.get 0 m.bytes k

/-- The byte at k becomes b. -/
def Memory.setByte (m : Memory) (k : Nat) (b : Byte) : Memory :=
  { m with bytes := SMap.set 0 m.bytes k b }

/-- The n bytes from k. -/
def Memory.read (m : Memory) (k : Nat) : Nat → List Byte
  | 0 => []
  | n + 1 => m.byte k :: m.read (k + 1) n

/-- The bytes from k become bs. -/
def Memory.write (m : Memory) (k : Nat) : List Byte → Memory
  | [] => m
  | b :: bs => (m.setByte k b).write (k + 1) bs

/-- The full/empty bit of the word that holds byte k (R180). -/
def Memory.isFull (m : Memory) (k : Nat) : Bool := NSet.has m.full (k / 4)
/-- The full/empty bit of the word that holds byte k becomes b. -/
def Memory.setFull (m : Memory) (k : Nat) (b : Bool) : Memory :=
  { m with full := NSet.setTo m.full (k / 4) b }
/-- The tag of the granule that holds byte k (R165). -/
def Memory.isTagged (m : Memory) (k : Nat) : Bool := NSet.has m.tags (k / 16)
/-- The tag of the granule that holds byte k becomes b. -/
def Memory.setTag (m : Memory) (k : Nat) (b : Bool) : Memory :=
  { m with tags := NSet.setTo m.tags (k / 16) b }
/-- The poison mark of the granule that holds byte k (R233). -/
def Memory.isPoisoned (m : Memory) (k : Nat) : Bool := NSet.has m.poison (k / 16)
/-- The poison mark of the granule that holds byte k becomes b. -/
def Memory.setPoison (m : Memory) (k : Nat) (b : Bool) : Memory :=
  { m with poison := NSet.setTo m.poison (k / 16) b }

/-- The granules, by their first bytes, of the n bytes from k. -/
def granules (k n : Nat) : List Nat :=
  if n == 0 then [] else (upTo ((k + n - 1) / 16 - k / 16 + 1)).map fun i => (k / 16 + i) * 16

/-- The words, by their first bytes, of the n bytes from k. -/
def wordsOf (k n : Nat) : List Nat :=
  if n == 0 then [] else (upTo ((k + n - 1) / 4 - k / 4 + 1)).map fun i => (k / 4 + i) * 4

/-- A write of data (R165, R233): the bytes change, the tag of every granule touched is cleared, and a
granule written whole loses its poison. -/
def Memory.store (m : Memory) (k : Nat) (bs : List Byte) : Memory :=
  (granules k bs.length).foldl (fun m g =>
    let m := m.setTag g false
    if k ≤ g && g + 16 ≤ k + bs.length then m.setPoison g false else m) (m.write k bs)

/-- The n bytes from k become zero, empty, untagged and clean (R172). k and n are multiples of 16. -/
def Memory.wipe (m : Memory) (k n : Nat) : Memory :=
  { m with
    bytes := SMap.clear m.bytes k (k + n)
    full := NSet.clear m.full (k / 4) ((k + n) / 4)
    tags := NSet.clear m.tags (k / 16) ((k + n) / 16)
    poison := NSet.clear m.poison (k / 16) ((k + n) / 16) }

/-- The n bytes from dst become those from src, with their full/empty bits, tags and poison marks (R174
step 3). src, dst and n are multiples of 16. -/
def Memory.move (m : Memory) (src dst n : Nat) : Memory :=
  { m with
    bytes := SMap.copy m.bytes src dst n
    full := NSet.copy m.full (src / 4) (dst / 4) (n / 4)
    tags := NSet.copy m.tags (src / 16) (dst / 16) (n / 16)
    poison := NSet.copy m.poison (src / 16) (dst / 16) (n / 16) }

/-- The canonical form: keys strictly rising, and no byte listed that reads as an unlisted one. -/
abbrev Memory.wf (m : Memory) : Prop :=
  rising (m.bytes.map Prod.fst) = true ∧ m.bytes.all (fun e => e.2 != 0) = true ∧
  rising m.full = true ∧ rising m.tags = true ∧ rising m.poison = true ∧ rising m.starts = true ∧
  rising (m.fwd.map Prod.fst) = true

/-! ## Object pointers -/

/-- addr [47:0] (R163). -/
def PReg.addr (p : PReg) : Nat := fld p.bits.toNat 0 48
/-- lvl [49:48]. -/
def PReg.lvl (p : PReg) : Nat := fld p.bits.toNat 48 2
/-- view [52:50]. -/
def PReg.view (p : PReg) : Nat := fld p.bits.toNat 50 3
/-- R [53]. -/
def PReg.r (p : PReg) : Bool := bit p.bits.toNat 53
/-- W [54]. -/
def PReg.w (p : PReg) : Bool := bit p.bits.toNat 54
/-- XW [56]. -/
def PReg.xw (p : PReg) : Bool := bit p.bits.toNat 56
/-- SH [57]. -/
def PReg.sh (p : PReg) : Bool := bit p.bits.toNat 57
/-- PN [58]. -/
def PReg.pn (p : PReg) : Bool := bit p.bits.toNat 58
/-- kind [62:59]. -/
def PReg.kind (p : PReg) : Nat := fld p.bits.toNat 59 4
/-- len [103:64]. -/
def PReg.len (p : PReg) : Nat := fld p.bits.toNat 64 40
/-- home [111:104]. -/
def PReg.home (p : PReg) : Nat := fld p.bits.toNat 104 8
/-- The home die [111:110]. -/
def PReg.die (p : PReg) : Nat := fld p.bits.toNat 110 2
/-- The home cluster within its die [109:106]. -/
def PReg.clu (p : PReg) : Nat := fld p.bits.toNat 106 4
/-- The null pointer. -/
def PReg.null : PReg := { bits := 0, tag := false }

/-- A pointer with a field replaced (R196). -/
def PReg.setF (p : PReg) (lo n v : Nat) : PReg :=
  { p with bits := BitVec.ofNat 128 (setFld p.bits.toNat lo n v) }

/-- A tagged pointer of its fields (R163). perm is [58:53]. -/
def mkPtr (addr lvl view perm kind len home : Nat) : PReg :=
  { bits := BitVec.ofNat 128 (addr % 2 ^ 48 + lvl % 4 * 2 ^ 48 + view % 8 * 2 ^ 50 +
      perm % 64 * 2 ^ 53 + kind % 16 * 2 ^ 59 + len % 2 ^ 40 * 2 ^ 64 + home % 256 * 2 ^ 104)
    tag := true }

/-- The bytes of a core's local store, 1,024 * CAPCORE, by whether its upper die is present (R110, R359). -/
def localSize (upper : Bool) : Nat := if upper then 2 ^ 20 else 2 ^ 19
/-- The bytes of a die pad, 1,024 * CAPDIE. -/
def diePadSize (upper : Bool) : Nat := if upper then 2 ^ 28 else 2 ^ 27

/-- A malformed pointer (R164, R305), by whether its home die's upper die is present. A level-2 or level-3 pointer with a
home cluster is malformed, and a level-3 pointer whose address names another die than its home (log 44). -/
def PReg.malformed (p : PReg) (upper : Bool) : Bool :=
  let b := p.bits.toNat
  let a := p.addr
  bit b 63 || fld b 112 16 != 0 || fld b 104 2 != 0 || (p.w && p.xw) || 9 ≤ p.kind ||
  (match p.lvl with
   | 0 => fld a 24 24 != 0 || localSize upper < fld a 0 20 + p.len
   | 1 => fld a 25 23 != 0 || 2 ^ 25 < fld a 0 25 + p.len
   | 2 => fld a 28 20 != 0 || p.clu != 0 || diePadSize upper < fld a 0 28 + p.len
   | _ => fld a 45 3 != 0 || p.clu != 0 || fld a 41 2 == 3 || fld a 43 2 != p.die ||
       2 ^ 41 < fld a 0 41 + p.len)

/-- The memory's number of the first byte that a pointer reaches, in partition part (R164). -/
def PReg.key (p : PReg) (part : Nat) : Nat :=
  match p.lvl with
  | 0 => localBase (p.die * 256 + p.clu * 16 + fld p.addr 20 4) + fld p.addr 0 20
  | 1 => cluBase (p.die * 16 + p.clu) + fld p.addr 0 25
  | 2 => dieBase p.die + fld p.addr 0 28
  | _ => heapBase part + fld p.addr 0 45

/-- The lvl, addr and home fields that name a place (R164). -/
def placeFields (k : Nat) : Nat × Nat × Nat :=
  match levelOf k with
  | 0 => (0, locOf k + spaceOf k % 16 * 2 ^ 20, spaceOf k / 16 * 4)
  | 1 => (1, locOf k, (spaceOf k - 1024) * 4)
  | 2 => (2, locOf k, (spaceOf k - 2048) * 64)
  | _ => (3, locOf k, locOf k / 2 ^ 43 % 4 * 64)

/-- The pointer with lvl, addr and home rewritten to name a place (R174 step 4, R177). -/
def PReg.moveTo (p : PReg) (k : Nat) : PReg :=
  let (l, a, h) := placeFields k
  ((p.setF 0 48 a).setF 48 2 l).setF 104 8 h

/-! ## Object headers -/

/-- Header states (R166). -/
def stLive : Nat := 0
/-- Forwarded. -/
def stForwarded : Nat := 1
/-- Dead. -/
def stDead : Nat := 2
/-- Risen. -/
def stRisen : Nat := 3

/-- The footprint of a body of len bytes (R166). -/
def footprint (len : Nat) : Nat := 32 * ((16 + len + 31) / 32)

/-- A header of R166. -/
structure Header where
  kind : Nat
  state : Nat
  len : Nat
  version : Nat
  loc : Nat
  acq : Nat
  sill : Nat
  deriving DecidableEq, Repr

/-- The header in 16 bytes. -/
def Header.ofNat (x : Nat) : Header :=
  { kind := fld x 0 4, state := fld x 4 3, len := fld x 7 40, version := fld x 47 16,
    loc := fld x 64 40, acq := fld x 104 13, sill := fld x 117 11 }

/-- The 16 bytes of a header. -/
def Header.toNat (h : Header) : Nat :=
  h.kind % 16 + h.state % 8 * 2 ^ 4 + h.len % 2 ^ 40 * 2 ^ 7 + h.version % 2 ^ 16 * 2 ^ 47 +
    h.loc % 2 ^ 40 * 2 ^ 64 + h.acq % 2 ^ 13 * 2 ^ 104 + h.sill % 2 ^ 11 * 2 ^ 117

/-- The header of a new object (R172). -/
def Header.fresh (kind len : Nat) : Header :=
  { kind, state := stLive, len, version := 0, loc := 0, acq := 0x1FFF, sill := 0 }

/-- The first byte of the footprint whose header belongs to a place: the highest start at or below
16 bytes before it, in its space (R166). -/
def Memory.footOf (m : Memory) (k : Nat) : Option Nat :=
  if locOf k < 16 then none else
  match NSet.floor m.starts ((k - 16) / 32) with
  | some j => if spaceOf (32 * j) == spaceOf k then some (32 * j) else none
  | none => none

/-! ## Cores, contexts and management registers -/

/-- Core c. -/
def State.coreAt (s : State) (c : Nat) : Core := SMap.get {} s.cores c
/-- Core c becomes v. -/
def State.setCore (s : State) (c : Nat) (v : Core) : State := { s with cores := SMap.put s.cores c v }
/-- Core c changed by f. -/
def State.updCore (s : State) (c : Nat) (f : Core → Core) : State := s.setCore c (f (s.coreAt c))
/-- Context x of core c. -/
def State.ctxAt (s : State) (c : Nat) (x : Fin 8) : Ctx := (s.coreAt c).ctxs[x]
/-- Context x of a core becomes v. -/
def Core.setCtx (k : Core) (x : Fin 8) (v : Ctx) : Core := { k with ctxs := k.ctxs.set x.val v x.isLt }
/-- Context x of core c becomes v. -/
def State.setCtx (s : State) (c : Nat) (x : Fin 8) (v : Ctx) : State :=
  s.setCore c ((s.coreAt c).setCtx x v)
/-- Context x of core c changed by f. -/
def State.updCtx (s : State) (c : Nat) (x : Fin 8) (f : Ctx → Ctx) : State :=
  s.setCtx c x (f (s.ctxAt c x))
/-- Cluster k. -/
def State.cluAt (s : State) (k : Nat) : Cluster := SMap.get {} s.clusters k
/-- Cluster k changed by f. -/
def State.updClu (s : State) (k : Nat) (f : Cluster → Cluster) : State :=
  { s with clusters := SMap.put s.clusters k (f (s.cluAt k)) }
/-- Die d. -/
def State.dieAt (s : State) (d : Nat) : Die := s.dies[Fin.ofNat 4 d]
/-- Die d changed by f. -/
def State.updDie (s : State) (d : Nat) (f : Die → Die) : State :=
  { s with dies := s.dies.set (Fin.ofNat 4 d).val (f (s.dieAt d)) (Fin.ofNat 4 d).isLt }
/-- A pointer is malformed on this package (R164, R359). -/
def State.malformed (s : State) (p : PReg) : Bool := p.malformed (s.dieAt p.die).upper
/-- The package changed by f. -/
def State.updPkg (s : State) (f : Package → Package) : State := { s with pkg := f s.pkg }
/-- The memory changed by f. -/
def State.updMem (s : State) (f : Memory → Memory) : State := { s with mem := f s.mem }

/-- The offset in BAR2 of a register at core scope (R360). -/
def coreOff (c idx : Nat) : Nat := c * 2 ^ 15 + idx * 8
/-- A management register at core scope. -/
def State.coreReg (s : State) (c idx : Nat) : Nat := (SMap.get 0 s.mgmt (coreOff c idx)).toNat
/-- A management register at core scope becomes v. -/
def State.setCoreReg (s : State) (c idx v : Nat) : State :=
  { s with mgmt := SMap.set 0 s.mgmt (coreOff c idx) (BitVec.ofNat 64 v) }
/-- A pointer register of two indices at core scope (R360). -/
def State.coreptr (s : State) (c idx : Nat) : PReg :=
  { bits := BitVec.ofNat 128 (s.coreReg c idx + s.coreReg c (idx + 1) * 2 ^ 64)
    tag := NSet.has s.mtags (coreOff c idx) }
/-- A pointer register at core scope becomes p. -/
def State.setCoreptr (s : State) (c idx : Nat) (p : PReg) : State :=
  let s := (s.setCoreReg c idx (fld p.bits.toNat 0 64)).setCoreReg c (idx + 1) (fld p.bits.toNat 64 64)
  { s with mtags := NSet.setTo s.mtags (coreOff c idx) p.tag }

/-- The coordinates of CTXID and SENDER (R58): core [6:3], cluster [10:7], die [12:11], package above. -/
def State.coreId (s : State) (c : Nat) : Nat := c * 8 + s.pkg.pkgid.toNat * 2 ^ 13
/-- CTXID. -/
def State.ctxId (s : State) (c : Nat) (x : Fin 8) : Nat := s.coreId c + x.val

/-- The class-table entry of a core (R49), pend computed from the messages held. -/
def Core.cls (k : Core) (n : Nat) : ClassEntry :=
  let e := SMap.get 0 k.classes n
  BitVec.ofNat 64 (setFld e.toNat 25 1 (if k.heldMsgs.any (fun m => m.cls.toNat == n) then 1 else 0))
/-- The defined fields of a class-table entry: res0 and pend are not stored (R49). -/
def classMask : Nat := 0xFFFFFFFF1D3FFFFC
/-- A class-table entry becomes e, but for pend. -/
def Core.setCls (k : Core) (n : Nat) (e : Nat) : Core :=
  { k with classes := SMap.set 0 k.classes n (BitVec.ofNat 64 (e &&& classMask)) }

/-- The die of core c. -/
def coreDie (c : Nat) : Nat := c / 256
/-- The cluster (0-63) of core c. -/
def coreClu (c : Nat) : Nat := c / 16

/-- The list of cores of cluster k. -/
def coresOfClu (k : Nat) : List Nat := (upTo 16).map fun i => 16 * k + i
/-- The list of cores of die d. -/
def coresOfDie (d : Nat) : List Nat := (upTo 256).map fun i => 256 * d + i
/-- The eight contexts. -/
def allCtx : List (Fin 8) := [0, 1, 2, 3, 4, 5, 6, 7]

/-- A context holds an activation. -/
def Ctx.busy (x : Ctx) : Bool := x.run != .free

end Sys2Proof.Machine
end

