-- ==== Sys2Proof/Machine/Num.lean ====
section
/-! DEFINITION. Numbers (05 R116-R131): the formats and their codes, exact values, Round of R121-R123
with its flags, and the exact operations that instructions round. A value is exact: a dyadic number
with a sign, an infinity, or a NaN. -/

namespace Sys2Proof.Machine

/-- An exact value (R6, R116): fin neg m e is (-1)^neg * m * 2^e, a signed zero when m = 0. -/
inductive FVal where
  | nan (sig : Bool)
  | inf (neg : Bool)
  | fin (neg : Bool) (m : Nat) (e : Int)
  deriving DecidableEq, Repr

/-- The sticky flags (R124), in the bits of FEXC. -/
abbrev Flags := BitVec 5
/-- Inexact. -/
def flagNX : Flags := 1
/-- Underflow. -/
def flagUF : Flags := 2
/-- Overflow. -/
def flagOF : Flags := 4
/-- Division by zero. -/
def flagDZ : Flags := 8
/-- Invalid. -/
def flagNV : Flags := 16

/-- A flag if a condition holds. -/
def flagIf (b : Bool) (f : Flags) : Flags := if b then f else 0

/-- Exponent and fraction widths of type codes 8-11 (R31, R116). -/
def expBits (ty : Nat) : Nat := match ty with
  | 8 => 11
  | 9 => 8
  | 10 => 5
  | _ => 8
/-- Fraction width (R116). -/
def fracBits (ty : Nat) : Nat := match ty with
  | 8 => 52
  | 9 => 23
  | 10 => 10
  | _ => 7
/-- Exponent bias (R116). -/
def biasOf (ty : Nat) : Nat := 2 ^ (expBits ty - 1) - 1
/-- The exponent of the spacing of the smallest codes. -/
def minExp (ty : Nat) : Int := 1 - biasOf ty - fracBits ty

/-- The width in bits of an element of a type (R31, R132). -/
def elemBits (ty : Nat) : Nat := match ty with
  | 0 => 8 | 1 => 16 | 2 => 32 | 3 => 64
  | 4 => 8 | 5 => 16 | 6 => 32 | 7 => 64
  | 8 => 64 | 9 => 32 | 10 => 16 | 11 => 16
  | 12 => 8 | 13 => 6 | _ => 4

/-- The canonical quiet NaN of an IEEE format or BF16 (R116). -/
def canonNaN (ty : Nat) : Nat :=
  (2 ^ expBits ty - 1) * 2 ^ fracBits ty + 2 ^ (fracBits ty - 1)
/-- The code of an infinity (R116). -/
def infCode (ty : Nat) (neg : Bool) : Nat :=
  neg.toNat * 2 ^ (expBits ty + fracBits ty) + (2 ^ expBits ty - 1) * 2 ^ fracBits ty
/-- The largest finite code (R116). -/
def maxCode (ty : Nat) (neg : Bool) : Nat := infCode ty neg - 1

/-- Decode of an IEEE format or BF16 (R116). -/
def decodeIeee (ty c : Nat) : FVal :=
  let f := c % 2 ^ fracBits ty
  let ex := c / 2 ^ fracBits ty % 2 ^ expBits ty
  let s := c / 2 ^ (fracBits ty + expBits ty) % 2 == 1
  if ex == 2 ^ expBits ty - 1 then
    if f == 0 then .inf s else .nan (f < 2 ^ (fracBits ty - 1))
  else if ex == 0 then .fin s f (minExp ty)
  else .fin s (2 ^ fracBits ty + f) (minExp ty + ex - 1)

/-- The length of the run of equal bits at the top of the low n bits of c (R117). -/
def regimeRun (c : Nat) (b : Bool) : Nat → Nat
  | 0 => 0
  | n + 1 => if (c / 2 ^ n % 2 == 1) == b then 1 + regimeRun c b n else 0

/-- The magnitude of the T8 code c, 0x00-0x7F, in units of 2^-12 (R117). -/
def t8Mag (c : Nat) : Nat :=
  if c == 0 then 0 else
  let top := c / 64 % 2 == 1
  let m := regimeRun c top 7
  let k : Int := if top then m - 1 else -m
  let rest := 6 - m
  let e := if rest == 0 then 0 else c / 2 ^ (rest - 1) % 2
  let nf := rest - 1
  let f := c % 2 ^ nf
  ((2 ^ nf + f) * 2 ^ (2 * k + e + 12).toNat) / 2 ^ nf

/-- The magnitude of the T6 code c, 0x00-0x1F, in units of 2^-4 (R118). -/
def t6Mag (c : Nat) : Nat :=
  if c == 0 then 0 else
  let top := c / 16 % 2 == 1
  let m := regimeRun c top 5
  let k : Int := if top then m - 1 else -m
  let nf := 4 - m
  let f := c % 2 ^ nf
  ((2 ^ nf + f) * 2 ^ (k + 4).toNat) / 2 ^ nf

/-- The magnitude of Q4 code c, 0-7, in units of 0.5 (R119). -/
def q4Mag (c : Nat) : Nat := match c with
  | 0 => 0 | 1 => 1 | 2 => 2 | 3 => 3 | 4 => 4 | 5 => 6 | 6 => 8 | _ => 12

/-- Decode of T8 (R117): 0x00 zero, 0x80 NaR. -/
def decodeT8 (c : Nat) : FVal :=
  if c == 0 then .fin false 0 0
  else if c == 128 then .nan false
  else if c < 128 then .fin false (t8Mag c) (-12)
  else .fin true (t8Mag (256 - c)) (-12)

/-- Decode of T6 (R118): 0x00 zero, 0x20 NaR. -/
def decodeT6 (c : Nat) : FVal :=
  if c == 0 then .fin false 0 0
  else if c == 32 then .nan false
  else if c < 32 then .fin false (t6Mag c) (-4)
  else .fin true (t6Mag (64 - c)) (-4)

/-- Decode of a Q4 element with block scale 1 (R119). -/
def decodeQ4 (c : Nat) : FVal := .fin (c / 8 % 2 == 1) (q4Mag (c % 8)) (-1)

/-- The signed value of the low n bits of c. -/
def signedOf (n c : Nat) : Int :=
  let x := c % 2 ^ n
  if x < 2 ^ (n - 1) then x else (x : Int) - 2 ^ n

/-- An integer as an exact value. -/
def FVal.ofInt (i : Int) : FVal := .fin (i < 0) i.natAbs 0

/-- Decode(f, c) of R8 with scale 1: integers exactly, then R116-R119. -/
def decodeVal (ty c : Nat) : FVal :=
  if ty < 4 then .ofInt (signedOf (elemBits ty) c)
  else if ty < 8 then .ofInt (c % 2 ^ elemBits ty : Nat)
  else if ty < 12 then decodeIeee ty (c % 2 ^ elemBits ty)
  else if ty == 12 then decodeT8 (c % 256)
  else if ty == 13 then decodeT6 (c % 64)
  else decodeQ4 (c % 16)

/-- Scaling by 2^k is exact. -/
def FVal.scale (x : FVal) (k : Int) : FVal :=
  match x with
  | .fin s m e => .fin s m (e + k)
  | y => y

/-- Negation. -/
def FVal.neg (x : FVal) : FVal :=
  match x with
  | .nan q => .nan q
  | .inf s => .inf (!s)
  | .fin s m e => .fin (!s) m e

/-- |x|. -/
def FVal.abs (x : FVal) : FVal :=
  match x with
  | .nan q => .nan q
  | .inf _ => .inf false
  | .fin _ m e => .fin false m e

/-- x is a NaN. -/
def FVal.isNaN : FVal → Bool
  | .nan _ => true
  | _ => false
/-- x is a signalling NaN. -/
def FVal.isSig : FVal → Bool
  | .nan q => q
  | _ => false
/-- x is neither infinite nor NaN. -/
def FVal.isFin : FVal → Bool
  | .fin _ _ _ => true
  | _ => false

/-- The signed integer m * 2^(e - lo), for e at least lo. -/
def fixAt (s : Bool) (m : Nat) (e lo : Int) : Int :=
  let n : Int := m * 2 ^ (e - lo).toNat
  if s then -n else n

/-- The exact sum of two values, with the NV cases of R125 and the sign of an exact zero of R121
(rdn: the mode is RDN). -/
def FVal.add (rdn : Bool) (x y : FVal) : FVal × Flags :=
  match x, y with
  | .nan p, .nan q => (.nan false, flagIf (p || q) flagNV)
  | .nan p, _ => (.nan false, flagIf p flagNV)
  | _, .nan q => (.nan false, flagIf q flagNV)
  | .inf a, .inf b => if a == b then (.inf a, 0) else (.nan false, flagNV)
  | .inf a, _ => (.inf a, 0)
  | _, .inf b => (.inf b, 0)
  | .fin a m e, .fin b n f =>
    if m == 0 && n == 0 then (.fin (if a == b then a else rdn) 0 0, 0)
    else
      let lo := min e f
      let t := fixAt a m e lo + fixAt b n f lo
      if t == 0 then (.fin rdn 0 0, 0) else (.fin (t < 0) t.natAbs lo, 0)

/-- The exact product, with the NV cases of R125. -/
def FVal.mul (x y : FVal) : FVal × Flags :=
  match x, y with
  | .nan p, .nan q => (.nan false, flagIf (p || q) flagNV)
  | .nan p, _ => (.nan false, flagIf p flagNV)
  | _, .nan q => (.nan false, flagIf q flagNV)
  | .inf a, .inf b => (.inf (a != b), 0)
  | .inf a, .fin b n _ => if n == 0 then (.nan false, flagNV) else (.inf (a != b), 0)
  | .fin a m _, .inf b => if m == 0 then (.nan false, flagNV) else (.inf (a != b), 0)
  | .fin a m e, .fin b n f => (.fin (a != b) (m * n) (e + f), 0)

/-- x < y for values that are no NaN; with zeros equal. -/
def FVal.lt (x y : FVal) : Bool :=
  match x, y with
  | .inf a, .inf b => a && !b
  | .inf a, .fin _ _ _ => a
  | .fin _ _ _, .inf b => !b
  | .fin a m e, .fin b n f =>
    let lo := min e f
    fixAt a m e lo < fixAt b n f lo
  | _, _ => false

/-- x = y for values that are no NaN; -0 equals +0. -/
def FVal.eqv (x y : FVal) : Bool := !x.isNaN && !y.isNaN && !x.lt y && !y.lt x

/-- The sign of a value. -/
def FVal.isNeg : FVal → Bool
  | .nan _ => false
  | .inf a => a
  | .fin a _ _ => a

/-- The lesser of two values (R135): -0 counts below +0; a NaN gives the NaN. -/
def FVal.min2 (x y : FVal) : FVal × Flags :=
  if x.isNaN || y.isNaN then (.nan false, flagIf (x.isSig || y.isSig) flagNV)
  else if x.lt y then (x, 0)
  else if y.lt x then (y, 0)
  else (if x.isNeg then x else y, 0)

/-- The greater of two values (R135): +0 counts above -0. -/
def FVal.max2 (x y : FVal) : FVal × Flags :=
  if x.isNaN || y.isNaN then (.nan false, flagIf (x.isSig || y.isSig) flagNV)
  else if x.lt y then (y, 0)
  else if y.lt x then (x, 0)
  else (if x.isNeg then y else x, 0)

/-- Rounding modes (R121). -/
inductive Mode where
  | rne | rtz | rdn | rup | rs
  deriving DecidableEq, Repr

/-- The mode of an rm code (R27). -/
def Mode.ofCode (n : Nat) : Mode := match n with
  | 0 => .rne | 1 => .rtz | 2 => .rdn | 3 => .rup | _ => .rs

/-- Whether the neighbour away from zero is chosen (R121, R123): the value lies num/den of the way
from a to b, odd says that a's code is odd, r is SRStep's result. -/
def roundsAway (mode : Mode) (neg odd : Bool) (num den r : Nat) : Bool :=
  if num == 0 then false else
  match mode with
  | .rne => den < 2 * num || (den == 2 * num && odd)
  | .rtz => false
  | .rdn => neg
  | .rup => !neg
  | .rs => 2 ^ 32 ≤ 2 ^ 32 * num / den + r

/-- Round of a finite non-zero magnitude m * 2^e to an IEEE format or BF16 (R121, R123, R124). -/
def roundIeee (ty : Nat) (mode : Mode) (r : Nat) (neg : Bool) (m : Nat) (e : Int) : Nat × Flags :=
  let p : Nat := fracBits ty + 1
  let len : Int := Nat.log2 m + 1
  let u := max (e + len - p) (minExp ty)
  let uMax : Int := minExp ty + (2 ^ expBits ty - 3 : Nat)
  let s := u - e
  let q := if s ≤ 0 then m * 2 ^ (-s).toNat else m / 2 ^ s.toNat
  let rem := if s ≤ 0 then 0 else m % 2 ^ s.toNat
  let den := if s ≤ 0 then 1 else 2 ^ s.toNat
  let sign := neg.toNat * 2 ^ (expBits ty + fracBits ty)
  if uMax < u then
    let away := match mode with
      | .rtz => false
      | .rdn => neg
      | .rup => !neg
      | _ => true
    (if away then infCode ty neg else maxCode ty neg, flagOF ||| flagNX)
  else
    let away := roundsAway mode neg (q % 2 == 1) rem den r
    let isOver := u == uMax && q + 1 == 2 ^ p && rem != 0
    let q' := if away then q + 1 else q
    let code := sign + ((u - minExp ty).toNat + 1) * 2 ^ fracBits ty + q' - 2 ^ fracBits ty
    let tiny := e + len - 1 < minExp ty + fracBits ty
    (code, flagIf (rem != 0) flagNX ||| flagIf (rem != 0 && tiny) flagUF ||| flagIf isOver flagOF)

/-- The highest code at most hi whose magnitude, in units of 2^-ub, is at most m * 2^e. -/
def codeBelow (mag : Nat → Nat) (ub : Int) (m : Nat) (e : Int) : Nat → Nat
  | 0 => 0
  | c + 1 =>
    let lo := min e (-ub)
    if fixAt false (mag (c + 1)) (-ub) lo ≤ fixAt false m e lo then c + 1
    else codeBelow mag ub m e c

/-- Round of a finite non-zero magnitude to a table of codes 0-hi (R121, R122): the magnitude's code
and the flags. keep says that it never rounds to zero; small is the smallest normal magnitude. -/
def roundTable (mag : Nat → Nat) (ub : Int) (hi : Nat) (keep : Bool) (small : Int)
    (mode : Mode) (r : Nat) (neg : Bool) (m : Nat) (e : Int) : Nat × Flags :=
  let c := codeBelow mag ub m e hi
  let lo := min e (-ub)
  let x := fixAt false m e lo
  let a := fixAt false (mag c) (-ub) lo
  if c == hi then (hi, flagIf (x != a) (flagOF ||| flagNX))
  else
    let b := fixAt false (mag (c + 1)) (-ub) lo
    let away := roundsAway mode neg (c % 2 == 1) (x - a).toNat (b - a).toNat r
    let c' := if away || (keep && c == 0) then c + 1 else c
    let tiny := e + Nat.log2 m < small
    (c', flagIf (x != a) flagNX ||| flagIf (x != a && tiny) flagUF)

/-- Round to an integer type (R122): by the mode, then saturated with NV. -/
def roundInt (signed : Bool) (n : Nat) (mode : Mode) (r : Nat) (neg : Bool) (m : Nat) (e : Int) :
    Int × Flags :=
  let q := if 0 ≤ e then m * 2 ^ e.toNat else m / 2 ^ (-e).toNat
  let rem := if 0 ≤ e then 0 else m % 2 ^ (-e).toNat
  let den := if 0 ≤ e then 1 else 2 ^ (-e).toNat
  let q' := if roundsAway mode neg (q % 2 == 1) rem den r then q + 1 else q
  let v : Int := if neg then -(q' : Int) else q'
  let lo : Int := if signed then -(2 ^ (n - 1) : Nat) else 0
  let hi : Int := if signed then (2 ^ (n - 1) - 1 : Nat) else (2 ^ n - 1 : Nat)
  if v < lo then (lo, flagNV)
  else if hi < v then (hi, flagNV)
  else (v, flagIf (rem != 0) flagNX)

/-- Round(x, f, m) of R8 (R121-R123): the code of x in format ty under the mode, and the flags. r is
the result of SRStep, used under RS only. Integer codes are the value's low bits. -/
def roundVal (ty : Nat) (mode : Mode) (r : Nat) (x : FVal) : Nat × Flags :=
  if ty < 8 then
    let n := elemBits ty
    let signed := ty < 4
    match x with
    | .nan _ => (0, flagNV)
    | .inf neg =>
      let v : Int := if signed then (if neg then -(2 ^ (n - 1) : Nat) else (2 ^ (n - 1) - 1 : Nat))
        else if neg then 0 else (2 ^ n - 1 : Nat)
      ((v % (2 ^ n : Nat)).toNat, flagNV)
    | .fin neg m e =>
      let (v, fl) := roundInt signed n mode r neg m e
      ((v % (2 ^ n : Nat)).toNat, fl)
  else if ty < 12 then
    match x with
    | .nan q => (canonNaN ty, flagIf q flagNV)
    | .inf neg => (infCode ty neg, 0)
    | .fin neg m e =>
      if m == 0 then (neg.toNat * 2 ^ (expBits ty + fracBits ty), 0)
      else roundIeee ty mode r neg m e
  else if ty == 12 || ty == 13 then
    let nar := if ty == 12 then 128 else 32
    match x with
    | .nan _ => (nar, 0)
    | .inf _ => (nar, flagNV)
    | .fin neg m e =>
      if m == 0 then (0, 0)
      else
        let (c, fl) := if ty == 12 then roundTable t8Mag 12 127 true (-12) mode r neg m e
          else roundTable t6Mag 4 31 true (-4) mode r neg m e
        (if neg then 2 * nar - c else c, fl)
  else
    match x with
    | .nan _ => (0, flagNV)
    | .inf neg => (neg.toNat * 8 + 7, flagOF)
    | .fin neg m e =>
      if m == 0 then (neg.toNat * 8, 0)
      else
        let (c, fl) := roundTable q4Mag 1 7 false 0 mode r neg m e
        (neg.toNat * 8 + c, fl)

/-- SRStep of R123: the next state; its bits [63:32] are the result. -/
def srStep (seed : DWord) : DWord :=
  let s := if seed == 0 then 0x9E3779B97F4A7C15#64 else seed
  let s := s ^^^ (s <<< 13)
  let s := s ^^^ (s >>> 7)
  s ^^^ (s <<< 17)

/-- Round with the generator: under RS every rounding steps it (R123). -/
def roundStep (ty : Nat) (mode : Mode) (seed : DWord) (x : FVal) : Nat × Flags × DWord :=
  if mode = .rs then
    let s := srStep seed
    let (c, f) := roundVal ty mode (s.toNat / 2 ^ 32) x
    (c, f, s)
  else
    let (c, f) := roundVal ty mode 0 x
    (c, f, seed)

/-- A value below which the exact value lies by less than one unit of m: an odd last bit marks it. -/
def sticky (neg : Bool) (m : Nat) (e : Int) (exact : Bool) : FVal :=
  .fin neg (2 * m + (if exact then 0 else 1)) (e - 1)

/-- 1/a for a finite non-zero magnitude, cut off 192 bits below its top (R136). -/
def recipMag (neg : Bool) (m : Nat) (e : Int) : FVal :=
  let k := Nat.log2 m + 192
  sticky neg (2 ^ k / m) (-e - k) (2 ^ k % m == 0)

/-- The integer square root of n below 2^(b) squared, one bit at a time. -/
def isqrtBits (n : Nat) : Nat → Nat → Nat
  | 0, r => r
  | b + 1, r => if (r + 2 ^ b) * (r + 2 ^ b) ≤ n then isqrtBits n b (r + 2 ^ b) else isqrtBits n b r

/-- 1/sqrt(a) for a finite positive magnitude (R136). -/
def rsqrtMag (m : Nat) (e : Int) : FVal :=
  let m' := if e % 2 == 0 then m else 2 * m
  let e' := if e % 2 == 0 then e else e - 1
  let k := Nat.log2 m' / 2 + 192
  let z := 2 ^ (2 * k) / m'
  let q := isqrtBits z 194 0
  sticky false q (-(e' / 2) - k) (q * q * m' == 2 ^ (2 * k))

/-- Working precision of the exponential and the logarithm, in bits. -/
def transBits : Nat := 384

/-- A sum of reciprocals j^-1 * 2^-j from j upward: ln 2 = sum of 1/(j 2^j). -/
def ln2Terms : Nat → Nat → Nat
  | 0, _ => 0
  | n + 1, j => 2 ^ transBits / (j * 2 ^ j) + ln2Terms n (j + 1)

/-- ln 2 from below, in units of 2^-transBits. -/
def ln2Fixed : Nat := ln2Terms 390 1

/-- The exponential series: t is the term x^(j-1)/(j-1)!. -/
def expTerms (x : Nat) : Nat → Nat → Nat → Nat
  | 0, _, _ => 0
  | n + 1, j, t => t + expTerms x n (j + 1) (t * x / 2 ^ transBits / j)

/-- 2^a for a finite a that is no integer: 2^(floor a) times the series, from below (R136). An a of
magnitude 2^13 or more lies beyond every format's range, whichever its value. -/
def exp2Mag (neg : Bool) (m : Nat) (e : Int) : FVal :=
  -- f is the fraction of a, in units of 2^-transBits, from below
  let big := 12 < e + Nat.log2 m
  if big then (if neg then .fin false 1 (-8192) else .fin false 1 8192) else
  let ip : Int := if 0 ≤ e then m * 2 ^ e.toNat else m / 2 ^ (-e).toNat
  let fr : Nat := if 0 ≤ e then 0 else m % 2 ^ (-e).toNat
  let den : Nat := 2 ^ (-e).toNat
  let n : Int := if neg then -ip - 1 else ip
  let f := if neg then (den - fr) * 2 ^ transBits / den else fr * 2 ^ transBits / den
  -- where the fraction is cut off at its very top, it stays below 1
  let f := if 2 ^ transBits ≤ f then 2 ^ transBits - 1 else f
  let x := f * ln2Fixed / 2 ^ transBits
  let s := expTerms x 100 1 (2 ^ transBits)
  let s := if 2 ^ (transBits + 1) ≤ s then 2 ^ (transBits + 1) - 1 else s
  sticky false s (n - transBits) false

/-- log2 of y in [1, 2), y in units of 2^-512, one bit at a time: n bits. -/
def log2Bits : Nat → Nat → Nat → Nat
  | 0, _, acc => acc
  | n + 1, y, acc =>
    let z := y * y / 2 ^ 512
    if 2 ^ 513 ≤ z then log2Bits n (z / 2) (2 * acc + 1) else log2Bits n z (2 * acc)

/-- log2 of a finite positive magnitude that is no power of two (R136). -/
def log2Mag (m : Nat) (e : Int) : FVal :=
  let l := Nat.log2 m
  let k : Int := e + l
  let fr := log2Bits 256 (m * 2 ^ 512 / 2 ^ l) 0
  let t : Int := k * 2 ^ 256 + fr
  if 0 ≤ t then sticky false t.toNat (-256) false else sticky true (-t - 1).toNat (-256) false

/-- VRCP's exact result and flags (R136). -/
def rcpVal (x : FVal) : FVal × Flags :=
  match x with
  | .nan q => (.nan false, flagIf q flagNV)
  | .inf s => (.fin s 0 0, 0)
  | .fin s m e => if m == 0 then (.inf s, flagDZ) else (recipMag s m e, 0)

/-- VRSQ's exact result and flags (R136). -/
def rsqVal (x : FVal) : FVal × Flags :=
  match x with
  | .nan q => (.nan false, flagIf q flagNV)
  | .inf s => if s then (.nan false, flagNV) else (.fin false 0 0, 0)
  | .fin s m e =>
    if m == 0 then (.inf s, flagDZ)
    else if s then (.nan false, flagNV)
    else (rsqrtMag m e, 0)

/-- VEXP2's exact result and flags (R136). -/
def exp2Val (x : FVal) : FVal × Flags :=
  match x with
  | .nan q => (.nan false, flagIf q flagNV)
  | .inf s => (if s then .fin false 0 0 else .inf false, 0)
  | .fin s m e =>
    if m == 0 then (.fin false 1 0, 0)
    else if e + Nat.log2 m ≤ 12 && (0 ≤ e || m % 2 ^ (-e).toNat == 0) then
      let n : Int := if 0 ≤ e then m * 2 ^ e.toNat else m / 2 ^ (-e).toNat
      (.fin false 1 (if s then -n else n), 0)
    else (exp2Mag s m e, 0)

/-- VLOG2's exact result and flags (R136). -/
def log2Val (x : FVal) : FVal × Flags :=
  match x with
  | .nan q => (.nan false, flagIf q flagNV)
  | .inf s => if s then (.nan false, flagNV) else (.inf false, 0)
  | .fin s m e =>
    if m == 0 then (.inf true, flagDZ)
    else if s then (.nan false, flagNV)
    else if m == 2 ^ Nat.log2 m then (FVal.ofInt (e + Nat.log2 m), 0)
    else (log2Mag m e, 0)

/-- Opposite infinities are among some values. -/
def opposed (xs : List FVal) : Bool := xs.contains (.inf false) && xs.contains (.inf true)

/-- The exact sum of a list of values, from the left, with its flags; +0 for none. Opposite infinities raise NV beside
a NaN too (R125, R130). -/
def sumVals : List FVal → FVal × Flags
  | [] => (.fin false 0 0, 0)
  | x :: xs => xs.foldl (fun acc y =>
      let (s, f) := acc.1.add false y
      (s, acc.2 ||| f)) (x, flagIf (x.isSig || opposed (x :: xs)) flagNV)

/-- The exact sum of products, with its flags (R129, R130). -/
def dotVals (xs ys : List FVal) : FVal × Flags :=
  let ps := List.zipWith FVal.mul xs ys
  let (s, f) := sumVals (ps.map Prod.fst)
  (s, ps.foldl (fun a p => a ||| p.2) f)

/-- Round to FP32 under RNE. -/
def round32 (x : FVal) : Nat × Flags := roundVal 9 .rne 0 x

end Sys2Proof.Machine
end

