-- ==== Sys2Proof/Machine/Block.lean ====
section
/-! DEFINITION. The coding of the cluster pad's blocks (11 R239-R244, R248), its sectors and expander (11 R241,
R245), and the transforms applied as data lands (11 R251-R253). -/

namespace Sys2Proof.Machine

/-! ## Bits and words -/

/-- n bits of a number, the lowest first (R242). -/
def bitsOf (n x : Nat) : List Bool := (upTo n).map (bit x)

/-- The number of some bits, the lowest first. -/
def ofBits : List Bool → Nat
  | [] => 0
  | b :: bs => b.toNat + 2 * ofBits bs

/-- Little-endian words of bytes. -/
def wordsLE : Nat → List Byte → List Nat
  | 0, _ => []
  | n + 1, bs => leAt bs 0 4 :: wordsLE n (bs.drop 4)

/-- Bits in whole bytes, the last filled with zeros. -/
def packChunk (bs : List Bool) : List Byte := bytesOf ((bs.length + 7) / 8) (ofBits bs)

/-! ## The dictionary scheme (R243) -/

/-- A chunk's dictionary: its slots in order, and the slot that the next entry takes. -/
structure Dict where
  slots : List Nat := []
  next : Nat := 0
  deriving DecidableEq, Repr

/-- A word enters the dictionary. -/
def Dict.add (d : Dict) (v : Nat) : Dict :=
  { slots := if d.slots.length < 16 then d.slots ++ [v] else d.slots.set d.next v
    next := (d.next + 1) % 16 }

/-- A word's code, and the dictionary after it. -/
def dictCode (d : Dict) (v : Nat) : List Bool × Dict :=
  if v == 0 then (bitsOf 2 0, d) else
  match d.slots.findIdx? (· == v), d.slots.findIdx? (fun w => w / 256 == v / 256) with
  | some i, _ => (bitsOf 2 1 ++ bitsOf 4 i, d)
  | none, some i => (bitsOf 2 2 ++ bitsOf 4 i ++ bitsOf 8 (v % 256), d)
  | none, none => (bitsOf 2 3 ++ bitsOf 32 v, d.add v)

/-- A chunk's bits. -/
def dictBits (d : Dict) : List Nat → List Bool
  | [] => []
  | v :: vs =>
    let (c, d) := dictCode d v
    c ++ dictBits d vs

/-- n words decoded from bits, with the bits left over. -/
def dictWords (d : Dict) : Nat → List Bool → Option (List Nat × List Bool)
  | 0, bs => some ([], bs)
  | n + 1, bs =>
    let go := fun (v : Nat) (d : Dict) (used : Nat) =>
      if bs.length < used then none
      else (dictWords d n (bs.drop used)).map fun r => (v :: r.1, r.2)
    let at_ := fun (lo len : Nat) => ofBits ((bs.drop lo).take len)
    match at_ 0 2 with
    | 0 => go 0 d 2
    | 1 => match d.slots[at_ 2 4]? with
      | some v => go v d 6
      | none => none
    | 2 => match d.slots[at_ 2 4]? with
      | some v => go (v / 256 * 256 + at_ 6 8) d 14
      | none => none
    | _ => go (at_ 2 32) (d.add (at_ 2 32)) 34

/-! ## The frequent-pattern scheme (R244) -/

/-- A sign-extended field of n bits as a word. -/
def sext32 (n x : Nat) : Nat := if bit x (n - 1) then x % 2 ^ n + (2 ^ 32 - 2 ^ n) else x % 2 ^ n

/-- A half as a sign-extended byte. -/
def sext16 (x : Nat) : Nat := if bit x 7 then x % 256 + 65280 else x % 256

/-- The code of a word that is not zero. -/
def patternCode (v : Nat) : List Bool :=
  if sext32 4 v == v then bitsOf 3 1 ++ bitsOf 4 v
  else if sext32 8 v == v then bitsOf 3 2 ++ bitsOf 8 v
  else if sext32 16 v == v then bitsOf 3 3 ++ bitsOf 16 v
  else if v % 65536 == 0 then bitsOf 3 4 ++ bitsOf 16 (v / 65536)
  else if sext16 v == v % 65536 && sext16 (v / 65536) == v / 65536 then
    bitsOf 3 5 ++ bitsOf 8 v ++ bitsOf 8 (v / 65536)
  else if v == v % 256 * 0x01010101 then bitsOf 3 6 ++ bitsOf 8 v
  else bitsOf 3 7 ++ bitsOf 32 v

/-- A chunk's bits; zeros counts the zero words that wait for their code. -/
def patternBits (zeros : Nat) : List Nat → List Bool
  | [] => if zeros == 0 then [] else bitsOf 3 0 ++ bitsOf 3 (zeros - 1)
  | v :: vs =>
    let run := if zeros == 0 then [] else bitsOf 3 0 ++ bitsOf 3 (zeros - 1)
    if v == 0 then
      if zeros == 8 then run ++ patternBits 1 vs else patternBits (zeros + 1) vs
    else run ++ patternCode v ++ patternBits 0 vs

/-- n words decoded from bits, with the bits left over. fuel bounds the codes. -/
def patternWords : Nat → Nat → List Bool → Option (List Nat × List Bool)
  | _, 0, bs => some ([], bs)
  | 0, _, _ => none
  | fuel + 1, n, bs =>
    let at_ := fun (lo len : Nat) => ofBits ((bs.drop lo).take len)
    let go := fun (vs : List Nat) (used : Nat) =>
      if bs.length < used || n < vs.length then none
      else (patternWords fuel (n - vs.length) (bs.drop used)).map fun r => (vs ++ r.1, r.2)
    match at_ 0 3 with
    | 0 => go (List.replicate (at_ 3 3 + 1) 0) 6
    | 1 => go [sext32 4 (at_ 3 4)] 7
    | 2 => go [sext32 8 (at_ 3 8)] 11
    | 3 => go [sext32 16 (at_ 3 16)] 19
    | 4 => go [at_ 3 16 * 65536] 19
    | 5 => go [sext16 (at_ 3 8) + sext16 (at_ 11 8) * 65536] 19
    | 6 => go [at_ 3 8 * 0x01010101] 11
    | _ => go [at_ 3 32] 35

/-! ## Blocks (R242, R248) -/

/-- The four chunks of a block's words in a scheme: 0 dictionary, 1 frequent pattern. -/
def chunksOf (sch : Bool) (ws : List Nat) : List (List Byte) :=
  (upTo 4).map fun c =>
    let w := (ws.drop (16 * c)).take 16
    packChunk (if sch then patternBits 0 w else dictBits {} w)

/-- The stream of four chunks. -/
def streamOf (cs : List (List Byte)) : List Byte :=
  let l := fun n => 3 + ((cs.take n).map List.length).foldl (· + ·) 0
  [BitVec.ofNat 8 (l 1), BitVec.ofNat 8 (l 2), BitVec.ofNat 8 (l 3)] ++ cs.flatten

/-- How a block is stored: its scheme and its stream, or none where it is raw. -/
def encodeBlock (bs : List Byte) : Option (Bool × List Byte) :=
  let ws := wordsLE 64 bs
  let a := streamOf (chunksOf false ws)
  let b := streamOf (chunksOf true ws)
  let r := if b.length < a.length then (true, b) else (false, a)
  if 224 < r.2.length then none else some r

/-- Chunk c decoded from the bytes of a run: sixteen words, or none where it fails. -/
def decodeChunk (sch : Bool) (run : List Byte) (lo hi : Nat) : Option (List Nat) :=
  let bs := (run.take hi).drop lo
  let bits := bitsOf (8 * bs.length) (natOf bs)
  match if sch then patternWords 16 16 bits else dictWords {} 16 bits with
  | some (ws, rest) => if rest.any id then none else some ws
  | none => none

/-- The offsets of a coded run, in its first three bytes, do not ascend strictly or exceed the run: all four chunks
fail (R248). -/
def badOffsets (run : List Byte) : Bool :=
  let o := fun n => (run.getD n 0).toNat
  run.length < 3 || !(o 0 < o 1 && o 1 < o 2 && o 2 < run.length)

/-- The words of the four chunks of a coded run, each none where it fails. -/
def decodeBlock (sch : Bool) (run : List Byte) : List (Option (List Nat)) :=
  let o := fun n => (run.getD n 0).toNat
  if badOffsets run then List.replicate 4 none
  else [decodeChunk sch run 3 (o 0), decodeChunk sch run (o 0) (o 1), decodeChunk sch run (o 1) (o 2),
    decodeChunk sch run (o 2) run.length]

/-! ## Sectors and the expander (R241, R245, R248, R249) -/

/-- Frames of a cluster pad (R239). -/
def frameCount (upper : Bool) : Nat := if upper then 65536 else 32768

/-- The first of n contiguous free sectors of a frame. -/
def freeRun (used : NSet) (frame n : Nat) : Option Nat :=
  ((upTo (9 - n)).map (8 * frame + ·)).find? fun a => (upTo n).all fun i => !used.has (a + i)

/-- The run of n sectors that a block takes: in the lowest frame that has room (R241). -/
def findRun (used : NSet) (n : Nat) : Nat → Nat → Option Nat
  | 0, _ => none
  | fuel + 1, f =>
    match freeRun used f n with
    | some a => some a
    | none => findRun used n fuel (f + 1)

/-- The first byte of a logical block. -/
def blockBase (clu blk : Nat) : Nat := cluBase clu + 256 * blk

/-- A block gives up its sectors and its header becomes h: new code words stand in both. -/
def Cluster.recodeAs (c : Cluster) (blk : Nat) (h : BlkHdr) : Cluster :=
  let old := SMap.get {} c.blocks blk
  let rest := if old.z then c.sectors else
    (upTo (old.n.toNat + 1)).foldl (fun u i => u.del (old.sect.toNat + i)) c.sectors
  let c := { c with badHdr := c.badHdr.del blk }
  if h.z then { c with blocks := SMap.erase c.blocks blk, sectors := rest }
  else
    let run := (upTo (h.n.toNat + 1)).map (h.sect.toNat + ·)
    { c with
      blocks := SMap.put c.blocks blk h
      sectors := run.foldl NSet.add rest
      badSect := run.foldl NSet.del c.badSect }

/-- A block is written back under its coding (R241); none where no frame has room. -/
def Cluster.writeBack (c : Cluster) (frames : Nat) (bs : List Byte) (blk : Nat) : Option Cluster :=
  if bs.all (· == 0) then some (c.recodeAs blk {}) else
  let (n, sch) := match encodeBlock bs with
    | none => (8, false)
    | some (sch, st) => ((st.length + 31) / 32, sch)
  (findRun c.sectors n frames 0).map fun a =>
    c.recodeAs blk { sect := BitVec.ofNat 19 a, n := BitVec.ofNat 3 (n - 1), sch, z := false }

/-- The frames of cluster k's pad. -/
def State.frames (s : State) (k : Nat) : Nat := frameCount (s.dieAt (k / 16)).upper

/-- The bytes of a block, as its expander entry or its coding holds them. -/
def State.blockData (s : State) (clu blk : Nat) : List Byte := s.mem.read (blockBase clu blk) 256

/-- A failed block is counted and logged (R250). -/
def State.logBlock (s : State) (clu : Nat) (chk : BitVec 4) (hdr sch : Bool) (n blk : Nat) : State :=
  s.updClu clu fun c =>
    let v := c.cluerr.toNat
    let cnt := min (fld v 32 32 + 1) (2 ^ 32 - 1)
    let low := if bit v 0 then setFld (v % 2 ^ 32) 1 1 1
      else 1 + (if hdr then 4 else 0) + chk.toNat * 2 ^ 4 + blk % 2 ^ 17 * 2 ^ 8 + sch.toNat * 2 ^ 25 +
        n % 8 * 2 ^ 26
    { c with cluerr := BitVec.ofNat 64 (low + cnt * 2 ^ 32) }

/-- The chunks of a stored block that an uncorrectable error reaches (R248), and whether its header or its stream
offsets are among what fails. -/
def Cluster.failures (c : Cluster) (bs : List Byte) (blk : Nat) : Bool × BitVec 4 :=
  let h := SMap.get {} c.blocks blk
  let bad := fun (lo hi : Nat) => (upTo (h.n.toNat + 1)).any fun i =>
    c.badSect.has (h.sect.toNat + i) && lo < 32 * i + 32 && 32 * i < hi
  if c.badHdr.has blk then (true, 15)
  else if h.z then (false, 0)
  else if h.n == 7 then (false, BitVec.ofNat 4 (ofBits ((upTo 4).map fun i => bad (64 * i) (64 * i + 64))))
  else if bad 0 3 then (true, 15)
  else
    let ends := ((chunksOf h.sch (wordsLE 64 bs)).foldl (fun o k => o ++ [o.getLastD 3 + k.length]) [3])
    (false, BitVec.ofNat 4 (ofBits ((upTo 4).map fun i => bad (ends.getD i 0) (ends.getD (i + 1) 0))))

/-- A miss on a block meets chunks that fail (R248). -/
def State.blockFails (s : State) (clu blk : Nat) : Bool :=
  let c := s.cluAt clu
  !(c.badSect.isEmpty && c.badHdr.isEmpty) && !(c.exp.any fun e => e.blk == blk) &&
    (c.failures (s.blockData clu blk) blk).2 != 0

/-- The failed chunks of a block are written as zero words, empty; where its header fails, tags and poison marks go
too (R248). The failure is counted and logged (R249). -/
def State.failChunks (s : State) (clu blk : Nat) (hdr : Bool) (chk : BitVec 4) : State :=
  let k := blockBase clu blk
  let h := SMap.get {} (s.cluAt clu).blocks blk
  let s := (upTo 4).foldl (fun s i =>
    if !chk.getLsbD i then s else
    let a := k + 64 * i
    s.updMem fun m =>
      { m with bytes := SMap.clear m.bytes a (a + 64), full := NSet.clear m.full (a / 4) ((a + 64) / 4) }) s
  let s := if (s.cluAt clu).badHdr.has blk then s.updMem fun m =>
      { m with
        tags := NSet.clear m.tags (k / 16) ((k + 256) / 16)
        poison := NSet.clear m.poison (k / 16) ((k + 256) / 16) }
    else s
  s.logBlock clu chk hdr h.sch h.n.toNat blk

/-- The header at physical place p, of the footprint at f, names the first node of its list (R166). -/
def State.putSill (s : State) (f p : Nat) : State :=
  let i := ((s.nodes.find? fun n => n.foot == f).map Node.idx).getD 0
  let h := Header.ofNat (natOf (s.mem.read p 16))
  s.updMem fun m => m.write p (bytesOf 16 { h with sill := i }.toNat)

/-- The headers in a block name the first nodes of their lists, which they could not while the block was held (R241). -/
def State.blockSills (s : State) (clu blk : Nat) : State :=
  let k := blockBase clu blk
  (NSet.slice s.mem.starts (k / 32) (k / 32 + 8)).foldl (fun s j => s.putSill (32 * j) (32 * j)) s

/-- Blocks whose write-back is held are written back, as far as frames have room (R241). -/
def State.retryHeld (s : State) (clu : Nat) : State :=
  (s.cluAt clu).held.foldl (fun s b =>
    let t := s.blockSills clu b
    let c := t.cluAt clu
    match c.writeBack (t.frames clu) (t.blockData clu b) b with
    | some c => t.updClu clu fun _ => { c with held := c.held.filter (· != b) }
    | none => s) s

/-- Entries leave the expander while it holds more than 64, the least recently used first: a dirty one is written
back, and what finds no frame is held, and the cluster pad's sift is triggered (R241, R245). -/
def State.evict (s : State) (clu : Nat) : Nat → State
  | 0 => s
  | n + 1 =>
    let c := s.cluAt clu
    match (c.exp.drop 64).getLast? with
    | none => s
    | some v =>
      let c := { c with exp := c.exp.dropLast }
      let s' := if !v.dirty then s.updClu clu fun _ => c else
        match c.writeBack (s.frames clu) (s.blockData clu v.blk) v.blk with
        | some c => (s.updClu clu fun _ => c).retryHeld clu
        | none =>
          let t := s.updClu clu fun _ => { c with held := c.held.filter (· != v.blk) ++ [v.blk] }
          { t with pending := t.pending ++ [(t.ck, .clusterSift clu)] }
      s'.evict clu n

/-- A block in the expander: an access finds it there, or it is decoded into the place of the least recently used
one (R245). A chunk that fails is written as empty zero words, and the entry is dirty (R249). -/
def State.expand (s : State) (clu blk : Nat) (dirty : Bool) : State :=
  let c := s.cluAt clu
  let old := c.exp.find? (·.blk == blk)
  let (hdr, chk) := if old.isSome then (false, 0) else c.failures (s.blockData clu blk) blk
  let s := if chk == 0 then s else s.failChunks clu blk hdr chk
  let e : ExpEntry := ⟨blk, dirty || chk != 0 || (old.map ExpEntry.dirty).getD false⟩
  (s.updClu clu fun c => { c with exp := e :: c.exp.filter (·.blk != blk) }).evict clu c.exp.length

/-- The blocks of n bytes at a place in a cluster pad. -/
def blocksIn (k n : Nat) : List Nat :=
  if n == 0 then [] else (upTo ((k + n - 1) / 256 - k / 256 + 1)).map fun i => locOf k / 256 + i

/-- An access to n bytes at a place goes through the expander where they lie in a cluster pad. -/
def State.served (s : State) (k n : Nat) (dirty : Bool) : State :=
  if levelOf k != 1 then s else
  (blocksIn k n).foldl (fun s b => s.expand (cluOf k) b dirty) s

/-- A block among n bytes at a place is held for its write-back: its accesses wait (R241). -/
def State.heldBlock (s : State) (k n : Nat) : Bool :=
  let c := s.cluAt (cluOf k)
  levelOf k == 1 && !c.sifting && !c.held.isEmpty && (blocksIn k n).any c.held.contains

/-- Bytes of a cluster pad that the hardware changes by itself go through the expander too (R245). -/
def State.marked (s : State) (k n : Nat) : State := if s.heldBlock k n then s else s.served k n true

/-- The first block among n bytes at a place whose miss meets chunks that fail. -/
def State.failingBlock (s : State) (k n : Nat) : Option Nat :=
  if levelOf k != 1 then none else (blocksIn k n).find? (s.blockFails (cluOf k))

/-- The whole blocks of n bytes at a place in a cluster pad become zero: they hold no sectors (R240). -/
def State.zeroBlocks (s : State) (k n : Nat) : State :=
  if levelOf k != 1 then s else
  let whole := (blocksIn k n).filter fun b => locOf k ≤ 256 * b && 256 * b + 256 ≤ locOf k + n
  whole.foldl (fun s b => s.updClu (cluOf k) fun c =>
    { c.recodeAs b {} with
      exp := c.exp.filter (·.blk != b)
      held := c.held.filter (· != b) }) s

/-- The sift of a cluster pad: held and dirty blocks are written back, and blocks that have become zero give up
their sectors (R240, R245). What finds no frame is held (R241). -/
def State.recode (s : State) (clu : Nat) : State :=
  let s := s.retryHeld clu
  let c := s.cluAt clu
  let zeros := (c.blocks.map Prod.fst).filter fun b => (s.blockData clu b).all (· == 0)
  let dirty := (c.exp.filter (·.dirty)).map ExpEntry.blk
  (dirty ++ zeros).foldl (fun s b =>
    let c := s.cluAt clu
    match c.writeBack (s.frames clu) (s.blockData clu b) b with
    | some c => s.updClu clu fun _ => { c with exp := c.exp.map fun e => if e.blk == b then { e with dirty := false } else e }
    | none => s.updClu clu fun c =>
        { c with exp := c.exp.filter (·.blk != b), held := c.held.filter (· != b) ++ [b] }) s

/-! ## Transforms (R251-R253) -/

/-- The input unit of a transform of fixed units, in bytes (R251). -/
def xfIn (xf : Nat) : Nat := match xf with
  | 1 => 4 | 2 => 2 | 3 => 4 | 4 => 8 | 5 => 64 | 6 => 32 | 7 => 4 | 8 => 2 | 9 => 4 | 10 => 2
  | 11 => 64 | 12 => 64 | _ => 1

/-- The bytes that one unit of a transform becomes (R251). -/
def xfOut (xf : Nat) : Nat := match xf with
  | 7 => 2 | 8 => 4 | 9 => 2 | 10 => 4 | 12 => 128 | n => xfIn n

/-- The 4x4 elements of n bytes transposed. -/
def transpose4 (n : Nat) (bs : List Byte) : List Byte :=
  (upTo 16).flatMap fun i => (bs.drop (n * (i % 4 * 4 + i / 4))).take n

/-- One float of a format in another, under RNE, with canonical NaNs. -/
def recodeFloat (a b : Nat) (bs : List Byte) : List Byte :=
  bytesOf (elemBits b / 8) (roundVal b .rne 0 (decodeVal a (natOf bs))).1

/-- A Q4 block in register form (R142), dequantised (R144). -/
def dequant (ty : Nat) (bs : List Byte) : List Byte :=
  let sc := leAt bs 16 1
  (upTo 32).flatMap fun j =>
    let x : FVal := if sc == 255 then .nan false
      else (decodeQ4 (fld (leAt bs (j / 2) 1) (4 * (j % 2)) 4)).scale ((sc : Int) - 127)
    bytesOf (elemBits ty / 8) (roundVal ty .rne 0 x).1

/-- What one input unit becomes (R251). -/
def xfUnit (xf : Nat) (bs : List Byte) : List Byte := match xf with
  | 2 => bs.reverse
  | 3 => bs.reverse
  | 4 => bs.reverse
  | 5 => transpose4 4 bs
  | 6 => transpose4 2 bs
  | 7 => recodeFloat 9 11 bs
  | 8 => recodeFloat 11 9 bs
  | 9 => recodeFloat 9 10 bs
  | 10 => recodeFloat 10 9 bs
  | 11 => dequant 11 bs
  | 12 => dequant 9 bs
  | _ => bs

/-- A payload in units of n bytes. -/
def unitsOf (n : Nat) : Nat → List Byte → List (List Byte)
  | 0, _ => []
  | fuel + 1, bs => if bs.isEmpty then [] else bs.take n :: unitsOf n fuel (bs.drop n)

/-- Transform 13 (R251): 256 bytes and the chunks that failed. A descriptor is malformed where a reserved bit is
set, or where its run does not hold the stream that follows; a raw block is whole. -/
def decompress (bs : List Byte) : Option (List Byte × BitVec 4) :=
  let d := leAt bs 0 4
  let st := bs.drop 4
  let n := 32 * (fld d 0 3 + 1)
  if bs.length < 4 || fld d 5 27 != 0 || n < st.length then none
  else if bit d 4 then if st.length == 256 then some (st, 0) else none
  else
    let cs := decodeBlock (bit d 3) (padTo n st)
    some (cs.flatMap fun c => (c.getD (List.replicate 16 0)).flatMap (bytesOf 4),
      BitVec.ofNat 4 (ofBits (cs.map Option.isNone)))

/-- A message's payload as it lands (R251, R252), with the chunks that failed; none where it is diverted. -/
def transformed (xf : Nat) (bs : List Byte) : Option (List Byte × BitVec 4) :=
  if 14 ≤ xf then none
  else if xf == 13 then decompress bs
  else if bs.length % xfIn xf != 0 || 256 < bs.length / xfIn xf * xfOut xf then none
  else some ((unitsOf (xfIn xf) bs.length bs).flatMap (xfUnit xf), 0)

end Sys2Proof.Machine
end

