-- ==== Sys2Proof/Machine/Base.lean ====
section
/-! DEFINITION. What every meaning is written with: the monad of a unit and its ways to stop, the
issuing context, the supervisor queue (20 R403, 13 R294), and heap translation (14 R306, R307). -/

namespace Sys2Proof.Machine

/-! ## Units -/

/-- How a unit stops short. -/
inductive Stop where
  /-- a trap (R62, R227): cause, TRAPVAL, TRAPPTR's register, and a RANGEFLAG that survives (R168) -/
  | trap (cause val : Nat) (ptr : Option (Fin 16)) (flag : Option DWord)
  /-- not ready, under a stall identity (R337); the unit has no effect -/
  | wait (id : Nat)
  /-- a waiting access whose condition failed at this byte offset (R182) -/
  | park (need : Need) (failed : Nat)
  /-- a COPY request now at its unit (R261): guard count and block register -/
  | copyReq (guard : Word) (p : Fin 16)
  /-- PAGE at a heap address, by its number, for an attribute of R306 (R228), with TRAPVAL and TRAPPTR's
  register -/
  | page (k need val : Nat) (ptr : Option (Fin 16))
  /-- a sift waits: for a heap page that is not mapped (R302), or for its drain (R177); with the pads that sift,
  innermost first -/
  | siftPage (k : Option Nat) (pads : List Nat)
  /-- a block of a cluster pad whose chunks fail must be filled first (R249) -/
  | fill (clu blk : Nat)
  /-- a sift found no room: the activations of a partition on a die, and the pad, are lost (R305) -/
  | siftFull (die part pad : Nat)
  /-- ECC or SIGNATURE: rollback (R61), with its cause and TRAPVAL -/
  | rollback (cause val : Nat)
  /-- WINDOW met by SAVEW after some units: those stay written (R94) -/
  | window
  deriving DecidableEq, Repr

/-- A unit's work on the state: it answers or stops, with the state it reached. A trap discards that
state (R7); a wait at a home keeps it. -/
abbrev M (α : Type) := EStateM Stop State α

/-- The work, with at most n blocks of a cluster pad that fail filled before it (R249). -/
def M.fillFirst {α : Type} (m : M α) : Nat → M α
  | 0 => m
  | n + 1 => fun s => match m s with
    | .error (.fill clu blk) _ => M.fillFirst m n (s.expand clu blk false)
    | r => r

/-- The sectors and block headers that have an uncorrectable error. -/
def State.badCodes (s : State) : Nat :=
  s.clusters.foldl (fun n e => n + e.2.badSect.length + e.2.badHdr.length) 0

/-- The work for an engine, for which blocks are filled as it meets them. -/
def M.filled {α : Type} (m : M α) : M α := fun s => M.fillFirst m s.badCodes s

/-- The work for an engine: its answer and state where it does not stop. -/
def M.try? {α : Type} (m : M α) (s : State) : Option (α × State) :=
  match M.filled m s with
  | .ok a s => some (a, s)
  | .error _ _ => none

/-- The work of an agent that acts for context x of core c; the context that issues is the same after it. -/
def M.as {α : Type} (c : Nat) (x : Fin 8) (m : M α) (s : State) : EStateM.Result Stop State α :=
  match M.filled m { s with core := c, ctx := x } with
  | .ok a t => .ok a { t with core := s.core, ctx := s.ctx }
  | .error e t => .error e { t with core := s.core, ctx := s.ctx }

/-- TRAPCAUSE codes (R227). -/
def cILLEGAL : Nat := 0x01
def cPRIV : Nat := 0x02
def cPERM : Nat := 0x03
def cRANGE : Nat := 0x04
def cALIGN : Nat := 0x05
def cFEBUDGET : Nat := 0x06
def cLINKWIDTH : Nat := 0x07
def cWINDOW : Nat := 0x08
def cPADFULL : Nat := 0x09
def cPAGE : Nat := 0x0A
def cWDBLOCK : Nat := 0x0B
def cWDLINK : Nat := 0x0C
def cSIGNATURE : Nat := 0x0D
def cECC : Nat := 0x0E
def cPREEMPT : Nat := 0x0F
def cTIMER : Nat := 0x10
def cBREAK : Nat := 0x11
def cSYSCALL : Nat := 0x12
def cHBUDGET : Nat := 0x13

/-- Stall identities (R337). -/
def sNOREADY : Nat := 0
def sQEMPTY : Nat := 1
def sQFULL : Nat := 2
def sLINK : Nat := 3
def sFEWAIT : Nat := 4
def sSTREAM : Nat := 7
def sMATRIX : Nat := 8
def sCOPYSLOT : Nat := 9
def sEVENT : Nat := 12
def sREMOTE : Nat := 13
def sSIFT : Nat := 14
def sFENCE : Nat := 15

/-- Trap(cause) of R8. -/
def trap {α : Type} (cause : Nat) (val : Nat := 0) (ptr : Option (Fin 16) := none) : M α :=
  throw (.trap cause val ptr none)

/-- The unit is not ready (R100). -/
def wait {α : Type} (id : Nat) : M α := throw (.wait id)

/-- Trap unless a condition holds. -/
def require (ok : Bool) (cause : Nat) (val : Nat := 0) (ptr : Option (Fin 16) := none) : M Unit :=
  if ok then pure () else trap cause val ptr

/-- A page fault inside an access is one at this offset of this pointer register (R227, R228). -/
def atOff {α : Type} (r : Fin 16) (off : Nat) (m : M α) : M α :=
  tryCatch m fun
    | .page k need _ _ => throw (.page k need off (some r))
    | e => throw e

/-- The issuing context. -/
def me : M Ctx := do
  let s ← get
  pure (s.ctxAt s.core s.ctx)

/-- The issuing context changed by f. -/
def modMe (f : Ctx → Ctx) : M Unit := modify fun s => s.updCtx s.core s.ctx f

/-- The issuing context's core. -/
def myCore : M Core := do
  let s ← get
  pure (s.coreAt s.core)

/-- The issuing context's core changed by f. -/
def modCore (f : Core → Core) : M Unit := modify fun s => s.updCore s.core f

/-- A routine is privileged when its class entry has priv, or while TS = 1 (R63). -/
def Ctx.privileged (x : Ctx) : Bool := x.mode || x.ts

/-- A die is halted (R354). -/
def State.halted (s : State) (d : Nat) : Bool := bit (s.dieAt d).dbg.toNat 1

/-- A place in a pad of a halted die (R355). -/
def State.padHeld (s : State) (p : PReg) : Bool := p.tag && p.lvl ≤ 2 && s.halted p.die

/-- An outcome of the machine. -/
abbrev Out := Host.Outcome State Fault Refusal

/-- Recovery (R398). -/
def Package.recovery (p : Package) : Bool := bit p.bootstat.toNat 7

/-- A write of a management register that is an event of its own; recovery serves none (R398). -/
def managed (f : State → Out) (s : State) : Out := if s.pkg.recovery then .next s else f s

/-- An event that reads code words: what disturbs them is the next of upsets, or nothing (log 18). -/
def struck (f : Upset → State → Out) (s : State) : Out := f (s.upsets.headD .none) { s with upsets := s.upsets.drop 1 }

/-- A crossbar beat of core c's cluster had an error that was corrected: CLUERR counts it (R295). -/
def State.countBeat (s : State) (c : Nat) : State := s.updClu (coreClu c) fun u =>
  let v := u.cluerr.toNat
  { u with cluerr := BitVec.ofNat 64 (setFld v 32 32 (min (fld v 32 32 + 1) (2 ^ 32 - 1))) }

/-- A management access: what it reaches is the next of accesses, or a register (log 37). -/
def reaching (f : Access → State → Out) (s : State) : Out :=
  f (s.accesses.headD .register) { s with accesses := s.accesses.drop 1 }

/-! ## Counters (R338-R341)

Refused issues and the ck of a core's turns are counted as they happen; the ck that the model does not follow are added
as free numbers when a counter is read, and when it stops (log 3). -/

/-- Context x of core c counts (R338): it holds an activation that is neither suspended nor stopped, and its die is not
halted. -/
def State.counting (s : State) (c : Nat) (x : Fin 8) : Bool :=
  let q := s.ctxAt c x
  !(s.coreAt c).stopped && !s.halted (coreDie c) && match q.run with
    | .free => false
    | .paged _ _ => false
    | _ => true

/-- A context's bank comes up to date. -/
def State.tallyCtx (s : State) (c : Nat) (x : Fin 8) : State :=
  if !s.counting c x then s else
  { s.updCtx c x fun q =>
      { q with stalls := (upTo 16).foldl (fun m i =>
          SMap.set 0 m i (SMap.get 0 m i + Config.count (s.fresh + i))) q.stalls } with fresh := s.fresh + 16 }

/-- A core's own counters come up to date: none counts while it is stopped, or its die halted (R341). -/
def State.tallyCore (s : State) (c : Nat) : State :=
  if (s.coreAt c).stopped || s.halted (coreDie c) then s else
  { s.updCore c fun k =>
      { k with
        runck := k.runck + Config.count s.fresh
        searchck := k.searchck + Config.count (s.fresh + 1)
        idleck := k.idleck + Config.count (s.fresh + 2) } with fresh := s.fresh + 3 }

/-! ## Events in progress -/

/-- An event becomes due after n ck (log 1). -/
def State.later (s : State) (n : Nat) (e : Due) : State :=
  { s with pending := s.pending ++ [(s.ck + n, e)] }

/-- An event becomes due after n ck, unless it is due by then already. -/
def State.soon (s : State) (n : Nat) (e : Due) : State :=
  if s.pending.any fun p => p.2 == e && p.1 ≤ s.ck + n then s else s.later n e

/-! ## Translation (R305-R307) -/

/-- The partition of a heap number. -/
def partOf (k : Nat) : Nat := spaceOf k - 8192
/-- The stack of a virtual heap address. -/
def stackOf (va : Nat) : Nat := fld va 41 2
/-- The page of a virtual heap address: its 64 KiB unit. -/
def pageOf (va : Nat) : Nat := va / 65536

/-- Attribute bits of an entry (R306): 0 V, 1 R, 2 W, 3 XW. -/
def aV : Nat := 0
def aR : Nat := 1
def aW : Nat := 2
def aXW : Nat := 3

/-- A 64-bit table entry in a stack's memory, cleared by the table ECC when poisoned (R406). -/
def State.tableEntry (s : State) (d st a : Nat) : Nat :=
  let k := stackBase d st + a
  if s.mem.isPoisoned k then 0 else natOf (s.mem.read k 8)

/-- A valid non-leaf entry's next table. -/
def nextTable (e : Nat) : Option Nat :=
  if bit e 0 && fld e 1 5 == 0 && fld e 6 2 == 0 && fld e 40 24 == 0 then some (fld e 8 32 * 256)
  else none

/-- The addresses of the entries that a walk reads (R306). -/
def State.tablePath (s : State) (part va : Nat) : List Nat :=
  let d := fld va 43 2
  let st := stackOf va
  let a1 := (SMap.get 0 (s.dieAt d).stks[Fin.ofNat 3 st].turoot part).toNat * 256 + 8 * fld va 30 11
  a1 :: match nextTable (s.tableEntry d st a1) with
    | none => []
    | some t2 =>
      let a2 := t2 + 8 * fld va 21 9
      let e2 := s.tableEntry d st a2
      a2 :: match bit e2 4, nextTable e2 with
        | false, some t3 => [t3 + 8 * fld va 16 5]
        | _, _ => []

/-- The walk of R306: the leaf entry, its address, and whether it maps 2 MiB. -/
def State.walk (s : State) (part va : Nat) : Option (Nat × Nat × Bool) :=
  let d := fld va 43 2
  let st := stackOf va
  let root := (SMap.get 0 (s.dieAt d).stks[Fin.ofNat 3 st].turoot part).toNat * 256
  let e1 := s.tableEntry d st (root + 8 * fld va 30 11)
  match nextTable e1 with
  | none => none
  | some t2 =>
    let a2 := t2 + 8 * fld va 21 9
    let e2 := s.tableEntry d st a2
    if bit e2 0 && bit e2 4 then
      if fld e2 6 2 == 0 && fld e2 40 24 == 0 && fld e2 16 5 == 0 then some (e2, a2, true) else none
    else match nextTable e2 with
    | none => none
    | some t3 =>
      let a3 := t3 + 8 * fld va 16 5
      let e3 := s.tableEntry d st a3
      if bit e3 0 && fld e3 6 2 == 0 && fld e3 40 24 == 0 then some (e3, a3, false) else none

/-- The physical number that a leaf gives a virtual address (R306). -/
def leafKey (va leaf : Nat) (big : Bool) : Nat :=
  stackBase (fld va 43 2) (stackOf va) + fld leaf 16 20 * 65536 +
    (if big then fld va 0 21 else fld va 0 16)

/-- A cached translation (R306). -/
def State.cached (s : State) (part va : Nat) : Option TEntry :=
  (s.dieAt (fld va 43 2)).stks[Fin.ofNat 3 (stackOf va)].cache.find? fun e =>
    e.part == part && (e.page == pageOf va || (e.big && e.page / 32 == pageOf va / 32))

/-- A stack of a die changed by f. -/
def State.updStack (s : State) (d st : Nat) (f : Stack → Stack) : State :=
  s.updDie d fun v =>
    { v with stks := v.stks.set (Fin.ofNat 3 st).val (f v.stks[Fin.ofNat 3 st]) (Fin.ofNat 3 st).isLt }

/-- A walk's leaf enters the cache (R306); a full cache of 2,048 loses a line that no rule names
(log 11). A fresh page (Z) is first written as zero, empty and untagged, and Z is cleared. -/
def State.fillCache (s : State) (part va : Nat) (w : Nat × Nat × Bool) : State :=
  let (leaf, a, big) := w
  let d := fld va 43 2
  let st := stackOf va
  let base := stackBase d st + fld leaf 16 20 * 65536
  let s := if bit leaf 5 then
      let m := s.mem.wipe base (if big then 2 ^ 21 else 2 ^ 16)
      { s with mem := m.write (stackBase d st + a) (bytesOf 8 (setFld leaf 5 1 0)) }
    else s
  s.updStack d st fun v =>
    let c := if v.cache.length < 2048 then v.cache
      else v.cache.eraseIdx (Config.victim s.fresh % 2048)
    { v with cache := ⟨part, pageOf va, big, BitVec.ofNat 64 (setFld leaf 5 1 0)⟩ :: c }

/-- The physical number of a place, if it can be reached with an attribute, and the state after a
walk. -/
def State.translate (s : State) (k need : Nat) : Option (Nat × State) :=
  if !isHeap k then some (k, s) else
  let part := partOf k
  let va := locOf k
  match s.cached part va with
  | some e => if bit e.leaf.toNat need then some (leafKey va e.leaf.toNat e.big, s) else none
  | none =>
    match s.walk part va with
    | some w =>
      if bit w.1 need then some (leafKey va w.1 w.2.2, s.fillCache part va w) else none
    | none => none

/-- An access to n bytes of a cluster pad goes through its expander, and waits for a block that is held or that fails
(R241, R245, R249). -/
def serve (k n : Nat) (dirty : Bool) : M Unit := do
  if levelOf k == 1 then
    let s ← get
    if s.heldBlock k n then wait sREMOTE
    match s.failingBlock k n with
    | some b => throw (.fill (cluOf k) b)
    | none => set (s.served k n dirty)

/-- The physical number of a place, for a unit: PAGE where there is none (R228). -/
def phys (k need : Nat) : M Nat := do
  serve k 1 false
  match (← get).translate k need with
  | some (p, s) => set s; pure p
  | none => throw (.page k need 0 none)

/-- The physical pieces of n bytes from k: (virtual, physical, length), cut at 64 KiB pages. -/
def pieces (need : Nat) : Nat → Nat → Nat → M (List (Nat × Nat × Nat))
  | 0, _, _ => pure []
  | fuel + 1, k, n => do
    if n == 0 then pure [] else
    if !isHeap k then
      serve k n (need == aW)
      pure [(k, k, n)]
    else
    let p ← phys k need
    let l := min n (65536 - k % 65536)
    let rest ← pieces need fuel (k + l) (n - l)
    pure ((k, p, l) :: rest)

/-- Pieces enough for n bytes. -/
def piecesOf (need k n : Nat) : M (List (Nat × Nat × Nat)) := pieces need (n / 65536 + 2) k n

/-! ## Injected errors (R233-R236) -/

/-- ERRINJ of core c, where it is armed on an array (R235). -/
def State.armed (s : State) (c arr : Nat) : Option Nat :=
  let v := s.coreReg c 0x3A
  if bit v 36 && fld v 0 8 == arr then some v else none

/-- ERRINJ's arm bit clears. -/
def State.disarm (s : State) (c : Nat) : State := s.setCoreReg c 0x3A (setFld (s.coreReg c 0x3A) 36 1 0)

/-- The bits of a word of n bits that an injection flips. -/
def flipMask (v n : Nat) : Nat :=
  2 ^ (fld v 28 6 % n) ||| (if bit v 35 then 2 ^ ((fld v 28 6 + 1) % n) else 0)

/-- An error log after an error (R234): an uncorrectable one overwrites a correctable record, a correctable one is
recorded while V = 0, and any other sets OVF. -/
def errLog (v : Nat) (ue inj : Bool) (syn addr ctxid : Nat) : Nat :=
  let cec := if ue then fld v 49 15 else min (fld v 49 15 + 1) 0x7FFF
  let free := if ue then !(bit v 0 && bit v 1) else !bit v 0
  let w := if free then 1 + ue.toNat * 2 + (bit v 2).toNat * 4 + inj.toNat * 8 + syn % 256 * 2 ^ 8 +
      addr % 2 ^ 20 * 2 ^ 16 + ctxid % 2 ^ 13 * 2 ^ 36
    else setFld (v % 2 ^ 49) 2 1 1
  w + cec * 2 ^ 49

/-- An error of a core's array is recorded (R234). Every one that the model knows was injected. -/
def State.logError (s : State) (c arr : Nat) (ue : Bool) (addr ctxid : Nat) : State :=
  s.setCoreReg c (0x30 + arr) (errLog (s.coreReg c (0x30 + arr)) ue true 0 addr ctxid)

/-- An error below the core is recorded in PKGERR (R406), with its array code in the syndrome field (log 40). -/
def State.logPkg (s : State) (code : Nat) (ue : Bool) (addr die : Nat) : State :=
  s.updPkg fun p => { p with pkgerr := BitVec.ofNat 64 (errLog p.pkgerr.toNat ue false code addr (die * 2 ^ 11)) }

/-- The errors of an array among some indices meet their consumer: they are recorded and gone. -/
def State.meetFlips (s : State) (c arr ctxid : Nat) (at_ : Nat → Bool) : State :=
  let hit := fun (f : Nat × Nat × Bool) => f.1 == arr && at_ f.2.1
  let fs := (s.coreAt c).flips.filter hit
  if fs.isEmpty then s else
  let s := s.updCore c fun k => { k with flips := k.flips.filter fun f => !hit f }
  fs.foldl (fun s f => s.logError c arr f.2.2 f.2.1 ctxid) s

/-! ### Registers and queues: arrays 3 to 6

The spec counts their words and gives no order of them (log 40). Array 3: 128 registers of the pool for each context,
which its stack of windows goes round. Array 4: 64 numbers for each context, g0-g7, p0-p15, m0-m7 and tm0-tm7. Array 5:
256 for each, eight for each vector register. Array 6: a number for each slot of the scalar queues, counted from the
head, then eight for each slot of the vector queues. -/

/-- Register code r, 0-31, of a context: its array and its index; stack counts the registers below the window. -/
def regCode (x stack r : Nat) : Nat × Nat :=
  if r < 24 then (3, 128 * x + (stack + r) % 128) else (4, 64 * x + (r - 24))
/-- The index in array 4 of pointer register r. -/
def ptrCode (x r : Nat) : Nat := 64 * x + 8 + r
/-- The index in array 4 of lane mask m. -/
def maskCode (x m : Nat) : Nat := 64 * x + 24 + m
/-- The index in array 4 of tensor map register t. -/
def mapCode (x t : Nat) : Nat := 64 * x + 32 + t
/-- The index in array 5 of vector register r's first 64 bits. -/
def vecCode (x r : Nat) : Nat := 256 * x + 8 * r
/-- The index in array 6 of a slot of queue n, 0-7: of its first 64 bits. -/
def slotCode (n slot : Nat) : Nat := if n < 4 then 8 * n + slot else 32 * n - 96 + 8 * slot
/-- The words of a slot of queue n. -/
def slotWords (n : Nat) : Nat := if n < 4 then 1 else 8
/-- The number that follows queue n's last. -/
def slotEnd (n : Nat) : Nat := slotCode n (if n < 4 then 8 else 4)

/-- An array of registers or queues. -/
def regArray (a : Nat) : Bool := 3 ≤ a && a ≤ 6

/-- No word of core c's registers and queues has an error, and none is to get one. -/
def State.codesClean (s : State) (c : Nat) : Bool :=
  !((s.coreAt c).flips.any fun f => regArray f.1) &&
    !(bit (s.coreReg c 0x3A) 36 && regArray (fld (s.coreReg c 0x3A) 0 8))

/-- n words of an array of the issuing core, from index i on, are read: a correctable error is corrected and recorded,
an uncorrectable one rolls the reader back (R233). -/
def consume (arr i : Nat) (n : Nat := 1) : M Unit := do
  let s ← get
  if s.codesClean s.core then pure () else
  let mine := fun (k : Nat) => i ≤ k && k < i + n
  let bad := (s.coreAt s.core).flips.any fun f => f.1 == arr && mine f.2.1 && f.2.2
  set (s.meetFlips s.core arr (s.ctxId s.core s.ctx) mine)
  if bad then throw (.rollback cECC arr)

/-- x as it is written to the words of an array of the issuing core from index i on, each of n bits: new code words
stand there, and an injection armed on one acts (R235). -/
def encoded (arr i n : Nat) {w : Nat} (x : BitVec w) : M (BitVec w) := do
  let s ← get
  if s.codesClean s.core then pure x else
  let last := i + (w + n - 1) / n
  let s := s.updCore s.core fun k => { k with flips := k.flips.filter fun f => !(f.1 == arr && i ≤ f.2.1 && f.2.1 < last) }
  set s
  match s.armed s.core arr with
  | none => pure x
  | some v =>
    let a := fld v 8 20
    if !(i ≤ a && a < last) then pure x else do
      let s := s.disarm s.core
      if bit v 34 then
        set s
        pure (x ^^^ BitVec.ofNat w (flipMask v n * 2 ^ (n * (a - i))))
      else
        set (s.updCore s.core fun k => { k with flips := k.flips ++ [(arr, a, bit v 35)] })
        pure x

/-- The head of queue n, 0-7, is gone, and the errors of the slots behind it with their entries come nearer. -/
def Core.popCodes (k : Core) (n : Nat) : Core :=
  if !k.flips.any (fun f => f.1 == 6) then k else
  let lo := slotCode n 0
  let w := slotWords n
  { k with flips := k.flips.filterMap fun f =>
      if f.1 != 6 || f.2.1 < lo || slotEnd n ≤ f.2.1 then some f
      else if f.2.1 < lo + w then none else some (6, f.2.1 - w, f.2.2) }

/-- The head of queue n, 0-7, leaves it. -/
def Core.dropHead (k : Core) (n : Nat) : Core :=
  let k := k.popCodes n
  if n < 4 then
    let q := k.qs[Fin.ofNat 4 n]
    { k with qs := k.qs.set (Fin.ofNat 4 n).val { slots := q.slots.drop 1, head := none } (Fin.ofNat 4 n).isLt }
  else
    let q := k.qv[Fin.ofNat 4 n]
    { k with qv := k.qv.set (Fin.ofNat 4 n).val { slots := q.slots.drop 1, head := none } (Fin.ofNat 4 n).isLt }

/-- The registers of context x have new values: their errors are gone. -/
def Core.newCodes (k : Core) (x : Nat) : Core :=
  if k.flips.isEmpty then k else
  { k with flips := k.flips.filter fun f =>
      !((f.1 == 3 && f.2.1 / 128 == x) || (f.1 == 4 && f.2.1 / 64 == x) || (f.1 == 5 && f.2.1 / 256 == x)) }

/-- What a rollback keeps of the work that consumed an error: the logs, and an injection that the work triggered; a queue
entry in error is dropped (R233). -/
def State.keepLogs (s : State) (c : Nat) (t : State) : State :=
  let lost := (s.coreAt c).flips.filter fun f => f.1 == 6 && f.2.2 && !(t.coreAt c).flips.contains f
  let s := (upTo 11).foldl (fun s i => s.setCoreReg c (0x30 + i) (t.coreReg c (0x30 + i))) s
  { s with upsets := t.upsets }.updCore c fun k =>
    let k := { k with flips := (t.coreAt c).flips }
    (((upTo 8).filter fun n => lost.any fun f => slotCode n 0 ≤ f.2.1 && f.2.1 < slotEnd n).foldl Core.dropHead k)

/-- What a trap keeps of the work that it ended (R7): the errors that the work met are recorded and gone (R234), and a
weight block that it fetched has taken its injection (R235). -/
def State.keepMet (s t : State) : State :=
  if t.mgmt == s.mgmt && s.cores.all fun e => (t.coreAt e.1).flips == (s.coreAt e.1).flips then s else
  s.cores.foldl (fun u e =>
    let inj := s.coreReg e.1 0x3A
    if e.2.flips.isEmpty && !bit inj 36 then u else
    let u := (upTo 10).foldl (fun u i => u.setCoreReg e.1 (0x30 + i) (t.coreReg e.1 (0x30 + i))) u
    let u := if fld inj 0 8 == 8 then u.setCoreReg e.1 0x3A (t.coreReg e.1 0x3A) else u
    u.updCore e.1 fun k => { k with flips := k.flips.filter (t.coreAt e.1).flips.contains }) s

/-- A place in a local store or a routine store: the core, its array (R233), the bytes of a word, and the words among l
bytes there; none elsewhere. -/
def codeWords (p l : Nat) : Option (Nat × Nat × Nat × (Nat → Bool)) :=
  let sp := spaceOf p
  if 1024 ≤ sp && (sp < 4096 || 5120 ≤ sp) then none else
  let arr := if sp < 1024 then 0 else 1
  let n := if arr == 0 then 8 else 4
  some (sp % 1024, arr, n, fun w => w * n < locOf p + l && locOf p < w * n + n)

/-- New code words stand in l bytes at physical place p: the errors of the old ones are gone, but where a word that is
written in part stays poisoned (R233, R235). -/
def State.newWords (s : State) (p l : Nat) : State :=
  match codeWords p l with
  | none => s
  | some (c, arr, n, inside) =>
    if (s.coreAt c).flips.isEmpty then s else s.updCore c fun k =>
    { k with flips := k.flips.filter fun f =>
        !(f.1 == arr && inside f.2.1 && !(f.2.2 && s.mem.isPoisoned (p - locOf p + f.2.1 * n))) }

/-- A write of l bytes at physical place p has been made: new code words stand there, and an injection armed on
a 64-bit word of this local store, or a 32-bit word of this routine store, acts (R235). An uncorrectable error
poisons the granule for its consumer, and the patrol scrubber, which comes round at every multiple of 2^24 ck, corrects
another in a local store (R233, log 45). -/
def State.wrote (s : State) (p l : Nat) : State :=
  let s := s.newWords p l
  match codeWords p l with
  | none => s
  | some (c, arr, n, inside) =>
  match s.armed c arr with
  | none => s
  | some v =>
    let w := fld v 8 20
    if !inside w then s else
    let k := p - locOf p + w * n
    let s := s.disarm c
    if bit v 34 then
      s.updMem fun m => m.write k (bytesOf n (natOf (m.read k n) ^^^ flipMask v (8 * n)))
    else
      let s := s.updCore c fun k => { k with flips := k.flips ++ [(arr, w, bit v 35)] }
      if bit v 35 then s.updMem fun m => m.setPoison k true
      else if arr == 0 then s.soon (2 ^ 24 - s.ck % 2 ^ 24) (.patrol c)
      else s

/-- The n bytes from place k, as they stand. -/
def readRaw (k n : Nat) : M (List Byte) := do
  let ps ← piecesOf aR k n
  let s ← get
  pure (ps.flatMap fun (_, p, l) => s.mem.read p l)

/-- A write into n bytes at place k revalidates the peers whose entries of the scale-out table it reaches (R427, R428). -/
def State.revalidated (s : State) (k n : Nat) : State :=
  if s.pkg.peers.all fun e => !e.2.down then s else
  let base := s.pkg.sotbase.key 0 + 1024
  { s with pkg := { s.pkg with peers := s.pkg.peers.map fun e =>
      (e.1, if k < base + 64 * e.1 + 64 && base + 64 * e.1 < k + n then { e.2 with down := false } else e.2) } }

/-- What follows a write into n bytes at place k: an operand buffer filled from the body that holds them empties
(R154). -/
def State.touched (s : State) (k n : Nat) : State :=
  let s := s.revalidated k n
  if s.cores.all fun e => e.2.opbuf.isNone then s else
  let hit := fun (b : OpBuf) => match s.mem.footOf b.place with
    | some f => s.mem.footOf k == some f || s.mem.footOf (k + n - 1) == some f
    | none => b.place < k + n && k < b.place + b.ptr.len
  { s with cores := s.cores.map fun e => (e.1, { e.2 with opbuf := e.2.opbuf.filter fun b => !hit b }) }

/-- Data is written into a cluster pad at place k, block by block: each block's bytes land in its entry before the next
block takes one (R245). -/
def writeBlocks (k : Nat) (bs : List Byte) : M Unit :=
  (blocksIn k bs.length).forM fun b => do
    let lo := max k (blockBase (cluOf k) b)
    let hi := min (k + bs.length) (blockBase (cluOf k) (b + 1))
    serve lo (hi - lo) true
    modify fun s => s.updMem fun m => m.store lo ((bs.drop (lo - k)).take (hi - lo))

/-- A write of data at place k (R165). -/
def writeRaw (k : Nat) (bs : List Byte) : M Unit := do
  if levelOf k == 1 then writeBlocks k bs else do
    let ps ← piecesOf aW k bs.length
    ps.forM fun (v, p, l) =>
      modify fun s => (s.updMem fun m => m.store p ((bs.drop (v - k)).take l)).wrote p l
  modify fun s => s.touched k bs.length

/-- For engines that never fault: the physical number of a place, or none. -/
def State.look (s : State) (k need : Nat) : Option Nat := (s.translate k need).map Prod.fst

/-! ## The supervisor queue (R403) -/

/-- The number of 64-byte entries of die d's ring; 0 where SQBASE names none. -/
def State.sqSize (s : State) (d : Nat) : Nat :=
  let p := (s.dieAt d).sqbase
  if p.tag && !s.malformed p && p.w && p.pn then p.len / 64 else 0

/-- Entries written and not consumed. -/
def Die.sqUsed (v : Die) : Nat := (v.sqtail.toNat + 2 ^ 32 - v.sqhead.toNat) % 2 ^ 32

/-- Dword i of the MSI-X table (R415, log 50): a vector's fourth dword is its control, whose mask bit resets to 1. -/
def Package.msixWord (p : Package) (i : Nat) : BitVec 32 := SMap.get (if i % 4 == 3 then 1 else 0) p.msixTab i

/-- Vector v is raised (R415): it goes to the host with its table entry's address and data, or is pending while it is
masked. -/
def State.raiseVec (s : State) (v : Nat) : State := s.updPkg fun p =>
  if bit (p.msixWord (4 * v + 3)).toNat 0 then { p with pba := p.pba.add v }
  else
    let at_ := (p.msixWord (4 * v)).toNat + (p.msixWord (4 * v + 1)).toNat * 2 ^ 32
    { p with outward := p.outward ++ [.msix v at_ (p.msixWord (4 * v + 2))] }

/-- Writes an entry at SQTAIL, and raises vector 256 (R403, R415); none where its page is not mapped. -/
def State.sqWrite (s : State) (d : Nat) (e : List Byte) : Option State :=
  let v := s.dieAt d
  let off := v.sqtail.toNat % (max (s.sqSize d) 1) * 64
  (s.look (v.sqbase.key 0 + off) aW).map fun k =>
    let s := s.updMem fun m => m.store k (padTo 64 e)
    let s := s.updDie d fun v => { v with sqtail := BitVec.ofNat 64 ((v.sqtail.toNat + 1) % 2 ^ 32) }
    s.raiseVec 256

/-- Held entries enter the ring as it has room for them (R403). -/
def State.sqDrain (s : State) (d : Nat) : Nat → State
  | 0 => s
  | n + 1 =>
    let v := s.dieAt d
    match v.sqheld with
    | [] => s
    | e :: es =>
      if s.sqSize d ≤ v.sqUsed then s else
      match (s.updDie d fun v => { v with sqheld := es }).sqWrite d e with
      | some s => s.sqDrain d n
      | none => s

/-- Entries join those that the queue holds, and enter the ring as far as they can. Those that find its page unmapped
are tried again (R388). -/
def State.sqJoin (s : State) (d : Nat) (es : List (List Byte)) : State :=
  let s := s.updDie d fun v => { v with sqheld := v.sqheld ++ es }
  let s := s.sqDrain d ((s.dieAt d).sqheld.length)
  let v := s.dieAt d
  if !v.sqheld.isEmpty && v.sqUsed < s.sqSize d then s.soon 64 .posts else s

/-- A containment record, with the message that follows it (R294): dropped and counted when the ring
has no room. -/
def State.sqRecord (s : State) (d : Nat) (es : List (List Byte)) : State :=
  let v := s.dieAt d
  if v.sqUsed + v.sqheld.length + es.length ≤ s.sqSize d then s.sqJoin d es
  else s.updDie d fun v => { v with sqovf := BitVec.ofNat 64 (min (v.sqovf.toNat + 1) (2 ^ 32 - 1)) }

/-- A page request or a report, which is held until an entry frees (R403). -/
def State.sqReport (s : State) (d : Nat) (e : List Byte) : State := s.sqJoin d [e]

/-- The fields of a containment record (R294). -/
structure Record where
  cause : Nat
  tcause : Nat := 0
  pc : Nat := 0
  capp : Nat := 0
  keyx : Nat := 0
  cls : Nat := 0
  wuid : Nat := 0
  at_ : Nat := 0
  sender : Nat := 0
  slot : Nat := 0
  msg : Bool := false
  det : Nat := 0
  deriving DecidableEq, Repr

/-- The 64 bytes of a containment record (R294). -/
def Record.bytes (r : Record) (time : Nat) : List Byte :=
  bytesOf 64 (r.cause % 256 + r.tcause % 256 * 2 ^ 8 + r.pc % 2 ^ 16 * 2 ^ 16 + r.capp % 2 ^ 32 * 2 ^ 32 +
    r.keyx % 2 ^ 32 * 2 ^ 64 + r.cls % 256 * 2 ^ 96 + r.wuid % 2 ^ 24 * 2 ^ 104 +
    r.at_ % 2 ^ 22 * 2 ^ 128 + r.sender % 2 ^ 22 * 2 ^ 160 + time % 2 ^ 64 * 2 ^ 192 +
    r.slot % 128 * 2 ^ 256 + (if r.msg then 2 ^ 263 else 0) + r.det % 256 * 2 ^ 264)

/-- A message's 32-byte header as rings, flits, slots and the supervisor queue hold it. The spec lists its
fields (03) and gives no layout (log 9): class, priority, transform, redelivery and length; slot,
partition, the SENDH mark, the refusals met and a bit that is always one; capability, route tag, WUID, sender,
destination and the number of the request. -/
def headerOf (o : OutMsg) (id : Nat) (refusals : Nat := 0) : List Byte :=
  let m := o.msg
  bytesOf 32 (m.cls.toNat + m.prio.toNat * 2 ^ 8 + m.xf.toNat * 2 ^ 14 + m.redel.toNat * 2 ^ 18 +
    m.body.length % 512 * 2 ^ 20 + m.slot.toNat * 2 ^ 32 + m.part.toNat * 2 ^ 39 +
    (if o.handler then 2 ^ 43 else 0) + min refusals 3 * 2 ^ 44 + 2 ^ 63 + m.cap.toNat * 2 ^ 64 + m.tag.toNat * 2 ^ 96 +
    m.wuid.toNat * 2 ^ 128 + m.sender.toNat * 2 ^ 160 + o.dst.toNat * 2 ^ 192 + id % 2 ^ 32 * 2 ^ 224)

/-- The header's length field. -/
def headerLen (h : List Byte) : Nat := fldAt h 20 9

/-- The message that a header and a payload describe. -/
def msgOf (h body : List Byte) : OutMsg :=
  { dst := BitVec.ofNat 22 (fldAt h 192 22)
    handler := bit (natOf h) 43
    msg := { cls := BitVec.ofNat 8 (fldAt h 0 8), prio := BitVec.ofNat 6 (fldAt h 8 6)
             xf := BitVec.ofNat 4 (fldAt h 14 4), redel := BitVec.ofNat 2 (fldAt h 18 2)
             slot := BitVec.ofNat 7 (fldAt h 32 7), part := BitVec.ofNat 4 (fldAt h 39 4)
             cap := BitVec.ofNat 32 (fldAt h 64 32), tag := BitVec.ofNat 32 (fldAt h 96 32)
             wuid := BitVec.ofNat 24 (fldAt h 128 24), sender := BitVec.ofNat 22 (fldAt h 160 22)
             body := body.take (headerLen h) } }

/-- A diverted message's entries: its header, then its payload (R294), in 64-byte entries. -/
def chunks64 : Nat → List Byte → List (List Byte)
  | 0, _ => []
  | n + 1, bs => if bs.isEmpty then [] else padTo 64 bs :: chunks64 n (bs.drop 64)

/-- A containment fault (R294): its record goes to the supervisor queue of the die, followed by the
message it diverts; causes 1 and 2 are counted in CAPFAULT. -/
def State.contain (s : State) (core : Nat) (r : Record) (m : Option Msg := none) : State :=
  let es := match m with
    | none => []
    | some m => chunks64 6 (headerOf { msg := m } 0 ++ m.body)
  let rec_ := { r with msg := m.isSome }.bytes s.pkg.time.toNat
  let s := s.sqRecord (coreDie core) (rec_ :: es)
  if r.cause == 1 || r.cause == 2 then
    s.updClu (coreClu core) fun c =>
      { c with capfault := if c.capfault == 0xFFFFFFFF#32 then c.capfault else c.capfault + 1 }
  else s

/-- The supervisor queue's page request (R403): partition, CTXID and virtual address. -/
def pageRequest (part ctxid va time : Nat) : List Byte :=
  bytesOf 64 (64 + part % 16 * 2 ^ 8 + ctxid % 2 ^ 22 * 2 ^ 128 + time % 2 ^ 64 * 2 ^ 192 +
    va % 2 ^ 45 * 2 ^ 256)

/-- A translation fault (R307): the first on a page sends a page request; later ones join the fault
list; one that finds the list of 256 full is presented again every 1,024 ck. A table entry in error on the way is
recorded (R406). -/
def State.pageFault (s : State) (k need ctxid : Nat) (who : PageWaiter) : State :=
  let part := partOf k
  let va := locOf k
  let d := fld va 43 2
  let st := stackOf va
  let s : State := match (s.tablePath part va).find? fun a => s.mem.isPoisoned (stackBase d st + a) with
    | some a => s.logPkg 17 true (a / 8) d
    | none => s
  let q := (s.dieAt d).stks[Fin.ofNat 3 st]
  let f : PageFault := ⟨part, pageOf va, need, who⟩
  if q.faults.length < 256 then
    let first := !q.faults.any fun g => g.part == part && g.page == pageOf va
    let s := s.updStack d st fun v => { v with faults := v.faults ++ [f] }
    if first then s.sqReport d (pageRequest part ctxid va s.pkg.time.toNat) else s
  else
    let s := if q.waiting.isEmpty then s.later 1024 (.faults (3 * d + st)) else s
    s.updStack d st fun v => { v with waiting := v.waiting ++ [f] }

end Sys2Proof.Machine
end

