-- ==== Sys2Proof/Machine/Object.lean ====
section
/-! DEFINITION. Objects: headers and forwarding (07 R166, R175), pads and allocation (07 R169-R172, 14
R296-R305), sifts (07 R177, 14 R299-R303) and escape (07 R176, 14 R298). -/

namespace Sys2Proof.Machine

/-! ## Pads (R169, R296)

A pad is numbered: core c's is c, cluster k's 1024 + k, region r of die d 2048 + 8d + r. -/

/-- The level of a pad. -/
def padLevel (i : Nat) : Nat := if i < 1024 then 0 else if i < 2048 then 1 else 2
/-- The die of a pad. -/
def padDie (i : Nat) : Nat :=
  if i < 1024 then i / 256 else if i < 2048 then (i - 1024) / 16 else (i - 2048) / 8
/-- The space that a pad lies in. -/
def padBase (i : Nat) : Nat :=
  if i < 1024 then localBase i else if i < 2048 then cluBase (i - 1024) else dieBase ((i - 2048) / 8)

/-- A pad's registers. -/
def State.pad (s : State) (i : Nat) : PadRegs :=
  if i < 1024 then
    { lo := s.coreReg i 0, hi := s.coreReg i 1, hwm := s.coreReg i 2, bump := s.coreReg i 3,
      pinLo := s.coreReg i 4, pinHi := s.coreReg i 5, pinBump := s.coreReg i 6,
      rootTab := s.coreReg i 7, owner := (s.cluAt (i / 16)).pad.owner }
  else if i < 2048 then (s.cluAt (i - 1024)).pad
  else (s.dieAt ((i - 2048) / 8)).regs[Fin.ofNat 8 (i - 2048)]

/-- A pad's bump pointers become those of p. -/
def State.setPad (s : State) (i : Nat) (p : PadRegs) : State :=
  if i < 1024 then (s.setCoreReg i 3 p.bump).setCoreReg i 6 p.pinBump
  else if i < 2048 then s.updClu (i - 1024) fun c => { c with pad := p }
  else s.updDie ((i - 2048) / 8) fun v =>
    { v with regs := v.regs.set (Fin.ofNat 8 (i - 2048)).val p (Fin.ofNat 8 (i - 2048)).isLt }

/-- The pad is owned by a partition (R297). -/
def PadRegs.ownedBy (p : PadRegs) (part : Nat) : Bool :=
  bit p.owner.toNat 4 && fld p.owner.toNat 0 4 == part

/-- The die's state of R311: 0 online, 1 shuttered, 2 offline. -/
def Die.st (v : Die) : Nat := fld v.cmd.toNat 4 2

/-- The lowest-numbered enabled region of a die that a partition owns (R297). -/
def State.region (s : State) (d part : Nat) : Option Nat :=
  (((upTo 8).map fun r => 2048 + 8 * d + r).filter fun i => (s.pad i).ownedBy part).head?

/-- The pad that a number in the bump or pinned region of a pad lies in. -/
def State.padOf (s : State) (k : Nat) : Option Nat :=
  match levelOf k with
  | 0 => some (spaceOf k)
  | 1 => some (spaceOf k)
  | 2 =>
    let d := spaceOf k - 2048
    ((upTo 8).map fun r => 2048 + 8 * d + r).find? fun i =>
      let p := s.pad i
      (p.lo ≤ locOf k && locOf k < p.hi) || (p.pinLo ≤ locOf k && locOf k < p.pinHi)
  | _ => none

/-! ## Headers -/

/-- Errors of a local store among l bytes at a physical place meet their consumer (R233). -/
def State.meetLocal (s : State) (p l : Nat) : State :=
  if 1024 ≤ spaceOf p then s
  else s.meetFlips (spaceOf p) 0 (s.ctxId s.core s.ctx) fun w => w * 8 < locOf p + l && locOf p < w * 8 + 8

/-- The header of the footprint at f, or none where it has an uncorrectable error (R179); the errors of a local store
in it are met. Every access reads it, whatever attribute its own bytes need (R306), so that its page need only be
valid. -/
def header? (f : Nat) (need : Nat := aV) : M (Option Header) := do
  let p ← phys f need
  modify fun s => s.meetLocal p 16
  let s ← get
  pure (if s.mem.isPoisoned p then none else some (Header.ofNat (natOf (s.mem.read p 16))))

/-- The header of the footprint at f, consumed: an uncorrectable error rolls the consumer back (R233). -/
def header (f : Nat) : M Header := do
  match ← header? f with
  | some h => pure h
  | none => throw (.rollback cECC 0)

/-- The header of the footprint at f becomes h, with an attribute of its page (R306): a new code word stands there
(R235). -/
def putHeader (f : Nat) (h : Header) (need : Nat := aW) : M Unit := do
  let p ← phys f need
  modify fun s => ((s.updMem fun m => (m.write p (bytesOf 16 h.toNat)).setPoison p false).wrote p 16).served f 16 true

/-- The loc field that names a footprint (R166). -/
def locField (f : Nat) : Nat := (placeFields f).2.1 / 32

/-- Where the byte at place k of an object now is, after forwarding (R175). -/
def follow : Nat → Nat → M Nat
  | 0, k => pure k
  | n + 1, k => do
    let s ← get
    match s.mem.footOf k with
    | none => pure k
    | some f =>
      let h ← header f
      if h.state == stForwarded then follow n (k - f + SMap.get f s.mem.fwd f) else pure k

/-- A header as an access finds it: an origin whose risen copy was lost is dead (R179). -/
def Header.found (h : Header) : Header := if h.state == stForwarded then { h with state := stDead } else h

/-- Where place k now is, with its footprint and header if it has one. -/
def locate (k : Nat) : M (Nat × Option (Nat × Header)) := do
  let k ← follow 4 k
  let s ← get
  match s.mem.footOf k with
  | none => pure (k, none)
  | some f => pure (k, some (f, (← header f).found))

/-- The core lies in the scope of a pad. -/
def inScope (i c : Nat) : Bool :=
  if i < 1024 then c == i else if i < 2048 then coreClu c == i - 1024 else coreDie c == (i - 2048) / 8

/-- A sift of a pad runs. -/
def State.siftRuns (s : State) (i : Nat) : Bool := s.sifts.any fun e => e.pads.contains i

/-- An access of the issuing core that was forwarded from place k to place k' is held: another core's sift moves what it
holds (R179). What a core in the sift's own scope has issued ends, since the sift waits for it (R177). -/
def State.siftHolds (s : State) (k k' : Nat) : Bool :=
  k' != k && levelOf k' == 0 && s.sifts.any fun e => e.pads.contains (spaceOf k') && !e.pads.any (inScope · s.core)

/-- locate, for an access: a halted die holds it at its port while the place lies in one of its pads (R355), and a core
that sifts holds what is forwarded to it (R179). -/
def locateUp (k : Nat) : M (Nat × Option (Nat × Header)) := do
  let r ← locate k
  let s ← get
  if levelOf r.1 ≤ 2 && s.halted (dieOf r.1) || s.siftHolds k r.1 then wait sREMOTE
  pure r

/-- The physical places of a new object's n bytes at f; in a cluster pad its whole blocks become zero blocks, and
the others are served (R240). -/
def newPieces (f n : Nat) : M (List (Nat × Nat × Nat)) := do
  if levelOf f != 1 then piecesOf aW f n else
  if (← get).heldBlock f 1 || (← get).heldBlock (f + n - 1) 1 then wait sREMOTE
  modify fun s => s.zeroBlocks f n
  serve f 1 true
  serve (f + n - 1) 1 true
  pure [(f, f, n)]

/-- A live object starts at f: zero, empty, untagged (R172). -/
def initObject (f n : Nat) (h : Header) : M Unit := do
  let ps ← newPieces f n
  ps.forM fun (_, p, l) => modify fun s => (s.updMem fun m => m.wipe p l).wrote p l
  modify fun s => s.updMem fun m =>
    { m with
      starts := (NSet.clear m.starts (f / 32) ((f + n) / 32)).add (f / 32)
      fwd := SMap.clear m.fwd f (f + n) }
  putHeader f h

/-- n units of 32 bytes move from src to dst with their bits. -/
def moveUnits : Nat → Nat → Nat → M Unit
  | 0, _, _ => pure ()
  | n + 1, src, dst => do
    let a ← phys src aR
    let b ← phys dst aW
    modify fun s => (((s.meetLocal a 32).updMem fun m => m.move a b 32).wrote b 32).served dst 32 true
    moveUnits n (src + 32) (dst + 32)

/-- n bytes move from src to dst with their bits; n is a multiple of 32. What passes through a translation unit or an
expander moves unit by unit. A local store's errors are met where they are read, and new code words stand where they are
written (R233, R235). -/
def moveBytes (src dst n : Nat) : M Unit :=
  if levelOf src == 0 || levelOf src == 2 then
    if levelOf dst == 0 || levelOf dst == 2 then
      modify fun s => ((s.meetLocal src n).updMem fun m => m.move src dst n).wrote dst n
    else moveUnits (n / 32) src dst
  else moveUnits (n / 32) src dst

/-- n bytes at off of a pointer's object, read in place where find finds them; bytes beyond len read zero. -/
def fetchBy (find : Nat → M (Nat × Option (Nat × Header))) (p : PReg) (part off n : Nat) : M (List Byte) := do
  let m := min n (p.len - off)
  if m == 0 then pure (List.replicate n 0) else
  let (k, _) ← find (p.key part + off)
  pure (padTo n (← readRaw k m))

/-- n bytes at off of a pointer's object, read in place by an engine: forwarding is followed. -/
def fetchObj : PReg → Nat → Nat → Nat → M (List Byte) := fetchBy locateUp

/-- What an engine reads as it stands: none where a page is not mapped. -/
def State.fetchObj? (s : State) (p : PReg) (part off n : Nat) : Option (List Byte) :=
  (M.try? (fetchBy locate p part off n) s).map Prod.fst

/-! ## Pointers everywhere -/

/-- The pointers of a context. -/
def Ctx.mapPtrs (φ : PReg → PReg) (x : Ctx) : Ctx :=
  { x with
    p := x.p.map φ
    holds := x.holds.map φ
    strm := x.strm.map fun b => b.map fun b => { b with ptr := φ b.ptr } }

/-- The pointers of a matrix command. -/
def MCmd.mapPtrs (φ : PReg → PReg) (c : MCmd) : MCmd :=
  { c with pa := φ c.pa, pb := φ c.pb, done := φ c.done }

/-- The pointers of a handler operation. -/
def HOp.mapPtrs (φ : PReg → PReg) : HOp → HOp
  | .amo op ty p x e r a l => .amo op ty (φ p) x e r a l
  | .arrive a b c d => .arrive a b c d

/-- The pointers of an entry of a run queue. -/
def Work.mapPtrs (φ : PReg → PReg) : Work → Work
  | .resume r => .resume { r with slot := φ r.slot }
  | w => w

/-- The pointers that a core holds. -/
def Core.mapPtrs (φ : PReg → PReg) (k : Core) : Core :=
  { k with
    ctxs := k.ctxs.map (Ctx.mapPtrs φ)
    runq := k.runq.map fun e => { e with work := e.work.mapPtrs φ }
    handler := k.handler.map fun h => { h with op := h.op.mapPtrs φ }
    cmds := k.cmds.map (MCmd.mapPtrs φ) }

/-- The pointers of a copy job. -/
def Job.mapPtrs (φ : PReg → PReg) (j : Job) : Job :=
  { j with src := φ j.src, dst := φ j.dst, rise := φ j.rise }

/-- The pointers of a copy unit's jobs and of its cached parameter blocks. -/
def CopyUnit.mapPtrs (φ : PReg → PReg) (u : CopyUnit) : CopyUnit :=
  { u with
    jobs := u.jobs.map (Job.mapPtrs φ)
    stopped := u.stopped.map (Job.mapPtrs φ)
    cache := u.cache.map fun l => { l with src := φ l.src, dst := φ l.dst, rise := φ l.rise } }

/-- The pointers of a request in flight. -/
def Req.mapPtrs (φ : PReg → PReg) (r : Req) : Req :=
  { r with load := match r.load with
    | .handler op => .handler (op.mapPtrs φ)
    | .matrix c => .matrix (c.mapPtrs φ)
    | l => l }

/-- The granule of memory numbered g, as a pointer. -/
def Memory.granule (m : Memory) (g : Nat) : PReg :=
  { bits := BitVec.ofNat 128 (natOf (m.read (16 * g) 16)), tag := m.isTagged (16 * g) }

/-- Every tagged granule, changed by φ: one of the heap names an object of a pad while a sift or an escape moves the two
one after the other, or where the object is pinned. -/
def Memory.mapPtrs (φ : PReg → PReg) (m : Memory) : Memory :=
  m.tags.foldl (fun m g =>
    let p := m.granule g
    let q := φ p
    if q = p then m else m.write (16 * g) (bytesOf 16 q.bits.toNat)) m

/-- The pointer registers of the management interface at core scope, changed by φ. -/
def State.mapMgmt (φ : PReg → PReg) (s : State) : State :=
  s.mtags.foldl (fun s o =>
    let p : PReg :=
      { bits := BitVec.ofNat 128 ((SMap.get 0 s.mgmt o).toNat + (SMap.get 0 s.mgmt (o + 8)).toNat * 2 ^ 64)
        tag := true }
    let q := φ p
    let lo := SMap.set 0 s.mgmt o (BitVec.ofNat 64 q.bits.toNat)
    { s with mgmt := SMap.set 0 lo (o + 8) (BitVec.ofNat 64 (q.bits.toNat / 2 ^ 64)) }) s

/-- Every pointer of the machine that a move of an object may concern, changed by φ (R174, R177, R300). Those in a
cluster pad change in the expander (R245). -/
def State.mapPtrs (φ : PReg → PReg) (s : State) : State :=
  let s := s.mapMgmt φ
  let s := s.mem.tags.foldl (fun s g =>
    if levelOf (16 * g) == 1 && φ (s.mem.granule g) != s.mem.granule g then s.marked (16 * g) 16 else s) s
  { s with
    cores := s.cores.map fun e => (e.1, e.2.mapPtrs φ)
    clusters := s.clusters.map fun e => (e.1, { e.2 with units := e.2.units.map (CopyUnit.mapPtrs φ) })
    reqs := s.reqs.map (Req.mapPtrs φ)
    subs := s.subs.map fun b => { b with ptr := φ b.ptr }
    posts := s.posts.map fun b => { b with ptr := φ b.ptr }
    mem := s.mem.mapPtrs φ
    pkg := { s.pkg with
      windows := s.pkg.windows.map fun e => (e.1, (φ e.2.1, e.2.2))
      orderQ := s.pkg.orderQ.map fun w => { w with ptr := φ w.ptr }
      launches := s.pkg.launches.map fun l => { l with ptrs := l.ptrs.map φ, blkptr := φ l.blkptr }
      records := s.pkg.records.map fun e => (e.1, (e.2.1, φ e.2.2))
      loading := s.pkg.loading.map fun l => { l with objs := l.objs.map φ } } }

/-- The pointer reaches a byte of the footprint of n bytes at f, and is not pinned. -/
def PReg.into (p : PReg) (f n : Nat) : Bool :=
  p.tag && !p.pn && p.lvl ≤ 2 && f + 16 ≤ p.key 0 && p.key 0 < f + n + 16

/-- A pointer into a footprint that moved from f to g keeps its offset (R177). -/
def PReg.rebase (f n g : Nat) (p : PReg) : PReg :=
  if p.into f n then p.moveTo (p.key 0 - f + g) else p

/-- A pointer into a dead footprint gets length zero (R177). -/
def PReg.deaden (f n : Nat) (p : PReg) : PReg :=
  if p.into f n then p.setF 64 40 0 else p

/-! ## Moving one object -/

/-- The entries of a home's node table (R184): 8, 256, 1,024 and 1,024 nodes. -/
def nodeRoom (k : Nat) : Nat :=
  match levelOf k with
  | 0 => 8
  | 1 => 256
  | _ => 1024

/-- The home whose node table serves a place (R184, R310). -/
def homeOf (k : Nat) : Nat := if isHeap k then 3072 + 3 * fld k 43 2 + stackOf k else spaceOf k

/-- The nodes in use at a home. -/
def State.nodesAt (s : State) (h : Nat) : Nat := (s.nodes.filter fun n => homeOf n.foot == h).length

/-- A waiter's phase changed. -/
def Ctx.setPhase (x : Ctx) (ph : Phase) : Ctx :=
  match x.run with
  | .waiting w => { x with run := .waiting { w with phase := ph } }
  | _ => x

/-- The header of the footprint at f names the first node of its list (R166): in a held block, once it has been written
back (R241). -/
def State.setSill (s : State) (f : Nat) : State :=
  if !s.mem.starts.has (f / 32) || s.heldBlock f 16 then s else
  match s.look f aR with
  | none => s
  | some p => (s.served f 16 true).putSill f p

/-- The nodes become ns, and the headers of the footprints among fs name the first of their lists. -/
def State.setNodes (s : State) (ns : List Node) (fs : List Nat) : State :=
  fs.foldl State.setSill { s with nodes := ns }

/-- The lowest index that is free in a home's node table. -/
def freeNode (ns : List Node) (home : Nat) : Nat :=
  let used := (ns.filter fun n => homeOf n.foot == home).map Node.idx
  ((upTo (used.length + 1)).map (· + 1)).find? (fun i => !used.contains i) |>.getD 0

/-- A node of a footprint's home joins the end of its list. -/
def joinNode (ns : List Node) (n : Node) : List Node := ns ++ [{ n with idx := freeNode ns (homeOf n.foot) }]

/-- Nodes on the list of the object at f move to the table of its new home in list order; one that finds
no room becomes a spinner (R184). -/
def State.moveNodes (s : State) (f g : Nat) : State :=
  let mine := s.nodes.filter fun n => n.foot == f
  if mine.isEmpty then s else
  let others := s.nodes.filter fun n => n.foot != f
  let room := nodeRoom g - (others.filter fun n => homeOf n.foot == homeOf g).length
  let ns := (mine.take room).foldl (fun ns n => joinNode ns { n with foot := g }) others
  (mine.drop room).foldl (fun s n => (s.updCtx n.core n.ctx (·.setPhase .spinner)).later 8 (.recheck n.core n.ctx.val))
    (s.setNodes ns [f, g])

/-- What an operand buffer was filled from is now at g. -/
def State.moveBuffers (s : State) (f n g : Nat) : State :=
  if s.cores.all fun e => e.2.opbuf.isNone then s else
  { s with cores := s.cores.map fun e => (e.1, { e.2 with opbuf := e.2.opbuf.map fun b =>
      if f ≤ b.place && b.place < f + n + 16 then { b with place := b.place - f + g } else b }) }

/-- What names a footprint by its place follows it: pointers, nodes, operand buffers, allocation records and cached
parameter blocks. -/
def State.moved (s : State) (f n g : Nat) : State :=
  let s := ((s.mapPtrs (PReg.rebase f n g)).moveNodes f g).moveBuffers f n g
  { s with
    cores := s.cores.map fun e => (e.1, { e.2 with ctxs := e.2.ctxs.map fun x =>
      { x with news := x.news.map fun a => if a == f then g else a } })
    clusters := s.clusters.map fun e => (e.1, { e.2 with units := e.2.units.map fun u =>
      { u with
        cache := u.cache.filter fun l => l.key < f || f + n ≤ l.key
        jobs := u.jobs.map fun j => { j with olds := [] } } }) }

/-- The core that names a pad in a record. -/
def padCore (i : Nat) : Nat := if i < 1024 then i else if i < 2048 then 16 * (i - 1024) else 256 * padDie i

/-- An object's footprint of n bytes at f, whose header has an uncorrectable error, is treated as dead: a containment
record that names core c goes to the supervisor queue, and pointers to it get length zero (R179, R294). -/
def State.deadHeader (s : State) (c f n : Nat) : State :=
  (s.contain c { cause := 8, at_ := s.coreId c }).mapPtrs (PReg.deaden f n)

/-- The object at f moves to g, where room has been made: its bits go with it, its forwarding link is
rewritten, and every pointer to it is patched (R174, R177). back says that g is its own origin. Where the other end of
its link has an uncorrectable error in its header, that end is dead: a risen copy goes on without its origin, and an
origin has lost its object (R179, R302). -/
def moveObject (f g : Nat) (back : Bool) : M Unit := do
  let h ← header f
  let n := footprint h.len
  let s ← get
  let link := SMap.find s.mem.fwd f
  moveBytes f g n
  modify fun s => s.updMem fun m =>
    { m with
      starts := if back then m.starts else ((NSet.clear m.starts (g / 32) ((g + n) / 32)).add (g / 32))
      fwd := (m.fwd.erase f).erase g }
  let h := { h with sill := 0 }
  match link with
  | some o =>
    if back then putHeader g { h with state := stLive, loc := 0 }
    else match ← header? o with
    | none =>
      putHeader g { h with state := if h.state == stRisen then stLive else stDead, loc := 0 }
      modify fun s => (s.updMem fun m => { m with fwd := m.fwd.erase o }).deadHeader (dieOf o * 256) o n
    | some ho =>
      if h.state == stRisen && levelOf o < levelOf g then
        -- the origin is nearer than the new place: the copy is the object now
        putHeader g { h with state := stLive, loc := 0 }
        putHeader o { ho with state := stDead, loc := 0 }
        modify fun s => s.updMem fun m => { m with fwd := m.fwd.erase o }
        modify fun s => s.mapPtrs (PReg.rebase o n g)
      else
        putHeader g h
        putHeader o { ho with loc := locField g }
        modify fun s => s.updMem fun m => { m with fwd := (m.fwd.put g o).put o g }
  | none => putHeader g h
  modify fun s => (s.updMem fun m => { m with starts := m.starts.del (f / 32) }).moved f n g

/-! ## Marking -/

/-- The tagged granules from lo up to but not including hi. -/
def State.taggedIn (s : State) (lo hi : Nat) : List PReg :=
  (NSet.slice s.mem.tags (lo / 16) (hi / 16)).map s.mem.granule

/-- The header of a footprint in a pad, as it stands. -/
def State.padHeader (s : State) (f : Nat) : Header := Header.ofNat (natOf (s.mem.read f 16))

/-- The header of a footprint in a pad has an uncorrectable error (R179). -/
def State.headerBad (s : State) (f : Nat) : Bool := s.mem.isPoisoned f

/-- A footprint with a header is dead: so its header says, or it is an origin whose risen copy was lost (R61, R179). -/
def State.goneAt (s : State) (f : Nat) (h : Header) : Bool :=
  h.state == stDead || (h.state == stForwarded && (SMap.find s.mem.fwd f).isNone)

/-- The footprint that an unpinned pointer reaches, at a level below lim. -/
def State.reaches (s : State) (lim : Nat) (p : PReg) : Option Nat :=
  if p.tag && !p.pn && p.lvl < lim && !s.malformed p then s.mem.footOf (p.key 0) else none

/-- The footprints reached from a list of footprints, through the tagged granules of each that keep
accepts; dead objects are not live (R177), nor is one whose header has an uncorrectable error (R179). -/
def State.trace (s : State) (keep : Nat → Bool) : Nat → List Nat → NSet → NSet
  | 0, _, seen => seen
  | _, [], seen => seen
  | n + 1, f :: work, seen =>
    if seen.has f || !keep f || s.goneAt f (s.padHeader f) || s.headerBad f then s.trace keep n work seen
    else
      let kids := (s.taggedIn f (f + footprint (s.padHeader f).len)).filterMap (s.reaches 3)
      s.trace keep n (kids ++ work) (seen.add f)

/-- The cores in the scope of a pad (R177, R300). -/
def padScope (i : Nat) : List Nat :=
  if i < 1024 then [i] else if i < 2048 then coresOfClu (i - 1024) else coresOfDie ((i - 2048) / 8)

/-- A root table's granules. -/
def State.rootTable (s : State) (i : Nat) : List PReg :=
  let k := padBase i + (s.pad i).rootTab
  s.taggedIn k (k + 1024)

/-- The tagged granules of the pads above a pad in its scope (R300). -/
def State.above (s : State) (i : Nat) : List PReg :=
  if i < 1024 then []
  else if i < 2048 then (coresOfClu (i - 1024)).flatMap fun c => s.taggedIn (localBase c) (localBase (c + 1))
  else
    let d := (i - 2048) / 8
    s.taggedIn (localBase (256 * d)) (localBase (256 * d + 256)) ++
      s.taggedIn (cluBase (16 * d)) (cluBase (16 * d + 16))

/-- The root pointers of a sift (R177, R300). -/
def State.roots (s : State) (i : Nat) : List PReg :=
  let cs := padScope i
  let p := s.pad i
  let b := padBase i
  let regs := cs.flatMap fun c =>
    if s.cores.any (fun e => e.1 == c) then
      (s.coreAt c).ctxs.toList.flatMap fun x =>
        x.p.toList ++ x.strm.toList.filterMap fun b => b.map Stream.ptr
    else []
  let saves := if i < 1024 then [] else cs.map fun c => s.coreptr c 0x10
  let jobs := s.clusters.flatMap fun e => e.2.units.toList.flatMap fun u =>
    ((u.jobs ++ u.stopped).filter fun j => cs.contains j.core).flatMap fun j => [j.src, j.dst]
  let tabs := (cs.flatMap s.rootTable) ++ (if i < 1024 then [] else
    (if i < 2048 then s.rootTable i
     else s.rootTable i ++ ((upTo 16).flatMap fun k => s.rootTable (1024 + 16 * ((i - 2048) / 8) + k))))
  regs ++ saves ++ jobs ++ tabs ++ s.taggedIn (b + p.pinLo) (b + p.pinHi) ++ s.above i

/-- The footprints of a region. -/
def State.objectsIn (s : State) (lo hi : Nat) : List Nat :=
  (NSet.slice s.mem.starts (lo / 32) (hi / 32)).map (32 * ·)

/-- The live unpinned objects of a pad, rising (R177, R300). -/
def State.liveIn (s : State) (i : Nat) : List Nat :=
  let p := s.pad i
  let lo := padBase i + p.lo
  let hi := padBase i + p.hi
  let inside := fun f => lo ≤ f && f < hi
  let linked := (s.objectsIn lo hi).filter fun f =>
    (s.padHeader f).state == stRisen || (s.padHeader f).state == stForwarded
  let waits := (s.nodes.map Node.foot).filter inside
  let work := (s.roots i).filterMap (s.reaches 3) ++ linked ++ waits
  s.trace inside (work.length + s.mem.tags.length + 1) work []

/-! ## Sifts -/

/-- At most one sift runs in a pad at a time (R299). -/
def afterSifts (pads : List Nat) : M Unit := do
  let s ← get
  if pads.any s.siftRuns then throw (.siftPage none [])

/-- What stops a sift of some pads short makes it wait (R302), and every sift that it runs in. -/
def asSift {α : Type} (pads : List Nat) (m : M α) : M α :=
  tryCatch m fun
    | .page k _ _ _ => throw (.siftPage (some k) pads)
    | .siftPage k ps => throw (.siftPage k (ps ++ pads))
    | .wait _ => throw (.siftPage none pads)
    | e => throw e

/-- Contexts in the scope of a pad have issued what has not ended (R177): remote matrix commands, and atomics whose
result or flags are to come. -/
def State.draining (s : State) (i : Nat) : Bool :=
  s.cores.any (fun e => inScope i e.1 && e.2.ctxs.any fun q => !q.replies.isEmpty || q.fadds != 0) ||
  s.reqs.any (fun r => inScope i r.core && match r.load with
    | .matrix _ => true
    | _ => false) ||
  s.cores.any fun e => e.2.cmds.any fun m => inScope i m.core

/-- The drain of a pad's scope (R177). -/
def drain (i : Nat) : M Unit := do
  if (← get).draining i then wait sSIFT

/-- Takes n bytes of the heap arena of a partition on a die: its stacks in rotation (R305). -/
def heapAlloc (d part n : Nat) : M (Option Nat) := do
  let s ← get
  let v := s.dieAt d
  let t := SMap.get 0 v.rotate part
  let fits := fun st =>
    let q := v.stks[Fin.ofNat 3 st]
    SMap.get 0 q.hbump part + n ≤ SMap.get 0 q.hend part
  match (upTo 3).map (fun i => (t + i) % 3) |>.find? fits with
  | none => pure none
  | some st =>
    let b := SMap.get 0 v.stks[Fin.ofNat 3 st].hbump part
    set ((s.updStack d st fun q => { q with hbump := SMap.set 0 q.hbump part (b + n) }).updDie d fun v =>
      { v with rotate := SMap.set 0 v.rotate part ((st + 1) % 3) })
    pure (some (heapBase part + d * 2 ^ 43 + st * 2 ^ 41 + b))

/-- The event that a pad's high-water mark triggers. -/
def siftDue (i : Nat) : Due :=
  if i < 1024 then .coreSift i else if i < 2048 then .clusterSift (i - 1024)
  else .dieSift ((i - 2048) / 8) (i % 8)

/-- The issuing context has allocated in a pad: the bump pointer does not return for the other contexts (R61). -/
def State.allocated (s : State) (i : Nat) : State :=
  { s with cores := s.cores.map fun e =>
      (e.1, if e.2.ctxs.all fun x => x.marks.isEmpty then e.2 else
        { e.2 with ctxs := e.2.ctxs.mapIdx fun x q =>
          if e.1 == s.core && x == s.ctx.val then q else { q with marks := q.marks.filter fun b => b.1 != i } }) }

/-- Takes n bytes at a pad's bump pointer; sift runs first where they do not fit (R171, R299). None where they do not
fit after it. An allocation that passes the high-water mark brings the pad's sift about. -/
def padAlloc (sift : M Unit) (i n : Nat) : M (Option Nat) := do
  let p := (← get).pad i
  if p.hi < p.bump + n then sift
  let q := (← get).pad i
  if q.hi < q.bump + n then pure none else
  modify fun s => (s.setPad i { q with bump := q.bump + n }).allocated i
  if q.hwm < q.bump + n then modify fun s => s.later 0 (siftDue i)
  pure (some (padBase i + q.bump))

/-- The partition of a pad. -/
def State.padPart (s : State) (i : Nat) : Nat := fld (s.pad i).owner.toNat 0 4

/-- The end of a sift (R177, R303): the region empties, the pad's census is written, and what hangs on the
region's old places goes. -/
def State.endSift (s : State) (i : Nat) : State :=
  let p := s.pad i
  let lo := padBase i + p.lo
  let hi := padBase i + p.hi
  let s := (s.updMem fun m =>
    { m.wipe lo (hi - lo) with starts := NSet.clear m.starts (lo / 32) (hi / 32) }).newWords lo (hi - lo)
  let s := if padLevel i == 1 then ((s.served lo 1 false).recode (i - 1024)).updClu (i - 1024) fun c =>
      { c with sifting := false } else s
  let s := s.setPad i { p with bump := p.lo, live := 0, pin := BitVec.ofNat 40 (p.pinBump - p.pinLo)
                               time := s.pkg.time }
  { s with
    cores := s.cores.map fun e => (e.1,
      { e.2 with
        ctxs := e.2.ctxs.map fun x => { x with
          marks := x.marks.filter fun b => b.1 != i
          news := x.news.filter fun f => !(lo ≤ f && f < hi) }
        opbuf := if (padScope i).contains e.1 then none else e.2.opbuf }) }

/-- An object of pad i whose header at f has an uncorrectable error is treated as dead, up to the next start below hi
(R179). The other end of its link has lost it. -/
def State.loseObject (s : State) (i f hi : Nat) : State :=
  let n := (((s.objectsIn (f + 32) hi).head?).getD hi) - f
  let s := (s.meetLocal f 16).updMem fun m =>
    { m with fwd := match SMap.find m.fwd f with
      | some o => (m.fwd.erase f).erase o
      | none => m.fwd }
  s.deadHeader (padCore i) f n

/-- Moves some objects of a pad with place, in order, and drops the rest (R177, R301). place gets the footprint's size
and its origin, and answers with the new place and whether it is the origin. -/
def siftMoves (place : Nat → Option Nat → M (Nat × Bool)) (i : Nat) (live : List Nat) : M Unit := do
  let p := (← get).pad i
  let lo := padBase i + p.lo
  let hi := padBase i + p.hi
  live.forM fun f => do
    let h ← header f
    let s ← get
    let o := if h.state == stRisen then SMap.find s.mem.fwd f else none
    let (g, back) ← place (footprint h.len) o
    moveObject f g back
  modify fun s => (s.objectsIn lo hi).foldl (fun s f =>
    if s.headerBad f then s.loseObject i f hi else
    let n := footprint (s.padHeader f).len
    if s.goneAt f (s.padHeader f) then s.mapPtrs (PReg.deaden f n) else s) s
  modify fun s => s.endSift i

/-- A sift of a pad: the drain, the marking and the moves (R177, R300, R301). -/
def siftWith (place : Nat → Option Nat → M (Nat × Bool)) (i : Nat) : M Unit := do
  afterSifts [i]
  asSift [i] do
    drain i
    if padLevel i == 1 then
      modify fun s => (s.recode (i - 1024)).updClu (i - 1024) fun c => { c with sifting := true }
    siftMoves place i ((← get).liveIn i)

/-- Room in the heap for a sift of a partition's objects on a die (R301, R305). -/
def heapRoom (d part pad n : Nat) : M Nat := do
  match ← heapAlloc d part n with
  | some g => pure g
  | none => throw (.siftFull d part pad)

/-- A die sift: level 2 to level 3 (R301). -/
def siftDie (i : Nat) : M Unit := do
  let part := (← get).padPart i
  siftWith (fun n o => do
    match o with
    | some o => if 3 ≤ levelOf o then pure (o, true) else pure (← heapRoom (padDie i) part i n, false)
    | none => pure (← heapRoom (padDie i) part i n, false)) i

/-- Room below a cluster pad (R301). -/
def belowCluster (i n : Nat) (o : Option Nat) : M (Nat × Bool) := do
  let part := (← get).padPart i
  let heap : M (Nat × Bool) := do
    match o with
    | some o => if 3 ≤ levelOf o then pure (o, true) else pure (← heapRoom (padDie i) part i n, false)
    | none => pure (← heapRoom (padDie i) part i n, false)
  match o with
  | some o' => if levelOf o' == 2 then return (o', true)
  | none => pure ()
  match (← get).region (padDie i) part with
  | none => heap
  | some r =>
    match ← padAlloc (siftDie r) r n with
    | some g => pure (g, false)
    | none => heap

/-- A cluster sift: level 1 to level 2 (R301). -/
def siftCluster (i : Nat) : M Unit := siftWith (belowCluster i) i

/-- A core sift: level 0 to level 1 (R177). Its cluster pad's census counts the bytes moved in (R303). -/
def siftCore (c : Nat) : M Unit := do
  let k := 1024 + c / 16
  siftWith (fun n o => do
    match o with
    | some o' => if levelOf o' == 1 then return (o', true)
    | none => pure ()
    match ← padAlloc (siftCluster k) k n with
    | some g =>
      modify fun s => s.updClu (c / 16) fun v =>
        { v with pad := { v.pad with live := v.pad.live + BitVec.ofNat 40 n } }
      pure (g, false)
    | none => belowCluster k n o) c

/-- The sift of a pad. -/
def siftPad (i : Nat) : M Unit :=
  if i < 1024 then siftCore i else if i < 2048 then siftCluster i else siftDie i

/-- n bytes in a pad, with its own sift where they do not fit. -/
def allocPad (i n : Nat) : M (Option Nat) := padAlloc (siftPad i) i n

/-! ## Escape (R176, R298) -/

/-- Where an object of pad qi must go so that one pad contains it and a home at place d: a level-1 or
level-2 pad, or the heap of a die. None where its own pad contains the home. -/
inductive Target where
  | pad (i : Nat)
  | heap (die : Nat)
  deriving DecidableEq, Repr

/-- The target of R176 step 1, for the pad of q's object and the place of the other home, in a partition. -/
def State.escapeTo (s : State) (qk d part : Nat) : Option Target :=
  let same := !isHeap d && dieOf qk == dieOf d
  let die := match s.padOf d, levelOf d with
    | some i, 2 => some (Target.pad i)
    | _, _ => (s.region (dieOf qk) part).map Target.pad
  let low := some (die.getD (.heap (dieOf qk)))
  match levelOf qk with
  | 0 =>
    if spaceOf qk == spaceOf d then none
    else if levelOf d ≤ 1 && cluOf qk == cluOf d then some (.pad (1024 + cluOf qk))
    else if same then low else some (.heap (dieOf qk))
  | 1 =>
    if levelOf d ≤ 1 && cluOf qk == cluOf d then none
    else if same then low else some (.heap (dieOf qk))
  | 2 =>
    if same && (levelOf d ≤ 1 || s.padOf qk == s.padOf d) then none else some (.heap (dieOf qk))
  | _ => none

/-- Where q's object must go, if it can, so that one pad contains it and a home at place d (R176). -/
def State.escapes (s : State) (q : PReg) (d part : Nat) : Option Target :=
  if !q.tag || q.pn || s.malformed q || q.lvl == 3 then none else s.escapeTo (q.key part) d part

/-- The level of a target. -/
def Target.level : Target → Nat
  | .pad i => padLevel i
  | .heap _ => 3

/-- The header at f as it stands; none where its page is not mapped. -/
def State.headAt (s : State) (f : Nat) : Option Header :=
  (s.look f aR).map fun p => Header.ofNat (natOf (s.mem.read p 16))

/-- The tagged granules of the object at f, page by page. -/
def State.bodyPtrs (s : State) (f : Nat) : List PReg :=
  match s.headAt f with
  | none => []
  | some h =>
    let e := f + footprint h.len
    (upTo (footprint h.len / 65536 + 2)).flatMap fun j =>
      let lo := max f ((f / 65536 + j) * 65536)
      let hi := min e ((f / 65536 + j + 1) * 65536)
      if hi ≤ lo then [] else
      match s.look lo aR with
      | some p => s.taggedIn p (p + (hi - lo))
      | none => []

/-- The objects reachable from a list of footprints through tagged granules, pinned or not (R176); dead ones hold
none, and those of a forwarded object stand in its risen copy (R175). -/
def State.reachAll (s : State) (part : Nat) : Nat → List Nat → NSet → NSet
  | 0, _, seen => seen
  | _, [], seen => seen
  | n + 1, f :: work, seen =>
    match s.headAt f with
    | none => s.reachAll part n work seen
    | some h =>
      if seen.has f || s.goneAt f h || s.headerBad f then s.reachAll part n work seen
      else
        let kids := if h.state == stForwarded then (SMap.find s.mem.fwd f).toList else
          (s.bodyPtrs f).filterMap fun p => if p.tag && !s.malformed p then s.mem.footOf (p.key part) else none
        s.reachAll part n (kids ++ work) (seen.add f)

/-- A footprint lies in a pinned region. -/
def State.pinnedAt (s : State) (f : Nat) : Bool :=
  match s.padOf f with
  | some i => (s.pad i).pinLo ≤ locOf f && locOf f < (s.pad i).pinHi
  | none => false

/-- The objects that an escape to a target moves: q's, and those reachable from it, that lie above the target's level
and are not pinned (R176). -/
def State.escapees (s : State) (q : PReg) (part : Nat) (t : Target) : List Nat :=
  match s.reaches t.level q with
  | none => []
  | some f => (s.reachAll part (s.mem.tags.length + 2) [f] []).filter fun f => levelOf f < t.level && !s.pinnedAt f

/-- One object moves to a target as the sifter moves it. -/
def escapeOne (t : Target) (part f : Nat) : M Unit := do
  let h ← header f
  let s ← get
  let n := footprint h.len
  let o := if h.state == stRisen then SMap.find s.mem.fwd f else none
  match o with
  | some o' =>
    if levelOf o' == t.level then moveObject f o' true; return
  | none => pure ()
  let heap := fun d => do
    match ← heapAlloc d part n with
    | some g => moveObject f g false
    | none => trap cPADFULL h.len
  match t with
  | .heap d => heap d
  | .pad i =>
    match ← allocPad i n with
    | some g => moveObject f g false
    | none =>
      if padLevel i == 1 then
        let (g, back) ← belowCluster i n o
        moveObject f g back
      else heap (padDie i)

/-- q's object, and every object reachable from it in a pad above the target level, moves to the target
as the sifter moves objects (R176); the scope of each pad that they leave is drained, and that of the pads in hold
(R298). -/
def escape (q : PReg) (home part : Nat) (hold : List Nat := []) : M Unit := do
  let s ← get
  match s.escapes q home part with
  | none => pure ()
  | some t =>
    let move := s.escapees q part t
    let pads := (move.filterMap s.padOf ++ hold).eraseDups
    afterSifts pads
    asSift pads do
      pads.forM drain
      move.forM (escapeOne t part)

end Sys2Proof.Machine
end

