-- ==== Sys2Proof/Machine/Access.lean ====
section
/-! DEFINITION. Access to objects: the check of 07 R167, copy-up and forwarding (07 R174, R175), loads,
stores and full/empty bits, and the waits that a home grants (07 R182-R184). -/

namespace Sys2Proof.Machine

/-! ## Checks (R167, R168) -/

/-- The issuing context's pointer register, which is read (R233). -/
def preg (r : Fin 16) : M PReg := do
  consume 4 (ptrCode (← get).ctx.val r.val)
  let x ← me
  pure x.p[r]

/-- The issuing context's pointer register becomes p. -/
def setPreg (r : Fin 16) (p : PReg) : M Unit := do
  let b ← encoded 4 (ptrCode (← get).ctx.val r.val) 128 p.bits
  modMe fun x => { x with p := x.p.set r.val { p with bits := b } r.isLt }

/-- RANGEFLAG's fields (R168). -/
def rangeWord (write : Bool) (r src pc off : Nat) : DWord :=
  BitVec.ofNat 64 (1 + (if write then 2 else 0) + r % 16 * 4 + src % 4 * 64 + pc / 2 % 2 ^ 15 * 256 +
    min off (2 ^ 40 - 1) * 2 ^ 24)

/-- RANGEFLAG with an access beyond the length noted while its V is 0 (R168). -/
def Ctx.rangeNoted (x : Ctx) (r : Fin 16) (off : Nat) (write : Bool) (src : Nat := 0) : DWord :=
  if x.rangeflag.toNat % 2 == 1 then x.rangeflag else rangeWord write r.val src x.pc.toNat off

/-- RecordRange of R167: RANGEFLAG is written while its V is 0, and RANGE is raised where RANGECTL asks. -/
def recordRange (r : Fin 16) (off : Nat) (write : Bool) (src : Nat := 0) : M Unit := do
  let x ← me
  let f := x.rangeNoted r off write src
  modMe fun x => { x with rangeflag := f }
  if x.rangectl then
    throw (.trap cRANGE (if src == 3 then min off (2 ^ 40 - 1) else off) (some r) (some f))

/-- A waiting access of several words that completes from its grant notes the first of its offsets that was out of range
(R168, R182). -/
def noteRange (r : Fin 16) (n : Nat) (offs : List Nat) (write : Bool) : M Unit := do
  let x ← me
  match offs.find? fun o => x.p[r].len < o + n with
  | some o => modMe fun x => { x with rangeflag := x.rangeNoted r o write }
  | none => pure ()

/-! ## Atomics of the context that are not performed yet (R332, R385, R386) -/

/-- An atomic among the operations of a handler queue. -/
def HOp.isAmo : HOp → Bool
  | .amo _ _ _ _ _ _ _ _ => true
  | .arrive _ _ _ _ => false

/-- The handler operations of an activation that are not performed yet, wherever it has issued them (R382): the number
of the request, the operation, and whether it releases. -/
def State.opsOut (s : State) (act : Nat) : List (Nat × HOp × Bool) :=
  (s.reqs.filterMap fun r => match r.load with
    | .handler op => if r.actId == act then some (r.id, op, r.rel) else none
    | _ => none) ++
  s.cores.flatMap fun e => e.2.handler.filterMap fun h => if h.actId == act then some (h.id, h.op, h.rel) else none

/-- The atomics of an activation that their owners have not performed, with the numbers of their requests. -/
def State.amos (s : State) (act : Nat) : List (Nat × HOp) :=
  ((s.opsOut act).filter fun e => e.2.1.isAmo).map fun e => (e.1, e.2.1)

/-- Atomics of an activation that their owners have not performed. -/
def State.amosOut (s : State) (act : Nat) : Bool := !(s.amos act).isEmpty

/-- Releasing operations of an activation that are not performed yet. -/
def State.relsOut (s : State) (act : Nat) : Bool := (s.opsOut act).any fun e => e.2.2

/-- An atomic with .acq of a context is not performed yet: what follows it waits (R385 row 7). -/
def State.acqWaits (s : State) (c : Nat) (x : Fin 8) : Bool :=
  let q := s.ctxAt c x
  match q.acq with
  | none => false
  | some id => (s.amos q.actId).any fun e => e.1 == id

/-- A record is one that TRACE made for an activation. -/
def ownRecord (act : Nat) : Option (Nat × Nat) → Bool
  | some (a, _) => a == act
  | none => false

/-- The places that hold an activation's trace records before they are written (R346), by the number of the next request
at their issue. -/
def State.tracesOut (s : State) (act : Nat) : List Nat :=
  ((s.cores.flatMap fun e => e.2.tbuf.map TraceRec.own) ++ s.posts.map Post.own).filterMap fun o =>
    if ownRecord act o then o.map Prod.snd else none

/-- A trace record of an activation will be written among n bytes at place k. -/
def State.traceOn (s : State) (act k n : Nat) : Bool :=
  let meets := fun (a l : Nat) => a < k + n && k < a + l
  s.cores.any (fun e => e.2.tbuf.any (fun r => ownRecord act r.own) &&
    meets ((s.coreptr e.1 0x28).key 0) (s.coreptr e.1 0x28).len) ||
  s.posts.any fun b => ownRecord act b.own && meets (b.ptr.key b.part + b.off) b.data.length

/-- What releases, or reads a matrix operand or a weight block, waits for the atomics and the trace records that the
context has issued (R385 rows 6 and 8). -/
def afterAmos : M Unit := do
  let s ← get
  let act := (← me).actId
  if s.amosOut act || !(s.tracesOut act).isEmpty then wait sREMOTE

/-- What acquires waits for the releases that the context has issued (R385 row 9). -/
def afterRels : M Unit := do
  let s ← get
  if s.relsOut (← me).actId then wait sREMOTE

/-- An instruction's order is .rel (R32). -/
def isRel (os : Fin 16) : Bool := 10 ≤ os.val
/-- An instruction's order is .acq (R32). -/
def isAcq (os : Fin 16) : Bool := 5 ≤ os.val && os.val < 10

/-- A store with .rel, or one without (R386). -/
def releasing (os : Fin 16) : M Unit := if isRel os then afterAmos else pure ()

/-- A load with .acq, or one without (R386). -/
def acquiring (os : Fin 16) : M Unit := if isAcq os then afterRels else pure ()

/-- An access to the n bytes at place k waits for an atomic or a trace record of its context on a common byte (R385 row
1). -/
def afterAmoOn (k n : Nat) : M Unit := do
  let s ← get
  let act := (← me).actId
  if !(s.tracesOut act).isEmpty && s.traceOn act k n then wait sREMOTE
  let ops := s.amos act
  if ops.isEmpty then pure () else
  ops.forM fun e => match e.2 with
    | .amo _ _ p _ _ _ part _ => do
      let (a, _) ← locate (p.key part)
      if a < k + n && k < a + 8 then wait sREMOTE
    | .arrive _ _ _ _ => pure ()

/-- The pointer in r is tagged, well formed and grants what is needed (R164, R167). -/
def checkPerm (r : Fin 16) (needR needW : Bool) : M PReg := do
  let p ← preg r
  require (p.tag && !(← get).malformed p && (!needR || p.r) && (!needW || p.w)) cPERM 0 (some r)
  pure p

/-! ## Copy-up (R174) -/

/-- The object is moved into n bytes at g of the core's own pad, and the register is rewritten. -/
def bringUp (r : Fin 16) (g : Nat) : M Unit := do
  let x ← me
  let (k, o) ← locate (x.p[r].key x.part.toNat)
  match o with
  | none => pure ()
  | some (f, h) =>
    let n := footprint h.len
    moveBytes f g n
    modify fun s => (s.updMem fun m =>
      { m with
        starts := (NSet.clear m.starts (g / 32) ((g + n) / 32)).add (g / 32)
        fwd := ((SMap.clear m.fwd g (g + n)).put f g).put g f })
    putHeader g { h with state := stRisen, loc := locField f, sill := 0 }
    putHeader f { h with state := stForwarded, loc := locField g, sill := 0 } aR
    modify fun s => (s.moveNodes f g).moveBuffers f n g
    setPreg r (x.p[r].moveTo (k - f + g))

/-- Whether an object may be copied up into the issuing core's pad (R174, R297, R313). -/
def eligible (p : PReg) (h : Header) : M Bool := do
  let s ← get
  let x ← me
  let q := s.pad s.core
  pure (1 ≤ p.lvl && !p.sh && !p.pn && h.state == stLive && footprint h.len * 8 ≤ q.hi - q.lo &&
    q.ownedBy x.part.toNat && (s.dieAt (coreDie s.core)).st == 0)

/-- The place now reached through r (R174, R175): copied up where up asks and the object is eligible;
forwarding followed, and the register rewritten where the copy lies in the core's own pad. Also whether
the object is dead (R61). -/
def reach (r : Fin 16) (up : Bool) : M (Nat × Bool) := do
  let x ← me
  let p := x.p[r]
  let k := p.key x.part.toNat
  let (k', o) ← locateUp k
  match o with
  | none => pure (k', false)
  | some (_, h) =>
    if h.state == stDead then pure (k', true)
    else if k' != k then
      let s ← get
      if spaceOf k' == s.core then setPreg r (p.moveTo k')
      pure (k', false)
    else if up && (← eligible p h) then
      let s ← get
      match ← allocPad s.core (footprint h.len) with
      | none => pure ()
      | some g => bringUp r g
      let x ← me
      let (k, _) ← locate (x.p[r].key x.part.toNat)
      pure (k, false)
    else pure (k', false)

/-- Check of R167, then where the bytes at off are: none where they are out of range or the object is
dead. -/
def access (r : Fin 16) (off n al : Nat) (needR needW : Bool) (up : Bool := true) : M (Option Nat) := do
  let p ← checkPerm r needR needW
  require (off % al == 0) cALIGN off (some r)
  if p.len < off + n then
    recordRange r off needW
    pure none
  else
    let (k, dead) ← reach r up
    if dead then
      recordRange r off needW
      pure none
    else
      afterAmoOn (k + off) n
      pure (some (k + off))

/-- The object that r reaches is dead (R61): its length is zero. -/
def deadObject (r : Fin 16) : M Bool := do
  let x ← me
  let (_, o) ← locateUp (x.p[r].key x.part.toNat)
  pure (match o with
    | some (_, h) => h.state == stDead
    | none => false)

/-- The offsets of several accesses of n bytes through r that are in range, after the checks of R167, and the
place of offset 0. The first that is out of range is recorded. -/
def accessEach (r : Fin 16) (n al : Nat) (offs : List Nat) (needR needW : Bool) (up : Bool := true) :
    M (Nat × List Nat) := do
  let p ← checkPerm r needR needW
  match offs.find? fun o => o % al != 0 with
  | some o => trap cALIGN o (some r)
  | none => pure ()
  let dead ← if offs.any fun o => o + n ≤ p.len then deadObject r else pure false
  match offs.find? fun o => dead || p.len < o + n with
  | some o => recordRange r o needW
  | none => pure ()
  match offs.filter fun o => !dead && o + n ≤ p.len with
  | [] => pure (0, [])
  | os => do
    let (k, _) ← reach r up
    os.forM fun o => afterAmoOn (k + o) n
    pure (k, os)

/-! ## Bytes -/

/-- What pointer register r's load read came as a reply over a crossbar, unless it stood in the issuing core's own store:
the reply may be in error, which is the next of upsets (R295, log 18). -/
def remoteReply (r : Fin 16) : M Unit := do
  let s ← get
  let x ← me
  if spaceOf (x.p[r].key x.part.toNat) == s.core then pure () else
  match s.upsets with
  | [] => pure ()
  | u :: us =>
    set { s with upsets := us }
    match u with
    | .lost => throw (.rollback cECC 0)
    | .corrected => modify fun s => s.countBeat s.core
    | _ => pure ()

/-- The n bytes at place k, consumed: poison rolls the consumer back (R233). -/
def readBytes (k n : Nat) (need : Nat := aR) : M (List Byte) := do
  let ps ← piecesOf need k n
  let s ← get
  ps.forM fun (_, p, l) => modify fun s => s.meetLocal p l
  if ps.any fun (_, p, l) => (granules p l).any s.mem.isPoisoned then throw (.rollback cECC 0)
  pure (ps.flatMap fun (_, p, l) => s.mem.read p l)

/-- A byte of the n at place k lies in a poisoned granule: the errors of a local store among them are met (R233). -/
def anyPoison (k n : Nat) : M Bool := do
  let ps ← piecesOf aR k n
  ps.forM fun (_, p, l) => modify fun s => s.meetLocal p l
  let s ← get
  pure (ps.any fun (_, p, l) => (granules p l).any s.mem.isPoisoned)

/-- The little-endian value of the n bytes at place k. -/
def readNat (k n : Nat) : M Nat := do
  let bs ← readBytes k n
  pure (natOf bs)

/-- A store to a kind-4 object increments its header version (R166). -/
def bumpVersion (k : Nat) : M Unit := do
  let (_, o) ← locate k
  match o with
  | some (f, h) => if h.kind == 4 then putHeader f { h with version := (h.version + 1) % 65536 }
  | none => pure ()

/-- A write by a unit, with the full/empty bit its words get, if any. -/
def putBytes (k : Nat) (bs : List Byte) (fe : Option Bool) : M Unit := do
  writeRaw k bs
  match fe with
  | some b =>
    (wordsOf k bs.length).forM fun w => do
      let p ← phys w aW
      modify fun s => s.updMem fun m => m.setFull p b
  | none => pure ()

/-- A posted store of a unit at off of pointer register r (R307): where its page is not mapped, the store waits at the
translation unit, and the activation is suspended at its next unit, which TRAPPC will name (State.noteHeld). In
context 7 that is a trap that kills (R324). -/
def posted (r : Fin 16) (off k : Nat) (bs : List Byte) (fe : Option Bool) (m : M Unit) : M Unit := do
  let s ← get
  tryCatch m fun
    | .page k' need v q =>
      if s.ctx == 7 then throw (.page k' need v q) else do
        let x ← me
        modify fun s =>
          (s.tallyCtx s.core s.ctx).pageFault k' need (s.ctxId s.core s.ctx) (.store s.core s.ctx x.actId k bs fe)
        modMe fun x => { x with
          run := .paged (locOf k') false, trapcause := BitVec.ofNat 8 cPAGE
          trapval := BitVec.ofNat 64 off, trapptr := BitVec.ofNat 5 (16 + r.val) }
    | e => throw e

/-- A store of bytes at off of pointer register r, at place k. -/
def storeBytes (r : Fin 16) (off k : Nat) (bs : List Byte) (fe : Option Bool := none) : M Unit :=
  posted r off k bs fe do
    putBytes k bs fe
    bumpVersion k

/-- Every word of the n bytes at k has the full/empty bit b. -/
def allFull (k n : Nat) (b : Bool) (need : Nat) : M Bool := do
  let ws ← (wordsOf k n).mapM fun w => phys w need
  let s ← get
  pure (ws.all fun w => s.mem.isFull w == b)

/-- The words of the n bytes at k get the full/empty bit b. -/
def setFE (k n : Nat) (b : Bool) (need : Nat) : M Unit :=
  (wordsOf k n).forM fun w => do
    let p ← phys w need
    modify fun s => s.updMem fun m => m.setFull p b

/-! ## Queue descriptors (R370) -/

/-- n bytes at off of the descriptor of a queue, as a number. -/
def State.queueField (s : State) (q off n : Nat) : Nat :=
  if s.pkg.qtbase.tag then natOf ((s.fetchObj? s.pkg.qtbase 0 (64 * q + off) n).getD []) else 0

/-- A granule at off of a pointer's object, as an engine reads it. -/
def State.granuleAt (s : State) (p : PReg) (part off : Nat) : PReg :=
  if !p.tag || p.len < off + 16 then .null else
  let work : M PReg := do
    let (k, _) ← locate (p.key part + off)
    let bs ← readRaw k 16
    let g ← phys k aR
    pure { bits := BitVec.ofNat 128 (natOf bs), tag := (← get).mem.isTagged g }
  (work.try? s).elim .null Prod.fst

/-- The ring of a queue: its pointer, its partition, and the number of packets it holds. -/
def State.queueRing (s : State) (q : Nat) : PReg × Nat × Nat :=
  let r := s.granuleAt s.pkg.qtbase 0 (64 * q)
  (r, fld (s.queueField q 40 8) 16 4, r.len / 32)

/-- Packets of a queue written and not consumed. -/
def State.queueUsed (s : State) (q : Nat) : Nat :=
  (s.queueField q 36 4 + 2 ^ 32 - s.queueField q 32 4) % 2 ^ 32

/-- The ring of a queue has room. -/
def State.queueRoom (s : State) (q : Nat) : Bool := s.queueUsed q < (s.queueRing q).2.2

/-! ## Waits at the home (R182, R194, R268) -/

/-- The identity of an ACQ holder (R166). -/
def acqId (c : Nat) (x : Fin 8) : Nat := c * 8 + x.val

/-- A rise word's gen (R267): its words are target, count, gen and pend. -/
def riseGen (x : Nat) : Nat := fld x 64 32

/-- gen has come to e: gen minus e is below 2^31, modulo 2^32 (R268). -/
def genReached (gen e : Nat) : Bool := (gen + 2 ^ 32 - e) % 2 ^ 32 < 2 ^ 31

/-- gen has passed e: gen minus e lies from 1 to 2^31 - 1, modulo 2^32 (R334). -/
def genPassed (gen e : Nat) : Bool := gen != e && genReached gen e

/-- The condition of a waiting access, tested at the home in one step with its effect (R182): the data
read where it is granted, or the byte offset of the lowest word that failed. Poison leaves the access to
be made by the unit itself, which consumes it; a poisoned rise word never reaches a generation (R295). -/
def tryNeed (c : Nat) (x : Fin 8) : Need → M (Except Nat (List Nat))
  | .words kind r n offs data => do
    let q := (← get).ctxAt c x
    let (k, _) ← locateUp (q.p[r].key q.part.toNat)
    let need := if kind == .fill then aW else aR
    let ws := offs.flatMap fun o => wordsOf (k + o) n
    let bad ← ws.filterM fun w => do pure (!(← allFull w 4 (kind != .fill) need))
    match bad.min? with
    | some w => pure (.error (w - k))
    | none =>
      match kind with
      | .fill =>
        (offs.zip data).forM fun (o, v) => do
          writeRaw (k + o) (bytesOf n v)
        offs.forM fun o => setFE (k + o) n true need
        bumpVersion k
        pure (.ok [])
      | _ =>
        let vs ← offs.mapM fun o => readNat (k + o) n
        if kind == .consume then offs.forM fun o => setFE (k + o) n false need
        pure (.ok vs)
  | .acq r => do
    let q := (← get).ctxAt c x
    let (_, o) ← locateUp (q.p[r].key q.part.toNat)
    match o with
    | none => pure (.ok [])
    | some (f, h) =>
      if h.acq == 0x1FFF then
        putHeader f { h with acq := acqId c x } aR
        modify fun s => s.updCtx c x fun q => { q with holds := q.holds ++ [q.p[r]] }
        pure (.ok [])
      else if h.acq == acqId c x then pure (.ok [])
      else pure (.error 0)
  | .gen r e => do
    let q := (← get).ctxAt c x
    let (k, _) ← locateUp (q.p[r].key q.part.toNat)
    if ← anyPoison k 16 then pure (.error 8)
    else
      let v ← readNat k 16
      pure (if genReached (riseGen v) e.toNat then .ok [] else .error 8)
  | .ring _ q => do pure (if (← get).queueRoom q then .ok [] else .error 136)
  | _ => pure (.error 0)

/-- A node's home tests its access, and grants it where the condition holds: the node goes, and the unit re-issues and
completes from what was granted. What the test fills stays filled (R249). -/
def State.grantNode (s : State) (n : Node) : State :=
  let drop := fun (s : State) => s.setNodes (s.nodes.filter fun m => m != n) [n.foot]
  match (s.ctxAt n.core n.ctx).run with
  | .waiting w =>
    match M.as n.core n.ctx (tryNeed n.core n.ctx w.need) s with
    | .ok (.ok vs) t => drop (t.updCtx n.core n.ctx fun q => { q with run := .live, latch := some vs })
    | .ok (.error _) t => t
    | .error (.rollback _ _) _ => drop (s.updCtx n.core n.ctx fun q => { q with run := .live })
    | .error _ _ => s
  | _ => drop s

/-- One pass over the lists in arrival order (R183). -/
def State.grantPass (s : State) (ns : List Node) : State := ns.foldl State.grantNode s

/-- Passes repeat until one grants nothing (R183). -/
def State.settle : Nat → State → State
  | 0, s => s
  | n + 1, s =>
    let t := s.grantPass s.nodes
    if t.nodes.length == s.nodes.length then s else t.settle n

/-- The scan of R183 after any change. -/
def State.settled (s : State) : State := s.settle s.nodes.length

/-- Waiters on kind-4 versions, blocks and the like have none; a node leaves its list (R185). -/
def State.dropNodes (s : State) (c : Nat) (x : Fin 8) : State :=
  let own := fun (n : Node) => n.core == c && n.ctx == x
  s.setNodes (s.nodes.filter fun n => !own n) ((s.nodes.filter own).map Node.foot)

/-! ## Engines -/

/-- A write that an engine cannot make now waits in order (R388). -/
def State.addPost (s : State) (b : Post) : State := { s with posts := s.posts ++ [b] }.soon 64 .posts

/-- Posted writes wait for a page: it is asked for once (R307). -/
def State.askPage (s : State) (k need : Nat) : State :=
  let q := (s.dieAt (fld (locOf k) 43 2)).stks[Fin.ofNat 3 (stackOf (locOf k))]
  let mine := fun (f : PageFault) => f.who == .post && f.part == partOf k && f.page == pageOf (locOf k)
  if q.faults.any mine || q.waiting.any mine then s else s.pageFault k need 0 .post

/-- A hold of the object at p is released, as by REL (R194), where id holds it. -/
def releaseHold (p : PReg) (part id : Nat) : M Unit := do
  let (_, o) ← locateUp (p.key part)
  match o with
  | some (f, h) =>
    if h.acq == id then putHeader f { h with acq := 0x1FFF, version := (h.version + 1) % 65536 } aR
    modify State.settled
  | none => pure ()

/-- The footprint at f is marked dead (R61), and the risen copy that holds its object. -/
def markDead (f : Nat) : M Unit := do
  match ← header? f with
  | none => pure ()
  | some h =>
    putHeader f { h with state := stDead } aR
    match SMap.find (← get).mem.fwd f with
    | none => pure ()
    | some g =>
      match ← header? g with
      | none => pure ()
      | some h => putHeader g { h with state := stDead } aR
      modify fun s => s.updMem fun m => { m with fwd := (m.fwd.erase f).erase g }

/-- What a posted write does. -/
def Post.work (b : Post) : M Unit := do
  match b.kind with
  | .release id act => do
    let s ← get
    if s.amosOut act || !(s.tracesOut act).isEmpty then wait sREMOTE
    releaseHold b.ptr b.part id
  | .dead => markDead (b.ptr.key b.part - 16)
  | .store =>
    let (k, _) ← locateUp (b.ptr.key b.part + b.off)
    putBytes k b.data b.fe
    bumpVersion k
    modify State.settled

/-- A write by an engine. What a page, a held block or a halted die holds up is performed later, after the engine's
earlier writes (R241, R355, R388). -/
def State.runPost (s : State) (b : Post) : State :=
  if s.posts.any fun q => q.src == b.src then s.addPost b else
  match M.filled b.work s with
  | .ok _ t => t
  | .error (.page k need _ _) _ => (s.addPost b).askPage k need
  | .error (.wait _) _ => s.addPost b
  | .error _ _ => s

/-- Bytes are written at off of a pointer's object by an engine, src, with the full/empty bit that their words get, if
any. -/
def State.enginePut (s : State) (p : PReg) (part off : Nat) (bs : List Byte) (fe : Option Bool) (src : Nat := 0)
    (own : Option (Nat × Nat) := none) : State :=
  if !p.tag || p.len < off + bs.length then s else
  s.runPost { src, ptr := p, part, off, data := bs, fe, own }

/-- The footprint at f is marked dead by the engine of a context. -/
def State.postDead (s : State) (f src : Nat) : State :=
  let (l, addr, home) := placeFields (f + 16)
  s.runPost { src, ptr := mkPtr addr l 0 0 0 0 home, part := if isHeap f then partOf f else 0, off := 0, data := [],
              fe := none, kind := .dead }

/-- Posted writes are tried again, in order. -/
def State.runPosts (s : State) : State := s.posts.foldl State.runPost { s with posts := [] }

/-- A refused page's posted writes are dropped (R307). -/
def State.dropPosts (s : State) (k : Nat) : State :=
  { s with posts := s.posts.filter fun b =>
      !(b.ptr.lvl == 3 && pageOf (locOf (b.ptr.key b.part + b.off)) == pageOf (locOf k) && heapBase b.part == heapBase (partOf k)) }

end Sys2Proof.Machine
end

