-- ==== Sys2Proof/Machine/Operands.lean ====
section
/-! DEFINITION. Operands (01 R8, 02 R29-R30): registers, queue registers (05 R105, R106), mesh directions
(05 R107-R109), bound streams (12 R271) and lane masks; when they are ready, and how they are read,
popped and written. -/

namespace Sys2Proof.Machine

/-! ## Mesh neighbours (R107, R237) -/

/-- The neighbour of core c in direction dir (N, E, S, W), if the link stays in the cluster. -/
def neighbour (c dir : Nat) : Option Nat :=
  let x := c % 4
  let y := c / 4 % 4
  match dir with
  | 0 => if y == 0 then none else some (c - 4)
  | 1 => if x == 3 then none else some (c + 1)
  | 2 => if y == 3 then none else some (c + 4)
  | _ => if x == 0 then none else some (c - 1)

/-- The direction seen from the other end. -/
def opposite (dir : Nat) : Nat := (dir + 2) % 4

/-- Flits in a link's buffer and on their way to it: both count as places taken (log 39). -/
def Link.fill (l : Link) : Nat := l.buf.length + l.flying.length

/-- Link dir of a core. -/
def Core.link (k : Core) (dir : Nat) : Link := k.links[Fin.ofNat 4 dir]
/-- Link dir of a core becomes l. -/
def Core.setLink (k : Core) (dir : Nat) (l : Link) : Core :=
  { k with links := k.links.set (Fin.ofNat 4 dir).val l (Fin.ofNat 4 dir).isLt }

/-! ## Registers -/

/-- The value of scalar register code r, 0-31 (R9): g0 reads zero. -/
def Ctx.reg (x : Ctx) (r : Nat) : DWord :=
  if r < 24 then x.w[Fin.ofNat 24 r] else if r == 24 then 0 else x.g[Fin.ofNat 8 r]

/-- Scalar register code r becomes v; a write to g0 is discarded (R30). -/
def Ctx.setReg (x : Ctx) (r : Nat) (v : DWord) : Ctx :=
  if r < 24 then { x with w := x.w.set (Fin.ofNat 24 r).val v (Fin.ofNat 24 r).isLt }
  else if r == 24 then x
  else { x with g := x.g.set (Fin.ofNat 8 r).val v (Fin.ofNat 8 r).isLt }

/-- Vector register r becomes v. -/
def Ctx.setV (x : Ctx) (r : Nat) (v : V512) : Ctx :=
  { x with v := x.v.set (Fin.ofNat 32 r).val v (Fin.ofNat 32 r).isLt }

/-- The place in the window's stack of a reply to register code r: g registers stand above every
window register (R329). -/
def Ctx.replySlot (x : Ctx) (r : Nat) : Nat :=
  if r < 24 then 16 * (x.below.length + x.spilltop.toNat) + r else 2 ^ 40 + r

/-- A reply to register code r is still to come. -/
def Ctx.awaits (x : Ctx) (r : Nat) : Bool := x.replies.contains (x.replySlot r)

/-- The array and the index of a context's register code r, 0-31 (R233). -/
def Ctx.codeOf (x : Ctx) (i : Fin 8) (r : Nat) : Nat × Nat :=
  regCode i.val (16 * (x.below.length + x.spilltop.toNat)) r

/-- The issuing context's register code r, 0-31, is read. -/
def takeReg (r : Nat) : M DWord := do
  let x ← me
  let e := x.codeOf (← get).ctx r
  consume e.1 e.2
  pure (x.reg r)

/-- A 5-bit scalar code, 0-31. -/
def readR (r : Nat) : M DWord := do
  if (← me).awaits r then wait sREMOTE else takeReg r

/-- Lane mask m; m0 reads all ones (R9). -/
def readM (m : Mk) : M (BitVec 16) := do
  if m == 0 then pure 0xFFFF else do
    consume 4 (maskCode (← get).ctx.val m.val)
    pure (← me).m[m]

/-- Lane mask m becomes v; a write to m0 is discarded (R30). -/
def writeM (m : Mk) (v : BitVec 16) : M Unit := do
  if m == 0 then pure () else
    let v ← encoded 4 (maskCode (← get).ctx.val m.val) 16 v
    modMe fun x => { x with m := x.m.set m.val v m.isLt }

/-- Tensor map register t, which is read. -/
def readMap (t : Fin 8) : M V512 := do
  consume 4 (mapCode (← get).ctx.val t.val)
  pure (← me).tm[t]

/-- Vector register r, 0-31, is read. -/
def takeVec (r : Nat) : M V512 := do
  consume 5 (vecCode (← get).ctx.val r) 8
  pure (← me).v[Fin.ofNat 32 r]

/-! ## Streams (R270, R271) -/

/-- The number of elements of a tensor map's pattern (R149). -/
def tmElems (d : V512) : Nat :=
  let n := d.toNat
  (upTo (fld n 40 3 + 1)).foldl (fun a k => a * fld n (32 * k + 64) 32) 1

/-- The strips of a stream: 16 elements each, or 8 of 8 bytes (R270). -/
def Stream.strips (b : Stream) : Nat :=
  let per := if fld b.map.toNat 44 3 == 4 then 8 else 16
  (tmElems b.map + per - 1) / per

/-- The binding of vector register r. -/
def Ctx.stream (x : Ctx) (r : Nat) : Option Stream :=
  if 24 ≤ r && r < 32 then x.strm[Fin.ofNat 8 r] else none

/-- The binding of vector register 24 + k becomes b. -/
def Ctx.setStream (x : Ctx) (k : Nat) (b : Option Stream) : Ctx :=
  { x with strm := x.strm.set (Fin.ofNat 8 k).val b (Fin.ofNat 8 k).isLt }

/-- A strip can be read at once: one is buffered, or the pattern has ended (R271). -/
def Stream.ready (b : Stream) : Bool := !b.ahead.isEmpty || b.strips ≤ b.popped

/-! ## Queue registers -/

/-- The head of a queue for a context (R106): filled, and not reserved by another. -/
def Queue.front {α : Type} (q : Queue α) (x : Nat) : Option α :=
  match q.slots with
  | .filled v :: _ => if q.head.getD x == x then some v else none
  | _ => none

/-- A context may push: a slot is free, or it holds a reserved one (R106). -/
def Queue.room {α : Type} (q : Queue α) (depth x : Nat) : Bool :=
  q.slots.length < depth || q.slots.any fun
    | .reserved y => y == x
    | _ => false

/-- The head is popped and its reservation ends. -/
def Queue.pop {α : Type} (q : Queue α) : Queue α := { slots := q.slots.drop 1, head := none }

/-- A pushed entry fills the context's reserved slot, or takes the tail. -/
def Queue.push {α : Type} (q : Queue α) (x : Nat) (v : α) : Queue α :=
  let mine : QSlot α → Bool := fun
    | .reserved y => y == x
    | _ => false
  match q.slots.findIdx? mine with
  | some i => { q with slots := q.slots.set i (.filled v) }
  | none => { q with slots := q.slots ++ [.filled v] }

/-- The context reserves the head. -/
def Queue.claim {α : Type} (q : Queue α) (x : Nat) : Queue α := { q with head := some x }

/-- The context reserves the tail. -/
def Queue.book {α : Type} (q : Queue α) (x : Nat) : Queue α :=
  if q.slots.any (fun
    | .reserved y => y == x
    | _ => false) then q else { q with slots := q.slots ++ [.reserved x] }

/-- The context's reservations end (R106). -/
def Queue.release {α : Type} (q : Queue α) (x : Nat) : Queue α :=
  { slots := q.slots.filter fun
      | .reserved y => y != x
      | _ => true
    head := if q.head == some x then none else q.head }

/-- Filled entries (QOCC, R106). -/
def Queue.occ {α : Type} (q : Queue α) : Nat :=
  (q.slots.filter fun
    | .filled _ => true
    | _ => false).length

/-- Scalar queue n of a core changed by f. -/
def Core.updQ (k : Core) (n : Nat) (f : Queue DWord → Queue DWord) : Core :=
  { k with qs := k.qs.set (Fin.ofNat 4 n).val (f k.qs[Fin.ofNat 4 n]) (Fin.ofNat 4 n).isLt }
/-- Vector queue n of a core changed by f. -/
def Core.updQV (k : Core) (n : Nat) (f : Queue V512 → Queue V512) : Core :=
  { k with qv := k.qv.set (Fin.ofNat 4 n).val (f k.qv[Fin.ofNat 4 n]) (Fin.ofNat 4 n).isLt }

/-- Every reservation of a context ends. -/
def Core.release (k : Core) (x : Nat) : Core :=
  { k with qs := k.qs.map fun q => q.release x, qv := k.qv.map fun q => q.release x }

/-! ## Readiness (R100, R106-R108, R271) -/

/-- The direction codes among some operands that the context does not hold (R108). -/
def unheld (k : Core) (x : Fin 8) (cs : List Nat) : List Nat :=
  cs.filter fun c => 36 ≤ c && (k.link (c - 36)).claim != some x

/-- The least of some numbers. -/
def leastOf (d : Nat) (xs : List Nat) : Nat := xs.foldl Nat.min d

/-- A scalar source can be read. -/
def readyS (c : Nat) : M Unit := do
  let s ← get
  let k := s.coreAt s.core
  if c < 32 then
    if (k.ctxs[s.ctx]).awaits c then wait sREMOTE
  else if c < 36 then
    if (k.qs[Fin.ofNat 4 (c - 32)].front s.ctx.val).isNone then wait sQEMPTY
  else if (k.link (c - 36)).buf.isEmpty then wait sLINK

/-- A vector source can be read. -/
def readyV (c : Nat) : M Unit := do
  let s ← get
  let k := s.coreAt s.core
  if c < 32 then
    match (k.ctxs[s.ctx]).stream c with
    | some b => if !b.ready then wait sSTREAM
    | none => pure ()
  else if c < 36 then
    if (k.qv[Fin.ofNat 4 (c - 32)].front s.ctx.val).isNone then wait sQEMPTY
  else if (k.link (c - 36)).buf.isEmpty then wait sLINK

/-- A direction can take a flit: the neighbour's buffer is not full (R107). -/
def readyOut (c : Nat) : M Unit := do
  let s ← get
  match neighbour s.core (c - 36) with
  | none => pure ()
  | some n => if 4 ≤ ((s.coreAt n).link (opposite (c - 36))).fill then wait sLINK

/-- A scalar destination can be written. -/
def roomS (c : Nat) : M Unit := do
  let s ← get
  let k := s.coreAt s.core
  if c < 32 then
    if (k.ctxs[s.ctx]).awaits c then wait sREMOTE
  else if c < 36 then
    if !(k.qs[Fin.ofNat 4 (c - 32)].room 8 s.ctx.val) then wait sQFULL
  else readyOut c

/-- A vector destination can be written. -/
def roomV (c : Nat) : M Unit := do
  let s ← get
  let k := s.coreAt s.core
  if c < 32 then pure ()
  else if c < 36 then
    if !(k.qv[Fin.ofNat 4 (c - 32)].room 4 s.ctx.val) then wait sQFULL
  else readyOut c

/-- What a unit names: scalar and vector sources, scalar and vector destinations, by specifier code, and pointer
registers that it reads. -/
structure Uses where
  ss : List Nat := []
  sv : List Nat := []
  ds : List Nat := []
  dv : List Nat := []
  ps : List (Fin 16) := []
  deriving DecidableEq, Repr

/-- The code words of a scalar source that is ready meet their consumer. -/
def meetS (c : Nat) : M Unit := do
  let x ← me
  if c < 32 then
    if x.awaits c then pure () else
    let e := x.codeOf (← get).ctx c
    consume e.1 e.2
  else if c < 36 then consume 6 (slotCode (c - 32) 0)
  else pure ()

/-- The code words of a vector source meet their consumer; a strip that a refill found poisoned is one (R271). -/
def meetV (c : Nat) : M Unit := do
  match (← me).stream c with
  | some b => match b.ahead with
    | none :: _ => throw (.rollback cECC 0)
    | _ => pure ()
  | none =>
    if c < 32 then consume 5 (vecCode (← get).ctx.val c) 8
    else if c < 36 then consume 6 (slotCode (c - 28) 0) 8
    else pure ()

/-- The code words of a unit's sources meet their consumer before any other cause that the unit meets (R229). -/
def meetAll (u : Uses) : M Unit := do
  u.ss.forM meetS
  u.sv.forM meetV
  u.ps.forM fun r => do consume 4 (ptrCode (← get).ctx.val r.val)

/-- The operands of a unit are ready; a direction it does not hold (R108), or a bound stream named as a
destination (R271), raises ILLEGAL. -/
def ready (u : Uses) : M Unit := do
  let s ← get
  let k := s.coreAt s.core
  match unheld k s.ctx (u.ss ++ u.sv ++ u.ds ++ u.dv) with
  | c :: cs => do
    meetAll u
    trap cILLEGAL (leastOf c cs)
  | [] => pure ()
  if u.dv.any fun c => ((k.ctxs[s.ctx]).stream c).isSome then
    meetAll u
    trap cILLEGAL
  u.ss.forM readyS
  u.sv.forM readyV
  u.ds.forM roomS
  u.dv.forM roomV

/-! ## Reading (R8, R30, R109) -/

/-- ReadS: the value; a queue or direction is popped by the unit's completion. -/
def readS (c : Nat) : M DWord := do
  let s ← get
  let k := s.coreAt s.core
  if c < 32 then takeReg c
  else if c < 36 then
    match k.qs[Fin.ofNat 4 (c - 32)].front s.ctx.val with
    | some v => do
      consume 6 (slotCode (c - 32) 0)
      pure v
    | none => wait sQEMPTY
  else
    match (k.link (c - 36)).buf with
    | .scalar v :: _ => pure v
    | .vector _ :: _ => trap cLINKWIDTH c
    | [] => wait sLINK

/-- ReadV: the value; a queue, direction or strip is popped by the unit's completion. -/
def readV (c : Nat) : M V512 := do
  let s ← get
  let k := s.coreAt s.core
  let x := k.ctxs[s.ctx]
  if c < 32 then
    match x.stream c with
    | some b =>
      match b.ahead with
      | [] => pure 0
      | some v :: _ => pure v
      | none :: _ => throw (.rollback cECC 0)
    | none => takeVec c
  else if c < 36 then
    match k.qv[Fin.ofNat 4 (c - 32)].front s.ctx.val with
    | some v => do
      consume 6 (slotCode (c - 28) 0) 8
      pure v
    | none => wait sQEMPTY
  else
    match (k.link (c - 36)).buf with
    | .vector v :: _ => pure v
    | .scalar _ :: _ => trap cLINKWIDTH c
    | [] => wait sLINK

/-- A number in a list once. -/
def once (xs : List Nat) : List Nat := xs.eraseDups

/-- One strip of a bound stream is popped; its copy unit refills it (R271). -/
def popStream (c : Nat) : M Unit := do
  let x ← me
  match x.stream c with
  | none => pure ()
  | some b =>
    modMe fun x => x.setStream (c - 24) (some { b with
      popped := if b.strips ≤ b.popped then b.popped else b.popped + 1
      ahead := b.ahead.drop 1 })
    modify fun s => s.later 1 (.strmRefill s.core s.ctx.val (c - 24))

/-- The sources of a completed unit are popped, each once (R7, R30). -/
def popAll (u : Uses) : M Unit := do
  (once ((u.ss ++ u.sv).filter (36 ≤ ·))).forM fun c => modCore fun k =>
    k.setLink (c - 36) { k.link (c - 36) with buf := (k.link (c - 36)).buf.drop 1 }
  (once (u.ss.filter fun c => 32 ≤ c && c < 36)).forM fun c => modCore fun k =>
    (k.popCodes (c - 32)).updQ (c - 32) Queue.pop
  (once (u.sv.filter fun c => 32 ≤ c && c < 36)).forM fun c => modCore fun k =>
    (k.popCodes (c - 28)).updQV (c - 32) Queue.pop
  (once (u.sv.filter (· < 32))).forM popStream

/-! ## Writing -/

/-- A flit leaves for the neighbour, which can read it 2 ck later (R107). -/
def sendFlit (c : Nat) (f : Flit) : M Unit := modify fun s =>
  match neighbour s.core (c - 36) with
  | none => s
  | some n =>
    let dir := opposite (c - 36)
    (s.updCore n fun k => k.setLink dir { k.link dir with flying := (k.link dir).flying ++ [f] }).later 2
      (.linkFlit n dir)

/-- The issuing context's register code c, 0-31, becomes v. -/
def putReg (c : Nat) (v : DWord) : M Unit := do
  let e := (← me).codeOf (← get).ctx c
  let v ← encoded e.1 e.2 64 v
  modMe fun x => x.setReg c v

/-- The issuing context's vector register r becomes v. -/
def putVec (r : Nat) (v : V512) : M Unit := do
  let v ← encoded 5 (vecCode (← get).ctx.val r) 64 v
  modMe fun x => x.setV r v

/-- The slot, from the head, that an entry pushed by a context takes. -/
def Queue.slotFor {α : Type} (q : Queue α) (x : Nat) : Nat :=
  (q.slots.findIdx? fun
    | .reserved y => y == x
    | _ => false).getD q.slots.length

/-- WriteS. -/
def writeS (c : Nat) (v : DWord) : M Unit := do
  let s ← get
  if c < 32 then putReg c v
  else if c < 36 then
    let q := (s.coreAt s.core).qs[Fin.ofNat 4 (c - 32)]
    let v ← encoded 6 (slotCode (c - 32) (q.slotFor s.ctx.val)) 64 v
    modCore fun k => k.updQ (c - 32) fun q => q.push s.ctx.val v
  else sendFlit c (.scalar v)

/-- WriteV. -/
def writeV (c : Nat) (v : V512) : M Unit := do
  let s ← get
  if c < 32 then putVec c v
  else if c < 36 then
    let q := (s.coreAt s.core).qv[Fin.ofNat 4 (c - 32)]
    let v ← encoded 6 (slotCode (c - 28) (q.slotFor s.ctx.val)) 64 v
    modCore fun k => k.updQV (c - 32) fun q => q.push s.ctx.val v
  else sendFlit c (.vector v)

/-- Reservations that a waiting issued unit keeps (R106). -/
def reserve (u : Uses) : M Unit := modify fun s => s.updCore s.core fun k =>
  let x := s.ctx.val
  let q := fun (cs : List Nat) => once (cs.filter fun c => 32 ≤ c && c < 36)
  let k := (q u.ss).foldl (fun k c => k.updQ (c - 32) fun q => q.claim x) k
  let k := (q u.sv).foldl (fun k c => k.updQV (c - 32) fun q => q.claim x) k
  let k := (q u.ds).foldl (fun k c => k.updQ (c - 32) fun q => q.book x) k
  (q u.dv).foldl (fun k c => k.updQV (c - 32) fun q => q.book x) k

/-- A unit over its operands: they are ready, and their code words sound (R229), the work is done, the sources are
popped. A unit that waits at a home keeps its reservations. What first makes of LINK_WIDTH, which a unit meets after
them, the causes that stand before it (R229). -/
def using_ {α : Type} (u : Uses) (body : M α) (first : M Unit := pure ()) : M α := do
  ready u
  meetAll u
  let a ← tryCatch body fun
    | .park n o => do reserve u; throw (.park n o)
    | .copyReq g p => do reserve u; throw (.copyReq g p)
    | .trap c v p f => do
      if c == cLINKWIDTH then first
      throw (.trap c v p f)
    | e => throw e
  popAll u
  pure a

/-- Where a completed unit goes (R81): on, to a target, or nowhere of its own. -/
inductive Flow where
  | seq
  | jump (pc : DWord)
  | gone
  deriving DecidableEq, Repr

/-- PC of the issuing context. -/
def myPC : M DWord := do pure (← me).pc

/-- A unit over one destination and some sources. -/
def unitS (ss : List Nat) (d : Nat) (body : M DWord) (first : M Unit := pure ()) : M Flow :=
  using_ { ss := ss, ds := [d] } (first := first) do
    let v ← body
    writeS d v
    pure .seq

end Sys2Proof.Machine
end

