-- ==== Sys2Proof/Machine/Flags.lean ====
section
/-! DEFINITION. The sticky flags FEXC (05 R124) and rounding under the context's generator (05 R123). -/

namespace Sys2Proof.Machine

/-- Flags are ORed into FEXC; no instruction clears one (R124). -/
def raise (f : Flags) : M Unit := modMe fun x => { x with fexc := x.fexc ||| f }

/-- Round(x, ty, mode) of R8: the code; the flags are raised, and RS steps SRSEED (R123). -/
def round (ty : Nat) (mode : Mode) (v : FVal) (f : Flags := 0) : M Nat := do
  let x ← me
  let (c, g, seed) := roundStep ty mode x.srseed v
  modMe fun x => { x with fexc := x.fexc ||| f ||| g, srseed := seed }
  pure c

end Sys2Proof.Machine
end

