-- ==== Sys2Proof/Machine/Net.lean ====
section
/-! DEFINITION. What leaves the package: flits of the fabric ports (22 R418-R421) and packets of the
scale-out transport (22 R426-R428). -/

namespace Sys2Proof.Machine

/-- Something is handed to the surroundings. -/
def State.emit (s : State) (o : Outward) : State := s.updPkg fun p => { p with outward := p.outward ++ [o] }

/-! ## Fabric ports -/

/-- Port n. -/
def State.portAt (s : State) (n : Nat) : Port := s.pkg.ports[Fin.ofNat 36 n]
/-- Port n changed by f. -/
def State.updPort (s : State) (n : Nat) (f : Port → Port) : State := s.updPkg fun p =>
  { p with ports := p.ports.set (Fin.ofNat 36 n).val (f p.ports[Fin.ofNat 36 n]) (Fin.ofNat 36 n).isLt }
/-- Port n has trained and is enabled (R417, R423). -/
def State.portUp (s : State) (n : Nat) : Bool := bit (s.portAt n).reg.toNat 2

/-- A flit (R418). -/
def flitBytes (dst src seq kind : Nat) (body : List Byte) : List Byte :=
  let b := bytesOf 2 (dst % 512) ++ bytesOf 2 (src % 512) ++ bytesOf 2 seq ++ bytesOf 2 (kind % 16) ++
    padTo 240 body
  b ++ bytesOf 8 (Config.crc64 b).toNat

/-- The credit class of a kind of flit (R419). -/
def creditClass (kind : Nat) : Fin 2 := if kind == 1 || kind == 4 then 0 else 1

/-- A flit goes out on a port: it takes the next sequence number and stays in the replay buffer of 64. One of kind 5
carries the next number and takes none: it is never replayed, and a retrain sends a new one (R419, log 47). -/
def State.flitOut (s : State) (n dst kind : Nat) (body : List Byte) : State :=
  let p := s.portAt n
  let f := flitBytes dst s.pkg.pkgid.toNat p.seq.toNat kind body
  (if kind == 5 then s else
    s.updPort n fun p => { p with seq := p.seq + 1, replay := (p.replay ++ [f]).drop (p.replay.length + 1 - 64) }
    ).emit (.flit n f)

/-- The flits of the replay buffer go out again, under their own numbers (R418, R424). -/
def State.replayOut (s : State) (n : Nat) : State := (s.portAt n).replay.foldl (fun s f => s.emit (.flit n f)) s

/-- A waiting flit names its kind and destination in its first four bytes. -/
def waitingFlit (dst kind : Nat) (body : List Byte) : List Byte := bytesOf 2 dst ++ bytesOf 2 kind ++ body

/-- The destination of what waits. -/
def flitDst (w : BitVec 2 × List Byte) : Nat := leAt w.2 0 2
/-- The kind of what waits. -/
def flitKind (w : BitVec 2 × List Byte) : Nat := leAt w.2 2 2

/-- The message bytes for a package that fill room bytes of a flit's body, packed back to back (R418), and what waits
on. -/
def packBody (dst : Nat) : Nat → List (BitVec 2 × List Byte) → List Byte × List (BitVec 2 × List Byte)
  | _, [] => ([], [])
  | room, w :: ws =>
    if flitKind w != 1 || flitDst w != dst || room == 0 then
      let r := packBody dst room ws
      (r.1, w :: r.2)
    else
      let t := (w.2.drop 4).take room
      let rest := w.2.drop (4 + t.length)
      let r := packBody dst (room - t.length) ws
      (t ++ r.1, if rest.isEmpty then r.2 else (w.1, waitingFlit dst 1 rest) :: r.2)

/-- Flits that wait on a port go out in order, each class as its credits allow (R419). -/
def State.portPump (s : State) (n : Nat) : Nat → State
  | 0 => s
  | fuel + 1 =>
    let p := s.portAt n
    let ok := fun (w : BitVec 2 × List Byte) => p.adv && 0 < p.credit[Fin.ofNat 2 w.1.toNat]
    match p.waiting.findIdx? ok with
    | none => s
    | some i =>
      let w := p.waiting.getD i (0, [])
      let c := Fin.ofNat 2 w.1.toNat
      let (body, rest) := if flitKind w == 1 then packBody (flitDst w) 240 p.waiting
        else (w.2.drop 4, p.waiting.eraseIdx i)
      let s := s.updPort n fun p =>
        { p with waiting := rest, credit := p.credit.set c.val (p.credit[c] - 1) c.isLt }
      (s.flitOut n (flitDst w) (flitKind w) body).portPump n fuel

/-- What waits on a port goes out, as far as its credits allow. -/
def State.pumped (s : State) (n : Nat) : State :=
  s.portPump n ((s.portAt n).waiting.foldl (fun a w => a + w.2.length / 240 + 1) 0)

/-- A flit, or the bytes of a message, waits for its port's credit, and goes out once it has it. -/
def State.portSend (s : State) (n dst kind : Nat) (body : List Byte) : State :=
  let c : BitVec 2 := if creditClass kind == 0 then 0 else 1
  (s.updPort n fun p => { p with waiting := p.waiting ++ [(c, waitingFlit dst kind body)] }).pumped n

/-- Bytes in pieces of n. -/
def pieceList (n : Nat) : Nat → List Byte → List (List Byte)
  | 0, _ => []
  | fuel + 1, bs => if bs.isEmpty then [] else bs.take n :: pieceList n fuel (bs.drop n)

/-- A message on a link: its header and payload, each padded to 32 bytes (R418). -/
def wireBytes (o : OutMsg) (id refusals : Nat) : List Byte :=
  headerOf o id refusals ++ padTo (32 * ((o.msg.body.length + 31) / 32)) o.msg.body

/-- The port that a message takes (R420): the one its context and destination name, or the next that is
up. -/
def State.portFor (s : State) (core : Nat) (ctx : Fin 8) (dst : BitVec 22) : Option Nat :=
  let p := (s.ctxId core ctx + fld dst.toNat 3 19) % 36
  ((upTo 36).map fun i => (p + i) % 36).find? s.portUp

/-! ## Scale-out -/

/-- Bytes lo to lo + n - 1 of the scale-out table at SOTBASE (R427). -/
def State.sot (s : State) (lo n : Nat) : List Byte := (s.fetchObj? s.pkg.sotbase 0 lo n).getD []

/-- Peer j's entry (R427). -/
def State.peerEntry (s : State) (j : Nat) : List Byte := s.sot (1024 + 64 * j) 64

/-- Peer j's entry is valid, and the peer is not marked down (R427, R428). -/
def State.peerValid (s : State) (j : Nat) : Bool :=
  s.pkg.sotbase.tag && bit (leAt (s.peerEntry j) 20 2) 15 && !(SMap.get {} s.pkg.peers j).down

/-! ## The checkpoint's targets (R429)

Target t has connection 223 + t, beside those of the peers (log 49). -/

/-- n bytes at off of the block at CKPTTGT. -/
def State.ckptBlock (s : State) (off n : Nat) : List Byte := (s.fetchObj? s.pkg.ckpttgt 0 off n).getD []

/-- The number of safe-tier targets, 1-16; 0 where the block names none. -/
def State.ckptTargets (s : State) : Nat :=
  let p := s.pkg.ckpttgt
  let n := fld (natOf (s.ckptBlock 0 2)) 0 5
  if p.tag && !s.malformed p && p.r && p.pn && n ≤ 16 && 16 + 32 * n ≤ p.len then n else 0

/-- The far end of a connection: its address, and the mask of the Ethernet ports it may use; a target may use all. -/
def State.endpoint (s : State) (j : Nat) : List Byte × Nat :=
  if j < 223 then ((s.peerEntry j).take 16, leAt (s.peerEntry j) 18 2)
  else (s.ckptBlock (16 + 32 * (j - 223)) 16, 65535)

/-- A 16-bit word with its bytes exchanged: network order. -/
def be16 (x : Nat) : List Byte := [BitVec.ofNat 8 (x / 256), BitVec.ofNat 8 x]

/-- The ones'-complement sum of 16-bit words in network order. -/
def sum16 : List Byte → Nat
  | a :: b :: t => a.toNat * 256 + b.toNat + sum16 t
  | [a] => a.toNat * 256
  | [] => 0

/-- The ones'-complement of a sum, folded; never zero (as UDP over IPv6 has it). -/
def check16 (x : Nat) : Nat :=
  let y := x % 65536 + x / 65536
  let y := y % 65536 + y / 65536
  if y == 65535 then 65535 else 65535 - y

/-- An Ethernet frame without its FCS (R426, R428): MAC addresses and VLAN tag of port e, an IPv6 header
with hop limit 64 and the port's number as its flow label, a UDP header with its checksum, and data. -/
def State.frame (s : State) (e : Nat) (dst : List Byte) (udp : Nat) (data : List Byte) : List Byte :=
  let pe := s.sot (64 * e) 64
  let mac := leAt pe 0 8
  let src := (pe.drop 16).take 16
  let len := 8 + data.length
  let ports := be16 (fld s.pkg.soctl.toNat 0 16) ++ be16 udp ++ be16 len
  let sum := sum16 (src ++ dst) + len + 17 + sum16 (ports ++ data)
  let tag := if bit mac 60 then be16 0x8100 ++ be16 (fld mac 48 12) else []
  ((pe.drop 32).take 6).reverse ++ (pe.take 6).reverse ++ tag ++ be16 0x86DD ++
    be16 0x6000 ++ be16 e ++ be16 len ++ [17, 64] ++ src ++ dst ++ ports ++ be16 (check16 sum) ++ data

/-- The 16-byte transport header (R428). -/
def transportHdr (kind count seq cum sack : Nat) : List Byte :=
  bytesOf 16 (kind % 16 + count % 65536 * 2 ^ 16 + seq % 2 ^ 32 * 2 ^ 32 + cum % 2 ^ 32 * 2 ^ 64 +
    sack % 2 ^ 32 * 2 ^ 96)

/-- Peer j changed by f. -/
def State.updPeer (s : State) (j : Nat) (f : Peer → Peer) : State :=
  s.updPkg fun p => { p with peers := SMap.put p.peers j (f (SMap.get {} p.peers j)) }

/-- The enabled Ethernet ports that a mask names. -/
def State.peerPorts (s : State) (mask : Nat) : List Nat :=
  (upTo 16).filter fun e => bit mask e && bit (s.pkg.eports[Fin.ofNat 16 e]).toNat 0

/-- The selective bitmap of packets held out of order (R428). -/
def Peer.sack (p : Peer) : Nat :=
  (p.ahead.map Prod.fst).foldl (fun a q =>
    let d := (q - p.expect).toNat
    if 1 ≤ d && d ≤ 32 then a ||| 2 ^ (d - 1) else a) 0

/-- A packet goes to the far end of connection j, to the transport's UDP port (R426), on the next port of its mask in
round robin (R428). -/
def State.packetOut (s : State) (j kind count seq : Nat) (body : List Byte) : State :=
  let (addr, mask) := s.endpoint j
  let p := SMap.get {} s.pkg.peers j
  match s.peerPorts mask with
  | [] => s
  | es =>
    let e := es.getD (p.turn % es.length) 0
    let data := transportHdr kind count seq p.expect.toNat p.sack ++ body
    (s.updPeer j fun p => { p with turn := p.turn + 1 }).emit
      (.packet e (s.frame e addr (fld s.pkg.soctl.toNat 0 16) data))

/-- Data for peer j: the packet takes the next sequence number and is resent after rto (R428). -/
def State.packetSend (s : State) (j kind count : Nat) (body : List Byte) : State :=
  let p := SMap.get {} s.pkg.peers j
  let q := p.nextSeq
  let s := s.packetOut j kind count q.toNat body
  (s.updPeer j fun p => { p with nextSeq := q + 1, sent := p.sent ++ [(q, 0, transportHdr kind count 0 0 0 ++ body)] }
    ).later (fld s.pkg.soctl.toNat 32 16 * 1250) (.resend j q.toNat)

/-! ## Segments of a checkpoint (R429) -/

/-- The fabric ports that are up. -/
def State.upPorts (s : State) : List Nat := (upTo 36).filter s.portUp

/-- The path of CKPTCMD leads somewhere: to targets over an Ethernet port, or to a peer over a fabric port. -/
def State.ckptPath (s : State) : Bool :=
  if bit s.pkg.ckptcmd.toNat 2 then s.ckptBlock 2 2 != [] && !s.upPorts.isEmpty
  else s.ckptTargets != 0 && !(s.peerPorts 65535).isEmpty

/-- Segment i is sent: to target i modulo n in packets of kind 4, or to the peer package in flits of kind 4 over all the
ports that are up in turn. -/
def State.sendSegment (s : State) (i : Nat) (seg : List Byte) : State :=
  if bit s.pkg.ckptcmd.toNat 2 then
    let ps := s.upPorts
    (pieceList 240 seg.length seg).zipIdx.foldl (fun s e =>
      s.portSend (ps.getD (e.2 % max 1 ps.length) 0) (fld (natOf (s.ckptBlock 2 2)) 0 9) 4 e.1) s
  else
    (pieceList (fld s.pkg.soctl.toNat 16 14 - 64) seg.length seg).foldl (fun s b =>
      s.packetSend (223 + i % max 1 s.ckptTargets) 4 0 b) s

/-- Segments from number i on are sent. -/
def State.sendSegments (s : State) (i : Nat) (segs : List (List Byte)) : State :=
  segs.zipIdx.foldl (fun s e => s.sendSegment (i + e.2) e.1) s

/-- CKPTCMD.st becomes v (R407). -/
def State.ckptSt (s : State) (v : Nat) : State :=
  s.updPkg fun p => { p with ckptcmd := BitVec.ofNat 64 (setFld p.ckptcmd.toNat 3 2 v) }

/-- The checkpoint command under way fails: CKPTCMD shows the µs since its start (R407). -/
def State.ckptFail (s : State) : State :=
  let us := (s.pkg.ckpt.map fun c => (s.pkg.time - c.since).toNat / 1250).getD 0
  ((s.updPkg fun p => { p with ckpt := none, ckptcmd := BitVec.ofNat 64 (setFld p.ckptcmd.toNat 32 32 us) }).ckptSt
    3).soon 1 .release

/-! ## Messages to other packages -/

/-- A message to another package is sent, to its peer or on the port that is its pair's now (R420): with none up, it
waits for one. -/
def State.sendOne (s : State) (r : Remote) : State :=
  let o : OutMsg := { dst := r.dst, msg := r.msg, handler := r.handler }
  let mark := fun (s : State) (port : Option Nat) => s.updPkg fun p =>
    { p with remotes := p.remotes.map fun q =>
        if q.id == r.id then { q with sent := true, flying := true, port := port } else q }
  match r.peer with
  | some j => (mark s none).packetSend j 1 1 (wireBytes o r.id 0)
  | none => match s.portFor r.core r.ctx r.dst with
    | some n => (mark s (some n)).portSend n (fld r.dst.toNat 13 9) 1 (wireBytes o r.id r.refusals)
    | none => s.updPkg fun p =>
      { p with remotes := p.remotes.map fun q =>
          if q.id == r.id then { q with sent := false, flying := false, port := none } else q }

/-- What an activation has issued before request id is not performed yet: atomics, and trace records (R256, R386). -/
def State.earlierOps (s : State) (act id : Nat) : Bool :=
  (s.amos act).any (·.1 < id) || (s.tracesOut act).any (· ≤ id)

/-- Messages that may leave do: a pair's next message waits until its earlier ones are acknowledged (R421, log 47), and
each while atomics that its context has issued before it are not performed (R256). -/
def State.sendRemotes (s : State) : State :=
  (s.pkg.remotes.filter fun r => !r.sent).foldl (fun s r =>
    let held := (s.pkg.remotes.takeWhile fun q => q.id != r.id).any fun q =>
      q.core == r.core && q.ctx == r.ctx && q.dst == r.dst
    if held || s.earlierOps r.actId r.id then s else s.sendOne r) s

/-! ## Requests from other packages (R421)

Such a request's sending core is numbered 2^20 plus bits [21:3] of its sender, and its activation is the number that
its sender gave it. -/

/-- The number of a remote sender's core. -/
def remoteCore (sender : BitVec 22) : Nat := 2 ^ 20 + fld sender.toNat 3 19

/-- A request from another package of the domain. -/
def Req.fromFabric (r : Req) : Bool := 2 ^ 20 ≤ r.core && fld r.core 10 9 < 288

/-- An end-to-end answer leaves by a port that is up, or waits for one (R421). -/
def State.answerOut (s : State) (core pkg kind : Nat) (body : List Byte) : State :=
  match s.portFor core 0 0 with
  | some n => s.portSend n pkg kind body
  | none => s.updPkg fun p => { p with answersOut := p.answersOut ++ [(pkg, kind, body)] }

/-- Answers that waited for a port leave. -/
def State.answersGo (s : State) : State :=
  let es := s.pkg.answersOut
  es.foldl (fun s e => s.answerOut 0 e.1 e.2.1 e.2.2) (s.updPkg fun p => { p with answersOut := [] })

/-- An end-to-end answer goes back (R421): kind 2, an acknowledgement; kind 3, a refusal (0) or HELD (1). -/
def State.answer (s : State) (r : Req) (kind code : Nat) : State :=
  if !r.fromFabric then s else
  let s := if kind == 2 then s.updPkg fun p =>
      let mine := fun (e : Nat × Fin 8 × Nat × Nat) => e.1 == r.core && e.2.1 == r.ctx && e.2.2.1 == r.dst
      { p with landedFrom := (p.landedFrom.filter fun e => !mine e) ++ [(r.core, r.ctx, r.dst, r.actId)] }
    else s
  s.answerOut r.dst (fld r.core 10 9) kind (bytesOf 4 r.actId ++ bytesOf 1 code)

end Sys2Proof.Machine
end

