-- ==== Sys2Proof/Machine/Act.lean ====
section
/-! DEFINITION. Activations as wholes: run queues (15 R314, R315), messages leaving an outbox (12 R255, 15
R327, R328), trace records (16 R344-R346), and how an activation ends, is killed or is rolled back (03
R59-R61). -/

namespace Sys2Proof.Machine

/-! ## Run queues (R314) -/

/-- Entries of the internal queue: completion activations and resume requests. -/
def Core.internal (k : Core) : Nat :=
  (k.runq.filter fun e => match e.work with
    | .message _ => false
    | _ => true).length

/-- An entry joins at the head or the tail of its priority. -/
def joinAt (head : Bool) (e : Entry) : List Entry → List Entry
  | [] => [e]
  | f :: fs =>
    if (if head then f.prio ≤ e.prio else f.prio < e.prio) then e :: f :: fs else f :: joinAt head e fs

/-- An entry joins core c's run queue, stamped now (R342), and is first considered in the next ck
(R316). -/
def State.join (s : State) (c : Nat) (head : Bool) (e : Entry) : State :=
  (s.updCore c fun k => { k with
    runq := joinAt head { e with stamp := if e.stolen then e.stamp else s.pkg.time, came := s.ck } k.runq }).later 1
    (.dispatch c)

/-- A message that has passed R51's checks joins the run queue at its effective priority. The core that gets work for
contexts 0-6 stops probing (R320). -/
def State.queueMessage (s : State) (c : Nat) (m : Msg) : State :=
  let e := ((s.coreAt c).cls m.cls.toNat).toNat
  let s := if bit e 27 then s else
    { s with pending := s.pending.filter fun p => p.2 != Due.backoff c }.updCore c fun k =>
      { k with thief := { k.thief with failed := 0, backing := false } }
  s.join c false
    { prio := BitVec.ofNat 6 (min m.prio.toNat (fld e 16 6)), hnd := bit e 27, work := .message m
      stealable := m.steal }

/-! ## The launch of an activation (R374) -/

/-- The launch numbered uid changed by f. -/
def State.updLaunch (s : State) (uid : Nat) (f : Launch → Launch) : State :=
  s.updPkg fun p => { p with launches := p.launches.map fun l => if l.uid == uid then f l else l }

/-- The launch numbered uid. -/
def State.launch? (s : State) (uid : Nat) : Option Launch := s.pkg.launches.find? fun l => l.uid == uid

/-- A message or activation more belongs to the launch. -/
def State.launchMore (s : State) (uid : Nat) : State :=
  s.updLaunch uid fun l => { l with active := l.active + 1 }

/-- The launch has placed all its messages, or dropped the rest (R374, R378). -/
def Launch.allPlaced (l : Launch) : Bool :=
  (match l.phase with
   | .placed => true
   | _ => false) && l.unaccepted == 0

/-- A message or activation less: the launch may be complete (R374). -/
def State.launchLess (s : State) (uid : Nat) : State :=
  let s := s.updLaunch uid fun l => { l with active := l.active - 1 }
  match s.launch? uid with
  | some l => if l.active == 0 && l.allPlaced then s.later 0 (.launchDone uid) else s
  | none => s

/-! ## Trace records (R343-R346) -/

/-- The trace object's number of records (R343). -/
def State.trLen (s : State) (c : Nat) : Nat := (s.coreptr c 0x28).len / 32

/-- TRCTL says that records of a kind are written. -/
def State.traces (s : State) (c kind : Nat) : Bool :=
  bit (s.coreReg c 0x2A) 0 && bit (s.coreReg c 0x2A) kind

/-- The ring is full with wrap = 0 (R343). -/
def State.trFull (s : State) (c : Nat) : Bool :=
  !bit (s.coreReg c 0x2A) 5 && bit (s.coreReg c 0x2B) 40

/-- A record is dropped: lost is incremented, saturating (R346). -/
def State.trLost (s : State) (c : Nat) : State :=
  let v := s.coreReg c 0x2A
  s.setCoreReg c 0x2A (setFld v 32 32 (min (fld v 32 32 + 1) (2 ^ 32 - 1)))

/-- A record enters the buffer, of which one is written every 4 ck; hardware records that find the buffer full
are dropped (R346). own names the activation of a record that TRACE makes. -/
def State.trPut (s : State) (c : Nat) (r : BitVec 256) (own : Option (Nat × Nat) := none) : State :=
  if s.trFull c || 8 ≤ (s.coreAt c).tbuf.length then s.trLost c
  else
    let idle := (s.coreAt c).tbuf.isEmpty
    let s := s.updCore c fun k => { k with tbuf := k.tbuf ++ [{ bits := r, own }] }
    if idle then s.later 4 (.traceWrite c) else s

/-- A coordinate of the launch grid (R344). -/
def gridCoord (x : Nat) : Nat := if 65536 ≤ x then 0xFFFF else x

/-- A record's bits (R344): the launch's grid extents read 1 where they are zero or the launch is
gone. -/
def State.traceBits (s : State) (c kind : Nat) (ctx : Fin 8) (stl : Bool) (cls ent tag wuid slot uid : Nat)
    (time aux : Nat) : BitVec 256 :=
  let g := fun i => match s.launch? uid with
    | some l => max 1 (leAt l.blk (116 + 4 * i) 4)
    | none => 1
  let x := wuid % g 0
  let y := wuid / g 0 % g 1
  let z := wuid / (g 0 * g 1)
  BitVec.ofNat 256 (kind + ctx.val * 2 ^ 4 + (if stl then 2 ^ 7 else 0) + cls % 256 * 2 ^ 8 +
    ent % 2 ^ 14 * 2 ^ 16 + c / 256 * 2 ^ 30 + tag % 2 ^ 32 * 2 ^ 32 + gridCoord x * 2 ^ 64 +
    gridCoord y * 2 ^ 80 + gridCoord z * 2 ^ 96 + slot % 128 * 2 ^ 112 + c % 16 * 2 ^ 120 +
    c / 16 % 16 * 2 ^ 124 + time % 2 ^ 64 * 2 ^ 128 + aux % 2 ^ 64 * 2 ^ 192)

/-- The record of a context's activation. -/
def State.traceCtx (s : State) (c : Nat) (x : Fin 8) (kind time aux : Nat) : BitVec 256 :=
  let q := s.ctxAt c x
  let ent := fld ((s.coreAt c).cls q.classno.toNat).toNat 2 14
  s.traceBits c kind x q.stolen q.classno.toNat ent q.routetag.toNat q.wuid.toNat q.slot.toNat q.launch time aux

/-- A hardware record, where TRCTL enables its kind (R346). -/
def State.traceHw (s : State) (c : Nat) (x : Fin 8) (kind time aux : Nat) : State :=
  if s.traces c kind then s.trPut c (s.traceCtx c x kind time aux) else s

/-! ## Requests to other cores (R326, R327) -/

/-- A refusable request is handed to the sender's network interface. It arrives after what the same core has sent to the
same receiver before (R238). -/
def State.request (s : State) (core : Nat) (ctx : Fin 8) (act dst : Nat) (prio : BitVec 6) (l : Load) (ev : Due)
    (ck : Nat) (rel : Bool := false) : State :=
  let before := s.reqs.filter fun r => r.core == core && r.dst == dst && r.standing == .sent
  let due := before.foldl (fun d r => max d r.due) (s.ck + ck)
  let r : Req := { id := s.reqNext, core, ctx, actId := act, dst, load := l, prio, due, rel }
  ({ s with reqs := s.reqs ++ [r], reqNext := s.reqNext + 1 }).later (due - s.ck) ev

/-- A message is diverted to the supervisor queue (R294). -/
def State.divert (s : State) (core : Nat) (cause : Nat) (m : Msg) (key det : Nat := 0) : State :=
  (s.contain core { cause, capp := m.cap.toNat, keyx := key, cls := m.cls.toNat, wuid := m.wuid.toNat,
                    at_ := s.coreId core, sender := m.sender.toNat, slot := m.slot.toNat, det } (some m)
    ).launchLess m.launch

/-- The core that a message goes to: the one named, or a handler core (R254, R328). -/
def State.destCore (s : State) (o : OutMsg) : Nat :=
  let d := o.dst.toNat
  if o.handler then
    let die := fld d 11 2
    let k := fld d 3 4
    die * 256 + k * 16 + fld (s.dieAt die).hnd.toNat (4 * k) 4
  else fld d 3 10

/-- A package of the scale-up domain can be reached (R416, R420): its bit of PKGMAP is set. -/
def State.pkgKnown (s : State) (pkg : Nat) : Bool := pkg < 288 && bit s.pkg.pkgmap.toNat pkg

/-- A message leaves an outbox (R255, R328, R369, R420). -/
def State.post (s : State) (core : Nat) (ctx : Fin 8) (act : Nat) (o : OutMsg) : State :=
  let d := o.dst.toNat
  let pkg := fld d 13 9
  let s := s.launchMore o.msg.launch
  let ck := 6 + (32 + o.msg.body.length + 63) / 64
  if pkg == s.pkg.pkgid.toNat then
    let c := s.destCore o
    s.request core ctx act c o.msg.prio (.message o) (.message c) ck
  else if pkg == 511 && !o.handler then
    s.request core ctx act (65536 + fld d 3 8) o.msg.prio (.hostQueue (fld d 3 8) o) (.hostQueue (fld d 3 8)) ck
  else
    let r : Remote := { id := s.reqNext, core, ctx, actId := act, dst := o.dst, msg := o.msg, handler := o.handler }
    let away := fun (r : Remote) =>
      (({ s with reqNext := s.reqNext + 1 }.updPkg fun p => { p with remotes := p.remotes ++ [r] }).sendRemotes
        ).launchLess o.msg.launch
    if s.pkgKnown pkg && (s.portFor core ctx o.dst).isSome then away r
    else if 288 ≤ pkg && pkg ≤ 510 && s.peerValid (pkg - 288) then away { r with peer := some (pkg - 288) }
    else s.divert core 5 o.msg

/-- Every held message is released in order (R59, R60). -/
def State.releaseOutbox (s : State) (c : Nat) (x : Fin 8) : State :=
  let q := s.ctxAt c x
  let s := s.updCtx c x fun q => { q with outbox := [] }
  q.outbox.foldl (fun s o => s.post c x q.actId o) s

/-! ## Jobs of an activation (R273, R274) -/

/-- The status of a job (R273). -/
def Job.status (j : Job) (state : Nat) : DWord :=
  BitVec.ofNat 64 (state + (if j.rng then 8 else 0) + j.tiles * 256)

/-- A job that a copy unit accepts: it takes its number, and its report joins those of the 64 most recent (R258,
R273). -/
def CopyUnit.addReport (u : CopyUnit) (v : DWord) : CopyUnit :=
  { u with report := (u.report ++ [(u.num, v)]).drop (u.report.length + 1 - 64), num := u.num + 1 }

/-- A copy unit's report of a job, where it still keeps one. -/
def CopyUnit.setReport (u : CopyUnit) (num : Nat) (v : DWord) : CopyUnit :=
  { u with report := u.report.map fun e => if e.1 == num then (num, v) else e }

/-- A job leaves the unit and reports a state; a saving activation's seal will write its record (R285). -/
def CopyUnit.endJob (u : CopyUnit) (j : Job) (state : Nat) (saving : Bool) : CopyUnit :=
  let u := u.setReport j.num (j.status state)
  { u with
    jobs := u.jobs.filter (·.num != j.num)
    stopped := if saving && state == 3 then u.stopped ++ [j] else u.stopped }

/-- A job of an activation is between tiles, and not complete. -/
def Job.between (j : Job) (act : Nat) : Bool := j.actId == act && j.elem == 0 && !j.finished

/-- Jobs of an activation stop (R274): those between tiles at once, others at the end of their tile. -/
def CopyUnit.stopJobs (u : CopyUnit) (act : Nat) (state : BitVec 3) (saving : Bool) : CopyUnit :=
  let u := (u.jobs.filter (·.between act)).foldl (fun u j => u.endJob j state.toNat saving) u
  let stopped := if state == 5 then u.stopped.filter fun j => j.actId != act else u.stopped
  let jobs := u.jobs.map fun j => if j.actId == act && !j.finished then { j with stopAt := some state } else j
  { u with jobs, stopped }

/-- Copy unit n, 0-127: two for each cluster. -/
def State.unitAt (s : State) (n : Nat) : CopyUnit := (s.cluAt (n / 2)).units[Fin.ofNat 2 n]
/-- Copy unit n changed by f. -/
def State.updUnit (s : State) (n : Nat) (f : CopyUnit → CopyUnit) : State :=
  s.updClu (n / 2) fun c =>
    { c with units := c.units.set (Fin.ofNat 2 n).val (f c.units[Fin.ofNat 2 n]) (Fin.ofNat 2 n).isLt }
/-- The copy unit of a core's half (R237, R258). -/
def unitOf (c : Nat) : Nat := 2 * (c / 16) + (if c % 16 < 8 then 0 else 1)

/-- The identifier of a job, from its unit and the low 16 bits of its number (R261). -/
def jobId (unit num : Nat) : DWord := BitVec.ofNat 64 (num % 65536 + unit % 2 * 65536)

/-- The contexts that wait for a job are released (R273). -/
def State.wakeJob (s : State) (u num : Nat) : State :=
  ((upTo 8).map fun i => u / 2 * 16 + u % 2 * 8 + i).foldl (fun s c =>
    if !s.cores.any fun e => e.1 == c then s else
    allCtx.foldl (fun s x =>
      match (s.ctxAt c x).run with
      | .waiting w =>
        match w.need with
        | .job id => if id == jobId u num then s.updCtx c x fun q => { q with run := .live, latch := some [] } else s
        | _ => s
      | _ => s) s) s

/-- Unit u accepts a job, with a report: the job whose report falls out of the 64 is unknown from now on, and what waits
for it goes on (R273). -/
def State.addReport (s : State) (u : Nat) (v : DWord) : State :=
  let old := (s.unitAt u).report
  (old.take (old.length + 1 - 64)).foldl (fun s e => s.wakeJob u e.1) (s.updUnit u (·.addReport v))

/-- The jobs of an activation stop: what waits for one that ends, for an entry of the unit's queue
or for its turn (R269), goes on. -/
def State.stopJobs (s : State) (c act : Nat) (state : BitVec 3) (saving : Bool := false) : State :=
  let n := unitOf c
  let gone := (s.unitAt n).jobs.filter (·.between act)
  let s := s.updUnit n fun u => u.stopJobs act state saving
  (((gone.foldl (fun s j => s.wakeJob n j.num) s).soon 1 (.copyBeat n)).soon 1 (.copyAccept n)).soon 1 (.copyDone n)

/-- Jobs of an activation that have not completed. -/
def State.jobsOf (s : State) (c act : Nat) : List Job :=
  (s.unitAt (unitOf c)).jobs.filter fun j => j.actId == act

/-! ## What an end releases -/

/-- A context's number among the engines that write. -/
def postSrc (c : Nat) (x : Fin 8) : Nat := 2048 + 8 * c + x.val

/-- Every hold of a context is released, as by REL (R194), after what the context has issued before (R386). -/
def State.relHolds (s : State) (c : Nat) (x : Fin 8) : State :=
  let q := s.ctxAt c x
  let s := q.holds.foldl (fun s p => s.runPost
    { src := postSrc c x, ptr := p, part := q.part.toNat, off := 0, data := [], fe := none
      kind := .release (acqId c x) q.actId }) s
  s.updCtx c x fun q => { q with holds := [] }

/-- The sifts that a context's unit runs are over, or are tried again. -/
def State.dropSifts (s : State) (c : Nat) (x : Fin 8) : State :=
  if s.sifts.isEmpty then s else { s with sifts := s.sifts.filter fun e => e.owner != some (c, x) }

/-- Tile ownership ends and the tiles are cleared (R147): new code words stand in their elements (R236). -/
def Core.freeTiles (k : Core) (x : Fin 8) : Core :=
  let mine := (upTo 4).filter fun i => (k.tiles[Fin.ofNat 4 i]).owner == some x
  { k with
    tiles := k.tiles.map fun t => if t.owner == some x then {} else t
    flips := k.flips.filter fun f => !(f.1 == 7 && mine.contains (f.2.1 / 256)) }

/-- Every claim of a direction by the context ends (R108). -/
def Core.freeLinks (k : Core) (x : Fin 8) : Core :=
  { k with links := k.links.map fun l => if l.claim == some x then { l with claim := none } else l }

/-- The stall differences since dispatch go to the slot's totals (R340). -/
def State.addTotals (s : State) (c : Nat) (x : Fin 8) : State :=
  let s := s.tallyCtx c x
  let q := s.ctxAt c x
  if q.launch == 0 then s else
  s.updPkg fun p =>
    let t := SMap.get {} p.slots q.slot.toNat
    let tot := (upTo 16).foldl (fun m i =>
      SMap.set 0 m i (SMap.get 0 m i + (SMap.get 0 q.stalls i - SMap.get 0 q.stallsAt i))) t.totals
    { p with slots := SMap.put p.slots q.slot.toNat { t with totals := tot } }

/-- A pre-emption of the supervisor ends on a core when every context that received it has sealed or been
killed (R292): the queues and link buffers empty, and the report goes to the supervisor queue (R403). -/
def State.endPreempt (s : State) (c : Nat) : State :=
  let isOver := fun (p : Preempting) => p.got.all fun x => bit p.sealed.toNat x || bit p.killed.toNat x
  let gone := (s.coreAt c).preempts.filter isOver
  let s := s.updCore c fun k => { k with preempts := k.preempts.filter fun p => !isOver p }
  gone.foldl (fun s p =>
    let s := s.updCore c fun k => { k with
      qs := Vector.replicate 4 {}, qv := Vector.replicate 4 {}, flips := k.flips.filter fun f => f.1 != 6
      links := k.links.map fun l => { l with buf := [] } }
    s.sqReport (coreDie c) (bytesOf 64 (65 + p.slot.toNat * 2 ^ 8 + s.coreId c % 2 ^ 22 * 2 ^ 128 +
      s.pkg.time.toNat * 2 ^ 192 + p.sealed.toNat * 2 ^ 256 + p.killed.toNat * 2 ^ 264))) s

/-- A context that received a supervisor's request has ended (R292), as R345 codes it: sealed, killed or rolled back,
or complete before the request was taken, which leaves neither mark. -/
def State.preemptDone (s : State) (c : Nat) (x : Fin 8) (how : Nat) : State :=
  let m : BitVec 8 := BitVec.ofNat 8 (2 ^ x.val)
  let mark := fun (p : Preempting) =>
    if !p.got.contains x.val then p
    else if how == 0 then { p with got := p.got.filter (· != x.val) }
    else if how == 3 then { p with sealed := p.sealed ||| m }
    else { p with killed := p.killed ||| m }
  (s.updCore c fun k => { k with preempts := k.preempts.map mark }).endPreempt c

/-- The context waits in no group any more (R185, R334). -/
def State.dropGroups (s : State) (c : Nat) (x : Fin 8) : State :=
  let own := fun (w : Nat × Fin 8 × Nat) => !(w.1 == c && w.2.1 == x)
  s.updPkg fun p =>
    { p with groups := p.groups.map fun g => (g.1, { g.2 with waiters := g.2.waiters.filter own }) }

/-- A field of a command block. -/
def MCmd.field (c : MCmd) (lo n : Nat) : Nat := fldAt c.blk lo n

/-- The owner of a command's tile: for FP64 that of tile c alone, whose pair R160 does not speak of (log 44). -/
def MCmd.owner (c : MCmd) (core : Core) : Option (Fin 8) := core.tiles[Fin.ofNat 4 (c.field 4 2)].owner

/-- The commands of a core that wait for tiles of context x lose them (R285). -/
def Core.loseCmds (k : Core) (x : Fin 8) : Core :=
  { k with cmds := k.cmds.map fun m => if m.owner k == some x then { m with lost := true } else m }

/-- The context is free (R59, R83): claims, tiles, streams, nodes, reservations, sheet membership and the
weight buffer end with the activation; a seal also takes the spill object (R285). how is R345's end code. -/
def State.freeCtx (s : State) (c : Nat) (x : Fin 8) (how : Nat) : State :=
  let q := s.ctxAt c x
  let now := s.pkg.time
  let wait := min (q.disp - q.enq).toNat (2 ^ 32 - 1)
  let run := min (now - q.disp).toNat (2 ^ 30 - 1)
  let s := s.traceHw c x 2 now.toNat (wait + run * 2 ^ 32 + how * 2 ^ 62)
  let s := s.addTotals c x
  let s := s.relHolds c x
  let s := (s.dropNodes c x).dropGroups c x
  let s := s.updCore c fun k => (((k.loseCmds x).freeTiles x).freeLinks x).release x.val
  let s := s.updCore c fun k => { k with wbuf := if k.wbuf == some x then none else k.wbuf }
  let s := if q.sheet.isSome then
      s.updClu (coreClu c) fun k => { k with partials := k.partials.filter (·.core != c) } else s
  let s := s.updCtx c x fun q =>
    { q with
      run := .free, below := [], depth := 0, lcount := 0, lstart := 0, lend := 0, strm := Vector.replicate 8 none
      replies := [], fadds := 0, sheet := none, sheetN := 0, latch := none, metSift := false, blocked := none
      request := none
      saving := false, ts := false, evt := false, yieldTo := [], outbox := [], news := [], marks := []
      tm := Vector.replicate 8 0
      spill := if how == 3 then .null else q.spill
      spillcap := if how == 3 then 0 else q.spillcap }
  let s := (s.dropSifts c x).later 1 (.dispatch c)
  let k := s.coreAt c
  let s := if k.stopping && !k.stopped then s.later 0 (.stopDone c) else s
  let s := if k.preempts.any (fun p => p.got.contains x.val) then
      s.preemptDone c x how else s
  s.settled

/-- The end of an activation in its launch's record (R375): 0 completed, 1 killed, 2 rolled back, 3
sealed. -/
def State.countEnd (s : State) (uid how : Nat) (flags : BitVec 5 := 0) : State :=
  s.updLaunch uid fun l => { l with
    fp := l.fp ||| flags
    completed := l.completed + (if how == 0 then 1 else 0)
    killed := l.killed + (if how == 1 then 1 else 0)
    rolled := l.rolled + (if how == 2 then 1 else 0)
    sealed := l.sealed + (if how == 3 then 1 else 0) }

/-- The seal state of a context's save slot (R284, R287): byte 72 of the frame. -/
def State.setSeal (s : State) (c : Nat) (x : Fin 8) (v : Nat) : State :=
  s.enginePut (s.coreptr c 0x10) (s.ctxAt c x).part.toNat (32768 * x.val + 72) [BitVec.ofNat 8 v] (some true) (postSrc c x)

/-- Kill (R59): the outbox is dropped, jobs stop with state 5, the context is freed, and a containment
record goes to the supervisor queue. A trap kills a saving activation with cause 10 (R284). -/
def State.kill (s : State) (c : Nat) (x : Fin 8) (cause tcause : Nat) (pc det : Nat := 0) : State :=
  let q := s.ctxAt c x
  let cause := if q.saving && cause == 3 then 10 else cause
  let s := s.stopJobs c q.actId 5
  let s := if q.saving then s.setSeal c x 2 else s
  let s := s.contain c { cause, tcause := if cause == 3 || cause == 10 then tcause else 0
                         pc := if cause == 3 || cause == 4 || cause == 10 then pc else 0
                         cls := q.classno.toNat, wuid := q.wuid.toNat, at_ := s.ctxId c x
                         sender := q.sender.toNat, slot := q.slot.toNat, det }
  ((s.countEnd q.launch 1).freeCtx c x 1).launchLess q.launch

/-- The bump pointer of pad i returns to b (R61), where nothing but dead objects stands above it: a copy that the activation
brought up of an object that it did not allocate stays (log 46). Pointers to what stood there get length zero. -/
def State.returnBump (s : State) (i b : Nat) : State :=
  let p := s.pad i
  let lo := padBase i + b
  let hi := padBase i + p.bump
  let fs := s.objectsIn lo hi
  if !fs.all fun f => (s.padHeader f).state == stDead then s else
  let s := fs.foldl (fun s f => s.mapPtrs (PReg.deaden f (footprint (s.padHeader f).len))) s
  (s.updMem fun m => { m with starts := NSet.clear m.starts (lo / 32) (hi / 32) }).setPad i { p with bump := b }

/-- Objects that an activation allocated are discarded (R61): marked dead, with their risen copies; and where no other
context has allocated from a pad since the activation began, its bump pointer returns. -/
def State.discard (s : State) (c : Nat) (x : Fin 8) : State :=
  let q := s.ctxAt c x
  let s := q.news.foldl (fun s f => s.postDead f (postSrc c x)) s
  q.marks.foldl (fun s (i, b) => s.returnBump i b) s

/-- Rollback (R61). -/
def State.rollback (s : State) (c : Nat) (x : Fin 8) (tcause pc val : Nat) : State :=
  let q := s.ctxAt c x
  let s := s.stopJobs c q.actId 5
  let s := if q.saving then s.setSeal c x 2 else s
  let s := s.discard c x
  let again := q.idem && !q.oc && q.redel != 3 && !q.completion
  let s := if again then s else
    s.contain c { cause := 4, pc
                  cls := q.classno.toNat, wuid := q.wuid.toNat, at_ := s.ctxId c x
                  sender := q.sender.toNat, slot := q.slot.toNat
                  det := if tcause == cECC then val else q.redel.toNat }
  let s := (s.countEnd q.launch 2).freeCtx c x 2
  if again then
    s.join c true { prio := q.prio, hnd := x == 7, work := .message { q.msg with redel := q.msg.redel + 1 } }
  else s.launchLess q.launch

/-- Completion (R59, R83): the outbox is released in issue order. -/
def State.complete (s : State) (c : Nat) (x : Fin 8) : State :=
  let q := s.ctxAt c x
  let s := s.releaseOutbox c x
  ((s.countEnd q.launch 0).freeCtx c x 0).launchLess q.launch

end Sys2Proof.Machine
end

