-- ==== Sys2Proof/Machine/Ops.lean ====
section
/-! DEFINITION. A unit as a whole: fetching it (02 R21-R23), what stands before its effect (03 R65, 04 R79, 09
R229), its work, and every way it can end: completion with the signature fold (09 R230) and the sequential
advance of loops (04 R81), a stall (05 R100), a wait at a home (07 R182-R184), PAGE (09 R228), rollback, and
taking a trap (03 R62). -/

namespace Sys2Proof.Machine

/-! ## Fetch (R21, R23) -/

/-- The parcel at byte pc of core c's routine store. -/
def State.parcel (s : State) (c pc : Nat) : Parcel :=
  s.mem.byte (routineBase c + pc + 1) ++ s.mem.byte (routineBase c + pc)

/-- The parcels from pc that lie in the store, at most three. -/
def State.parcels (s : State) (c pc : Nat) : List Parcel :=
  ([pc, pc + 2, pc + 4].filter fun a => a < 65536).map (s.parcel c)

/-- TRAPINST: the first two parcels at pc (R58): of a unit of one parcel the one after it too, and zero beyond the
store (log 39). -/
def State.trapInst (s : State) (c pc : Nat) : BitVec 32 :=
  match s.parcels c pc with
  | a :: b :: _ => b ++ a
  | [a] => (0 : Parcel) ++ a
  | [] => 0

/-! ## Taking a trap (R62) -/

/-- The double trap and the traps of context 7 kill (R62, R65); any other vectors: TRAPCAUSE, TRAPPC, TRAPINST,
TRAPVAL and TRAPPTR are written, TS and MODE are set, S and SV are cleared (R92, R231), and the context
continues at TRAPVEC. -/
def State.trap (s : State) (c : Nat) (x : Fin 8) (cause val : Nat) (ptr : Option (Fin 16) := none) : State :=
  let q := s.ctxAt c x
  if q.ts || (x == 7 && cause != cBREAK) then s.kill c x 3 cause q.pc.toNat
  else s.updCtx c x fun q =>
    { q with
      trapcause := BitVec.ofNat 8 cause
      trappc := q.pc
      trapinst := s.trapInst c q.pc.toNat
      trapval := BitVec.ofNat 64 val
      trapptr := match ptr with
        | some r => BitVec.ofNat 5 (16 + r.val)
        | none => 0
      savedMode := q.mode
      mode := true
      ts := true
      sig := 0
      sv := false
      blocked := none
      latch := none
      metSift := false
      run := .live
      pc := BitVec.ofNat 64 q.trapvec.toNat }

/-- The return from a trap routine (R93). -/
def Ctx.trapReturn (x : Ctx) : Ctx :=
  { x with mode := x.savedMode, ts := false, sig := 0, sv := false }

/-! ## Waits (R182-R184, R324) -/

/-- The park limit in ck (R181). -/
def Ctx.parkCk (q : Ctx) : Nat := fld q.waitbudget.toNat 16 32 * 1024
/-- The re-checks before parking (R181). -/
def Ctx.spins (q : Ctx) : Nat := fld q.waitbudget.toNat 0 12

/-- The pointer register that a need names. -/
def Need.ptr : Need → Option (Fin 16)
  | .words _ r _ _ _ => some r
  | .acq r => some r
  | .gen r _ => some r
  | .ring r _ => some r
  | _ => none

/-- FE_BUDGET's TRAPVAL (R182, R268, R273, R334); an ACQ's is 0 (log 39). -/
def Need.val (failed : Nat) : Need → Nat
  | .job id => id.toNat
  | .group g _ => g
  | _ => failed

/-- The wait of a context is given up: its node goes, and what it had reserved is released. -/
def State.unwait (s : State) (c : Nat) (x : Fin 8) : State :=
  let s := (s.dropNodes c x).dropGroups c x
  s.updCore c fun k => k.release x.val

/-- FE_BUDGET (R182). -/
def State.feBudget (s : State) (c : Nat) (x : Fin 8) (w : Waiter) : State :=
  (s.unwait c x).trap c x cFEBUDGET (w.need.val w.failed) w.need.ptr

/-- The footprint, or the place, whose list a need's waiter joins. -/
def State.sillPlace (s : State) (c : Nat) (x : Fin 8) (r : Fin 16) : Nat :=
  let q := s.ctxAt c x
  let k := q.p[r].key q.part.toNat
  match (locate k).try? s with
  | some ((_, some (f, _)), _) => f
  | some ((k', none), _) => k'
  | none => k

/-- The ck between re-checks, and the event of the next (R182, R334). -/
def Need.again (c : Nat) (x : Fin 8) : Need → Nat × Due
  | .group _ _ => (32, .groupRecheck c x.val)
  | _ => (8, .recheck c x.val)

/-- The key of a group record: the launch and the group's index (R333). -/
def groupKey (launch g : Nat) : Nat := launch * 256 + g

/-- A waiter takes a node of its home's table, or none is free (R184, R334); a LAUNCH that waits for its ring has
none to take (R377). -/
def State.takeNode (s : State) (c : Nat) (x : Fin 8) (need : Need) : Option State :=
  match need with
  | .words _ r _ _ _ | .acq r | .gen r _ =>
    let f := s.sillPlace c x r
    if s.nodesAt (homeOf f) < nodeRoom f then some (s.setNodes (joinNode s.nodes { core := c, ctx := x, foot := f }) [f])
    else none
  | .group g e =>
    let k := groupKey (s.ctxAt c x).launch g
    let v := SMap.get {} s.pkg.groups k
    if v.waiters.length < 64 then
      some (s.updPkg fun p =>
        { p with groups := SMap.put p.groups k { v with waiters := v.waiters ++ [(c, x, e.toNat)] } })
    else none
  | .ring _ _ => none
  | _ => some s

/-- The context waits in a phase. -/
def State.setWait (s : State) (c : Nat) (x : Fin 8) (w : Waiter) : State :=
  s.updCtx c x fun q => { q with run := .waiting w, blocked := none }

/-- A waiter parks: a park limit of 0, or context 7, gives FE_BUDGET at once (R181, R324); one that finds no
node keeps re-checking, with its park timer running (R184). -/
def State.park (s : State) (c : Nat) (x : Fin 8) (w : Waiter) : State :=
  let q := s.ctxAt c x
  if x == 7 || q.parkCk == 0 then s.feBudget c x w
  else
    let (n, e) := w.need.again c x
    let s := s.later q.parkCk (.parkTimeout c x.val)
    match s.takeNode c x w.need with
    | some s => s.setWait c x { w with phase := .parked, since := s.ck }
    | none => (s.later n e).setWait c x { w with phase := .spinner, since := s.ck }

/-- A waiting access whose condition failed at issue: it re-checks up to spin times, then parks (R182). A COPYW
parks at once (R273), but not in context 7 (R324).
An SHMMA that has paired only waits for its partials (R277). -/
def State.startWait (s : State) (c : Nat) (x : Fin 8) (need : Need) (failed : Nat) : State :=
  let n := (s.ctxAt c x).spins
  let w : Waiter := { need, phase := .spin n, failed }
  match need with
  | .sheet _ _ _ _ _ _ => if failed == 1 then s.setWait c x { w with phase := .spin 0 } else s.park c x w
  | need =>
    let parks := match need with
      | .job _ => x != 7
      | _ => false
    if n == 0 || parks then s.park c x w
    else
      let (d, e) := need.again c x
      (s.later d e).setWait c x w

/-! ## PAGE and sifts (R228, R302, R305) -/

/-- PAGE suspends the activation and asks for the page (R228); in context 7 it kills (R324). -/
def State.takePage (s : State) (c : Nat) (x : Fin 8) (k need val : Nat) (ptr : Option (Fin 16)) : State :=
  let q := s.ctxAt c x
  if x == 7 then s.kill c x 3 cPAGE q.pc.toNat
  else
    let s := (s.tallyCtx c x).updCtx c x fun q =>
      { q with
        trapcause := BitVec.ofNat 8 cPAGE
        trappc := q.pc
        trapinst := s.trapInst c q.pc.toNat
        trapval := BitVec.ofNat 64 val
        trapptr := match ptr with
          | some r => BitVec.ofNat 5 (16 + r.val)
          | none => 0
        blocked := none
        latch := none
        metSift := false
        run := .paged (locOf k) false }
    s.pageFault k need (s.ctxId c x) (.act c x q.actId)

/-- An engine that works for a context needs a heap page: it is asked for once (R307). -/
def State.enginePage (s : State) (c : Nat) (x : Fin 8) (k need : Nat) : State :=
  let who := PageWaiter.act c x (s.ctxAt c x).actId
  let q := (s.dieAt (fld (locOf k) 43 2)).stks[Fin.ofNat 3 (stackOf (locOf k))]
  if (q.faults ++ q.waiting).any fun f => f.who == who && f.page == pageOf (locOf k) then s
  else s.pageFault k need (s.ctxId c x) who

/-- A sift that waits holds the scope of its pads (R177). owner is the context whose unit runs it, if one does. -/
def State.holdSift (s : State) (pads : List Nat) (owner : Option (Nat × Fin 8)) : State :=
  if pads.isEmpty then s else
  { s with sifts := s.sifts ++ [⟨pads, owner⟩] }

/-- A sift of some pads waits: for a heap page, which is asked for once (R302), or for its drain. Refused, the page
costs the partition the innermost pad. -/
def State.siftWaits (s : State) (pads : List Nat) (owner : Option (Nat × Fin 8)) : Option Nat → State
  | none => s.holdSift pads owner
  | some k =>
    let s := s.holdSift pads owner
    let q := (s.dieAt (fld (locOf k) 43 2)).stks[Fin.ofNat 3 (stackOf (locOf k))]
    let who := PageWaiter.sift (pads.headD 0) (if owner.isNone then pads.getLast? else none)
    let asked := fun (f : PageFault) => f.who == who && f.part == partOf k && f.page == pageOf (locOf k)
    if q.faults.any asked || q.waiting.any asked then s
    else
      let id := match owner with
        | some (c, x) => s.ctxId c x
        | none => s.coreId (256 * padDie (pads.headD 0))
      s.pageFault k aW id who

/-- A sift or an escape that an engine runs waits: the sift of its outermost pad's event follows (R299), at once where
nothing but the drain is wanting. -/
def State.engineSift (s : State) (pads : List Nat) (k : Option Nat) : State :=
  let s := s.siftWaits pads none k
  match k, pads.getLast? with
  | none, some i => s.soon 8 (siftDue i)
  | _, _ => s

/-- A context is held by a sift or an escape that another agent runs (R177, R176). -/
def State.heldBySift (s : State) (c : Nat) (x : Fin 8) : Bool :=
  s.sifts.any fun e => e.owner != some (c, x) && e.pads.any fun i => inScope i c

/-- A core lies in the scope of a sift that waits (R179). -/
def State.inSift (s : State) (c : Nat) : Bool := s.sifts.any fun e => e.pads.any fun i => inScope i c

/-- The context's own unit runs a sift, which it waits for. -/
def State.ownsSift (s : State) (c : Nat) (x : Fin 8) : Bool := s.sifts.any fun e => e.owner == some (c, x)

/-- A pad region becomes empty (R302, R305). -/
def State.resetRegion (s : State) (i : Nat) : State :=
  let p := s.pad i
  let lo := padBase i + p.lo
  let hi := padBase i + p.hi
  (s.updMem fun m => { m.wipe lo (hi - lo) with starts := NSet.clear m.starts (lo / 32) (hi / 32) }).setPad i
    { p with bump := p.lo }

/-- Every activation of a partition on a die is killed with cause 9, and the region is reset (R302, R305). -/
def State.lostRegion (s : State) (d part i : Nat) : State :=
  let s := (coresOfDie d).foldl (fun s c =>
    if s.cores.any fun e => e.1 == c then
      allCtx.foldl (fun s x =>
        let q := s.ctxAt c x
        if q.busy && q.part.toNat == part then s.kill c x 9 0 else s) s
    else s) s
  s.resetRegion i

/-! ## One unit -/

/-- The window is consistent (R79). -/
def Ctx.windowOk (q : Ctx) : Bool :=
  3 + 2 * q.depth.toNat == 3 + 2 * q.below.length + 2 * q.spilltop.toNat

/-- The unit begins with an XP parcel. -/
def Instr.prefixed (i : Instr) : Bool :=
  match encode i with
  | some [_, _, _] => true
  | _ => false

/-- A unit's encoding and place are legal: R23, R28 and R45. -/
def Ctx.accepts (q : Ctx) (i : Instr) : Bool :=
  i.wf && q.pc.toNat + i.size ≤ 65536 &&
    !(Instr.prefixed i && q.lcount != 0 && q.pc.toNat + 2 == q.lend.toNat)

/-- The fold of a unit into S (R230): parcels and PC. -/
def foldUnit (ps : List Parcel) (pc : Nat) (s : BitVec 24) : BitVec 24 :=
  let u : BitVec 32 := match ps with
    | [x, a, b] => (b ++ a) ^^^ (x.setWidth 32)
    | [a, b] => b ++ a
    | [a] => a.setWidth 32
    | _ => 0
  let h : BitVec 24 :=
    u.setWidth 24 ^^^ (u >>> 24).setWidth 24 ^^^ (BitVec.ofNat 24 (pc / 2 % 2 ^ 15) <<< 8)
  ((s <<< 5) ||| (s >>> 19)) ^^^ h

/-- S after a unit (R230): SIG adds nothing, and ERET leaves zero (R93). -/
def sigAfter (i : Instr) (pc : Nat) (s : BitVec 24) : BitVec 24 :=
  match i with
  | .sig _ => s
  | .eret => s
  | i => foldUnit ((encode i).getD []) pc s

/-- A sequential advance to pc, with the loop-back of R81. -/
def Ctx.advance (q : Ctx) (pc : DWord) : Ctx :=
  if q.lcount != 0 && pc == q.lend then
    { q with lcount := q.lcount - 1, pc := if q.lcount != 1 then q.lstart else q.lend }
  else { q with pc }

/-- A context after its unit has completed. -/
def Ctx.completed (q : Ctx) (i : Instr) (handler : Bool) (pc : DWord) (f : Flow) : Ctx :=
  let q := { q with
    sig := sigAfter i pc.toNat q.sig
    hbudget := if handler then q.hbudget - 1 else q.hbudget
    blocked := none
    latch := none
    metSift := false }
  match f with
  | .seq => q.advance (pc + BitVec.ofNat 64 i.size)
  | .jump t => { q with pc := t }
  | .gone => q

/-- The round-robin pointer moves to the context that issued (R100), and contexts that yielded to it note its issue
(R84). -/
def Core.passed (k : Core) (x : Fin 8) : Core :=
  { k with last := x, ctxs := k.ctxs.map fun q => { q with yieldTo := q.yieldTo.filter (· != x.val) } }

/-- A context has issued, and what it had reserved is released. -/
def Core.issued (k : Core) (x : Fin 8) : Core := (k.release x.val).passed x

/-- An activation whose store waits for its page is suspended at its next unit, which TRAPPC names (R307). -/
def State.noteHeld (s : State) (c : Nat) (x : Fin 8) : State :=
  match (s.ctxAt c x).run with
  | .paged _ _ => s.updCtx c x fun q => { q with trappc := q.pc, trapinst := s.trapInst c q.pc.toNat }
  | _ => s

/-- A unit of the context in s0 has completed. -/
def State.finish (s0 : State) (i : Instr) (f : Flow) (s : State) : State :=
  let s := s.updCore s0.core fun k => k.issued s0.ctx
  match f with
  | .gone => s
  | f => (s.updCtx s0.core s0.ctx fun q => q.completed i (s0.ctx == 7) (s0.ctxAt s0.core s0.ctx).pc f).noteHeld
      s0.core s0.ctx

/-- The unit is not ready (R100): it stays, and the ck is counted (R338). WFE sleeps (R86). -/
def State.stall (s : State) (id : Nat) : State := s.updCtx s.core s.ctx fun q =>
  { q with
    blocked := some id
    stalls := SMap.set 0 q.stalls id (SMap.get 0 q.stalls id + 1)
    run := if id == sEVENT then .asleep else q.run }

/-- The issuing context takes a trap: RANGEFLAG alone survives from its work (R7, R168), and a unit of context
7 has used its budget (R65). -/
def State.takeTrap (s : State) (cause val : Nat) (ptr : Option (Fin 16)) (flag : Option DWord) : State :=
  let s := s.updCore s.core fun k => k.issued s.ctx
  let s := s.updCtx s.core s.ctx fun q =>
    { q with
      rangeflag := flag.getD q.rangeflag
      hbudget := if s.ctx == 7 then q.hbudget - 1 else q.hbudget }
  s.trap s.core s.ctx cause val ptr

/-- How a unit that stops short leaves the machine: from s, with t the state its work had reached. -/
def State.stopped (s : State) (e : Stop) (t : State) : State :=
  let c := s.core
  let x := s.ctx
  let q := s.ctxAt c x
  match e with
  | .wait id => if id == sEVENT && !q.windowOk then s.takeTrap cWINDOW 0 none none else s.stall id
  | .trap cause val ptr flag =>
    let s := s.keepMet t
    if cause ≤ cPRIV || q.windowOk then s.takeTrap cause val ptr flag else s.takeTrap cWINDOW 0 none none
  | .rollback cause val => (s.keepLogs c t).rollback c x cause q.pc.toNat val
  | e =>
    if !q.windowOk then s.takeTrap cWINDOW 0 none none else
    match e with
    | .park need failed =>
      -- no earlier write of the unit stands, if it traps in the end (R7, R182)
      let t := t.updCtx c x fun r => { r with rangeflag := q.rangeflag }
      (t.updCore c (·.passed x)).startWait c x need failed
    | .copyReq guard p =>
      let t := (t.updCtx c x fun q => { q with run := .copying, blocked := none, latch := none }).updCore c (·.passed x)
      (t.updUnit (unitOf c) fun u => { u with reqs := u.reqs ++ [{ core := c, ctx := x, actId := q.actId, p, guard }] }).later 1
        (.copyAccept (unitOf c))
    | .page k need val ptr => (s.updCore c (·.passed x)).takePage c x k need val ptr
    | .siftPage k pads => (s.siftWaits pads (some (c, x)) k).stall sSIFT
    | .fill clu blk => ((s.expand clu blk false).settled).stall sREMOTE
    | .siftFull d part i => s.lostRegion d part i
    | .window => t.takeTrap cWINDOW 0 none none
    | _ => s

/-- The issuing context is a handler's whose budget is used up (R65). -/
def State.spent (s : State) : Bool := s.ctx == 7 && (s.ctxAt s.core s.ctx).hbudget == 0

/-- A unit that R23, R28 and R45 allow, in R229's order: an error that its work consumes or a signature that fails,
HANDLER_BUDGET, and then the way its work ends. -/
def runWork (i : Instr) (body : M Flow) (s : State) : State :=
  match body s with
  | .error (.rollback cause val) t => s.stopped (.rollback cause val) t
  | r =>
    if s.spent then s.trap s.core s.ctx cHBUDGET 0 else
    match r with
    | .ok f t =>
      if (s.ctxAt s.core s.ctx).windowOk then s.finish i f t else s.takeTrap cWINDOW 0 none none
    | .error e t => s.stopped e t

/-- A unit: its encoding and its place, and its work. A sift or an escape of its own that has waited is tried anew; an
atomic with .acq holds it (R385). -/
def runUnit (i : Instr) (body : M Flow) (s : State) : State :=
  let s := s.dropSifts s.core s.ctx
  if s.acqWaits s.core s.ctx then s.stall sREMOTE
  else if (s.ctxAt s.core s.ctx).accepts i then runWork i body s
  else if s.spent then s.trap s.core s.ctx cHBUDGET 0
  else s.takeTrap cILLEGAL 0 none none

/-- The meaning of an encoded instruction. -/
def unit (i : Instr) (body : M Flow) (s : State) : Out := .next (runUnit i body s)

/-- The bytes of the parcels that a fetch reads (R21, R27). -/
def fetchSize : List Parcel → Nat
  | [] => 0
  | p :: rest =>
    if p.toNat / 16384 == 3 then 4
    else if p.toNat / 2048 == 23 then match rest with
      | q :: _ => if q.toNat / 16384 == 3 then 6 else 4
      | [] => 2
    else 2

/-- The instruction at the issuing context's PC, or how its fetch fails: one beyond the store (R23), an odd PC, however it
came about (R93, log 39), a poisoned line (R233), or parcels that are no instruction (R45). -/
def State.fetch (s : State) : Except Stop Instr :=
  let pc := (s.ctxAt s.core s.ctx).pc.toNat
  let ps := s.parcels s.core pc
  if 65536 ≤ pc then .error (.trap cILLEGAL 0 none none)
  else if pc % 2 == 1 then .error (.trap cALIGN pc none none)
  else if (granules (routineBase s.core + pc) (fetchSize ps)).any s.mem.isPoisoned then .error (.rollback cECC 1)
  else match decode ps with
    | .error _ => .error (.trap cILLEGAL 0 none none)
    | .ok i => .ok i

/-- A fetch of n bytes meets the errors of the routine store that they hold (R233): correctable ones are corrected
and recorded. -/
def State.fetched (s : State) (n : Nat) : State :=
  let pc := (s.ctxAt s.core s.ctx).pc.toNat
  s.meetFlips s.core 1 (s.ctxId s.core s.ctx) fun w => w * 4 < pc + n && pc < w * 4 + 4

/-- A unit whose fetch failed (R229). -/
def State.badFetch (s : State) (e : Stop) : State :=
  match e with
  | .rollback cause val => s.stopped (.rollback cause val) (s.fetched 6)
  | e => if s.spent then s.trap s.core s.ctx cHBUDGET 0 else s.stopped e (s.fetched 6)

end Sys2Proof.Machine
end

