-- ==== Sys2Proof/Machine/Control.lean ====
section
/-! DEFINITION. Control flow (04 R75-R88, R92, R93): branches, jumps, calls and the register window (03 R55-R57),
hardware loops, the end of an activation, events, breakpoints, signatures and the return from a trap. -/

namespace Sys2Proof.Machine

/-! ## Branches (R75, R76) -/

/-- A transfer relative to PC by a number of parcels; ILLEGAL outside the store. -/
def relative (pc : DWord) (off : Int) : M Flow := do
  let t : Int := pc.toNat + 2 * off
  require (0 ≤ t && t < 65536) cILLEGAL
  pure (.jump (BitVec.ofNat 64 t.toNat))

/-- A conditional branch over some sources (R75): a target not taken is not checked. -/
def branch (i : Instr) (ss : List Nat) (off : Int) (cond : M Bool) (s : State) : Out :=
  unit i (using_ { ss := ss } do
    if ← cond then relative (← myPC) off else pure .seq) s

/-- A comparison of two scalar sources. -/
def compare2 (a b : Nat) (f : DWord → DWord → Bool) : M Bool := do
  let x ← readS a
  let y ← readS b
  pure (f x y)

/-- BEQ (R75). -/
def execBeq (a b : Sc) (off : BitVec 10) : State → Out :=
  branch (.beq a b off) [a.val, b.val] off.toInt (compare2 a.val b.val fun x y => x == y)
/-- BNE (R75). -/
def execBne (a b : Sc) (off : BitVec 10) : State → Out :=
  branch (.bne a b off) [a.val, b.val] off.toInt (compare2 a.val b.val fun x y => x != y)
/-- BLT (R75). -/
def execBlt (a b : Sc) (off : BitVec 10) : State → Out :=
  branch (.blt a b off) [a.val, b.val] off.toInt (compare2 a.val b.val fun x y => x.slt y)
/-- BGE (R75). -/
def execBge (a b : Sc) (off : BitVec 10) : State → Out :=
  branch (.bge a b off) [a.val, b.val] off.toInt (compare2 a.val b.val fun x y => y.sle x)
/-- BLO (R75). -/
def execBlo (a b : Sc) (off : BitVec 10) : State → Out :=
  branch (.blo a b off) [a.val, b.val] off.toInt (compare2 a.val b.val fun x y => x.ult y)
/-- BHS (R75). -/
def execBhs (a b : Sc) (off : BitVec 10) : State → Out :=
  branch (.bhs a b off) [a.val, b.val] off.toInt (compare2 a.val b.val fun x y => y.ule x)
/-- BZ (R75). -/
def execBz (a : Sc) (off : BitVec 10) : State → Out :=
  branch (.bz a off) [a.val] off.toInt do pure ((← readS a.val) == 0)
/-- BNZ (R75). -/
def execBnz (a : Sc) (off : BitVec 10) : State → Out :=
  branch (.bnz a off) [a.val] off.toInt do pure ((← readS a.val) != 0)
/-- Compact BZ (R25, R75). -/
def execBzCompact (a : R5) (off : BitVec 6) : State → Out :=
  branch (.bzCompact a off) [a.val] off.toInt do pure ((← readS a.val) == 0)
/-- Compact BNZ (R25, R75). -/
def execBnzCompact (a : R5) (off : BitVec 6) : State → Out :=
  branch (.bnzCompact a off) [a.val] off.toInt do pure ((← readS a.val) != 0)

/-- B (R76). -/
def execB (t : BitVec 24) : State → Out := unit (.b t) do relative (← myPC) t.toInt
/-- Compact B (R25, R76). -/
def execBCompact (off : BitVec 11) : State → Out := unit (.bCompact off) do relative (← myPC) off.toInt
/-- J (R76). -/
def execJ (t : BitVec 24) : State → Out := unit (.j t) (pure (.jump (BitVec.ofNat 64 (2 * t.toNat))))

/-- The checks of a target taken from a register (R76-R78): ILLEGAL beyond the store, unless it is odd. -/
def targetInStore (t : DWord) : M Unit := require (t.toNat % 2 == 1 || t.toNat < 65536) cILLEGAL
/-- ALIGN of an odd target. -/
def targetEven (t : DWord) : M Unit := require (t.toNat % 2 == 0) cALIGN t.toNat

/-- A jump to a register's value (R76). -/
def jumpTo (i : Instr) (a : Nat) (s : State) : Out :=
  unit i (using_ { ss := [a] } do
    let t ← readS a
    targetInStore t
    targetEven t
    pure (.jump t)) s

/-- JR (R76). -/
def execJr (a : Sc) : State → Out := jumpTo (.jr a) a.val
/-- Compact JR (R26, R76). -/
def execJrCompact (a : Sc) : State → Out := jumpTo (.jrCompact a) a.val

/-! ## The register window (R55-R57) -/

/-- Registers that a context holds: three octets, and two for each resident frame below. -/
def Ctx.held (q : Ctx) : Nat := if q.busy then 8 * (3 + 2 * q.below.length) else 0

/-- Registers free to context x (R55, R56): what is unused of its 40, and the shared ones. -/
def Core.freeTo (k : Core) (x : Fin 8) : Nat :=
  let shared := k.ctxs.toList.foldl (fun a q => a + (q.held - 40)) 0
  (40 - k.ctxs[x].held) + (704 - shared)

/-- A context's first sixteen registers, a frame of two octets. -/
def Ctx.frame (q : Ctx) : Vector DWord 16 := Vector.ofFn fun j => q.w[Fin.ofNat 24 j.val]

/-- A spill pointer that serves unit n (R57). -/
def spillOk (s : State) (p : PReg) (n : Nat) (write : Bool) : Bool :=
  p.tag && !s.malformed p && p.r && (!write || p.w) && 128 * (n + 1) ≤ p.len

/-- Where spill unit n lies. -/
def Ctx.spillPlace (q : Ctx) (n : Nat) : Nat := q.spill.key q.part.toNat + 128 * n

/-- A frame's bytes, its registers in ascending order (R57). -/
def frameBytes (f : Vector DWord 16) : List Byte := f.toList.flatMap fun x => bytesOf 8 x.toNat

/-- A frame of its bytes. -/
def frameOf (bs : List Byte) : Vector DWord 16 := Vector.ofFn fun j => BitVec.ofNat 64 (leAt bs (8 * j.val) 8)

/-- The code words of the oldest resident frame meet their consumer (R233). -/
def meetOldest : M Unit := do
  let q ← me
  let s ← get
  (upTo 16).forM fun j =>
    let e := regCode s.ctx.val (16 * q.spilltop.toNat) j
    consume e.1 e.2

/-- The oldest resident frame below the window goes to the spill object (R56). -/
def spillOldest : M Unit := do
  let q ← me
  match q.below with
  | [] => pure ()
  | f :: fs =>
    meetOldest
    writeRaw (q.spillPlace q.spilltop.toNat) (frameBytes f)
    modMe fun q => { q with below := fs, spilltop := q.spilltop + 1 }

/-- The most recently spilled frame returns beneath the oldest resident one (R56). -/
def reloadOne : M Unit := do
  let q ← me
  let n := q.spilltop.toNat - 1
  let bs ← readBytes (q.spillPlace n) 128
  modMe fun q => { q with below := frameOf bs :: q.below, spilltop := q.spilltop - 1 }

/-- A call finds fewer than 16 registers free (R56). -/
def mustSpill : M Bool := do
  let s ← get
  pure ((s.coreAt s.core).freeTo s.ctx < 16)

/-- WINDOW where a unit cannot be spilled (R57). -/
def canSpill : M Unit := do
  let q ← me
  require (q.spilltop.toNat + 1 ≤ q.spillcap.toNat && spillOk (← get) q.spill q.spilltop.toNat true) cWINDOW

/-- WINDOW where a unit cannot be reloaded (R57). -/
def canReload : M Unit := do
  let q ← me
  require (spillOk (← get) q.spill (q.spilltop.toNat - 1) false) cWINDOW

/-- The callee's window (R55): the caller's w16-w23 become w0-w7, and the rest reads zero; w7 is the return
address (R77). -/
def Ctx.enter (q : Ctx) (ret : DWord) : Ctx :=
  { q with
    below := q.below ++ [q.frame]
    w := Vector.ofFn fun j => if j.val == 7 then ret else if j.val < 8 then q.w[Fin.ofNat 24 (16 + j.val)] else 0
    depth := q.depth + 1 }

/-- The caller's window again (R55, R78). -/
def Ctx.leave (q : Ctx) : Ctx :=
  match q.below.getLast? with
  | none => q
  | some f =>
    { q with
      below := q.below.dropLast
      w := Vector.ofFn fun j => if j.val < 16 then f[Fin.ofNat 16 j.val] else q.w[Fin.ofNat 24 (j.val - 16)]
      depth := q.depth - 1 }

/-- The registers that a call writes, w7 and those that read zero, get new code words (R235). -/
def newWindow : M Unit := do
  let s ← get
  if s.codesClean s.core then pure () else
  ((upTo 24).filter (7 ≤ ·)).forM fun j => do putReg j ((← me).reg j)

/-- The check of WINDOW that a call makes (R57). -/
def callWindow : M Unit := do
  if ← mustSpill then canSpill

/-- The code words of the frame that a call spills meet their consumer first (R229). -/
def meetSpill : M Unit := do
  if ← mustSpill then meetOldest

/-- A call to tgt (R77): the unit that must be spilled leaves after the caller's frame has joined those
below. -/
def callTo (tgt : DWord) (size : Nat) : M Flow := do
  if (← me).awaits 23 then wait sREMOTE
  let spill ← mustSpill
  meetSpill
  callWindow
  targetEven tgt
  let pc ← myPC
  modMe (·.enter (pc + BitVec.ofNat 64 size))
  newWindow
  if spill then spillOldest
  pure (.jump tgt)

/-- CALL (R77). -/
def execCall (t : BitVec 24) : State → Out := unit (.call t) (callTo (BitVec.ofNat 64 (2 * t.toNat)) 4)

/-- A call to a register's value (R77). -/
def callReg (i : Instr) (a size : Nat) (s : State) : Out :=
  unit i (using_ { ss := [a] } (first := callWindow) do
    meetSpill
    let t ← readS a
    targetInStore t
    callTo t size) s

/-- CALLR (R77). -/
def execCallr (a : Sc) : State → Out := callReg (.callr a) a.val 4
/-- Compact CALLR (R26, R77). -/
def execCallrCompact (a : Sc) : State → Out := callReg (.callrCompact a) a.val 2

/-- A return (R78): it waits for the replies to registers of the window that it gives up (R332). -/
def giveFrame : M Flow := do
  let q ← me
  if (upTo 24).any fun r => 7 ≤ r && q.awaits r then wait sREMOTE
  let t ← takeReg 7
  require (q.depth != 0) cILLEGAL
  targetInStore t
  if q.below.isEmpty then canReload
  targetEven t
  if q.below.isEmpty then reloadOne
  modMe Ctx.leave
  pure (.jump t)

/-- RET (R78). -/
def execRet : State → Out := unit .ret giveFrame
/-- Compact RET (R26, R78). -/
def execRetCompact : State → Out := unit .retCompact giveFrame

/-! ## Hardware loops (R80) -/

/-- The loop registers are set, or the body is skipped (R80). -/
def startLoop (cnt : BitVec 32) (len : BitVec 16) : M Flow := do
  let pc ← myPC
  let tend := pc.toNat + 4 + 2 * len.toNat
  require (tend ≤ 65536) cILLEGAL
  modMe fun q => { q with lstart := pc + 4, lend := BitVec.ofNat 64 tend, lcount := cnt }
  pure (.jump (if cnt == 0 then BitVec.ofNat 64 tend else pc + 4))

/-- LOOP (R80). -/
def execLoop (a : Sc) (len : BitVec 16) : State → Out :=
  unit (.loop a len) (using_ { ss := [a.val] } do
    let x ← readS a.val
    startLoop (BitVec.ofNat 32 (min x.toNat (2 ^ 32 - 1))) len)
/-- LOOPI (R80). -/
def execLoopi (n : BitVec 8) (len : BitVec 16) : State → Out :=
  unit (.loopi n len) (startLoop (n.setWidth 32) len)

/-! ## Ending, yielding and events (R83-R87) -/

/-- DONE waits for the replies of atomics (R332) and completes the activation (R83); in a saving context it begins the seal (R285). -/
def endActivation : M Flow := do
  let q ← me
  if !q.replies.isEmpty then wait sREMOTE
  modify fun s =>
    if q.saving then
      (s.updCtx s.core s.ctx fun q => { q with run := .sealing, blocked := none }).later 1 (.seal s.core s.ctx.val)
    else s.complete s.core s.ctx
  pure .gone

/-- DONE (R83). -/
def execDone : State → Out := unit .done endActivation
/-- Compact DONE (R26, R83). -/
def execDoneCompact : State → Out := unit .doneCompact endActivation

/-- A context that may be ready (R84, R100): it has a unit to issue, which one that enters or is in weight-driven mode has
not. Of those that YIELD notes here, the issue slot keeps the ready ones (State.afterIssue). -/
def Ctx.isReady (q : Ctx) : Bool :=
  match q.run with
  | .live => true
  | _ => false

/-- YIELD (R84): the scheduler passes over the context until every other ready context has issued once, or 8 ck
have passed. -/
def yieldNow : M Flow := do
  let s ← get
  let k := s.coreAt s.core
  let others := (allCtx.filter fun x => x != s.ctx && k.ctxs[x].isReady).map Fin.val
  modMe fun q => { q with yieldTo := others, yieldCk := s.ck + 8 }
  pure .seq

/-- YIELD (R84). -/
def execYield : State → Out := unit .yield yieldNow
/-- Compact YIELD (R26, R84). -/
def execYieldCompact : State → Out := unit .yieldCompact yieldNow

/-- WFE (R86): it completes once EVT is set; until then the context sleeps. -/
def waitEvent : M Flow := do
  let s ← get
  let q ← me
  require (s.ctx != 7) cILLEGAL
  if !q.evt then wait sEVENT
  afterRels
  modMe fun q => { q with evt := false }
  pure .seq

/-- WFE (R86). -/
def execWfe : State → Out := unit .wfe waitEvent
/-- Compact WFE (R26, R86). -/
def execWfeCompact : State → Out := unit .wfeCompact waitEvent

/-- A context's EVT is set; one asleep in WFE goes on (R85, R86). -/
def Ctx.event (q : Ctx) : Ctx :=
  { q with
    evt := true
    run := match q.run with
      | .asleep => .live
      | r => r }

/-- SEV (R85): EVT is set in each of the other seven contexts; it is a release (R386). -/
def sendEvent : M Flow := do
  afterAmos
  let s ← get
  modCore fun k => allCtx.foldl (fun k x => if x == s.ctx then k else k.setCtx x k.ctxs[x].event) k
  pure .seq

/-- SEV (R85). -/
def execSev : State → Out := unit .sev sendEvent
/-- Compact SEV (R26, R85). -/
def execSevCompact : State → Out := unit .sevCompact sendEvent

/-! ## Traps by instruction, and the return (R88, R93) -/

/-- BRK raises BREAK (R88). -/
def execBrk (imm : BitVec 12) : State → Out := unit (.brk imm) (trap cBREAK imm.toNat)
/-- SYSC raises SYSCALL (R88). -/
def execSysc (imm : BitVec 12) : State → Out := unit (.sysc imm) (trap cSYSCALL imm.toNat)

/-- ERET (R93): ILLEGAL outside a trap routine and while saving (R284). -/
def execEret : State → Out :=
  unit .eret do
    let q ← me
    require (q.ts && !q.saving) cILLEGAL
    modMe Ctx.trapReturn
    pure (.jump q.trappc)

/-! ## Signatures (R92, R231) -/

/-- SIG (R92, R231): with SV = 0 nothing is compared; a mismatch is a signature failure. -/
def execSig (t : BitVec 24) : State → Out :=
  unit (.sig t) do
    let q ← me
    if q.sv && q.sig != t then throw (.rollback cSIGNATURE q.sig.toNat)
    modMe fun q => { q with sig := 0, sv := true }
    pure .seq

/-- LINK_FLIT_ARRIVAL (R107): the oldest flit on its way is in the incoming buffer. -/
def execLinkFlitArrival (core : Fin 1024) (dir : Fin 4) (s : State) : Out :=
  let c := core.val
  let l := (s.coreAt c).link dir.val
  match l.flying with
  | [] => .next s
  | f :: fs => .next (s.updCore c fun k => k.setLink dir.val { l with buf := l.buf ++ [f], flying := fs })

end Sys2Proof.Machine
end

