-- ==== Sys2Proof/Machine/Lanes.lean ====
section
/-! DEFINITION. Lanes of vectors (06 R132, R133): reading them, merging them under a mask, and writing the
result. -/

namespace Sys2Proof.Machine

/-- Lane i of width w. -/
def laneOf (v : V512) (w i : Nat) : Nat := fld v.toNat (w * i) w

/-- The width of a lane of type ty (R132). -/
def laneWidth (ty : Nat) : Nat := if lanesOf ty == 8 then 64 else 32

/-- A vector of lanes of width w, lane 0 first. -/
def ofLanes (w : Nat) (xs : List Nat) : V512 :=
  BitVec.ofNat 512 (xs.foldr (fun x a => x % 2 ^ w + 2 ^ w * a) 0)

/-- Lane i of v replaced by x. -/
def setLane (v : V512) (w i x : Nat) : V512 :=
  let m : V512 := BitVec.ofNat 512 ((2 ^ w - 1) * 2 ^ (w * i))
  (v &&& ~~~m) ||| BitVec.ofNat 512 (x % 2 ^ w * 2 ^ (w * i))

/-- Lane i is active (R133). -/
def active (m : BitVec 16) (i : Nat) : Bool := m.getLsbD i

/-- The active lanes among the first n. -/
def activeLanes (m : BitVec 16) (n : Nat) : List Nat := (upTo n).filter (active m)

/-- The old value of vector destination d, for its inactive lanes (R133): zero where it is a queue or a
direction. -/
def oldV (d : Nat) : M V512 := do
  if d < 32 then takeVec d else pure 0

/-- Where an element's bits lie in a lane, and their extension there (R132). -/
def placeElem (ty x : Nat) : Nat :=
  let n := elemBits ty
  let y := x % 2 ^ n
  if ty < 2 && bit y (n - 1) then y + (2 ^ 32 - 2 ^ n) else y

/-- A vector source's element in lane i (R132). -/
def elemOf (ty : Nat) (v : V512) (i : Nat) : Nat := laneOf v (laneWidth ty) i % 2 ^ elemBits ty

end Sys2Proof.Machine
end

