-- ==== Sys2Proof/Machine/Memory.lean ====
section
/-! DEFINITION. Loads and stores (07 R187-R189), full/empty bits (R190) and pointer loads and stores (R191). -/

namespace Sys2Proof.Machine

/-- The byte offset of a memory operand (R187): a constant number of units, or a scalar register. -/
def offsetOf (x : Bool) (off : Fin 32) (n : Nat) : M Nat := do
  if x then pure (← readS off.val).toNat else pure (off.val * n)

/-- The scalar source that a memory operand names. -/
def offUses (x : Bool) (off : Fin 32) : List Nat := if x then [off.val] else []

/-- What a waiting access was granted, now or at its home since it issued (R182): the lists of nodes are scanned
after the change. -/
def waited (need : Need) : M (List Nat) := do
  let s ← get
  match ← tryNeed s.core s.ctx need with
  | .ok vs =>
    modify State.settled
    pure vs
  | .error o => throw (.park need o)

/-- The check of PERM, which stands before LINK_WIDTH (R229). -/
def permits (p : Pr) (needR needW : Bool) : M Unit := discard (checkPerm p needR needW)

/-- A loaded value extended to 64 bits (R187). -/
def extend (n v : Nat) (sgn : Bool) : DWord :=
  if sgn then BitVec.ofNat 64 v else (BitVec.ofNat (8 * n) v).signExtend 64

/-- The value a scalar load finds: as it stands, or by a waiting access; zero out of range (R187). -/
def loadValue (kind : Option FeKind) (p : Pr) (o n : Nat) : M Nat := atOff p o do
  match (← me).latch with
  | some vs => do
    remoteReply p
    pure (vs.headD 0)
  | none =>
    match ← access p o n n true false with
    | none => pure 0
    | some k =>
      let v ← match kind with
        | none => readNat k n
        | some kind => do pure ((← waited (.words kind p n [o] [])).headD 0)
      remoteReply p
      pure v

/-- A scalar load (R187). -/
def loadUnit (i : Instr) (kind : Option FeKind) (d : Nat) (x sgn : Bool) (sz : Nat) (os : Fin 16) (p : Pr)
    (off : Fin 32) (s : State) : Out :=
  unit i (unitS (offUses x off) d (first := permits p true false) do
    acquiring os
    let o ← offsetOf x off (2 ^ sz)
    let v ← loadValue kind p o (2 ^ sz)
    pure (extend (2 ^ sz) v sgn)) s

/-- LD (R187). -/
def execLd (d : Sc) (x sgn : Bool) (sz : Fin 4) (os : Fin 16) (p : Pr) (off : Fin 32) : State → Out :=
  loadUnit (.ld d x sgn sz os p off) none d.val x sgn sz.val os p off
/-- LDW (R187). -/
def execLdw (d : Sc) (x sgn : Bool) (sz : Fin 4) (os : Fin 16) (p : Pr) (off : Fin 32) : State → Out :=
  loadUnit (.ldw d x sgn sz os p off) (some .load) d.val x sgn sz.val os p off
/-- LDC (R187). -/
def execLdc (d : Sc) (x sgn : Bool) (sz : Fin 4) (os : Fin 16) (p : Pr) (off : Fin 32) : State → Out :=
  loadUnit (.ldc d x sgn sz os p off) (some .consume) d.val x sgn sz.val os p off
/-- Compact LD.s64 (R25). -/
def execLdS64Compact (d : R5) (p k : Fin 8) : State → Out :=
  loadUnit (.ldS64Compact d p k) none d.val false false 3 4 (Fin.ofNat 16 p.val) (Fin.ofNat 32 k.val)
/-- Compact LD.s32 (R25). -/
def execLdS32Compact (d : R5) (p k : Fin 8) : State → Out :=
  loadUnit (.ldS32Compact d p k) none d.val false false 2 4 (Fin.ofNat 16 p.val) (Fin.ofNat 32 k.val)

/-- A scalar store (R187): it waits where fill says so, and a word written out of range is dropped. -/
def storeUnit (i : Instr) (fill : Bool) (d : Nat) (x : Bool) (sz : Nat) (os : Fin 16) (p : Pr) (off : Fin 32)
    (s : State) : Out :=
  unit i (using_ { ss := d :: offUses x off } (first := permits p false true) do
    releasing os
    let o ← offsetOf x off (2 ^ sz)
    atOff p o do
      if (← me).latch.isSome then pure () else
      match ← access p o (2 ^ sz) (2 ^ sz) false true with
      | none => discard (readS d)
      | some k =>
        let v ← readS d
        let data := v.toNat % 2 ^ (8 * 2 ^ sz)
        if fill then discard (waited (.words .fill p (2 ^ sz) [o] [data]))
        else storeBytes p o k (bytesOf (2 ^ sz) data)
    pure .seq) s

/-- ST (R187). -/
def execSt (d : Sc) (x sgn : Bool) (sz : Fin 4) (os : Fin 16) (p : Pr) (off : Fin 32) : State → Out :=
  storeUnit (.st d x sgn sz os p off) false d.val x sz.val os p off
/-- STF (R187). -/
def execStf (d : Sc) (x sgn : Bool) (sz : Fin 4) (os : Fin 16) (p : Pr) (off : Fin 32) : State → Out :=
  storeUnit (.stf d x sgn sz os p off) true d.val x sz.val os p off
/-- Compact ST.s64 (R25). -/
def execStS64Compact (d : R5) (p k : Fin 8) : State → Out :=
  storeUnit (.stS64Compact d p k) false d.val false 3 4 (Fin.ofNat 16 p.val) (Fin.ofNat 32 k.val)
/-- Compact ST.s32 (R25). -/
def execStS32Compact (d : R5) (p k : Fin 8) : State → Out :=
  storeUnit (.stS32Compact d p k) false d.val false 2 4 (Fin.ofNat 16 p.val) (Fin.ofNat 32 k.val)

/-! ## Full/empty bits (R190) -/

/-- The bits of words, the first lowest. -/
def packBits : List Bool → Nat
  | [] => 0
  | b :: bs => b.toNat + 2 * packBits bs

/-- FEGET (R190). -/
def execFeget (d : Sc) (x : Bool) (os : Fin 16) (p : Pr) (off : Fin 32) : State → Out :=
  unit (.feget d x os p off) (unitS (offUses x off) d.val (first := permits p true false) do
    let o ← offsetOf x off 4
    atOff p o do
      let offs := (upTo 32).map fun i => o + 4 * i
      let (k, ok) ← accessEach p 4 4 offs true false
      let bs ← offs.mapM fun o => if ok.contains o then allFull (k + o) 4 true aR else pure false
      if !ok.isEmpty then remoteReply p
      pure (BitVec.ofNat 64 (packBits bs)))

/-- FESET (R190): words beyond len are dropped, and RANGEFLAG records the offset of the first (log 39). -/
def execFeset (d : Sc) (x full : Bool) (os : Fin 16) (p : Pr) (off : Fin 32) : State → Out :=
  unit (.feset d x full os p off) (using_ { ss := d.val :: offUses x off } (first := permits p false true) do
    let o ← offsetOf x off 4
    atOff p o do
      let q ← checkPerm p false true
      require (o % 4 == 0) cALIGN o (some p)
      let c ← readS d.val
      let gone ← if c == 0 || q.len < o + 4 then pure false else deadObject p
      let n := min c.toNat (((if gone then 0 else q.len) - o) / 4)
      if n < c.toNat then recordRange p (o + 4 * n) true
      if n != 0 then
        match ← access p o (4 * n) 4 false true with
        | none => pure ()
        | some k =>
          setFE k (4 * n) full aW
          modify State.settled
    pure .seq)

/-! ## Vectors (R188, R189) -/

/-- Little-endian words of 16 lanes. -/
def laneBytes (v : V512) (i : Nat) : List Byte := bytesOf 4 (laneOf v 32 i)

/-- The lanes that a vector access performs: the active ones, with their offsets, that are in range; base is the
offset of lane 0, checked for alignment even where no lane is active. -/
def vectorLanes (p : Pr) (base : Nat) (lanes : List (Nat × Nat)) (write : Bool) :
    M (Nat × List (Nat × Nat)) := do
  let _ ← checkPerm p (!write) write
  require (base % 4 == 0) cALIGN base (some p)
  let (k, ok) ← accessEach p 4 4 (lanes.map Prod.snd) (!write) write
  pure (k, lanes.filter fun l => ok.contains l.2)

/-- The lanes of a vector memory instruction whose words lie one after another (R188). -/
def strided (m : BitVec 16) (o : Nat) : List (Nat × Nat) := (activeLanes m 16).map fun i => (i, o + 4 * i)

/-- A vector with its active lanes cleared, and the loaded ones in place. -/
def mergeLoaded (old : V512) (acts : List Nat) (got : List (Nat × Nat)) : V512 :=
  got.foldl (fun v e => setLane v 32 e.1 e.2) (acts.foldl (fun v i => setLane v 32 i 0) old)

/-- A vector load of lanes (R188, R189). A waiting access remembers its in-range lanes in the grant's order. -/
def loadLanes (kind : Option FeKind) (p : Pr) (base : Nat) (lanes : List (Nat × Nat)) : M (List (Nat × Nat)) :=
  atOff p base do
    match (← me).latch with
    | some vs =>
      noteRange p 4 (lanes.map Prod.snd) false
      remoteReply p
      let len := (← preg p).len
      pure (((lanes.filter fun l => l.2 + 4 ≤ len).map Prod.fst).zip vs)
    | none =>
      let (k, ok) ← vectorLanes p base lanes false
      if ok.isEmpty then pure [] else
      let vs ← match kind with
        | none => ok.mapM fun l => atOff p l.2 (readNat (k + l.2) 4)
        | some kind => waited (.words kind p 4 (ok.map Prod.snd) [])
      remoteReply p
      pure ((ok.map Prod.fst).zip vs)

/-- A vector load (R188). -/
def vloadUnit (i : Instr) (kind : Option FeKind) (v : Nat) (x : Bool) (m : Mk) (os : Fin 16) (p : Pr) (off : Fin 32)
    (s : State) : Out :=
  unit i (using_ { ss := offUses x off, dv := [v] } (first := permits p true false) do
    acquiring os
    let o ← offsetOf x off 64
    let lanes := strided (← readM m) o
    let got ← loadLanes kind p o lanes
    writeV v (mergeLoaded (← oldV v) (lanes.map Prod.fst) got)
    pure .seq) s

/-- VLD (R188). -/
def execVld (v : Vc) (x : Bool) (m : Mk) (os : Fin 16) (p : Pr) (off : Fin 32) : State → Out :=
  vloadUnit (.vld v x m os p off) none v.val x m os p off
/-- VLDW (R188). -/
def execVldw (v : Vc) (x : Bool) (m : Mk) (os : Fin 16) (p : Pr) (off : Fin 32) : State → Out :=
  vloadUnit (.vldw v x m os p off) (some .load) v.val x m os p off
/-- VLDC (R188). -/
def execVldc (v : Vc) (x : Bool) (m : Mk) (os : Fin 16) (p : Pr) (off : Fin 32) : State → Out :=
  vloadUnit (.vldc v x m os p off) (some .consume) v.val x m os p off

/-- A vector store of lanes, in ascending order; a kind-4 object's version rises once (R166, R188, R189). -/
def storeLanes (p : Pr) (base : Nat) (lanes : List (Nat × Nat)) (src : Nat) : M Unit := atOff p base do
  let (k, ok) ← vectorLanes p base lanes true
  let v ← readV src
  ok.forM fun l => posted p l.2 (k + l.2) (laneBytes v l.1) none (putBytes (k + l.2) (laneBytes v l.1) none)
  match ok with
  | [] => pure ()
  | l :: _ =>
    match (← me).run with
    | .live => bumpVersion (k + l.2)
    | _ => pure ()

/-- VST (R188). -/
def execVst (v : Vc) (x : Bool) (m : Mk) (os : Fin 16) (p : Pr) (off : Fin 32) : State → Out :=
  unit (.vst v x m os p off) (using_ { ss := offUses x off, sv := [v.val] } (first := permits p false true) do
    releasing os
    let o ← offsetOf x off 64
    storeLanes p o (strided (← readM m) o) v.val
    pure .seq)

/-- VSTF (R188). -/
def execVstf (v : Vc) (x : Bool) (m : Mk) (os : Fin 16) (p : Pr) (off : Fin 32) : State → Out :=
  unit (.vstf v x m os p off) (using_ { ss := offUses x off, sv := [v.val] } (first := permits p false true) do
    releasing os
    let o ← offsetOf x off 64
    atOff p o do
      let lanes := strided (← readM m) o
      if (← me).latch.isSome then noteRange p 4 (lanes.map Prod.snd) true else
      let (_, ok) ← vectorLanes p o lanes true
      let y ← readV v.val
      if ok.isEmpty then pure () else
      discard (waited (.words .fill p 4 (ok.map Prod.snd) (ok.map fun l => laneOf y 32 l.1)))
    pure .seq)

/-- The lanes of a gather or scatter (R189): each active lane's offset is a lane of the index vector. -/
def indexed (m : BitVec 16) (vi : V512) : List (Nat × Nat) := (activeLanes m 16).map fun i => (i, laneOf vi 32 i)

/-- VGATH (R189). -/
def execVgath (v : Vc) (m : Mk) (os : Fin 16) (p : Pr) (vi : Fin 32) : State → Out :=
  unit (.vgath v m os p vi) (using_ { sv := [vi.val], dv := [v.val] } (first := permits p true false) do
    acquiring os
    let lanes := indexed (← readM m) (← readV vi.val)
    let got ← loadLanes none p 0 lanes
    writeV v.val (mergeLoaded (← oldV v.val) (lanes.map Prod.fst) got)
    pure .seq)

/-- VSCAT (R189): the highest active lane wins a shared word. -/
def execVscat (v : Vc) (m : Mk) (os : Fin 16) (p : Pr) (vi : Fin 32) : State → Out :=
  unit (.vscat v m os p vi) (using_ { sv := [v.val, vi.val] } (first := permits p false true) do
    releasing os
    let lanes := indexed (← readM m) (← readV vi.val)
    storeLanes p 0 lanes v.val
    pure .seq)

/-! ## Pointers in memory (R191) -/

/-- The granule at place k as a pointer. -/
def readGranule (k : Nat) : M PReg := do
  let bs ← readBytes k 16
  let g ← phys k aR
  pure { bits := BitVec.ofNat 128 (natOf bs), tag := (← get).mem.isTagged g }

/-- A pointer is written into the granule at place k with its tag (R165). -/
def writeGranule (k : Nat) (q : PReg) : M Unit := do
  putBytes k (bytesOf 16 q.bits.toNat) none
  let g ← phys k aW
  modify fun s => s.updMem fun m => m.setTag g q.tag

/-- PLD (R191): a pointer whose object the loading core's pads do not contain escapes first, and the granule is
patched with the other roots (R298). -/
def execPld (q : Pr) (x : Bool) (os : Fin 16) (p : Pr) (off : Fin 32) : State → Out :=
  unit (.pld q x os p off) (using_ { ss := offUses x off } (first := permits p true false) do
    acquiring os
    let o ← offsetOf x off 16
    atOff p o do
      match ← access p o 16 16 true false with
      | none => setPreg q .null
      | some k =>
        let g ← readGranule k
        remoteReply p
        let part := (← me).part.toNat
        let c := (← get).core
        if ((← get).escapes g (localBase c) part).isSome then
          let old ← preg q
          setPreg q g
          escape g (localBase c) part [c]
          let g' ← preg q
          if p == q then setPreg p old
          match ← access p o 16 16 true false with
          | some k => if g' != g then writeGranule k g'
          | none => pure ()
          setPreg q g'
        else setPreg q g
    pure .seq)

/-- The place where PST writes q's pointer: the object that it names escapes first where its pad does not hold the place
(R176), and again where a sift that the escape ran has moved the place down (R298); each time it is a level lower. -/
def pstPlace (q p : Pr) (o : Nat) : Nat → M (Option Nat)
  | 0 => access p o 16 16 false true
  | n + 1 => do
    match ← access p o 16 16 false true with
    | none => pure none
    | some k =>
      discard (phys k aW)
      let g ← preg q
      let part := (← me).part.toNat
      if ((← get).escapes g k part).isNone then pure (some k) else
      escape g k part
      pstPlace q p o n

/-- PST (R191). -/
def execPst (q : Pr) (x : Bool) (os : Fin 16) (p : Pr) (off : Fin 32) : State → Out :=
  unit (.pst q x os p off) (using_ { ss := offUses x off, ps := [q] } (first := permits p false true) do
    releasing os
    let o ← offsetOf x off 16
    atOff p o do
      match ← pstPlace q p o 4 with
      | none => pure ()
      | some k =>
        writeGranule k (← preg q)
        bumpVersion k
    pure .seq)

end Sys2Proof.Machine
end

