-- ==== Sys2Proof/Machine/Tensor.lean ====
section
/-! DEFINITION. Tensor maps (06 R149), panes (05 R113, R114) and the elements that matrix operands, streams and
copies read (05 R119, R120, 12 R260). -/

namespace Sys2Proof.Machine

/-! ## Descriptors (R149) -/

/-- base. -/
def tmBase (d : V512) : Nat := fld d.toNat 0 40
/-- esz. -/
def tmEsz (d : V512) : Nat := fld d.toNat 44 3
/-- The extent of dimension k: 1 at or beyond the rank. -/
def tmExt (d : V512) (k : Nat) : Nat := if k ≤ fld d.toNat 40 3 then fld d.toNat (32 * k + 64) 32 else 1
/-- The stride of dimension k. -/
def tmStr (d : V512) (k : Nat) : Int := signedOf 32 (fld d.toNat (32 * k + 256) 32)

/-- The element that an index tuple names. -/
def tmAt (d : V512) (is : List Nat) : Int :=
  tmBase d + ((is.zipIdx.map fun (i, k) => (i : Int) * tmStr d k).foldl (· + ·) 0)

/-- A descriptor with its base moved by some elements, modulo 2^40 (R160). -/
def tmShift (d : V512) (by_ : Int) : V512 :=
  BitVec.ofNat 512 (setFld d.toNat 0 40 ((tmBase d + by_) % (2 ^ 40 : Nat)).toNat)

/-- The byte offset of the first field of a descriptor that R150 refuses. -/
def tmBad (d : V512) : Option Nat :=
  let n := d.toNat
  let rank := fld n 40 3
  if 6 ≤ rank || bit n 43 || 5 ≤ fld n 44 3 || fld n 47 17 != 0 then some 5
  else
    let ext := (upTo 6).find? fun k =>
      let e := fld n (32 * k + 64) 32
      if k ≤ rank then e == 0 else e != 0
    let str := (upTo 6).find? fun k => rank < k && fld n (32 * k + 256) 32 != 0
    match ext, str with
    | some k, _ => some (8 + 4 * k)
    | none, some k => some (32 + 4 * k)
    | none, none => if fld n 448 64 != 0 then some 56 else none

/-- The bytes of an element; 0 for four bits (R149, R259). -/
def eszBytes (esz : Nat) : Nat := if esz == 0 then 0 else 2 ^ (esz - 1)

/-- The element size of a format (R151): T6 takes a byte. -/
def fmtEsz (ty : Nat) : Nat := match ty with
  | 8 => 4
  | 9 => 3
  | 10 => 2
  | 11 => 2
  | 12 => 1
  | 13 => 1
  | _ => 0

/-- The first byte of element e and the bytes it touches. -/
def elemSpan (esz : Nat) (e : Nat) : Nat × Nat := if esz == 0 then (e / 2, 1) else (e * eszBytes esz, eszBytes esz)

/-! ## Panes (R113, R114) -/

/-- The pane of the issuing core that a pointer selects. -/
def paneOf (p : PReg) : M Nat := do
  let k ← myCore
  pure k.panes[Fin.ofNat 8 p.view].toNat

/-- The format of an access of type ty through a pane. -/
def paneFmt (pane ty : Nat) : Nat := if 8 ≤ fld pane 0 4 && fld pane 0 4 ≤ 14 then fld pane 0 4 else ty

/-- An operand in memory: its pointer and register, where its offset 0 now is, whether the object is dead, its
map, its pane, its format, and the flipped bits of the operand buffer where its elements are taken from it (R235). -/
structure Operand where
  reg : Fin 16
  ptr : PReg
  at_ : Nat
  dead : Bool
  map : V512
  pane : Nat
  fmt : Nat
  wrong : List Nat := []
  deriving DecidableEq, Repr

/-- Where a pointer's object now is, read in place (R175), and whether it is dead. -/
def inPlace (p : PReg) : M (Nat × Bool) := do
  let (k, o) ← locateUp (p.key (← me).part.toNat)
  match o with
  | some (_, h) => pure (k, h.state == stDead)
  | none => pure (k, false)

/-- Where the object of register r now is, and whether it is dead: the register is rewritten where that is in the issuing
core's own pad (R175). -/
def inPlaceOf (r : Fin 16) : M (Nat × Bool) := do
  let p ← preg r
  let q ← inPlace p
  let s ← get
  if q.1 != p.key (← me).part.toNat && spaceOf q.1 == s.core then setPreg r (p.moveTo q.1)
  pure q

/-- An operand opened through a register with a map, for type ty, with a pane; it follows the context's atomics (R385
row 6). -/
def openWith (r : Fin 16) (map : V512) (ty pane : Nat) : M Operand := do
  afterAmos
  let (k, dead) ← inPlaceOf r
  let p ← preg r
  pure { reg := r, ptr := p, at_ := k, dead, map, pane, fmt := paneFmt pane ty }

/-- An operand opened through a register with a map, for type ty, with its pane as it stands. -/
def openOperand (r : Fin 16) (map : V512) (ty : Nat) : M Operand := do
  openWith r map ty (← paneOf (← preg r))

/-- The code of element e, or none where it is out of range: recorded for a unit, and not for an engine. -/
def elemCode (o : Operand) (src : Option Nat) (esz : Nat) (e : Int) : M (Option Nat) := do
  let (b, n) := elemSpan esz e.toNat
  if e < 0 || o.dead || o.ptr.len < b + n then
    match src with
    | some k => recordRange o.reg (if e < 0 then 2 ^ 40 - 1 else b) false k
    | none => pure ()
    pure none
  else
    let x ← atOff o.reg b (readNat (o.at_ + b) n)
    pure (some (if esz == 0 then fld x (4 * (e.toNat % 2)) 4 else x))

/-- The scale of the Q4 block of element e, as an E8M0 code (R119); 127 is 1.0. -/
def blockScale (o : Operand) (src : Option Nat) (e : Int) : M Nat := do
  if !bit o.pane 16 then pure 127 else
  let off := 16 * fld o.pane 20 24 + e.toNat / 32
  if o.dead || o.ptr.len < off + 1 then
    match src with
    | some k => recordRange o.reg off false k
    | none => pure ()
    pure 0
  else atOff o.reg off (readNat (o.at_ + off) 1)

/-- The decoded element e (R114, R119, R120): zero out of range. A Q4 element keeps its exact value where its block's
scale carries it beyond FP32 (log 39). flips are bits of its code that stand wrong in the operand buffer (R235). -/
def elemVal (o : Operand) (src : Option Nat) (e : Int) (flips : Nat := 0) : M FVal := do
  match ← elemCode o src (fmtEsz o.fmt) e with
  | none => pure (.fin false 0 0)
  | some c =>
    let c := c ^^^ flips
    if o.fmt == 14 then
      let sc ← blockScale o src e
      pure (if sc == 255 then .nan false else (decodeQ4 c).scale ((sc : Int) - 127))
    else if o.fmt == 12 || o.fmt == 13 then
      pure ((decodeVal o.fmt c).scale (signedOf 7 (fld o.pane 8 7)))
    else pure (decodeVal o.fmt c)

/-- The flipped bits of element (j, k) of the operand buffer, whose elements lie row after row, sixteen to a row (R154,
log 40). -/
def Operand.flips (o : Operand) (j k : Nat) : Nat :=
  if o.wrong.isEmpty then 0 else
  let n := max 4 (8 * eszBytes (fmtEsz o.fmt))
  let lo := n * (16 * k + j)
  (o.wrong.filter fun b => lo ≤ b && b < lo + n).foldl (fun x b => x ^^^ 2 ^ (b - lo)) 0

/-- The element at (i0, i1): zero at or beyond an extent, without touching memory (R151). -/
def elemAt (o : Operand) (src : Option Nat) (i0 i1 : Nat) : M FVal :=
  if tmExt o.map 0 ≤ i0 || tmExt o.map 1 ≤ i1 then pure (.fin false 0 0)
  else elemVal o src (tmAt o.map [i0, i1]) (o.flips i0 i1)

/-! ## Words of a tile or a descriptor (R150, R158) -/

/-- n words from [p + 0], bounded, as vector loads read them. -/
def loadWords (p : Pr) (n : Nat) : M (List Nat) := atOff p 0 do
  let (k, ok) ← accessEach p 4 4 ((upTo n).map (4 * ·)) true false
  let ws ← (upTo n).mapM fun i => if ok.contains (4 * i) then atOff p (4 * i) (readNat (k + 4 * i) 4) else pure 0
  if !ok.isEmpty then remoteReply p
  pure ws

/-- Words to [p + 0], bounded, in vector stores of 64 bytes. -/
def storeWords (p : Pr) (ws : List Nat) : M Unit := atOff p 0 do
  let (k, ok) ← accessEach p 4 4 ((upTo ws.length).map (4 * ·)) false true
  ok.forM fun o => posted p o (k + o) (bytesOf 4 (ws.getD (o / 4) 0)) none
    (putBytes (k + o) (bytesOf 4 (ws.getD (o / 4) 0)) none)
  (once (ok.map (· / 64))).forM fun g => do
    match (← me).run with
    | .live => bumpVersion (k + 64 * g)
    | _ => pure ()

/-- A list of 32-bit words as one number, the first lowest. -/
def packWords : List Nat → Nat
  | [] => 0
  | w :: ws => w % 2 ^ 32 + 2 ^ 32 * packWords ws

end Sys2Proof.Machine
end

