-- ==== Sys2Proof/Machine/Request.lean ====
section
/-! DEFINITION. Refusable requests (15 R326, R327), and messages at their receivers: landing transforms (11 R251,
R252), the checks of 03 R51, host queues (18 R369), remote matrix commands (06 R160). -/

namespace Sys2Proof.Machine

/-! ## Resources (R326) -/

/-- A resource that can be full. -/
inductive Res where
  | input (c : Nat)
  | handler (c : Nat)
  | command (c : Nat)
  | ring (h : Nat)
  deriving DecidableEq, Repr

/-- The resource of a request. -/
def Req.res (r : Req) : Res := match r.load with
  | .message _ => .input r.dst
  | .initial _ => .input r.dst
  | .handler _ => .handler r.dst
  | .matrix _ => .command r.dst
  | .hostQueue h _ => .ring h

/-- Host queue h. -/
def State.hostAt (s : State) (h : Nat) : HostQueue := SMap.get {} s.pkg.hostq h
/-- Host queue h changed by f. -/
def State.updHost (s : State) (h : Nat) (f : HostQueue → HostQueue) : State :=
  s.updPkg fun p => { p with hostq := SMap.put p.hostq h (f (SMap.get {} p.hostq h)) }

/-- The reservations of a resource. -/
def State.resv (s : State) : Res → Resv
  | .input c => (s.coreAt c).resvIn
  | .handler c => (s.coreAt c).resvHnd
  | .command c => (s.coreAt c).resvCmd
  | .ring h => (s.hostAt h).resv

/-- The reservations of a resource become v. -/
def State.setResv (s : State) (v : Resv) : Res → State
  | .input c => s.updCore c fun k => { k with resvIn := v }
  | .handler c => s.updCore c fun k => { k with resvHnd := v }
  | .command c => s.updCore c fun k => { k with resvCmd := v }
  | .ring h => s.updHost h fun q => { q with resv := v }

/-- The messages in a core's input buffer (R52). -/
def Core.buffered (k : Core) : List Msg :=
  k.heldMsgs ++ k.runq.filterMap fun e => match e.work with
    | .message m => some m
    | _ => none

/-- The payload bytes of some messages. -/
def payBytes (ms : List Msg) : Nat := ms.foldl (fun n m => n + m.body.length) 0

/-- The ring bytes of a message (R369). -/
def ringBytes (o : OutMsg) : Nat := 32 + 32 * ((o.msg.body.length + 31) / 32)

/-- A resource has room for a request. R52's 16 KiB count payloads that lie there as they have landed, and the one that
comes as it was sent (log 39). -/
def State.roomFor (s : State) (r : Req) : Bool :=
  let input := fun (o : OutMsg) =>
    let ms := (s.coreAt r.dst).buffered
    ms.length < 64 && payBytes ms + o.msg.body.length ≤ 16384
  match r.load with
  | .message o => input o
  | .initial o => input o
  | .handler _ => (s.coreAt r.dst).handler.length < 32
  | .matrix _ => (s.coreAt r.dst).cmds.length < 4
  | .hostQueue h o =>
    let q := s.hostAt h
    o.msg.cap.toNat != q.key.toNat % 2 ^ 32 || (q.tail - q.head).toNat + ringBytes o ≤ q.size.toNat

/-- The die of a receiver, if it is one that can be halted. -/
def Req.dieHalted (r : Req) (s : State) : Bool :=
  r.dst < 1024 && s.halted (coreDie r.dst)

/-! ## A message at its receiver (R51, R251, R252) -/

/-- The class-table entry that a message meets holds an uncorrectable error (R233); a correctable one is recorded
and gone. -/
def State.entryError (s : State) (c n : Nat) : Bool × State :=
  let bad := (s.coreAt c).flips.any fun f => f.1 == 2 && f.2.1 == n && f.2.2
  (bad, s.meetFlips c 2 (s.coreId c) (· == n))

/-- A message lands in a core's input buffer (R51): transformed, and checked in order. A message that is diverted
starts no activation. -/
def State.arrive (s : State) (c : Nat) (o : OutMsg) : State :=
  let x := o.msg.xf.toNat
  match if x == 0 then some (o.msg.body, 0) else transformed x o.msg.body with
  | none => s.divert c 6 o.msg 0 x
  | some (body, holes) =>
    let d := leAt o.msg.body 0 4
    let offs := badOffsets (padTo (32 * (fld d 0 3 + 1)) (o.msg.body.drop 4))
    let s := if holes == 0 then s else s.logBlock (coreClu c) holes offs (bit d 3) (fld d 0 3) 0
    let m := { o.msg with body, holes, xf := 0 }
    let (bad, s) := s.entryError c m.cls.toNat
    let e := ((s.coreAt c).cls m.cls.toNat).toNat
    if bad then
      (s.updCore c fun k => k.setCls m.cls.toNat (setFld e 24 1 0)).divert c 7 m 0 2
    else if o.handler && (s.dieAt (coreDie c)).st == 2 then s.divert c 5 m
    else if m.cap.toNat != fld e 32 32 then s.divert c 1 m (fld e 32 32)
    else if o.handler && !bit e 27 then s.divert c 5 m
    else if !bit e 24 then s.updCore c fun k => { k with heldMsgs := k.heldMsgs ++ [m] }
    else s.queueMessage c m

/-- A message is written into a host queue's ring (R369), and its vector is raised (R415). -/
def State.ringPut (s : State) (h : Nat) (o : OutMsg) (core id : Nat) : State :=
  let q := s.hostAt h
  if o.msg.cap.toNat != q.key.toNat % 2 ^ 32 then s.divert core 1 o.msg (q.key.toNat % 2 ^ 32)
  else
    let bs := headerOf o id ++ padTo (ringBytes o - 32) o.msg.body
    let n := max 1 q.size.toNat
    let at_ := q.tail.toNat % n
    let one := fun (s : State) (lo : Nat) (bs : List Byte) =>
      if bs.isEmpty then s
      else s.updPkg fun p => { p with outward := p.outward ++ [.hostMem (q.base.toNat + lo) bs] }
    let s := one (one s at_ (bs.take (n - at_))) 0 (bs.drop (n - at_))
    let s := s.updHost h fun q => { q with tail := q.tail + BitVec.ofNat 64 bs.length }
    (s.raiseVec h).launchLess o.msg.launch

/-! ## A remote matrix command at its receiver (R159-R161) -/

/-- The A map. -/
def MCmd.mapA (c : MCmd) : V512 := BitVec.ofNat 512 (c.field 512 512)
/-- The B map. -/
def MCmd.mapB (c : MCmd) : V512 := BitVec.ofNat 512 (c.field 1024 512)

/-- The format of a command's operand, which its pane may replace (R114). -/
def MCmd.fmt (c : MCmd) (core : Core) (p : PReg) : Nat := paneFmt core.panes[Fin.ofNat 8 p.view].toNat (c.field 6 4)

/-- The block is malformed (R160), or a multiplication that R152 refuses. -/
def MCmd.bad (c : MCmd) (s : State) (core : Core) : Bool :=
  let op := c.field 0 4
  let t := c.field 4 2
  let ty := c.field 6 4
  let badPtr := fun (p : PReg) => !p.tag || s.malformed p
  let badMap := fun (m : V512) => m == 0 || (tmBad m).isSome
  let f64 := c.fmt core c.pa == 8 || c.fmt core c.pb == 8
  let refused := !c.pa.r || !c.pb.r || tmEsz c.mapA != fmtEsz (c.fmt core c.pa) ||
    tmEsz c.mapB != fmtEsz (c.fmt core c.pb) || 4096 < tmExt c.mapA 0 || (f64 && (t % 2 == 1 || op == 2))
  3 < op || ty < 8 || 14 < ty || c.field 10 22 != 0 || badPtr c.pa || badPtr c.pb || badMap c.mapA ||
    badMap c.mapB || (op != 3 && refused)

/-- The done word is written and set full (R161). -/
def State.cmdDone (s : State) (dst : Nat) (c : MCmd) (status : Nat) : State :=
  s.enginePut c.done c.part.toNat 8 (bytesOf 4 status) (some true) (16384 + dst)

/-- A command is checked in order (R160), and joins the queue of the matrix unit or is refused in its done word. -/
def State.enterCmd (s : State) (dst : Nat) (c : MCmd) : State :=
  let k := s.coreAt dst
  if c.away then s.cmdDone dst c 4
  else if c.bad s k then s.cmdDone dst c 5
  else match c.owner k with
    | none => s.cmdDone dst c 3
    | some x =>
      let q := k.ctxs[x]
      let key := fld (k.cls q.classno.toNat).toNat 32 32
      if key != c.key.toNat then
        (s.contain dst { cause := 2, capp := c.key.toNat, keyx := key, cls := c.field 0 4, wuid := q.wuid.toNat
                         at_ := s.ctxId dst x, sender := s.ctxId c.core c.ctx, slot := q.slot.toNat }).cmdDone dst c 2
      else (s.updCore dst fun k => { k with cmds := k.cmds ++ [c] }).later 1 (.mcmdRepeat dst)

/-! ## Owners and handler cores (R322, R329, R333) -/

/-- Handler core k of a die (R322). -/
def State.handlerCore (s : State) (d k : Nat) : Nat :=
  d * 256 + k % 16 * 16 + fld (s.dieAt d).hnd.toNat (4 * (k % 16)) 4

/-- The owner of the word at a place. -/
def State.ownerOf (s : State) (k : Nat) : Nat :=
  let b := fld (locOf k) 8 4
  match levelOf k with
  | 0 => spaceOf k
  | 1 => cluOf k * 16 + b
  | _ => s.handlerCore (dieOf k) b

/-- The home of a group's record: the next online die where its own is offline. -/
def State.groupHome (s : State) (g : Nat) : Nat :=
  let d := g / 16 % 4
  let ds := (upTo 4).map fun i => (d + i) % 4
  s.handlerCore ((ds.find? fun d => (s.dieAt d).st != 2).getD d) (g % 16)

/-- The core that a request comes to: a handler core is the one that DIEHND names as it arrives (R322). -/
def State.goal (s : State) (r : Req) : Nat :=
  if r.standing != .sent then r.dst else
  match r.load with
  | .message o => if o.handler then s.destCore o else r.dst
  | .handler (.amo _ _ p _ _ _ part _) => match (locate (p.key part)).try? s with
    | some ((k, _), _) => s.ownerOf k
    | none => r.dst
  | .handler (.arrive _ g _ _) => s.groupHome g.toNat
  | _ => r.dst

/-! ## Presenting (R327) -/

/-- A request waits behind an earlier one of its context to the same receiver. -/
def State.behind (s : State) (r : Req) : Bool :=
  (s.reqs.takeWhile fun q => q.id != r.id).any fun q => q.core == r.core && q.ctx == r.ctx && q.dst == r.dst

/-- The ck between presentations, and the event that makes the next one. -/
def Req.event (r : Req) : Due := match r.load with
  | .message _ => .message r.dst
  | .initial _ => .message r.dst
  | .handler _ => .refusal r.id
  | .matrix _ => .mcmdAccept r.dst
  | .hostQueue h _ => .hostQueue h

/-- An entry joins a handler queue: by priority, and within one by arrival (R323). -/
def insertOp (e : HEntry) : List HEntry → List HEntry
  | [] => [e]
  | f :: fs => if f.prio < e.prio then e :: f :: fs else f :: insertOp e fs

/-- A request's standing becomes v. -/
def State.setStanding (s : State) (id : Nat) (v : Standing) : State :=
  { s with reqs := s.reqs.map fun r => if r.id == id then { r with standing := v } else r }

/-- The launch's initial message is placed (R373); after the last one its slot reads on. -/
def State.placedOne (s : State) (uid : Nat) : State :=
  let s := s.updLaunch uid fun l => { l with nplaced := l.nplaced + 1, unaccepted := l.unaccepted - 1 }
  match s.launch? uid with
  | some l => if l.allPlaced then s.later 1 (.start l.slot.toNat) else s
  | none => s

/-- A request enters its resource. -/
def State.enter (s : State) (r : Req) : State := match r.load with
  | .message o => s.arrive r.dst o
  | .initial o => (s.placedOne o.msg.launch).arrive r.dst o
  | .handler op =>
    let e : HEntry := { id := r.id, prio := r.prio, core := r.core, ctx := r.ctx, actId := r.actId, op, rel := r.rel
                        came := s.ck }
    s.updCore r.dst fun k => { k with handler := insertOp e k.handler }
  | .matrix c => s.enterCmd r.dst c
  | .hostQueue h o => s.ringPut h o r.core r.id

/-- A request leaves its sender as land says, and the next of its context to the same receiver is presented. -/
def State.takeReq (s : State) (r : Req) (land : State → State) : State :=
  let rest := s.reqs.filter fun q => q.id != r.id
  let s := (land { s with reqs := rest }).answer r 2 0
  match rest.find? fun q => q.core == r.core && q.ctx == r.ctx && q.dst == r.dst with
  | some q => s.later 6 (if q.standing == .sent then q.event else .refusal q.id)
  | none => s

/-- A request is accepted. -/
def State.acceptReq (s : State) (r : Req) : State := s.takeReq r (·.enter r)

/-- Slots that have freed go to the reservations at the head of the queue (R327). -/
def State.grants (res : Res) : Nat → State → State
  | 0, s => s
  | n + 1, s =>
    let v := s.resv res
    match v.queue with
    | [] => s
    | id :: ids =>
      match s.reqs.find? fun r => r.id == id with
      | none => (s.setResv { v with queue := ids } res).grants res n
      | some r => if s.roomFor r then ((s.setResv { v with queue := ids } res).acceptReq r).grants res n else s

/-- A slot of a resource has freed. -/
def State.freed (s : State) (res : Res) : State := s.grants res ((s.resv res).queue.length)

/-- The refusals that a request has met. -/
def Req.refusals (r : Req) : Nat := match r.standing with
  | .refused n => n
  | .held n => n
  | _ => 0

/-- The receiver reserves a slot (R327): in the reservation queue of 16, or with a ticket. -/
def State.reserveReq (s : State) (r : Req) : State :=
  let v := s.resv r.res
  if v.queue.length < 16 then
    (s.setResv { v with queue := v.queue ++ [r.id] } r.res).setStanding r.id .reserved
  else
    ((s.setResv { v with ticket := v.ticket + 1 } r.res).setStanding r.id (.ticket v.ticket)).later 256 (.ticket r.id)

/-- A request of another package is turned away: its sender keeps it. -/
def State.turnAway (s : State) (r : Req) (code : Nat) : State :=
  { s with reqs := s.reqs.filter fun q => q.id != r.id }.answer r 3 code

/-- A message or a group arrival that has to wait for its context's earlier atomics and trace records, of which it is a
release (R256, R334, R386). -/
def State.arrivalWaits (s : State) (r : Req) : Bool := !r.fromFabric && match r.load with
  | .handler (.arrive _ _ _ _) => s.earlierOps r.actId r.id
  | .message _ => s.earlierOps r.actId r.id
  | .hostQueue _ _ => s.earlierOps r.actId r.id
  | _ => false

/-- What waits for the operations of an activation comes forward (R256, R334, R386). -/
def State.wakeOps (s : State) (act : Nat) : State :=
  ((s.reqs.filter fun r => r.actId == act && r.standing == .sent).foldl (fun s r => s.later 1 r.event) s).sendRemotes

/-- A request comes to its receiver, which it did not know before it arrived (R322). -/
def State.redirect (s : State) (r : Req) : Req × State :=
  let d := s.goal r
  if d == r.dst then (r, s) else
  let with_ := fun (q : Req) => q.core == r.core && q.ctx == r.ctx && q.dst == r.dst && s.goal q == d
  ({ r with dst := d }, { s with reqs := s.reqs.map fun q => if with_ q then { q with dst := d } else q })

/-- A request is presented (R327, R355). -/
def State.present (s : State) (r : Req) : State :=
  let (r, s) := s.redirect r
  if s.behind r || s.arrivalWaits r then s
  else if s.roomFor r && (s.resv r.res).queue.isEmpty then s.acceptReq r
  else if r.fromFabric && r.dieHalted s then s.turnAway r 1
  else if r.fromFabric && r.refusals == 0 then s.turnAway r 0
  else if r.dieHalted s then (s.setStanding r.id (.held r.refusals)).later 256 (.heldAgain r.id)
  else if r.refusals == 0 then (s.setStanding r.id (.refused 1)).later 16 (.refusal r.id)
  else s.reserveReq r

/-- A request may be presented. -/
def Req.open_ (r : Req) : Bool := match r.standing with
  | .sent => true
  | .refused _ => true
  | .held _ => true
  | _ => false

/-- The source of a request at its receiver's crossbar port (R238): a core of the cluster, or the die port. -/
def Req.source (r : Req) : Nat := if coreClu r.core == coreClu r.dst then r.core % 16 else 19

/-- The request of a kind that has come to its receiver first; of several that came together, the port grants that of
the source next after the last one it served (R238). -/
def State.firstSent (s : State) (p : Req → Bool) : Option Req :=
  let rs := s.reqs.filter fun r => p r && r.standing == .sent && r.due ≤ s.ck && !s.behind r && !s.arrivalWaits r
  let turn := fun (r : Req) => (r.source + 19 - (s.coreAt r.dst).port) % 20
  match rs with
  | [] => none
  | r :: rs => some (rs.foldl (fun b r => if r.due < b.due || (r.due == b.due && turn r < turn b) then r else b) r)

/-- The message that a request carries is lost in a beat (R295): it is diverted. -/
def State.loseMessage (s : State) (r : Req) : State :=
  let (r, s) := s.redirect r
  s.takeReq r fun s => match r.load with
    | .message o => s.divert r.dst 12 o.msg
    | .initial o => (s.placedOne o.msg.launch).divert r.dst 12 o.msg
    | _ => s

/-- MESSAGE_ARRIVAL (R51, R238): the next message on its way to a core. A beat of it may be in error (R295): one that
is corrected is counted, another diverts the message. -/
def execMessageArrival (core : Fin 1024) : State → Out := struck fun upset s =>
  match s.firstSent fun r => s.goal r == core.val && r.res == .input r.dst with
  | some r =>
    let s := s.updCore core.val fun k => { k with port := r.source }
    match upset with
    | .lost => .next (s.loseMessage r)
    | .corrected =>
      .next ((s.countBeat core.val).present r)
    | _ => .next (s.present r)
  | none =>
    -- messages to handler cores whose core has another number since they left (R322)
    .next ((s.reqs.filter fun r => r.standing == .sent && r.due ≤ s.ck && r.res == .input core.val &&
      s.goal r != core.val).foldl (fun s r => s.later 0 (.message (s.goal r))) s)

/-- HOST_QUEUE_WRITE (R369): the next message on its way to a host queue. -/
def execHostQueueWrite (h : Fin 256) (s : State) : Out :=
  match s.firstSent fun r => r.res == .ring h.val with
  | some r => .next (s.present r)
  | none => .next s

/-- A message that another package has turned away is sent again. -/
def State.sendAgain (s : State) (id : Nat) : State :=
  match s.pkg.remotes.find? fun r => r.id == id && r.sent with
  | some r => s.sendOne r
  | none => s

/-- REFUSAL_RETRY (R327): a request is presented again. An operation that comes to its handler core passes the core's
port (R238). -/
def execRefusalRetry (id : Nat) (s : State) : Out :=
  match s.reqs.find? fun r => r.id == id with
  | some r =>
    if r.standing == .sent then
      match s.firstSent fun q => q.res == r.res with
      | some q => .next ((s.updCore q.dst fun k => { k with port := q.source }).present q)
      | none => .next s
    else .next (if r.open_ then s.present r else s)
  | none => .next (s.sendAgain id)

/-- HELD_RETRY (R355): a request answered HELD is presented again. -/
def execHeldRetry (id : Nat) (s : State) : Out :=
  match s.reqs.find? fun r => r.id == id with
  | some r => match r.standing with
    | .held _ => .next (s.present r)
    | _ => .next s
  | none => .next (s.sendAgain id)

/-- TICKET_PRESENT (R327): a ticket holder enters the reservation queue in its turn. -/
def execTicketPresent (id : Nat) (s : State) : Out :=
  match s.reqs.find? fun r => r.id == id with
  | some r => match r.standing with
    | .ticket t =>
      let v := s.resv r.res
      if t == v.serving && v.queue.length < 16 then
        .next (((s.setResv { v with queue := v.queue ++ [id], serving := v.serving + 1 } r.res).setStanding id
          .reserved).freed r.res)
      else .next (s.later 256 (.ticket id))
    | _ => .next s
  | none => .next s

end Sys2Proof.Machine
end

