-- ==== Sys2Proof/Machine/Atomic.lean ====
section
/-! DEFINITION. Atomics at their owners (15 R329-R332), group barriers (15 R333, R334), and the re-checks and park
timers of waiting accesses (07 R182-R184). -/

namespace Sys2Proof.Machine

/-! ## The operations (R330, R331) -/

/-- The width of an atomic's type. -/
def amoWidth (op : AmoOp) (ty : Fin 4) : Nat :=
  if op == .fadd then (if ty == 0 then 32 else 64) else if ty.val % 2 == 0 then 32 else 64

/-- Op(old, x, e), with AMOFADD's flags. -/
def amoApply (op : AmoOp) (ty : Fin 4) (old x e : Nat) : Nat × Flags :=
  let n := amoWidth op ty
  let less := if ty.val < 2 then decide (signedOf n x < signedOf n old) else decide (x < old)
  match op with
  | .add => ((old + x) % 2 ^ n, 0)
  | .fadd =>
    let f := if ty == 0 then 9 else 8
    let (v, g) := (decodeVal f old).add false (decodeVal f x)
    let (c, h) := roundVal f .rne 0 v
    (c, g ||| h)
  | .min => (if less then x else old, 0)
  | .max => (if less || x == old then old else x, 0)
  | .swp => (x, 0)
  | .cas => (if old == e then x else old, 0)
  | .and => (old &&& x, 0)
  | .or => (old ||| x, 0)
  | .xor => (old ^^^ x, 0)

/-- The reply's value: sign-extended for s types, zero-extended for the others. -/
def amoReply (op : AmoOp) (ty : Fin 4) (old : Nat) : DWord :=
  let n := amoWidth op ty
  if op != .fadd && ty.val < 2 then (BitVec.ofNat n old).signExtend 64 else BitVec.ofNat 64 old

/-- An atomic (R330): its request goes to the owner; out of range, its reply is zero. With .rel it follows the context's
earlier atomics, and with .acq its performance holds what comes after it (R386). -/
def amoUnit (i : Instr) (op : AmoOp) (d : R5) (p : Pr) (b : Sc) (os : Fin 16) (ty : Fin 4) (s : State) : Out :=
  unit i (using_ { ss := b.val :: (if op == .cas then [d.val] else []), ds := [d.val] } do
    releasing os
    acquiring os
    let n := amoWidth op ty
    let q ← checkPerm p true true
    require (q.addr % (n / 8) == 0) cALIGN (q.addr % 8) (some p)
    let found ← atOff p 0 do
      let k ← access p 0 (n / 8) 1 true true false
      k.forM fun k => discard (phys k aW)
      pure k
    let x := (← readS b.val).toNat % 2 ^ n
    let e ← if op == .cas then do pure ((← readS d.val).toNat % 2 ^ n) else pure 0
    match found with
    | none => writeS d.val 0
    | some k =>
      let s ← get
      let me ← me
      let reply := if d.val == 24 then none else some (me.replySlot d.val)
      let h : HOp := .amo op ty q (BitVec.ofNat 64 x) (BitVec.ofNat 64 e) reply me.part.toNat me.launch
      set (s.request s.core s.ctx me.actId (s.ownerOf k) me.prio (.handler h) (.refusal s.reqNext) 5 (isRel os))
      modMe fun c =>
        { c with
          replies := c.replies ++ reply.toList
          acq := if isAcq os then some s.reqNext else c.acq
          fadds := if op == .fadd && reply.isSome then c.fadds + 1 else c.fadds }
    pure .seq) s

/-- AMOADD (R330). -/
def execAmoadd (d : R5) (p : Pr) (b : Sc) (os : Fin 16) (ty : Fin 4) : State → Out :=
  amoUnit (.amoadd d p b os ty) .add d p b os ty
/-- AMOFADD (R331). -/
def execAmofadd (d : R5) (p : Pr) (b : Sc) (os : Fin 16) (ty : Fin 4) : State → Out :=
  amoUnit (.amofadd d p b os ty) .fadd d p b os ty
/-- AMOMIN (R330). -/
def execAmomin (d : R5) (p : Pr) (b : Sc) (os : Fin 16) (ty : Fin 4) : State → Out :=
  amoUnit (.amomin d p b os ty) .min d p b os ty
/-- AMOMAX (R330). -/
def execAmomax (d : R5) (p : Pr) (b : Sc) (os : Fin 16) (ty : Fin 4) : State → Out :=
  amoUnit (.amomax d p b os ty) .max d p b os ty
/-- AMOSWP (R330). -/
def execAmoswp (d : R5) (p : Pr) (b : Sc) (os : Fin 16) (ty : Fin 4) : State → Out :=
  amoUnit (.amoswp d p b os ty) .swp d p b os ty
/-- AMOCAS (R330). -/
def execAmocas (d : R5) (p : Pr) (b : Sc) (os : Fin 16) (ty : Fin 4) : State → Out :=
  amoUnit (.amocas d p b os ty) .cas d p b os ty
/-- AMOLOG and (R330). -/
def execAmologAnd (d : R5) (p : Pr) (b : Sc) (os : Fin 16) (ty : Fin 4) : State → Out :=
  amoUnit (.amologAnd d p b os ty) .and d p b os ty
/-- AMOLOG or (R330). -/
def execAmologOr (d : R5) (p : Pr) (b : Sc) (os : Fin 16) (ty : Fin 4) : State → Out :=
  amoUnit (.amologOr d p b os ty) .or d p b os ty
/-- AMOLOG xor (R330). -/
def execAmologXor (d : R5) (p : Pr) (b : Sc) (os : Fin 16) (ty : Fin 4) : State → Out :=
  amoUnit (.amologXor d p b os ty) .xor d p b os ty

/-! ## Service (R323, R329) -/

/-- An atomic is performed on its word: the old value, the flags, and whether the word, or its object's header, has an
uncorrectable error (R233). -/
def performAmo (op : AmoOp) (ty : Fin 4) (p : PReg) (part x e : Nat) : M (Nat × Flags × Bool) :=
  let work : M (Nat × Flags × Bool) := do
    let (k, o) ← locateUp (p.key part)
    if (o.map fun h => h.2.state == stDead).getD false then pure (0, 0, false)
    else
      let n := amoWidth op ty / 8
      let old ← readNat k n
      let (v, f) := amoApply op ty old x e
      writeRaw k (bytesOf n v)
      bumpVersion k
      pure (old, f, false)
  tryCatch work fun
    | .rollback _ _ => pure (0, 0, true)
    | e => throw e

/-- The head of a core's handler queue leaves it: its slot frees, context 7 has used its turn (R323), and what waits for
it comes forward: handler activations that it stood before, and requests of its issuer's activation (R256, R334). -/
def State.serveHead (s : State) (c : Nat) (e : HEntry) : State :=
  let s := s.updCore c fun k =>
    { k with handler := k.handler.filter fun h => h.id != e.id, last := 7, owes := false }
  ((s.freed (.handler c)).later 1 (.dispatch c)).wakeOps e.actId

/-- ATOMIC_SERVICE (R323, R329): the owner performs the atomic at the head of its handler queue. A page that has
gone is asked for, and the atomic waits for it, also after the end of its activation (R388). -/
def execAtomicService (core : Fin 1024) (s : State) : Out :=
  let c := core.val
  match (s.coreAt c).handler with
  | [] => .next s
  | e :: _ => match e.op with
    | .arrive _ _ _ _ => .next s
    | .amo op ty p x y reply part launch =>
      match M.as e.core e.ctx (performAmo op ty p part x.toNat y.toNat) s with
      | .ok (old, f, bad) t =>
        let t := t.serveHead c e
        match reply, bad with
        | none, false => .next (t.updLaunch launch fun l => { l with fp := l.fp ||| f })
        | _, _ =>
          let a : Answered := { ctx := e.ctx, actId := e.actId, slot := reply.getD (2 ^ 50)
                                value := amoReply op ty old, flags := f, fadd := op == .fadd, bad }
          .next ((t.updCore e.core fun k => { k with answers := k.answers ++ [a] }).later 5
            (.atomicReply e.core e.ctx.val))
      | .error (.page k need _ _) _ =>
        let q := s.ctxAt e.core e.ctx
        .next (if q.actId != e.actId then s.askPage k need else s.enginePage e.core e.ctx k need)
      | .error _ _ => .next s

/-- Entry n of a list of frames, with register i written. -/
def setFrame (fs : List (Vector DWord 16)) (n i : Nat) (v : DWord) : List (Vector DWord 16) :=
  fs.modify n fun f => f.set (Fin.ofNat 16 i).val v (Fin.ofNat 16 i).isLt

/-- A reply reaches its register: in the window, in a frame below it, or in the spill object (R56, R332). -/
def State.writeReply (s : State) (c : Nat) (x : Fin 8) (slot : Nat) (v : DWord) : State :=
  let q := s.ctxAt c x
  let base := 16 * (q.below.length + q.spilltop.toNat)
  let run := fun (m : M Unit) => match M.as c x m s with
    | .ok _ t => t
    | .error _ _ => s
  if 2 ^ 40 ≤ slot then run (putReg (slot - 2 ^ 40) v)
  else if base ≤ slot then
    if slot < base + 24 then run (putReg (slot - base) v) else s
  else if q.spilltop.toNat ≤ slot / 16 then run do
    let v ← encoded 3 (regCode x.val slot 0).2 64 v
    modMe fun q => { q with below := setFrame q.below (slot / 16 - q.spilltop.toNat) (slot % 16) v }
  else s.enginePut q.spill q.part.toNat (128 * (slot / 16) + 8 * (slot % 16)) (bytesOf 8 v.toNat) none (postSrc c x)

/-- ATOMIC_REPLY (R331, R332): the oldest reply of a context writes its register; after the end of its activation
it is discarded. A poisoned word rolls the requester back (R233). -/
def execAtomicReply (core : Fin 1024) (ctx : Fin 8) (s : State) : Out :=
  let c := core.val
  match (s.coreAt c).answers.find? (·.ctx == ctx) with
  | none => .next s
  | some a =>
    let s := s.updCore c fun k => { k with answers := k.answers.erase a }
    let q := s.ctxAt c ctx
    if q.actId != a.actId || q.run == .free then .next s
    else if a.bad then .next (s.rollback c ctx cECC q.pc.toNat 0)
    else
      let s := s.writeReply c ctx a.slot a.value
      .next (s.updCtx c ctx fun q =>
        { q with
          replies := q.replies.erase a.slot
          fadds := if a.fadd then q.fadds - 1 else q.fadds
          fexc := q.fexc ||| a.flags })

/-! ## Groups (R333, R334) -/

/-- The group and the generation of GBAR's and GWAIT's operand. -/
def groupOperand (a : Nat) : M (Nat × Word) := do
  let v ← readS a
  require (fld v.toNat 8 24 == 0) cILLEGAL
  pure (fld v.toNat 0 8, BitVec.ofNat 32 (fld v.toNat 32 32))

/-- GBAR (R334): the arrival goes to the record's home. -/
def execGbar (a : Sc) : State → Out :=
  unit (.gbar a) (using_ { ss := [a.val] } do
    let (g, e) ← groupOperand a.val
    let s ← get
    let q ← me
    set (s.request s.core s.ctx q.actId (s.groupHome g) q.prio
      (.handler (.arrive q.launch (BitVec.ofNat 8 g) e q.wuid)) (.refusal s.reqNext) 6 true)
    pure .seq)

/-- GWAIT (R334). -/
def execGwait (a : Sc) : State → Out :=
  unit (.gwait a) (using_ { ss := [a.val] } do
    afterRels
    let (g, e) ← groupOperand a.val
    let q ← me
    let v := SMap.get {} (← get).pkg.groups (groupKey q.launch g)
    if q.latch.isSome || genPassed v.gen.toNat e.toNat then pure .seq
    else throw (.park (.group g e) 0))

/-- A WUID is in a group's member set (R372). -/
def Group.isMember (v : Group) (w : Nat) : Bool :=
  v.terms.any fun (first, last, stride) => stride != 0 && first ≤ w && w ≤ last && (w - first) % stride == 0

/-- An arrival at a group's record (R334). -/
def Group.arriveAt (v : Group) (gen : Word) (w : Nat) : Group :=
  if v.members == 0 || !v.isMember w || gen != v.gen then
    { v with stray := if v.stray == 0xFFFFFFFF#32 then v.stray else v.stray + 1 }
  else if v.arrived + 1 == v.members then { v with gen := v.gen + 1, arrived := 0 }
  else { v with arrived := v.arrived + 1 }

/-- A context waits for a group record. -/
def State.waitsFor (s : State) (c : Nat) (x : Fin 8) (key : Nat) : Bool :=
  let q := s.ctxAt c x
  match q.run with
  | .waiting w => match w.need with
    | .group g _ => groupKey q.launch g == key
    | _ => false
  | _ => false

/-- Waiters of a group whose generation has passed are granted in arrival order. -/
def State.grantGroup (s : State) (key : Nat) : State :=
  let v := SMap.get {} s.pkg.groups key
  let done := v.waiters.filter fun w => genPassed v.gen.toNat w.2.2
  let rest := { v with waiters := v.waiters.filter fun w => !genPassed v.gen.toNat w.2.2 }
  let s := s.updPkg fun p => { p with groups := SMap.put p.groups key rest }
  (done.filter fun w => s.waitsFor w.1 w.2.1 key).foldl (fun s w =>
    s.updCtx w.1 w.2.1 fun q => { q with run := .live, latch := some [] }) s

/-- GROUP_ARRIVAL (R334): the arrival at the head of a handler queue is performed. -/
def execGroupArrival (core : Fin 1024) (s : State) : Out :=
  let c := core.val
  match (s.coreAt c).handler with
  | [] => .next s
  | e :: _ => match e.op with
    | .amo _ _ _ _ _ _ _ _ => .next s
    | .arrive launch g gen wuid =>
      let s := s.serveHead c e
      if (s.launch? launch).isNone then .next s else
      let key := groupKey launch g.toNat
      let v := (SMap.get {} s.pkg.groups key).arriveAt gen wuid.toNat
      .next ((s.updPkg fun p => { p with groups := SMap.put p.groups key v }).grantGroup key)

/-! ## Re-checks and park timers (R182, R184, R334) -/

/-- A waiting access is granted: its unit re-issues and completes from what was read. -/
def State.granted (s : State) (c : Nat) (x : Fin 8) (vs : List Nat) : State :=
  (s.updCtx c x fun q => { q with run := .live, latch := some vs }).settled

/-- A re-check that has failed: fewer are left, or the waiter parks; a spinner takes a node that has freed. -/
def State.checkFailed (s : State) (c : Nat) (x : Fin 8) (w : Waiter) : State :=
  let (n, e) := w.need.again c x
  match w.phase with
  | .spin k => if k ≤ 1 then s.park c x w else (s.later n e).setWait c x { w with phase := .spin (k - 1) }
  | .spinner => match s.takeNode c x w.need with
    | some t => t.setWait c x { w with phase := .parked }
    | none => (s.later n e).setWait c x w
  | .parked => s

/-- A waiting access is re-checked at its home; a COPYW only counts its re-checks in context 7 (R324). -/
def Need.rechecked : Need → Bool
  | .job _ => true
  | need => need.ptr.isSome

/-- FE_RECHECK (R182): a spinning access tests its condition at the home. What the test fills stays filled (R249). -/
def execFeRecheck (core : Fin 1024) (ctx : Fin 8) (s : State) : Out :=
  let c := core.val
  match (s.ctxAt c ctx).run with
  | .waiting w =>
    if w.phase == .parked || !w.need.rechecked then .next s else
    match M.as c ctx (tryNeed c ctx w.need) s with
    | .ok (.ok vs) t => .next (t.granted c ctx vs)
    | .ok (.error o) t => .next (t.settled.checkFailed c ctx { w with failed := o })
    | .error (.wait _) _ => .next (s.later 8 (.recheck c ctx.val))
    | .error _ _ => .next (s.updCtx c ctx fun q => { q with run := .live })
  | _ => .next s

/-- GWAIT_RECHECK (R334): a spinning GWAIT tests the record at its home. -/
def execGwaitRecheck (core : Fin 1024) (ctx : Fin 8) (s : State) : Out :=
  let c := core.val
  let q := s.ctxAt c ctx
  match q.run with
  | .waiting w => match w.need, w.phase with
    | .group _ _, .parked => .next s
    | .group g e, _ =>
      let v := SMap.get {} s.pkg.groups (groupKey q.launch g)
      .next (if genPassed v.gen.toNat e.toNat then s.granted c ctx [] else s.checkFailed c ctx w)
    | _, _ => .next s
  | _ => .next s

/-- FE_PARK_TIMEOUT (R182): the park limit of a parked access, or of a spinner, has passed. -/
def execFeParkTimeout (core : Fin 1024) (ctx : Fin 8) (s : State) : Out :=
  let c := core.val
  let q := s.ctxAt c ctx
  match q.run with
  | .waiting w => match w.phase with
    | .spin _ => .next s
    | _ =>
      if w.since + q.parkCk ≤ s.ck then .next (s.feBudget c ctx w)
      else .next (s.soon (w.since + q.parkCk - s.ck) (.parkTimeout c ctx.val))
  | _ => .next s

end Sys2Proof.Machine
end

