-- ==== Sys2Proof/Machine/Inbound.lean ====
section
/-! DEFINITION. Inbound host writes (18 R367, R368; 21 R410-R414): the windows, and the landing of a write's steps. -/

namespace Sys2Proof.Machine

/-- Window w. -/
def windowOf (m : SMap (PReg × DWord)) (w : Nat) : PReg × DWord := SMap.get (.null, 0) m w

/-- A write of index 0x100 + 4w + j changes a window: its pointer's low half, its high half, or its control. -/
def windowPut (m : SMap (PReg × DWord)) (idx v : Nat) : SMap (PReg × DWord) :=
  let w := (idx - 0x100) / 4
  let (p, c) := windowOf m w
  match idx % 4 with
  | 0 => SMap.put m w ({ p.setF 0 64 v with tag := false }, c)
  | 1 => SMap.put m w ({ p.setF 64 64 v with tag := true }, c)
  | 2 => SMap.put m w (p, BitVec.ofNat 64 v &&& 0xFFFFFFFF00000007)
  | _ => m

/-- The window that a write in BAR4 addresses (R367). -/
def HostWrite.win (w : HostWrite) : Nat := fld w.off 26 6
/-- Its first byte in the window. -/
def HostWrite.start (w : HostWrite) : Nat := fld w.off 0 26

/-- A write's bytes may land (R367, R410, R412). -/
def HostWrite.usable (w : HostWrite) (s : State) : Bool :=
  !w.poisoned && bit w.ctl.toNat 0 && !bit w.ctl.toNat 2 && w.ptr.tag && !s.malformed w.ptr && w.ptr.w

/-- How many of its bytes land: those below the pointer's len. -/
def HostWrite.keep (w : HostWrite) (s : State) : Nat := if w.usable s then min w.data.length (w.ptr.len - w.start) else 0

/-- The bytes of its next landing step, cut at 64-byte boundaries of the window offset (R411). -/
def HostWrite.stepLen (w : HostWrite) : Nat := min (64 - (w.start + w.landed) % 64) (w.total - w.landed)

/-- Bytes dropped, or read out of range, are counted (R367). -/
def State.countDrop (s : State) (win n : Nat) : State :=
  if n == 0 then s else s.updPkg fun p =>
    let (q, c) := windowOf p.windows win
    let v := setFld c.toNat 32 32 (min (fld c.toNat 32 32 + n) (2 ^ 32 - 1))
    { p with windows := SMap.put p.windows win (q, BitVec.ofNat 64 v) }

/-- The write that lands now on a route. -/
def State.landingOn (s : State) (route : Fin 5) : Option HostWrite :=
  s.pkg.orderQ.find? fun w => w.released && w.route == some route &&
    (if w.bar4 then w.landed < w.total else w.landed == 0)

/-- The first entry of the queue that is w becomes v. -/
def State.setLanding (s : State) (w v : HostWrite) : State :=
  s.updPkg fun p => { p with orderQ := p.orderQ.replace w v }

/-- A step of a write has been performed, or dropped: the next follows, or the acknowledgement comes 40 ck later. -/
def State.stepDone (s : State) (route : Fin 5) (w : HostWrite) (n : Nat) : State :=
  let v := { w with landed := w.landed + n }
  let s := s.setLanding w v
  if v.landed < v.total then s.later 1 (.landing route.val) else (s.later 40 (.ack route.val)).later 1 (.landing route.val)

/-- The next step of a write is performed at its home (R411, R413, R414); with fill, its words become full. It is held
while a sift of its pad runs (R179, R300). Bytes that the window's object has lost since the write was released are
dropped and counted (R61, R367). -/
def landStep (w : HostWrite) : M Unit := do
  let n := min w.stepLen (w.keep (← get) - w.landed)
  modify fun s => s.countDrop w.win (w.stepLen - n)
  if n == 0 then return
  let (k, _) ← locateUp (w.ptr.key 0 + w.start + w.landed)
  if ((← get).padOf k).elim false (← get).siftRuns then wait sREMOTE
  putBytes k ((w.data.drop w.landed).take n) (if bit w.ctl.toNat 1 then some true else none)
  bumpVersion k
  modify State.settled

/-- A landing step waits for its page. -/
def State.landingFaults (s : State) (route : Nat) : Bool :=
  s.dies.toList.any fun v => v.stks.toList.any fun q => (q.faults ++ q.waiting).any fun f => f.who == .landing route

/-- A landing step that cannot be performed is dropped, and its bytes are counted (R413, R233). -/
def State.dropStep (s : State) (route : Nat) : State :=
  let r : Fin 5 := Fin.ofNat 5 route
  match s.landingOn r with
  | some w => (s.countDrop w.win w.stepLen).stepDone r w w.stepLen
  | none => s

/-- The next landing step on a route 0-3; at an object whose header has an uncorrectable error it is dropped, as a
refused one is (log 51). -/
def State.land (s : State) (route : Fin 5) (w : HostWrite) : State :=
  match M.filled (landStep w) s with
  | .ok _ t => t.stepDone route w w.stepLen
  | .error (.page k need _ _) _ =>
    if s.landingFaults route.val then s else s.pageFault k need 0 (.landing route.val)
  | .error (.rollback _ _) _ => s.dropStep route.val
  | .error _ _ => s.soon 8 (.landing route.val)

/-- A load fails (R361). -/
def State.failLoad (s : State) (code rec_ : Nat) : State :=
  s.updPkg fun p => { p with loading := none, ldcmd := BitVec.ofNat 64 (6 + code * 2 ^ 8 + rec_ % 2 ^ 32 * 2 ^ 32) }

/-- The load engine's page is refused: no room where an entry places its object, or else an image that cannot be
read. -/
def State.refuseLoad (s : State) : State :=
  match s.pkg.loading with
  | none => s
  | some l => match l.step with
    | .object k => s.failLoad 4 k
    | .reloc k => s.failLoad 5 k
    | _ => s.failLoad 6 0

end Sys2Proof.Machine
end

