-- ==== Sys2Proof/Machine/Register.lean ====
section
/-! DEFINITION. The registers of the management interface by offset (18 R360): what each reads, and the storing of a
value that has no further behaviour. -/

namespace Sys2Proof.Machine

/-! ## Offsets (R360) -/

/-- idx [14:3]. -/
def regIdx (off : Nat) : Nat := fld off 3 12
/-- The core, 0-1023, of an offset at core scope. -/
def regCore (off : Nat) : Nat := fld off 15 10
/-- The cluster, 0-63, of an offset at cluster scope. -/
def regClu (off : Nat) : Nat := fld off 19 6
/-- The die of an offset at die scope. -/
def regDie (off : Nat) : Nat := fld off 23 2
/-- scope [26:25]. -/
def regScope (off : Nat) : Nat := fld off 25 2
/-- The offset of a register. -/
def regOff (scope place idx : Nat) : Nat := match scope with
  | 0 => place * 2 ^ 15 + idx * 8
  | 1 => 2 ^ 25 + place * 2 ^ 19 + idx * 8
  | 2 => 2 ^ 26 + place * 2 ^ 23 + idx * 8
  | _ => 3 * 2 ^ 25 + idx * 8

/-- Dword i of a number. -/
def dwordAt (x i : Nat) : Nat := fld x (64 * i) 64

/-- A pointer register with a half written (R360): the low half untags it, and the high half tags it. -/
def PReg.setHalf (p : PReg) (high : Bool) (v : Nat) : PReg :=
  if high then { p.setF 64 64 v with tag := true } else { p.setF 0 64 v with tag := false }

/-- A half of a pointer. -/
def PReg.half (p : PReg) (i : Nat) : Nat := dwordAt p.bits.toNat i

/-! ## Pads (R169, R296, R303) -/

/-- Register j of a pad: the eight of R169, ownership, and the census. -/
def PadRegs.get (p : PadRegs) (j : Nat) : Nat := match j with
  | 0 => p.lo
  | 1 => p.hi
  | 2 => p.hwm
  | 3 => p.bump
  | 4 => p.pinLo
  | 5 => p.pinHi
  | 6 => p.pinBump
  | 7 => p.rootTab
  | 8 => p.owner.toNat
  | 9 => p.live.toNat + fld p.pin.toNat 0 24 * 2 ^ 40
  | 10 => fld p.pin.toNat 24 16
  | 11 => p.time.toNat
  | _ => 0

/-- Register j of a pad becomes v. -/
def PadRegs.put (p : PadRegs) (j v : Nat) : PadRegs := match j with
  | 0 => { p with lo := v }
  | 1 => { p with hi := v }
  | 2 => { p with hwm := v }
  | 3 => { p with bump := v }
  | 4 => { p with pinLo := v }
  | 5 => { p with pinHi := v }
  | 6 => { p with pinBump := v }
  | 7 => { p with rootTab := v }
  | 8 => { p with owner := BitVec.ofNat 5 v }
  | 9 => { p with live := BitVec.ofNat 40 v, pin := BitVec.ofNat 40 (setFld p.pin.toNat 0 24 (fld v 40 24)) }
  | 10 => { p with pin := BitVec.ofNat 40 (setFld p.pin.toNat 24 16 v) }
  | 11 => { p with time := BitVec.ofNat 64 v }
  | _ => p

/-- The location bits that the registers of a pad hold: [19:5], [24:5] or [27:5]. -/
def padMask (i : Nat) : Nat := if i < 1024 then 0xFFFE0 else if i < 2048 then 0x1FFFFE0 else 0xFFFFFE0

/-- A write of pad register j, 0-7, of pad i (R169): PADLO sets PADBUMP, and PINLO sets PINBUMP. -/
def State.writePad (s : State) (i j v : Nat) : State :=
  let x := v &&& padMask i
  let put := fun (s : State) (j : Nat) =>
    if i < 1024 then s.setCoreReg i j x else s.setPad i ((s.pad i).put j x)
  let s := put s j
  if j == 0 then put s 3 else if j == 4 then put s 6 else s

/-! ## Reading -/

/-- CORECTL (R352). -/
def Core.ctl (k : Core) : Nat :=
  k.stopping.toNat + k.stopped.toNat * 2 + k.stopCause.bph.toNat * 4 + k.stopCause.bpi.toNat * 8

/-- The core-scope registers that stand as they were written. -/
def keptCore (i : Nat) : Bool :=
  i ≤ 0x14 && (i < 8 || 0x10 ≤ i) || 0x18 ≤ i && i < 0x1B || 0x20 ≤ i && i < 0x2C && i != 0x23 ||
    0x30 ≤ i && i ≤ 0x3A || 0x40 ≤ i && i < 0x44

/-- A counter that is read comes up to date (R338, R341). -/
def State.tallied (s : State) (off : Nat) : State :=
  let i := regIdx off
  if regScope off != 0 then s
  else if 0x2C ≤ i && i ≤ 0x2E then s.tallyCore (regCore off)
  else if 0x400 ≤ i && i < 0x600 then s.tallyCtx (regCore off) (Fin.ofNat 8 ((i - 0x400) / 64))
  else s

/-- A core-scope register. -/
def State.coreValue (s : State) (c i : Nat) : Nat :=
  let k := s.coreAt c
  if keptCore i then s.coreReg c i
  else if i == 0x1B then if k.resumeHeld.isSome then 2 ^ 63 else 0
  else if i == 0x23 then k.ctl
  else if i == 0x2C then k.runck.toNat
  else if i == 0x2D then k.searchck.toNat
  else if i == 0x2E then k.idleck.toNat
  else if 0x400 ≤ i && i < 0x600 && i % 64 < 16 then
    (SMap.get 0 (k.ctxs[Fin.ofNat 8 ((i - 0x400) / 64)]).stalls (i % 64)).toNat
  else 0

/-- A cluster-scope register. -/
def State.cluValue (s : State) (k i : Nat) : Nat :=
  if i < 12 then (s.cluAt k).pad.get i
  else if i == 0x10 then (s.cluAt k).cluerr.toNat
  else if i == 0x11 then (s.cluAt k).capfault.toNat
  else 0

/-- A die-scope register. -/
def State.dieValue (s : State) (d i : Nat) : Nat :=
  let v := s.dieAt d
  let arena := (i - 0x100) / 2
  let st := fun n => v.stks[Fin.ofNat 3 n]
  if i == 0 then v.cmd.toNat
  else if i == 1 then v.dbg.toNat
  else if i == 2 then v.hnd.toNat
  else if i == 8 || i == 9 then v.sqbase.half (i - 8)
  else if i == 0xA then v.sqhead.toNat
  else if i == 0xB then v.sqtail.toNat
  else if i == 0xC then v.sqovf.toNat
  else if i == 0xD then v.pageans.toNat
  else if 0x40 ≤ i && i < 0xC0 then v.regs[Fin.ofNat 8 ((i - 0x40) / 16)].get (i % 16)
  else if 0x100 ≤ i && i < 0x160 then
    SMap.get 0 (if i % 2 == 0 then (st (arena % 3)).hbump else (st (arena % 3)).hend) (arena / 3)
  else if 0x180 ≤ i && i < 0x1B0 then (SMap.get 0 (st ((i - 0x180) % 3)).turoot ((i - 0x180) / 3)).toNat
  else 0

/-- CLKSTAT, PWRSTAT and the rest of the package's own words. -/
def Package.pwrstat (p : Package) : Nat := p.pwravg.toNat + p.pwrp.toNat * 2 ^ 12 + p.pwrn.toNat * 2 ^ 32

/-- A register of host queue h (R369). -/
def HostQueue.get (q : HostQueue) (j : Nat) : Nat := match j with
  | 0 => q.base.toNat
  | 1 => q.size.toNat
  | 2 => q.head.toNat
  | 3 => q.tail.toNat
  | 4 => q.key.toNat
  | _ => 0

/-- Register j of a host queue becomes v. -/
def HostQueue.put (q : HostQueue) (j v : Nat) : HostQueue :=
  let x : DWord := BitVec.ofNat 64 v
  match j with
  | 0 => { q with base := x }
  | 1 => { q with size := x }
  | 2 => { q with head := x }
  | 3 => { q with tail := x }
  | 4 => { q with key := x }
  | _ => q

/-- A package-scope register outside recovery. -/
def Package.value (p : Package) (i : Nat) : Nat :=
  if 0x10 ≤ i && i < 0x20 then dwordAt p.premask.toNat (i - 0x10)
  else if 0x31 ≤ i && i < 0x36 then dwordAt p.pkgmap.toNat (i - 0x31)
  else if 0x40 ≤ i && i < 0x64 then p.ports[Fin.ofNat 36 (i - 0x40)].reg.toNat
  else if 0x68 ≤ i && i < 0x78 then p.eports[Fin.ofNat 16 (i - 0x68)].toNat
  else if 0x80 ≤ i && i < 0x90 then p.ddlinks[Fin.ofNat 16 (i - 0x80)].toNat
  else if 0xA0 ≤ i && i < 0xB0 then dwordAt p.ldmask.toNat (i - 0xA0)
  else if 0x100 ≤ i && i < 0x200 then
    let (q, c) := windowOf p.windows ((i - 0x100) / 4)
    match i % 4 with
    | 0 => q.half 0
    | 1 => q.half 1
    | 2 => c.toNat
    | _ => 0
  else if 0x800 ≤ i then (SMap.get {} p.hostq ((i - 0x800) / 8)).get (i % 8)
  else match i with
    | 0x00 => p.clkstep.toNat
    | 0x01 => p.clkstat.toNat
    | 0x02 => p.qtbase.half 0
    | 0x03 => p.qtbase.half 1
    | 0x04 => p.qdoor.toNat
    | 0x05 => p.precmd.toNat
    | 0x06 => p.cancelq.toNat
    | 0x08 => p.abandon.half 0
    | 0x09 => p.abandon.half 1
    | 0x20 => p.bootstat.toNat
    | 0x21 => p.alarmctl.toNat
    | 0x22 => p.attaddr.toNat
    | 0x23 => p.attcmd.toNat
    | 0x24 => p.alarmlog.toNat
    | 0x25 => p.pkgerr.toNat
    | 0x26 => p.ckptcmd.toNat
    | 0x27 => p.pwrlim.toNat
    | 0x28 => p.pwrstat
    | 0x30 => p.pkgid.toNat
    | 0x78 => p.sotbase.half 0
    | 0x79 => p.sotbase.half 1
    | 0x7A => p.ckpttgt.half 0
    | 0x7B => p.ckpttgt.half 1
    | 0x7C => p.soctl.toNat
    | 0xB0 => p.ldimg.half 0
    | 0xB1 => p.ldimg.half 1
    | 0xB2 => p.ldcmd.toNat
    | _ => 0

/-- What recovery serves: BOOTSTAT and the mailbox (R398, R399). -/
def Package.mailbox (p : Package) (i : Nat) : Nat := match i with
  | 0x20 => p.bootstat.toNat
  | 0x29 => p.rcvaddr.toNat
  | 0x2A => p.rcvlen.toNat
  | 0x2B => p.rcvcmd.toNat
  | 0x2C => p.rcvstat.toNat
  | _ => 0

/-- The value that a register reads (R360); unlisted indices read zero. -/
def State.regValue (s : State) (off : Nat) : Nat :=
  let i := regIdx off
  match regScope off with
  | 0 => if s.pkg.recovery then 0 else s.coreValue (regCore off) i
  | 1 => if s.pkg.recovery then 0 else s.cluValue (regClu off) i
  | 2 => if s.pkg.recovery then 0 else s.dieValue (regDie off) i
  | _ => if s.pkg.recovery then s.pkg.mailbox i else s.pkg.value i

/-! ## Storing -/

/-- A core-scope register of two indices: the index of its low half. -/
def corePointer (i : Nat) : Option Nat :=
  if i == 0x10 || i == 0x11 then some 0x10 else if i == 0x18 || i == 0x19 then some 0x18
  else if i == 0x28 || i == 0x29 then some 0x28 else none

/-- A core-scope register holds v. -/
def State.putCoreReg (s : State) (c i v : Nat) : State :=
  match corePointer i with
  | some lo => s.setCoreptr c lo ((s.coreptr c lo).setHalf (i != lo) v)
  | none =>
    if keptCore i then s.setCoreReg c i v
    else if 0x400 ≤ i && i < 0x600 then
      s.updCtx c (Fin.ofNat 8 ((i - 0x400) / 64)) fun q =>
        { q with stalls := SMap.set 0 q.stalls (i % 64) (BitVec.ofNat 64 v) }
    else s.updCore c fun k =>
      if i == 0x2C then { k with runck := BitVec.ofNat 64 v }
      else if i == 0x2D then { k with searchck := BitVec.ofNat 64 v }
      else if i == 0x2E then { k with idleck := BitVec.ofNat 64 v }
      else k

/-- A cluster-scope register holds v. -/
def State.putCluReg (s : State) (k i v : Nat) : State := s.updClu k fun c =>
  if i < 12 then { c with pad := c.pad.put i v }
  else if i == 0x10 then { c with cluerr := BitVec.ofNat 64 v }
  else if i == 0x11 then { c with capfault := BitVec.ofNat 32 v }
  else c

/-- A die-scope register holds v. -/
def State.putDieReg (s : State) (d i v : Nat) : State :=
  let x : DWord := BitVec.ofNat 64 v
  let arena := (i - 0x100) / 2
  if 0x40 ≤ i && i < 0xC0 then
    let r := Fin.ofNat 8 ((i - 0x40) / 16)
    s.updDie d fun v' => { v' with regs := v'.regs.set r.val (v'.regs[r].put (i % 16) v) r.isLt }
  else if 0x100 ≤ i && i < 0x160 then
    s.updStack d (arena % 3) fun q =>
      if i % 2 == 0 then { q with hbump := SMap.set 0 q.hbump (arena / 3) v }
      else { q with hend := SMap.set 0 q.hend (arena / 3) v }
  else if 0x180 ≤ i && i < 0x1B0 then
    s.updStack d ((i - 0x180) % 3) fun q => { q with turoot := SMap.set 0 q.turoot ((i - 0x180) / 3) x }
  else s.updDie d fun v' => match i with
    | 0x0 => { v' with cmd := x }
    | 0x1 => { v' with dbg := x }
    | 0x2 => { v' with hnd := x }
    | 0x8 => { v' with sqbase := v'.sqbase.setHalf false v }
    | 0x9 => { v' with sqbase := v'.sqbase.setHalf true v }
    | 0xA => { v' with sqhead := x }
    | 0xB => { v' with sqtail := x }
    | 0xC => { v' with sqovf := x }
    | 0xD => { v' with pageans := x }
    | _ => v'

/-- A package-scope register holds v. -/
def Package.put (p : Package) (i v : Nat) : Package :=
  let x : DWord := BitVec.ofNat 64 v
  if 0x10 ≤ i && i < 0x20 then { p with premask := BitVec.ofNat 1024 (setFld p.premask.toNat (64 * (i - 0x10)) 64 v) }
  else if 0x31 ≤ i && i < 0x36 then
    { p with pkgmap := BitVec.ofNat 288 (setFld p.pkgmap.toNat (64 * (i - 0x31)) 64 v) }
  else if 0x40 ≤ i && i < 0x64 then
    let n := Fin.ofNat 36 (i - 0x40)
    { p with ports := p.ports.set n.val { p.ports[n] with reg := x } n.isLt }
  else if 0x68 ≤ i && i < 0x78 then
    let n := Fin.ofNat 16 (i - 0x68)
    { p with eports := p.eports.set n.val x n.isLt }
  else if 0x80 ≤ i && i < 0x90 then
    let n := Fin.ofNat 16 (i - 0x80)
    { p with ddlinks := p.ddlinks.set n.val x n.isLt }
  else if 0xA0 ≤ i && i < 0xB0 then { p with ldmask := BitVec.ofNat 1024 (setFld p.ldmask.toNat (64 * (i - 0xA0)) 64 v) }
  else if 0x100 ≤ i && i < 0x200 then { p with windows := windowPut p.windows i v }
  else if 0x800 ≤ i then
    let h := (i - 0x800) / 8
    { p with hostq := SMap.put p.hostq h ((SMap.get {} p.hostq h).put (i % 8) v) }
  else match i with
    | 0x00 => { p with clkstep := BitVec.ofNat 5 v }
    | 0x01 => { p with clkstat := x }
    | 0x02 => { p with qtbase := p.qtbase.setHalf false v }
    | 0x03 => { p with qtbase := p.qtbase.setHalf true v }
    | 0x04 => { p with qdoor := x }
    | 0x05 => { p with precmd := x }
    | 0x06 => { p with cancelq := x }
    | 0x08 => { p with abandon := p.abandon.setHalf false v }
    | 0x09 => { p with abandon := p.abandon.setHalf true v }
    | 0x20 => { p with bootstat := x }
    | 0x21 => { p with alarmctl := x }
    | 0x22 => { p with attaddr := x }
    | 0x23 => { p with attcmd := x }
    | 0x24 => { p with alarmlog := x }
    | 0x25 => { p with pkgerr := x }
    | 0x26 => { p with ckptcmd := x }
    | 0x27 => { p with pwrlim := BitVec.ofNat 12 v }
    | 0x28 => { p with pwravg := BitVec.ofNat 12 v, pwrp := BitVec.ofNat 5 (fld v 12 5), pwrn := BitVec.ofNat 32 (fld v 32 32) }
    | 0x29 => { p with rcvaddr := x }
    | 0x2A => { p with rcvlen := x }
    | 0x2B => { p with rcvcmd := x }
    | 0x2C => { p with rcvstat := x }
    | 0x30 => { p with pkgid := BitVec.ofNat 9 v }
    | 0x78 => { p with sotbase := p.sotbase.setHalf false v }
    | 0x79 => { p with sotbase := p.sotbase.setHalf true v }
    | 0x7A => { p with ckpttgt := p.ckpttgt.setHalf false v }
    | 0x7B => { p with ckpttgt := p.ckpttgt.setHalf true v }
    | 0x7C => { p with soctl := x }
    | 0xB0 => { p with ldimg := p.ldimg.setHalf false v }
    | 0xB1 => { p with ldimg := p.ldimg.setHalf true v }
    | 0xB2 => { p with ldcmd := x }
    | _ => p

/-- A register holds v, and nothing else happens. -/
def State.putReg (s : State) (off v : Nat) : State :=
  let i := regIdx off
  match regScope off with
  | 0 => s.putCoreReg (regCore off) i v
  | 1 => s.putCluReg (regClu off) i v
  | 2 => s.putDieReg (regDie off) i v
  | _ => s.updPkg fun p => p.put i v

end Sys2Proof.Machine
end

