-- ==== Sys2Proof/Machine/System.lean ====
section
/-! DEFINITION. Control and status registers (03 R58, 04 R89, R90), class control (04 R91), and the privileged
instructions that save, load and inspect contexts (04 R94-R97). -/

namespace Sys2Proof.Machine

/-! ## CSRs (R58) -/

/-- ACTSTAT (R58). -/
def Ctx.actstat (q : Ctx) : DWord :=
  BitVec.ofNat 64 (q.mode.toNat + 2 * q.oc.toNat + 4 * q.ts.toNat + 8 * q.hnd.toNat)

/-- CAPCORE, CAPCLU and CAPDIE of a die in KiB (R359). -/
def Die.cap (v : Die) (n : Nat) : DWord :=
  let half := if v.upper then 1 else 2
  BitVec.ofNat 64 ((if n == 0 then 1024 else if n == 1 then 16384 else 262144) / half)

/-- The value of CSR n of context x of the issuing core. -/
def csrRead (x : Fin 8) (n : Nat) : M DWord := do
  let s ← get
  let k := s.coreAt s.core
  let q := k.ctxs[x]
  if 0x200 ≤ n then
    let t := s.tallyCtx s.core x
    set t
    pure (if n < 0x210 then SMap.get 0 (t.ctxAt s.core x).stalls (n - 0x200) else 0)
  else if 0x110 ≤ n then pure ((s.dieAt (coreDie s.core)).cap (n - 0x110))
  else if 0x100 ≤ n then pure k.panes[Fin.ofNat 8 n]
  else pure <| match n with
    | 0x000 => q.classno.setWidth 64
    | 0x001 => q.routetag.setWidth 64
    | 0x002 => q.wuid.setWidth 64
    | 0x003 => q.prio.setWidth 64
    | 0x004 => q.sender.setWidth 64
    | 0x005 => q.msglen.setWidth 64
    | 0x006 => q.redel.setWidth 64
    | 0x007 => q.actstat
    | 0x008 => q.actstart
    | 0x009 => BitVec.ofNat 64 (s.ctxId s.core x)
    | 0x010 => s.pkg.time
    | 0x011 => q.hbudget
    | 0x020 => q.fexc.setWidth 64
    | 0x021 => q.srseed
    | 0x022 => q.rangeflag
    | 0x023 => BitVec.ofNat 64 q.rangectl.toNat
    | 0x024 => q.waitbudget
    | 0x025 => q.abfttol
    | 0x026 => q.jobdone
    | 0x027 => q.lcount.setWidth 64
    | 0x028 => q.lstart
    | 0x029 => q.lend
    | 0x02A => q.wb
    | 0x02B => q.wp
    | 0x030 => q.spilltop
    | 0x031 => q.spillcap
    | 0x040 => q.trapcause.setWidth 64
    | 0x041 => q.trappc
    | 0x042 => q.trapinst.setWidth 64
    | 0x043 => q.trapval
    | 0x044 => q.trapvec.setWidth 64
    | 0x045 => q.trapptr.setWidth 64
    | _ => 0

/-- The bits that WAITBUDGET, ABFTTOL, RANGEFLAG and PANECFG hold (R181, R232, R168, R113). -/
def maskWait : DWord := 0x0000FFFFFFFF0FFF
/-- ABFTTOL's bits. -/
def maskAbft : DWord := 0x000000000000FF3F
/-- RANGEFLAG's bits. -/
def maskRange : DWord := 0xFFFFFFFFFF7FFFFF
/-- PANECFG's bits. -/
def maskPane : DWord := 0x00000FFFFFF17F0F
/-- WB's and WP's bits (R209). -/
def maskWb : DWord := 0xFFFF0FFFFFFFFFFF
/-- WP's bits. -/
def maskWp : DWord := 0x00000001FF03FF1F

/-- A context with CSR n written (R89: bits that are res0 or above the width are not). Registers that hold no
value of their own are not. DESIGN CHOICE: LCOUNT, to which R58 gives no width, keeps the low 32 bits of what is written
(log 13). -/
def Ctx.putCsr (q : Ctx) (n : Nat) (v : DWord) : Ctx :=
  match n with
  | 0x000 => { q with classno := v.setWidth 8 }
  | 0x001 => { q with routetag := v.setWidth 32 }
  | 0x002 => { q with wuid := v.setWidth 24 }
  | 0x003 => { q with prio := v.setWidth 6 }
  | 0x004 => { q with sender := v.setWidth 22 }
  | 0x005 => { q with msglen := v.setWidth 9 }
  | 0x006 => { q with redel := v.setWidth 2 }
  | 0x007 => { q with mode := v.getLsbD 0, oc := v.getLsbD 1, ts := v.getLsbD 2, hnd := v.getLsbD 3 }
  | 0x008 => { q with actstart := v }
  | 0x011 => { q with hbudget := v }
  | 0x020 => { q with fexc := v.setWidth 5 }
  | 0x021 => { q with srseed := v }
  | 0x022 => { q with rangeflag := v &&& maskRange }
  | 0x023 => { q with rangectl := v.getLsbD 0 }
  | 0x024 => { q with waitbudget := v &&& maskWait }
  | 0x025 => { q with abfttol := v &&& maskAbft }
  | 0x026 => { q with jobdone := v }
  | 0x027 => { q with lcount := v.setWidth 32 }
  | 0x028 => { q with lstart := v }
  | 0x029 => { q with lend := v }
  | 0x02A => { q with wb := v &&& maskWb }
  | 0x02B => { q with wp := v &&& maskWp }
  | 0x030 => { q with spilltop := v }
  | 0x031 => { q with spillcap := v }
  | 0x040 => { q with trapcause := v.setWidth 8 }
  | 0x041 => { q with trappc := v }
  | 0x042 => { q with trapinst := v.setWidth 32 }
  | 0x043 => { q with trapval := v }
  | 0x044 => { q with trapvec := v.setWidth 16 }
  | 0x045 => { q with trapptr := v.setWidth 5 }
  | _ => q

/-- CSR n of context x of the issuing core is written. -/
def csrWrite (x : Fin 8) (n : Nat) (v : DWord) : M Unit :=
  modCore fun k =>
    if 0x100 ≤ n && n < 0x108 then
      { k with panes := k.panes.set (Fin.ofNat 8 n).val (v &&& maskPane) (Fin.ofNat 8 n).isLt }
    else k.setCtx x (k.ctxs[x].putCsr n v)

/-- CSRR (R89): of FEXC, it waits for the replies of AMOFADD (R90). -/
def execCsrr (d : Sc) (csr : BitVec 12) : State → Out :=
  unit (.csrr d csr) (unitS [] d.val do
    let s ← get
    if csr == 0x020 && (← me).fadds != 0 then wait sREMOTE
    csrRead s.ctx csr.toNat)

/-- A write of a CSR through f of its value and the operand; PRIV of an RP register (R89). One of FEXC waits for the
replies of AMOFADD, whose flags come first (R90, R101). -/
def csrModify (i : Instr) (d : Nat) (csr : BitVec 12) (f : DWord → DWord → DWord) (s : State) : Out :=
  unit i (using_ { ss := [d] } do
    let s ← get
    require (!csrPrivWrite csr || (← me).privileged) cPRIV
    if csr == 0x020 && (← me).fadds != 0 then wait sREMOTE
    let x ← readS d
    let old ← csrRead s.ctx csr.toNat
    csrWrite s.ctx csr.toNat (f old x)
    pure .seq) s

/-- CSRW (R89). -/
def execCsrw (d : Sc) (csr : BitVec 12) : State → Out := csrModify (.csrw d csr) d.val csr fun _ x => x
/-- CSRSET (R89). -/
def execCsrset (d : Sc) (csr : BitVec 12) : State → Out :=
  csrModify (.csrset d csr) d.val csr fun o x => o ||| x
/-- CSRCLR (R89). -/
def execCsrclr (d : Sc) (csr : BitVec 12) : State → Out :=
  csrModify (.csrclr d csr) d.val csr fun o x => o &&& ~~~x

/-! ## Class control (R91) -/

/-- The class number of an operand, and its entry: ILLEGAL above 255; PRIV of another key's class, or of one
with hnd or priv, for an unprivileged routine. -/
def classEntry (v : DWord) : M (Nat × Nat) := do
  require (v.toNat ≤ 255) cILLEGAL
  let s ← get
  let k := s.coreAt s.core
  let q ← me
  let e := (k.cls v.toNat).toNat
  let own := fld (k.cls q.classno.toNat).toNat 32 32
  require (q.privileged || (!bit e 27 && !bit e 28 && fld e 32 32 == own)) cPRIV
  pure (v.toNat, e)

/-- A class becomes enabled: its held messages join the run queue in arrival order (R51). -/
def State.enableClass (s : State) (c n : Nat) : State :=
  let k := s.coreAt c
  let mine := k.heldMsgs.filter fun m => m.cls.toNat == n
  let s := s.updCore c fun k => { k with heldMsgs := k.heldMsgs.filter fun m => m.cls.toNat != n }
  mine.foldl (fun s m => s.queueMessage c m) s

/-- An injection armed on an entry that has been written acts (R235). -/
def State.injectClass (s : State) (c n e : Nat) : State :=
  match s.armed c 2 with
  | none => s
  | some v =>
    if fld v 8 20 != n then s else
    let s := s.disarm c
    if bit v 34 then s.updCore c fun k => k.setCls n (e ^^^ flipMask v 64)
    else s.updCore c fun k => { k with flips := k.flips ++ [(2, n, bit v 35)] }

/-- A class-table entry is written (R50); held messages of a class it enables are released (R51). -/
def State.writeClass (s : State) (c n e : Nat) : State :=
  let s := s.updCore c fun k => { k.setCls n e with flips := k.flips.filter fun f => !(f.1 == 2 && f.2.1 == n) }
  let s := s.injectClass c n e
  if bit e 24 then s.enableClass c n else s

/-- CLEN and CLDIS (R91). -/
def setEnable (i : Instr) (a : Nat) (on : Bool) (s : State) : Out :=
  unit i (using_ { ss := [a] } do
    let (n, e) ← classEntry (← readS a)
    modify fun s => s.writeClass s.core n (setFld e 24 1 on.toNat)
    pure .seq) s

/-- CLEN (R91). -/
def execClen (a : Sc) : State → Out := setEnable (.clen a) a.val true
/-- CLDIS (R91). -/
def execCldis (a : Sc) : State → Out := setEnable (.cldis a) a.val false

/-- CLPEND (R91). -/
def execClpend (b a : Sc) : State → Out :=
  unit (.clpend b a) (unitS [a.val] b.val do
    let (_, e) ← classEntry (← readS a.val)
    pure (BitVec.ofNat 64 (fld e 24 1 * 2 + fld e 25 1)))

/-! ## Saving and loading the window (R94, R95) -/

/-- Spills until at most n resident frames stay below the window. -/
def spillTo (n : Nat) : Nat → M Unit
  | 0 => pure ()
  | fuel + 1 => do
    let q ← me
    if q.below.length ≤ n then pure () else
    if q.spilltop.toNat + 1 ≤ q.spillcap.toNat && spillOk (← get) q.spill q.spilltop.toNat true then
      spillOldest
      spillTo n fuel
    else throw .window

/-- SAVEW (R94). -/
def execSavew (a : Sc) : State → Out :=
  unit (.savew a) (using_ { ss := [a.val] } do
    require (← me).privileged cPRIV
    let k ← readS a.val
    spillTo k.toNat (← me).below.length
    pure .seq)

/-- Reloads at most n units, while the context has room for one (R95). -/
def reloadUpTo : Nat → M Unit
  | 0 => pure ()
  | n + 1 => do
    let q ← me
    if q.spilltop == 0 || (← mustSpill) then pure () else
    canReload
    reloadOne
    reloadUpTo n

/-- LOADW (R95): the pool never holds more than 64 frames. -/
def execLoadw (a : Sc) : State → Out :=
  unit (.loadw a) (using_ { ss := [a.val] } do
    require (← me).privileged cPRIV
    let k ← readS a.val
    reloadUpTo (min k.toNat 64)
    pure .seq)

/-! ## Inspecting contexts (R96, R97) -/

/-- STATE (R96): an activation is ready as R100 has it, which the issue slot found for the units that wait
(State.readied); one that enters or is in weight-driven mode has no unit that could be (log 39). -/
def Ctx.stateCode (q : Ctx) (stopped : Bool) : Nat :=
  match q.run with
  | .free => 0
  | .live => if stopped then 5 else if q.blocked.isSome then 2 else 1
  | .weights _ _ => if stopped then 5 else 2
  | .asleep => 3
  | .paged _ _ => 4
  | _ => 2

/-- A selector is well formed (R96): no reserved bit, and an index and ext in the item's range. R96's table gives item
0x06, CSR, an ext and no index: its index is zero, as for the items of index 0 (log 39). -/
def selectorOk (v : Nat) : Bool :=
  let item := fld v 16 8
  let idx := fld v 8 8
  let ext := fld v 24 12
  fld v 3 5 == 0 && fld v 36 28 == 0 &&
  (item == 6 || ext == 0) &&
  ((item != 8 && item != 13) || fld v 0 3 == 0) &&
  (match item with
   | 0x00 => idx ≤ 23
   | 0x01 => idx ≤ 7
   | 0x02 => idx ≤ 15
   | 0x03 => idx ≤ 15
   | 0x04 => true
   | 0x05 => idx ≤ 7
   | 0x06 => idx == 0 && csrListed (BitVec.ofNat 12 ext)
   | 0x08 => true
   | 0x0D => idx ≤ 7
   | _ => idx == 0 && item ≤ 0x0E)

/-- R97: the items of one context name the issuing context, or one that is free or suspended. -/
def targetOk97 (own : Option (Fin 8)) (k : Core) (v : Nat) : Bool :=
  let item := fld v 16 8
  let x := Fin.ofNat 8 (fld v 0 3)
  let st := k.ctxs[x].stateCode k.stopped
  !(item ≤ 7 || (9 ≤ item && item ≤ 12)) || own == some x || st == 0 || 4 ≤ st

/-- The array, the index and the width of the register that an item of context x names (R233); none for other
items. -/
def itemCode (q : Ctx) (x : Fin 8) (item idx : Nat) : Option (Nat × Nat × Nat) :=
  let reg := fun (r : Nat) => some ((q.codeOf x r).1, (q.codeOf x r).2, 64)
  match item with
  | 0x00 => reg idx
  | 0x01 => reg (24 + idx)
  | 0x02 => some (4, ptrCode x.val idx, 128)
  | 0x03 => some (4, ptrCode x.val idx, 128)
  | 0x04 => some (5, 8 * (32 * x.val) + idx, 64)
  | 0x05 => some (4, maskCode x.val idx, 16)
  | _ => none

/-- An item of the issuing context waits for the replies of atomics that it names (R90, R101). -/
def itemReady (v : Nat) : M Unit := do
  let s ← get
  let q ← me
  let item := fld v 16 8
  let idx := fld v 8 8
  if fld v 0 3 == s.ctx.val then
    if item ≤ 1 && q.awaits (24 * item + idx) then wait sREMOTE
    if item == 6 && fld v 24 12 == 0x020 && q.fadds != 0 then wait sREMOTE

/-- The state that a selector names, read (R96). -/
def readItem (v : Nat) : M DWord := do
  let s ← get
  let k := s.coreAt s.core
  let x := Fin.ofNat 8 (fld v 0 3)
  let q := k.ctxs[x]
  let idx := fld v 8 8
  itemReady v
  match itemCode q x (fld v 16 8) idx with
  | some (arr, i, _) => consume arr i
  | none => pure ()
  match fld v 16 8 with
  | 0x00 => pure (q.reg idx)
  | 0x01 => pure (q.reg (24 + idx))
  | 0x02 => pure (q.p[Fin.ofNat 16 idx].bits.setWidth 64)
  | 0x03 => pure ((q.p[Fin.ofNat 16 idx].bits >>> 64).setWidth 64)
  | 0x04 => pure ((q.v[Fin.ofNat 32 (idx / 8)] >>> (64 * (idx % 8))).setWidth 64)
  | 0x05 => pure (if idx == 0 then 0xFFFF else (q.m[Fin.ofNat 8 idx]).setWidth 64)
  | 0x06 => csrRead x (fld v 24 12)
  | 0x07 => pure q.pc
  | 0x08 => pure (k.cls idx)
  | 0x09 => pure (q.spill.bits.setWidth 64)
  | 0x0A => pure ((q.spill.bits >>> 64).setWidth 64)
  | 0x0B => pure q.depth
  | 0x0C => pure (BitVec.ofNat 64 q.evt.toNat)
  | 0x0D => pure (BitVec.ofNat 64
      (if idx < 4 then k.qs[Fin.ofNat 4 idx].occ else k.qv[Fin.ofNat 4 idx].occ))
  | _ => pure (BitVec.ofNat 64 (q.stateCode k.stopped))

/-- A pointer with its low half replaced, untagged (R96). -/
def PReg.putLo (p : PReg) (x : DWord) : PReg := { bits := (p.bits >>> 64 <<< 64) ||| x.setWidth 128, tag := false }
/-- A pointer with its high half replaced, tagged (R96). -/
def PReg.putHi (p : PReg) (x : DWord) : PReg :=
  { bits := (p.bits.setWidth 64).setWidth 128 ||| (x.setWidth 128 <<< 64), tag := true }

/-- x as it is written to the register that an item names. -/
def codedAt {w : Nat} (at_ : Option (Nat × Nat × Nat)) (x : BitVec w) : M (BitVec w) :=
  match at_ with
  | some (arr, i, n) => encoded arr i n x
  | none => pure x

/-- The state that a selector names, written (R96). -/
def writeItem (v : Nat) (y : DWord) : M Unit := do
  let x := Fin.ofNat 8 (fld v 0 3)
  let idx := fld v 8 8
  let upd := fun (f : Ctx → Ctx) => modCore fun k => k.setCtx x (f k.ctxs[x])
  let high := require (fld y.toNat 48 16 == 0) cPERM
  itemReady v
  let q := (← myCore).ctxs[x]
  let at_ := itemCode q x (fld v 16 8) idx
  let putP := fun (p : PReg) => do
    let b ← codedAt at_ p.bits
    upd fun q => { q with p := q.p.set (Fin.ofNat 16 idx).val { p with bits := b } (Fin.ofNat 16 idx).isLt }
  match fld v 16 8 with
  | 0x00 => do
    let y ← codedAt at_ y
    upd fun q => q.setReg idx y
  | 0x01 => do
    let y ← codedAt at_ y
    upd fun q => q.setReg (24 + idx) y
  | 0x02 => putP (q.p[Fin.ofNat 16 idx].putLo y)
  | 0x03 => do
    high
    putP (q.p[Fin.ofNat 16 idx].putHi y)
  | 0x04 => do
    let y ← codedAt at_ y
    upd fun q =>
      let old := q.v[Fin.ofNat 32 (idx / 8)]
      let m : V512 := (BitVec.allOnes 64).setWidth 512 <<< (64 * (idx % 8))
      q.setV (idx / 8) ((old &&& ~~~m) ||| (y.setWidth 512 <<< (64 * (idx % 8))))
  | 0x05 =>
    if idx == 0 then pure () else do
      let y ← codedAt at_ (y.setWidth 16)
      upd fun q => { q with m := q.m.set (Fin.ofNat 8 idx).val y (Fin.ofNat 8 idx).isLt }
  | 0x06 =>
    let n := fld v 24 12
    require (!(n == 0x010 || (0x110 ≤ n && n < 0x210))) cILLEGAL
    csrWrite x n y
  | 0x07 => upd fun q => { q with pc := y }
  | 0x08 => modify fun s => s.writeClass s.core idx y.toNat
  | 0x09 => upd fun q => { q with spill := q.spill.putLo y }
  | 0x0A =>
    high
    upd fun q => { q with spill := q.spill.putHi y }
  | 0x0B => upd fun q => { q with depth := y }
  | 0x0C => upd fun q => if y.getLsbD 0 then q.event else { q with evt := false }
  | _ => trap cILLEGAL

/-- The checks of a selector by the issuing context (R96, R97, R46). -/
def checkSelector (v : Nat) : M Unit := do
  let s ← get
  require (selectorOk v && targetOk97 (some s.ctx) (s.coreAt s.core) v) cILLEGAL

/-- A source of a privileged unit, whose value its encoding depends on: PRIV comes before what its reading raises
(R229). -/
def readPriv (a : Nat) : M DWord :=
  tryCatch (readS a) fun e => do
    match e with
    | .trap _ _ _ _ => require (← me).privileged cPRIV
    | _ => pure ()
    throw e

/-- CTXRD (R96). -/
def execCtxrd (b a : Sc) : State → Out :=
  unit (.ctxrd b a) (unitS [a.val] b.val do
    let v ← readPriv a.val
    checkSelector v.toNat
    require (← me).privileged cPRIV
    readItem v.toNat)

/-- CTXWR (R96): of the issuing context's own PC, it is a transfer. -/
def execCtxwr (a b : Sc) : State → Out :=
  unit (.ctxwr a b) (using_ { ss := [a.val, b.val] } do
    let v ← readPriv a.val
    checkSelector v.toNat
    let n := fld v.toNat 24 12
    let item := fld v.toNat 16 8
    require (!(item == 0x0D || item == 0x0E ||
      (item == 0x06 && (n == 0x010 || (0x110 ≤ n && n < 0x210))))) cILLEGAL
    require (← me).privileged cPRIV
    let y ← readS b.val
    writeItem v.toNat y
    let s ← get
    if item == 0x07 && fld v.toNat 0 3 == s.ctx.val then pure (.jump y) else pure .seq)

end Sys2Proof.Machine
end

