-- ==== Sys2Proof/Machine/Checkpoint.lean ====
section
/-! DEFINITION. Checkpoints (20 R407, R408; 22 R429, R430): the image, its segments, and save and restore. The bodies
of the records of types 1 to 3 have no layout in the spec (log 16). -/

namespace Sys2Proof.Machine

/-! ## The image (R430) -/

/-- The 32-byte header of a record whose body has len bytes. -/
def recordHead (ty die unit_ loc len : Nat) : List Byte :=
  bytesOf 32 (ty + die * 2 ^ 8 + unit_ * 2 ^ 16 + len * 2 ^ 64 + loc * 2 ^ 128)

/-- A record: its header and its body. -/
def record (ty die unit_ loc : Nat) (body : List Byte) : List Byte := recordHead ty die unit_ loc body.length ++ body

/-- The listed indices at a scope (R360). -/
def listed (scope : Nat) : List Nat := match scope with
  | 0 => upTo 8 ++ [0x10, 0x11, 0x12, 0x13, 0x14, 0x18, 0x19, 0x1A] ++ (upTo 15).map (0x20 + ·) ++
      (upTo 11).map (0x30 + ·) ++ (upTo 4).map (0x40 + ·) ++
      (upTo 8).flatMap fun x => (upTo 16).map fun i => 0x400 + 64 * x + i
  | 1 => upTo 12 ++ [0x10, 0x11]
  | 2 => [0, 1, 2] ++ (upTo 6).map (8 + ·) ++ ((upTo 8).flatMap fun r => (upTo 12).map fun j => 0x40 + 16 * r + j) ++
      (upTo 96).map (0x100 + ·) ++ (upTo 48).map (0x180 + ·)
  | _ => upTo 10 ++ (upTo 16).map (0x10 + ·) ++ (upTo 9).map (0x20 + ·) ++ (upTo 96).map (0x30 + ·) ++
      (upTo 19).map (0xA0 + ·) ++ (upTo 256).map (0x100 + ·) ++ (upTo 2048).map (0x800 + ·)

/-- The places of a scope. -/
def places (scope : Nat) : Nat := match scope with
  | 0 => 1024
  | 1 => 64
  | 2 => 4
  | _ => 1

/-- Every management register, in the order of R407. -/
def allRegs : List Nat :=
  [3, 2, 1, 0].flatMap fun sc => (upTo (places sc)).flatMap fun n => (listed sc).map (regOff sc n)

/-- The low halves of pointer registers that are untagged. -/
def State.untagged (s : State) : List Nat :=
  let core := (upTo 1024).flatMap fun c => ([0x10, 0x18, 0x28].filter fun i => !(s.coreptr c i).tag).map (regOff 0 c)
  let die := (upTo 4).flatMap fun d => if (s.dieAt d).sqbase.tag then [] else [regOff 2 d 8]
  let p := s.pkg
  let own := ([(2, p.qtbase), (8, p.abandon), (0x78, p.sotbase), (0x7A, p.ckpttgt), (0xB0, p.ldimg)].filter
    fun e => !e.2.tag).map fun e => regOff 3 0 e.1
  let win := ((upTo 64).filter fun w => !(windowOf p.windows w).1.tag).map fun w => regOff 3 0 (0x100 + 4 * w)
  core ++ die ++ own ++ win

/-- The record of the management registers: offsets and values. The low half of an untagged pointer comes again, so
that it is untagged when the registers are written back in this order. -/
def State.regRecord (s : State) : List Byte :=
  record 1 15 0 0 ((allRegs ++ s.untagged).flatMap fun o => bytesOf 8 o ++ bytesOf 8 (s.regValue o))

/-- A core's class table and routine store. -/
def State.coreBody (s : State) (c : Nat) : List Byte :=
  ((upTo 256).flatMap fun n => bytesOf 8 ((s.coreAt c).cls n).toNat) ++ s.mem.read (routineBase c) 65536

/-- The class tables and routine stores of a die, from its core 0 on, whose locator (R164) is 0. -/
def State.coreRecord (s : State) (d : Nat) : List Byte := record 2 d 0 0 ((coresOfDie d).flatMap s.coreBody)

/-- The metadata of a 256-byte block (R308): fe in [63:0], tag in [79:64], poi in [95:80]. -/
def Memory.metaOf (m : Memory) (k : Nat) : List Byte :=
  let fe := (upTo 64).foldl (fun a i => a + if m.isFull (k + 4 * i) then 2 ^ i else 0) 0
  let tag := (upTo 16).foldl (fun a i => a + if m.isTagged (k + 16 * i) then 2 ^ i else 0) 0
  let poi := (upTo 16).foldl (fun a i => a + if m.isPoisoned (k + 16 * i) then 2 ^ i else 0) 0
  bytesOf 12 (fe + tag * 2 ^ 64 + poi * 2 ^ 80)

/-- A page: 64 KiB of data, then 3 KiB of metadata. -/
def Memory.page (m : Memory) (k : Nat) : List Byte :=
  m.read k 65536 ++ (upTo 256).flatMap fun b => m.metaOf (k + 256 * b)

/-- n pages from k. -/
def Memory.pages (m : Memory) (k n : Nat) : List Byte := (upTo n).flatMap fun i => m.page (k + 65536 * i)

/-- A block's header. -/
def BlkHdr.toNat (h : BlkHdr) : Nat := h.sect.toNat + h.n.toNat * 2 ^ 19 + h.sch.toNat * 2 ^ 22 + h.z.toNat * 2 ^ 23

/-- A cluster's block table. -/
def Cluster.table (c : Cluster) : List Byte :=
  (upTo 131072).flatMap fun b => bytesOf 4 (SMap.get {} c.blocks b).toNat

/-- The SRAM levels of a die, with its cluster block tables. -/
def State.sramRecords (s : State) (d : Nat) : List Byte :=
  record 3 d 0 0 ((coresOfDie d).flatMap fun c => s.mem.pages (localBase c) 16) ++
  record 3 d 1 0 ((upTo 16).flatMap fun k =>
    s.mem.pages (cluBase (16 * d + k)) 512 ++ (s.cluAt (16 * d + k)).table) ++
  record 3 d 2 0 (s.mem.pages (dieBase d) 4096)

/-- Frames of a stack: 48 GB of 64 KiB pages. -/
def framesOf : Nat := 732422

/-- A die's stacks. -/
def State.heapRecords (s : State) (d : Nat) : List Byte :=
  (upTo 3).flatMap fun t => record 4 d t 0 (s.mem.pages (stackBase d t) framesOf)

/-- The start bits, and the links of forwarded and risen objects, which the model keeps apart (log 6). -/
def State.linkRecord (s : State) : List Byte :=
  record 3 15 0 0 (bytesOf 8 s.mem.starts.length ++ s.mem.starts.flatMap (bytesOf 8) ++
    s.mem.fwd.flatMap fun e => bytesOf 8 e.1 ++ bytesOf 8 e.2)

/-- The image up to its trailer, in the order of R407. -/
def State.image (s : State) : List Byte :=
  s.regRecord ++ (upTo 4).flatMap s.coreRecord ++ (upTo 4).flatMap s.sramRecords ++ s.linkRecord ++
    (upTo 4).flatMap s.heapRecords

/-- Both identity signatures over a digest. -/
def signatures (key digest : BitVec 384) : List Byte :=
  padTo 384 (Config.rsaSign key digest) ++ padTo 16224 (Config.slhSign key digest)

/-- The header of a trailer, whose body has the layout of bytes 16-16,671 of R397. -/
def trailerHead : List Byte := recordHead 5 15 0 0 16656

/-- The digest of a trailer: of every image byte before it, its record's header among them. -/
def trailerDigest (before : List Byte) : BitVec 384 := Config.sha384 (before ++ trailerHead)

/-- A trailer: the digest and both identity signatures over it; nothing signs before boot has derived the keys. -/
def Package.trailer (p : Package) (digest : BitVec 384) : List Byte :=
  trailerHead ++ bytesOf 48 digest.toNat ++ match p.identity with
    | some key => signatures key digest
    | none => List.replicate 16608 0

/-- Segments of 1 MiB, each led by its image offset, from segment i on. -/
def segments : Nat → Nat → List Byte → List (List Byte)
  | 0, _, _ => []
  | n + 1, i, bs => (bytesOf 8 (i * 2 ^ 20) ++ bs.take (2 ^ 20)) :: segments n (i + 1) (bs.drop (2 ^ 20))

/-! ## Writing back -/

/-- A page is written back with its metadata. -/
def Memory.unpage (m : Memory) (k : Nat) (bs : List Byte) : Memory :=
  let m := m.write k (bs.take 65536)
  (upTo 256).foldl (fun m b =>
    let w := leAt bs (65536 + 12 * b) 12
    let m := (upTo 64).foldl (fun m i => m.setFull (k + 256 * b + 4 * i) (bit w i)) m
    (upTo 16).foldl (fun m i =>
      (m.setTag (k + 256 * b + 16 * i) (bit w (64 + i))).setPoison (k + 256 * b + 16 * i) (bit w (80 + i))) m) m

/-- The bytes of a page with its metadata. -/
def pageBytes : Nat := 65536 + 3072

/-- Pages are written back from k. -/
def Memory.unpages (m : Memory) (k : Nat) (bs : List Byte) (n : Nat) : Memory :=
  (upTo n).foldl (fun m i => m.unpage (k + 65536 * i) ((bs.drop (pageBytes * i)).take pageBytes)) m

/-- A cluster's block table is written back, with its sectors. -/
def Cluster.untable (c : Cluster) (bs : List Byte) : Cluster :=
  (upTo 131072).foldl (fun c b =>
    let v := leAt bs (4 * b) 4
    let h : BlkHdr :=
      { sect := BitVec.ofNat 19 v, n := BitVec.ofNat 3 (fld v 19 3), sch := bit v 22, z := bit v 23 }
    if h.z then c else
    { c with
      blocks := SMap.put c.blocks b h
      sectors := (upTo (h.n.toNat + 1)).foldl (fun u i => u.add (h.sect.toNat + i)) c.sectors })
    { c with blocks := [], sectors := [], exp := [], held := [] }

/-- Dwords of bytes. -/
def dwords (bs : List Byte) : List Nat := (upTo (bs.length / 8)).map fun i => leAt bs (8 * i) 8

/-- A core's class table and routine store are written back. -/
def State.putCore (s : State) (c : Nat) (bs : List Byte) : State :=
  ((upTo 256).foldl (fun s n => s.updCore c fun k => k.setCls n (leAt bs (8 * n) 8)) s).updMem fun m =>
    m.write (routineBase c) ((bs.drop 2048).take 65536)

/-- A record of an image is written back (R407). -/
def State.putRecord (s : State) (h body : List Byte) : State :=
  let die := fldAt h 8 8
  let unit_ := fldAt h 16 8
  match fldAt h 0 8 with
  | 1 => (upTo (body.length / 16)).foldl (fun s i => s.putReg (leAt body (16 * i) 8) (leAt body (16 * i + 8) 8)) s
  | 2 => (upTo 256).foldl (fun s i => s.putCore (256 * die + i) (body.drop (67584 * i))) s
  | 3 =>
    if die == 15 then
      let ws := dwords body
      let n := ws.headD 0
      let rest := ws.drop (1 + n)
      s.updMem fun m =>
        { m with
          starts := ((ws.drop 1).take n).foldl NSet.add []
          fwd := (upTo (rest.length / 2)).foldl (fun f i => SMap.put f (rest.getD (2 * i) 0) (rest.getD (2 * i + 1) 0)) [] }
    else match unit_ with
    | 0 => s.updMem fun m => (upTo 256).foldl (fun m i =>
        m.unpages (localBase (256 * die + i)) (body.drop (16 * pageBytes * i)) 16) m
    | 1 => (upTo 16).foldl (fun s i =>
        let part := body.drop ((512 * pageBytes + 524288) * i)
        (s.updMem fun m => m.unpages (cluBase (16 * die + i)) part 512).updClu (16 * die + i) fun c =>
          c.untable (part.drop (512 * pageBytes))) s
    | _ => s.updMem fun m => m.unpages (dieBase die) body 4096
  | 4 => s.updMem fun m => m.unpages (stackBase die unit_) body (body.length / pageBytes)
  | _ => s

/-- The records of an image, with the bytes before its trailer. fuel bounds their number. -/
def recordsOf : Nat → Nat → List Byte → List (List Byte × List Byte) × Nat
  | 0, at_, _ => ([], at_)
  | n + 1, at_, bs =>
    let h := bs.take 32
    let len := fldAt h 64 64
    if bs.length < 32 + len || fldAt h 0 8 == 5 then ([], at_) else
    let r := recordsOf n (at_ + 32 + len) (bs.drop (32 + len))
    ((h, (bs.drop 32).take len) :: r.1, r.2)

/-- The trailer that stands at the end of an image is this package's own, over the bytes before it. -/
def Package.trusts (p : Package) (image : List Byte) (at_ : Nat) : Bool :=
  let d := trailerDigest (image.take at_)
  p.identity.isSome && image.drop at_ == p.trailer d

/-! ## The commands (R407) -/

/-- An activation is held somewhere. -/
def State.anyBusy (s : State) : Bool := (upTo 4).any fun d =>
  s.cores.any fun e => e.1 < 1024 && coreDie e.1 == d && e.2.ctxs.toList.any (·.busy)

/-- A command starts: it is refused, with st 3, while an activation is held, and fails where its path leads nowhere
(R429, log 49). -/
def State.ckptStart (s : State) (cmd : BitVec 2) : Option State :=
  if s.pkg.ckpt.isSome then none
  else if s.anyBusy || !s.ckptPath then some (s.ckptSt 3)
  else some ((s.updPkg fun p => { p with ckpt := some { cmd, since := p.time } }).ckptSt 1)

/-- CHECKPOINT_SAVE (R407): the image is sent, but for its end. -/
def execCheckpointSave : State → Out := managed fun s =>
  match s.ckptStart 1 with
  | none => .next s
  | some t =>
    if t.pkg.ckpt.isNone then .next t else
    let bs := s.image
    let n := bs.length / 2 ^ 20
    let t := t.sendSegments 0 (segments n 0 bs)
    .next (t.updPkg fun p =>
      { p with ckpt := some { cmd := 1, since := p.time, tail := bs.drop (n * 2 ^ 20), segments := n, digest := trailerDigest bs } })

/-- CHECKPOINT_RESTORE (R407): the image's trailer is checked before anything is written. -/
def execCheckpointRestore (image : List Byte) : State → Out := managed fun s =>
  match if s.pkg.ckpt.any (·.cmd == 2) then some s else s.ckptStart 2 with
  | none => .next s
  | some t =>
    if t.pkg.ckpt.isNone then .next t else
    let (rs, at_) := recordsOf image.length 0 image
    if s.pkg.trusts image at_ then
      let cmd := t.pkg.ckptcmd
      let u := rs.foldl (fun u r => u.putRecord r.1 r.2) t
      .next (u.updPkg fun p => { p with ckptcmd := cmd, ckpt := t.pkg.ckpt })
    else .next t.ckptFail

/-- CHECKPOINT_ABORT (R407): a save ends without its trailer. -/
def execCheckpointAbort : State → Out := managed fun s =>
  .next (if s.pkg.ckpt.isNone then s else s.ckptFail)

/-- CHECKPOINT_COMPLETE (R407, R408): the trailer of a save has been sent, and the last acknowledgement has come. -/
def execCheckpointComplete (ok : Bool) (us : BitVec 32) (s : State) : Out :=
  match s.pkg.ckpt with
  | none => .next s
  | some c =>
    let rest := c.tail ++ s.pkg.trailer c.digest
    let s := if c.cmd == 1 then
        s.sendSegments c.segments (segments ((rest.length + 2 ^ 20 - 1) / 2 ^ 20) c.segments rest) else s
    let s := s.updPkg fun p =>
      { p with ckpt := none, ckptcmd := BitVec.ofNat 64 (setFld p.ckptcmd.toNat 32 32 us.toNat) }
    .next ((s.ckptSt (if ok then 2 else 3)).soon 1 .release)

end Sys2Proof.Machine
end

