-- ==== Sys2Proof/Machine/Matrix.lean ====
section
/-! DEFINITION. Tiles and their ownership (06 R146, R147), matrix multiplies (R151-R154), checksums (R155-R157),
tile moves (R158), maps (R150), and the sending of remote commands (R159, R160). -/

namespace Sys2Proof.Machine

/-! ## Tiles -/

/-- Element w of a tile, as its code. -/
def Tile.cell (t : Tile) (w : Nat) : Nat := fld t.acc.toNat (32 * w) 32
/-- Element w of a tile becomes v. -/
def Tile.setCell (t : Tile) (w v : Nat) : Tile :=
  { t with acc := BitVec.ofNat 8192 (setFld t.acc.toNat (32 * w) 32 v) }
/-- Tile n of a core. -/
def Core.tile (k : Core) (n : Nat) : Tile := k.tiles[Fin.ofNat 4 n]
/-- Tile n of a core becomes t. -/
def Core.setTile (k : Core) (n : Nat) (t : Tile) : Core :=
  { k with tiles := k.tiles.set (Fin.ofNat 4 n).val t (Fin.ofNat 4 n).isLt }
/-- Tile n of the issuing core. -/
def tileAt (n : Nat) : M Tile := do pure ((← myCore).tile n)
/-- Tile n of the issuing core changed by f. -/
def modTile (n : Nat) (f : Tile → Tile) : M Unit := modCore fun k => k.setTile n (f (k.tile n))

/-- The issuing context becomes the owner of some tiles, or waits for them (R147). -/
def takeTiles (ns : List Nat) : M Unit := do
  let s ← get
  let k := s.coreAt s.core
  if ns.any fun n => match (k.tile n).owner with
      | some x => x != s.ctx
      | none => false
    then wait sMATRIX
  ns.forM fun n => modTile n fun t => { t with owner := some s.ctx }

/-- Element w of tile n is read: an error that it holds is met (R233, R236). -/
def readCell (n w : Nat) : M Nat := do
  let s ← get
  let k := s.coreAt s.core
  let i := 256 * n + w
  let bad := k.flips.filter fun f => f.1 == 7 && f.2.1 == i
  if !bad.isEmpty then
    set (s.meetFlips s.core 7 (s.ctxId s.core s.ctx) (· == i))
    if bad.any (·.2.2) then throw (.rollback cECC 7)
  pure ((k.tile n).cell w)

/-- A tile that an instruction updates meets its consumer before any other cause of the unit (R229). -/
def meetTile (n : Nat) : M Unit := do
  let s ← get
  let of_ := fun i => i / 256 == n
  let bad := (s.coreAt s.core).flips.filter fun f => f.1 == 7 && of_ f.2.1
  if !bad.isEmpty then
    set (s.meetFlips s.core 7 (s.ctxId s.core s.ctx) of_)
    if bad.any (·.2.2) then throw (.rollback cECC 7)

/-- Element w of tile n is written: its code word is new. -/
def writeCell (n w v : Nat) : M Unit := modCore fun k =>
  let k := k.setTile n ((k.tile n).setCell w v)
  if k.flips.isEmpty then k
  else { k with flips := k.flips.filter fun f => !(f.1 == 7 && f.2.1 == 256 * n + w) }

/-- Element w of tile n is updated: an injection armed on it acts (R236). -/
def updateCell (n w v : Nat) : M Unit := do
  writeCell n w v
  let s ← get
  match s.armed s.core 7 with
  | none => pure ()
  | some j =>
    if fld j 8 20 == 256 * n + w then
      set (s.disarm s.core)
      if bit j 34 then writeCell n w (v ^^^ flipMask j 32)
      else modCore fun k => { k with flips := k.flips ++ [(7, 256 * n + w, bit j 35)] }

/-- All elements of tile n are read. -/
def readTile (n : Nat) : M (List Nat) := (upTo 256).mapM (readCell n)

/-- All elements of tile n are written. -/
def writeTile (n : Nat) (ws : List Nat) : M Unit := do
  modTile n fun t => { t with acc := BitVec.ofNat 8192 (packWords ws) }
  modCore fun k => { k with flips := k.flips.filter fun f => !(f.1 == 7 && f.2.1 / 256 == n) }

/-- Element (i, j) of an accumulator: of a tile, or of an FP64 pair (R146). -/
def accCells (f64 : Bool) (n i j : Nat) : List (Nat × Nat) :=
  if f64 then
    let w := 2 * (16 * (i % 8) + j)
    [(n + i / 8, w), (n + i / 8, w + 1)]
  else [(n, 16 * i + j)]

/-- The code of an accumulator's element. -/
def readAcc (f64 : Bool) (n i j : Nat) : M Nat := do
  let ws ← (accCells f64 n i j).mapM fun (m, w) => readCell m w
  pure (packWords ws)

/-- An accumulator's element is updated. -/
def updateAcc (f64 : Bool) (n i j v : Nat) : M Unit :=
  (accCells f64 n i j).zipIdx.forM fun ((m, w), h) => updateCell m w (fld v (32 * h) 32)

/-- The numbers of sixteen rows or columns. -/
def sixteen : List Nat := upTo 16

/-! ## Products (R130, R131, R151) -/

/-- A list in groups of eight, the last filled with +0 (R130). -/
def groups8 : Nat → List FVal → List (List FVal)
  | 0, _ => []
  | n + 1, xs =>
    if xs.isEmpty then []
    else (xs.take 8 ++ List.replicate (8 - xs.length) (.fin false 0 0)) :: groups8 n (xs.drop 8)

/-- The accumulator's format. -/
def accFmt (f64 : Bool) : Nat := if f64 then 8 else 9

/-- One K-group added to a value: both roundings of R130, with their flags. -/
def addGroup (f64 : Bool) (old : Nat) (xs ys : List FVal) : Nat × Flags :=
  let ty := accFmt f64
  let (s, f1) := dotVals xs ys
  let (r, f2) := roundVal ty .rne 0 s
  let (t, f3) := (decodeVal ty old).add false (decodeVal ty r)
  let (c, f4) := roundVal ty .rne 0 t
  (c, f1 ||| f2 ||| f3 ||| f4)

/-- The K-groups of one element, in ascending order (R130). -/
def accumulate (f64 : Bool) (n i j : Nat) : List (List FVal × List FVal) → M Unit
  | [] => pure ()
  | (xs, ys) :: gs => do
    let old ← readAcc f64 n i j
    let (c, f) := addGroup f64 old xs ys
    raise f
    updateAcc f64 n i j c
    accumulate f64 n i j gs

/-- The rows of A, each of K elements, from row first (R151, R276). -/
def readA (o : Operand) (src : Option Nat) (first : Nat) : M (List (List FVal)) :=
  sixteen.mapM fun i => (upTo (tmExt o.map 0)).mapM fun k => elemAt o src k (first + i)

/-- The columns of B, each of K elements, from column first, read row by row (R151, R276). -/
def readB (o : Operand) (src : Option Nat) (len first : Nat) : M (List (List FVal)) := do
  let rows ← (upTo len).mapM fun k => sixteen.mapM fun j => elemAt o src (first + j) k
  pure (sixteen.map fun j => rows.map fun r => r.getD j (.fin false 0 0))

/-- Row or column i of an operand, in K-groups. -/
def lineGroups (m : List (List FVal)) (i : Nat) : List (List FVal) :=
  let l := m.getD i []
  groups8 (l.length / 8 + 1) l

/-- acc += A * B. -/
def product (f64 : Bool) (n : Nat) (as bs : List (List FVal)) : M Unit :=
  sixteen.forM fun i => sixteen.forM fun j =>
    accumulate f64 n i j ((lineGroups as i).zip (lineGroups bs j))

/-! ## Checksums (R155, R156) -/

/-- A checksum with the K-groups of its products added (R155): no flag is set. -/
def addChecks (old : Nat) (gs : List (List FVal × List FVal)) : Nat :=
  gs.foldl (fun c (xs, ys) =>
    let r := (round32 (dotVals xs ys).1).1
    (round32 ((decodeVal 9 c).add false (decodeVal 9 r)).1).1) old

/-- The exact sums across some lines, element by element. -/
def sumLines (ls : List (List FVal)) (k : Nat) : List FVal :=
  (upTo k).map fun i => (sumVals (ls.map fun l => l.getD i (.fin false 0 0))).1

/-- The reference checksums after a product (R155). -/
def checkProduct (n : Nat) (as bs : List (List FVal)) (k : Nat) : M Unit := do
  let grp := groups8 (k / 8 + 1)
  let bsum := grp (sumLines bs k)
  let asum := grp (sumLines as k)
  modTile n fun t =>
    { t with
      cr := ofLanes 32 (sixteen.map fun i => addChecks (laneOf t.cr 32 i) ((lineGroups as i).zip bsum))
      cc := ofLanes 32 (sixteen.map fun j => addChecks (laneOf t.cc 32 j) (asum.zip (lineGroups bs j))) }

/-- Row i of a tile's elements. -/
def rowOf (ws : List Nat) (i : Nat) : List Nat := sixteen.map fun j => ws.getD (16 * i + j) 0
/-- Column j of a tile's elements. -/
def colOf (ws : List Nat) (j : Nat) : List Nat := sixteen.map fun i => ws.getD (16 * i + j) 0

/-- A line's rounded sum (R156). -/
def lineSum (xs : List Nat) : Nat := (round32 (sumVals (xs.map (decodeVal 9))).1).1

/-- ABFTTOL's tolerance for a sum of magnitudes (R232). -/
def tolerance (v : Nat) (s : FVal) : FVal :=
  let a := fld v 8 8
  ((s.scale (-(fld v 0 6 : Int))).add false (if a == 0 then .fin false 0 0 else .fin false 1 ((a : Int) - 127))).1

/-- A line fails (R156). -/
def lineFails (tol : Nat) (xs : List Nat) (check : Nat) : Bool :=
  let r := decodeVal 9 (lineSum xs)
  let c := decodeVal 9 check
  let s := (sumVals (xs.map fun x => (decodeVal 9 x).abs)).1
  !r.isFin || !c.isFin || (tolerance tol s).lt (r.add false c.neg).1.abs

/-- MCHK's findings (R156). -/
def findings (rows cols : List Nat) : Nat :=
  let nr := rows.length
  let nc := cols.length
  let r := rows.headD 0
  let c := cols.headD 0
  if nr == 0 && nc == 0 then 0
  else 1 + nr * 2 ^ 12 + nc * 2 ^ 17 +
    (if nr == 1 && nc == 1 then 4 + r * 16 + c * 256
     else if nr == 1 && nc == 0 then 8 + r * 16
     else if nr == 0 && nc == 1 then 8 + c * 256 else 0)

/-- CR and CC become the row and column sums, and CV 1. -/
def formChecks (n : Nat) (ws : List Nat) : M Unit := modTile n fun t =>
  { t with
    cr := ofLanes 32 (sixteen.map fun i => lineSum (rowOf ws i))
    cc := ofLanes 32 (sixteen.map fun j => lineSum (colOf ws j))
    cv := true }

/-! ## MMA, MMAZ, MCKS (R151-R154) -/

/-- A tensor map that is valid and fits an operand's format; which is TRAPVAL (R152). -/
def operandMap (r : Fin 16) (tm : Tm) (ty which : Nat) : M V512 := do
  let d ← readMap tm
  require (d != 0) cILLEGAL which
  let pane ← paneOf (← preg r)
  require (tmEsz d == fmtEsz (paneFmt pane ty)) cILLEGAL which
  pure d

/-- A multiply is of FP64 where either operand's format is (R131, R151, log 17). -/
def isF64 (pa pb : Fin 16) (ty : Nat) : M Bool := do
  let a ← paneOf (← preg pa)
  let b ← paneOf (← preg pb)
  pure (paneFmt a ty == 8 || paneFmt b ty == 8)

/-- B waits while the operand buffer that holds it is filling (R154), and is taken from it then: the bits of the buffer
that a silent injection has flipped. An error that its parity finds empties it, and is recorded (R233). -/
def awaitBuffer (pb : Fin 16) (map : V512) : M (List Nat) := do
  let k ← myCore
  match k.opbuf with
  | some b =>
    if !(b.ptr == (← preg pb) && b.map == map) then return []
    if b.filled < b.rows then wait sMATRIX
    if k.flips.any fun f => f.1 == 9 then
      modify fun s => (s.meetFlips s.core 9 (s.ctxId s.core s.ctx) fun _ => true).updCore s.core fun k =>
        { k with opbuf := none }
      pure []
    else pure b.wrong
  | none => pure []

/-- The two operands of a multiply, read (R151, R153): A's rows, B's columns, and K. wrong are bits of the operand buffer
that B is taken from. The first out-of-range element (R152) is that of A row by row, then that of B row by row (log 44).
Everything is read in the MMA's one step, so that an element that another agent writes meanwhile
is old or new as that step finds it (log 4). -/
def readOperands (pa : Pr) (ma : V512) (pb : Pr) (mb : V512) (ty : Nat) (wrong : List Nat) :
    M (List (List FVal) × List (List FVal) × Nat) := do
  let a ← openOperand pa ma ty
  let b ← openOperand pb mb ty
  let k := tmExt ma 0
  let as ← readA a (some 1) 0
  let bs ← readB { b with wrong } (some 1) k 0
  pure (as, bs, k)

/-- What a multiply does to its accumulator; cks: with checksums; zero: from zero (R151). -/
def multiply (n : Nat) (f64 cks zero : Bool) (as bs : List (List FVal)) (k : Nat) : M Unit := do
  let ns := if f64 then [n, n + 1] else [n]
  let cv := (← tileAt n).cv
  if zero then ns.forM fun n => writeTile n []
  product f64 n as bs
  ns.forM fun n => modTile n fun t => { t with cv := false }
  if cks then
    checkProduct n as bs k
    modTile n fun t => { t with cv }

/-- MMA, MMAZ and MCKS: FP64 by a pane takes a pair of tiles, and no checksums, as FP64 by ty does (R152, log 17). -/
def mmaUnit (i : Instr) (c : Tl) (pa : Pr) (tma : Tm) (pb : Pr) (tmb : Tm) (ty : Nat) (cks zero : Bool)
    (s : State) : Out :=
  unit i (do
    meetAll { ps := [pa, pb] }
    let f64 ← isF64 pa pb ty
    require (!(f64 && (c.val % 2 == 1 || cks))) cILLEGAL
    let tiles := if f64 then [c.val, c.val + 1] else [c.val]
    takeTiles tiles
    discard (readMap tma)
    discard (readMap tmb)
    if !zero then tiles.forM meetTile
    let ma ← operandMap pa tma ty 0
    require (tmExt ma 0 ≤ 4096) cILLEGAL 0
    let mb ← operandMap pb tmb ty 1
    discard (checkPerm pa true false)
    discard (checkPerm pb true false)
    let wrong ← awaitBuffer pb mb
    let (as, bs, k) ← readOperands pa ma pb mb ty wrong
    multiply c.val f64 cks zero as bs k
    pure .seq) s

/-- MMA (R151). -/
def execMma (c : Tl) (pa : Pr) (tma : Tm) (pb : Pr) (tmb : Tm) (ty : Fin 16) : State → Out :=
  mmaUnit (.mma c pa tma pb tmb ty) c pa tma pb tmb ty.val false false
/-- MMAZ (R151). -/
def execMmaz (c : Tl) (pa : Pr) (tma : Tm) (pb : Pr) (tmb : Tm) (ty : Fin 16) : State → Out :=
  mmaUnit (.mmaz c pa tma pb tmb ty) c pa tma pb tmb ty.val false true
/-- MCKS (R151, R155). -/
def execMcks (c : Tl) (pa : Pr) (tma : Tm) (pb : Pr) (tmb : Tm) (ty : Fin 16) : State → Out :=
  mmaUnit (.mcks c pa tma pb tmb ty) c pa tma pb tmb ty.val true false

/-- MCHK (R156). -/
def execMchk (s : Sc) (c : Tl) : State → Out :=
  unit (.mchk s c) (unitS [] s.val do
    takeTiles [c.val]
    let t ← tileAt c.val
    if !t.cv then pure 2 else
    let ws ← readTile c.val
    let tol := (← me).abfttol.toNat
    let rows := sixteen.filter fun i => lineFails tol (rowOf ws i) (laneOf t.cr 32 i)
    let cols := sixteen.filter fun j => lineFails tol (colOf ws j) (laneOf t.cc 32 j)
    pure (BitVec.ofNat 64 (findings rows cols)))

/-- MFIX (R157): no flag is set (R124). -/
def execMfix (c : Tl) (s : Sc) : State → Out :=
  unit (.mfix c s) (using_ { ss := [s.val] } do
    takeTiles [c.val]
    let v := (← readS s.val).toNat
    if bit v 0 && bit v 2 then
      let i := fld v 4 4
      let j := fld v 8 4
      let xs ← (sixteen.filter (· != j)).mapM fun k => readCell c.val (16 * i + k)
      let cr := decodeVal 9 (laneOf (← tileAt c.val).cr 32 i)
      writeCell c.val (16 * i + j) (round32 (sumVals (cr :: xs.map fun x => (decodeVal 9 x).neg)).1).1
    else if bit v 0 && bit v 3 then
      formChecks c.val (← readTile c.val)
    pure .seq)

/-! ## Tile moves (R154, R158) -/

/-- MLD (R154): without effect where the object is not in the core pad. -/
def execMld (p : Pr) (tm : Tm) : State → Out :=
  unit (.mld p tm) do
    let d ← readMap tm
    let n := (16 * tmExt d 1 * max 1 (2 * eszBytes (tmEsz d)) + 1) / 2
    require (d != 0 && n ≤ 32768) cILLEGAL
    discard (checkPerm p true false)
    atOff p 0 do
      let (k, _) ← inPlaceOf p
      let q ← preg p
      let s ← get
      if spaceOf k == s.core then
        modCore fun c => { c with
          opbuf := some { ptr := q, place := k, map := d, rows := (n + 511) / 512 }
          flips := c.flips.filter fun f => f.1 != 9 }
        modify fun s => s.later 1 (.mldFill s.core)
    pure .seq

/-- MACCLD (R158). -/
def execMaccld (c : Tl) (p : Pr) : State → Out :=
  unit (.maccld c p) do
    takeTiles [c.val]
    let ws ← loadWords p 256
    writeTile c.val ws
    formChecks c.val ws
    pure .seq

/-- MACCST (R158). -/
def execMaccst (p : Pr) (c : Tl) : State → Out :=
  unit (.maccst p c) do
    takeTiles [c.val]
    storeWords p (← readTile c.val)
    pure .seq

/-- MZERO (R158). -/
def execMzero (c : Tl) : State → Out :=
  unit (.mzero c) do
    takeTiles [c.val]
    writeTile c.val []
    modTile c.val fun t => { t with cr := 0, cc := 0, cv := true }
    pure .seq

/-- MTR (R158): all 256 elements are read and written again, those of the diagonal too, which R158's exchange leaves where
they are (log 44). -/
def execMtr (c : Tl) : State → Out :=
  unit (.mtr c) do
    takeTiles [c.val]
    let ws ← readTile c.val
    writeTile c.val ((upTo 256).map fun w => ws.getD (16 * (w % 16) + w / 16) 0)
    modTile c.val fun t => { t with cr := t.cc, cc := t.cr }
    pure .seq

/-! ## Tensor maps (R150) -/

/-- TMSET (R150). -/
def execTmset (tm : Tm) (p : Pr) : State → Out :=
  unit (.tmset tm p) do
    let d : V512 := BitVec.ofNat 512 (packWords (← loadWords p 16))
    if d != 0 then
      match tmBad d with
      | some o => trap cILLEGAL o
      | none => pure ()
    let d ← encoded 4 (mapCode (← get).ctx.val tm.val) 512 d
    modMe fun x => { x with tm := x.tm.set tm.val d tm.isLt }
    pure .seq

/-- TMGET (R150). -/
def execTmget (p : Pr) (tm : Tm) : State → Out :=
  unit (.tmget p tm) do
    let d ← readMap tm
    storeWords p (sixteen.map fun i => fld d.toNat (32 * i) 32)
    pure .seq

/-! ## Remote commands, at the sender (R160) -/

/-- A granule of an object at offset off, as a pointer: untagged beyond len. -/
def blockPtr (p : Pr) (off : Nat) : M PReg := do
  if (← preg p).len < off + 16 then pure .null else
  let (k, _) ← inPlaceOf p
  atOff p off (readGranule (k + off))

/-- MCMD (R160). -/
def execMcmd (s : Sc) (p : Pr) : State → Out :=
  unit (.mcmd s p) (using_ { ss := [s.val] } do
    let _ ← checkPerm p true true
    let r ← atOff p 12 do
      match (← me).latch with
      | some vs => pure (vs.headD 0)
      | none =>
        match ← access p 12 4 4 true false with
        | none => pure 0
        | some _ => pure ((← waited (.words .load p 4 [12] [])).headD 0)
    let ws ← loadWords p 48
    let pa ← blockPtr p 16
    let pb ← blockPtr p 32
    let target := (← readS s.val).toNat
    if r == 0 then
      match ← access p 8 4 4 false true with
      | none => pure ()
      | some k => atOff p 8 (storeBytes p 8 k (bytesOf 4 1) (some true))
      modify State.settled
    else
      let st ← get
      let x ← me
      let away := fld target 13 9 != st.pkg.pkgid.toNat || fld target 7 6 != coreClu st.core
      let dst := if away then st.core else fld target 3 10
      let blk := bytesOf 192 (packWords ws)
      let c : MCmd :=
        { blk, pa, pb, repeats := r, done := ← preg p, key := BitVec.ofNat 32 (leAt blk 4 4)
          core := st.core, ctx := st.ctx, actId := x.actId, part := x.part, away }
      modify fun s => s.request s.core s.ctx x.actId dst x.prio (.matrix c) (.mcmdAccept dst) 6
    pure .seq)

end Sys2Proof.Machine
end

