-- ==== Sys2Proof/Machine/Command.lean ====
section
/-! DEFINITION. Remote matrix commands at the receiving matrix unit (06 R159-R161), and the filling of the operand
buffer (06 R154). -/

namespace Sys2Proof.Machine

/-- MATRIX_COMMAND_ACCEPT (R160, R161, R238): the next command on its way to a matrix unit, past the core's port. -/
def execMatrixCommandAccept (core : Fin 1024) (s : State) : Out :=
  match s.firstSent fun r => r.res == .command core.val with
  | some r => .next ((s.updCore core.val fun k => { k with port := r.source }).present r)
  | none => .next s

/-- A command's operand, with its map's base moved by some repeats. -/
def cmdOperand (c : MCmd) (p : PReg) (m : V512) (step : Int) : M Operand := do
  let (k, o) ← locateUp (p.key c.part.toNat)
  let dead := (o.map fun h => h.2.state == stDead).getD false
  let pane ← paneOf p
  pure { reg := 0, ptr := p, at_ := k, dead, map := tmShift m (step * c.finished), pane
         fmt := paneFmt pane (c.field 6 4) }

/-- One repeat of a command, on behalf of the tile's owner (R160). -/
def cmdWork (c : MCmd) : M Unit := do
  let t := c.field 4 2
  let op := c.field 0 4
  let k ← myCore
  let f64 := c.fmt k c.pa == 8 || c.fmt k c.pb == 8
  if op == 3 then
    writeTile t []
    modTile t fun v => { v with cr := 0, cc := 0, cv := true }
  else
    let a ← cmdOperand c c.pa c.mapA (signedOf 64 (c.field 384 64))
    let b ← cmdOperand c c.pb c.mapB (signedOf 64 (c.field 448 64))
    let k := tmExt a.map 0
    let as ← readA a none 0
    let bs ← readB b none k 0
    multiply t f64 (op == 2) (op == 1 && c.finished == 0) as bs k

/-- The first command of a queue ends. -/
def State.endCmd (s : State) (core : Nat) (c : MCmd) (status : Nat) : State :=
  let s := ((s.updCore core fun k => { k with cmds := k.cmds.drop 1 }).cmdDone core c status).freed (.command core)
  if (s.coreAt core).cmds.isEmpty then s else s.later 1 (.mcmdRepeat core)

/-- MATRIX_COMMAND_REPEAT (R160): one repeat of the first command. A tile that has lost its owner refuses it (R285);
poison rolls the owner back (R233). -/
def execMatrixCommandRepeat (core : Fin 1024) (s : State) : Out :=
  let n := core.val
  match (s.coreAt n).cmds with
  | [] => .next s
  | c :: cs =>
    match c.owner (s.coreAt n) with
    | none => .next (s.endCmd n c 3)
    | some x =>
      if c.lost then .next (s.endCmd n c 3) else
      match M.filled (cmdWork c) { s with core := n, ctx := x } with
      | .ok _ t =>
        let t := { t with core := s.core, ctx := s.ctx }
        let c' := { c with finished := c.finished + 1 }
        if c.field 0 4 == 3 || c.repeats ≤ c'.finished then .next (t.endCmd n c 1)
        else .next ((t.updCore n fun k => { k with cmds := c' :: cs }).later 1 (.mcmdRepeat n))
      | .error (.rollback cause val) t =>
        .next (((s.keepLogs n t).rollback n x cause (s.ctxAt n x).pc.toNat val).endCmd n c 3)
      | .error (.page k need _ _) _ =>
        .next ((s.enginePage n x k need).later 64 (.mcmdRepeat n))
      | .error _ _ => .next (s.later 8 (.mcmdRepeat n))

/-- An injection armed on a word of the operand buffer among the 32 that row f holds acts as they are written (R235): a
silent flip stands in the buffer, and any other is an error that its parity finds (R233). -/
def State.injectRow (s : State) (c f : Nat) (b : OpBuf) : State :=
  match s.armed c 9 with
  | none => s
  | some v =>
    let a := fld v 8 20
    if a / 32 != f then s else
    let s := s.disarm c
    if bit v 34 then
      let bits := (fld v 28 6 % 128) :: (if bit v 35 then [(fld v 28 6 + 1) % 128] else [])
      s.updCore c fun k => { k with opbuf := some { b with wrong := b.wrong ++ bits.map (128 * a + ·) } }
    else s.updCore c fun k => { k with flips := k.flips ++ [(9, a, true)] }

/-- MLD_FILL (R154): the operand port reads one row of the buffer. -/
def execMldFill (core : Fin 1024) (s : State) : Out :=
  match (s.coreAt core.val).opbuf with
  | none => .next s
  | some b =>
    let f := min b.rows (b.filled + 1)
    let b' := { b with filled := f }
    let s := (s.updCore core.val fun k => { k with opbuf := some b' }).injectRow core.val b.filled b'
    .next (if f < b.rows then s.later 1 (.mldFill core.val) else s)

end Sys2Proof.Machine
end

