-- ==== Sys2Proof/Machine/Copy.lean ====
section
/-! DEFINITION. Copy jobs (12 R258-R269, R272-R274): parameter blocks and their cache, acceptance, beats, rise
words, completion, status and quiescence; sub-byte landings (07 R186); hatch permits (R265). -/

namespace Sys2Proof.Machine

/-! ## Parameter blocks (R259, R260) -/

/-- ctl. -/
def Job.ctl (j : Job) : Nat := fld j.blk.toNat 960 64
/-- The full/empty treatment. -/
def Job.fet (j : Job) : Nat := fld j.ctl 3 2
/-- The transform. -/
def Job.xf (j : Job) : Nat := fld j.ctl 5 4
/-- ORD. -/
def Job.ord (j : Job) : Bool := bit j.ctl 9
/-- SETF. -/
def Job.setf (j : Job) : Bool := bit j.ctl 10
/-- RISE. -/
def Job.rises (j : Job) : Bool := bit j.ctl 11
/-- INT. -/
def Job.int (j : Job) : Bool := bit j.ctl 12
/-- tdim. -/
def Job.tdim (j : Job) : Nat := fld j.ctl 13 3
/-- NOPEND. -/
def Job.nopend (j : Job) : Bool := bit j.ctl 16
/-- t0. -/
def Job.t0 (j : Job) : Nat := fld j.ctl 32 32
/-- The extent E(d). -/
def Job.ext (j : Job) (d : Nat) : Nat :=
  fld j.blk.toNat (384 + 32 * d) 32 * (if d == 5 then j.guard.toNat else 1)
/-- A source element, or a transform's input unit, in half bytes. -/
def Job.hs (j : Job) : Nat := if 2 ≤ j.xf then 2 * xfIn j.xf else 2 ^ fld j.ctl 0 3
/-- A destination element, or a transform's output unit, in half bytes. -/
def Job.hd (j : Job) : Nat := if 2 ≤ j.xf then 2 * xfOut j.xf else 2 ^ fld j.ctl 0 3
/-- The elements of a tile. -/
def Job.inner (j : Job) : Nat := (upTo (j.tdim + 1)).foldl (fun a d => a * j.ext d) 1
/-- T: the tiles of the pattern. -/
def Job.outer (j : Job) : Nat := ((upTo 6).filter (j.tdim < ·)).foldl (fun a d => a * j.ext d) 1
/-- The job moves nothing. -/
def Job.isEmpty (j : Job) : Bool := j.inner == 0 || j.outer ≤ j.t0
/-- A tile's bytes. -/
def Job.tileBytes (j : Job) : Nat := (j.inner * j.hd + 1) / 2
/-- The bytes of the tiles not completed (R260, R288). -/
def Job.rem (j : Job) : Nat := if j.isEmpty then 0 else (j.outer - j.t0 - j.tiles) * j.tileBytes
/-- The number of the next element in pattern order. -/
def Job.next (j : Job) : Nat := (j.t0 + j.tiles) * j.inner + j.elem

/-- The dot product of an element's indices with strides, from dimension d. f counts elements in pattern order. -/
def Job.walk (j : Job) (stride : Nat → Int) : Nat → Nat → Nat → Int
  | 0, _, _ => 0
  | n + 1, d, f =>
    let e := max 1 (j.ext d)
    (f % e : Nat) * stride d + j.walk stride n (d + 1) (f / e)

/-- The source element of element f. -/
def Job.srcElem (j : Job) (f : Nat) : Int :=
  j.walk (fun d => signedOf 32 (fld j.blk.toNat (576 + 32 * d) 32)) 6 0 f
/-- The destination element of element f. -/
def Job.dstElem (j : Job) (f : Nat) : Int :=
  j.walk (fun d => signedOf 32 (fld j.blk.toNat (768 + 32 * d) 32)) 6 0 f

/-- The first byte and the bytes of element e of h half bytes; none where it is negative or reaches beyond len. -/
def elemRange (h len : Nat) (e : Int) : Option (Nat × Nat) :=
  let lo := (e * h / 2).toNat
  let n := max 1 (h / 2)
  if e < 0 || len < lo + n then none else some (lo, n)

/-- The 64-byte span that element e lies in, at place k (R258). -/
def spanOf (k h : Nat) (e : Int) : Int := ((2 * k : Nat) + e * h) / 128

/-! ## Rise words (R266-R268) -/

/-- A rise word is updated in one step at its home (R261, R266, R267): a new target, bytes counted, and a change of
pend. False where its granule is poisoned: nothing is updated (R295). -/
def updateRise (p : PReg) (part : Nat) (target : Option Nat) (count : Nat) (pend : Int) : M Bool := do
  let (k, _) ← locateUp (p.key part)
  if ← anyPoison k 16 then pure false else
  let bs ← readRaw k 16
  let tgt := target.getD (leAt bs 0 4)
  let c := (leAt bs 4 4 + count) % 2 ^ 32
  let (c', gen) := if target.isSome || count != 0 then
      (if tgt == 0 then (c, leAt bs 8 4) else (c % tgt, (leAt bs 8 4 + c / tgt) % 2 ^ 32))
    else (c, leAt bs 8 4)
  let pd := (max 0 ((leAt bs 12 4 : Int) + pend)).toNat % 2 ^ 32
  writeRaw k (bytesOf 4 tgt ++ bytesOf 4 c' ++ bytesOf 4 gen ++ bytesOf 4 pd)
  if gen != leAt bs 8 4 then modify State.settled
  pure true

/-- A rise word or a snapshot in error (R295): cause 13 names the issuing context. -/
def State.riseError (s : State) (core : Nat) (ctx : Fin 8) (m : Msg) : State :=
  s.contain core { cause := 13, cls := m.cls.toNat, wuid := m.wuid.toNat, at_ := s.ctxId core ctx
                   sender := m.sender.toNat, slot := m.slot.toNat }

/-- A rise word's pointer is of kind 5 and reaches its 16 bytes, which a discarded object does not hold (R61). -/
def risePtr (q : PReg) : M Bool := do
  if q.kind == 5 && 16 ≤ q.len then
    let (_, o) ← locateUp (q.key (← me).part.toNat)
    pure (!(o.map fun e => e.2.state == stDead).getD false)
  else pure false

/-- The checks of RISE and RISEW (R268), and their place in the program order after the context's atomics on the word (R385
row 1). -/
def checkRise (p : Pr) (needR needW : Bool) : M PReg := do
  let q ← checkPerm p needR needW
  require (← atOff p 0 (risePtr q)) cPERM 0 (some p)
  atOff p 0 do
    let (k, _) ← locateUp (q.key (← me).part.toNat)
    afterAmoOn k 16
  pure q

/-- RISE (R268). -/
def execRise (p : Pr) (a : Sc) : State → Out :=
  unit (.rise p a) (using_ { ss := [a.val] } do
    let q ← checkRise p false true
    let v ← readS a.val
    atOff p 0 do
      let x ← me
      let ok ← updateRise q x.part.toNat (some (v.toNat % 2 ^ 32)) 0 0
      if !ok then
        let m : Msg := { cls := x.classno, wuid := x.wuid, sender := x.sender, slot := x.slot }
        modify fun s => s.riseError s.core s.ctx m
    pure .seq)

/-- RISEW (R268). -/
def execRisew (p : Pr) (a : Sc) : State → Out :=
  unit (.risew p a) (using_ { ss := [a.val] } do
    let _ ← checkRise p true false
    let v ← readS a.val
    afterRels
    if (← me).latch.isNone then discard (atOff p 8 (waited (.gen p (v.setWidth 32))))
    pure .seq)

/-! ## COPY (R261) -/

/-- The guard count, waited for at its word; zero where the guard is out of range. -/
def guardCount (pg : Pr) : M Nat := do
  match (← me).latch with
  | some vs => pure (vs.headD 0)
  | none => atOff pg 0 do
    match ← access pg 0 4 4 true false with
    | none => pure 0
    | some _ => pure ((← waited (.words .load pg 4 [0] [])).headD 0)

/-- COPY (R261). Its request goes to the copy unit with the guard count, and it completes when it has been
accepted. -/
def execCopy (d : Sc) (p pg : Pr) : State → Out :=
  unit (.copy d p pg) (using_ { ds := [d.val] } do
    match (← me).latch with
    | some [_, id] =>
      writeS d.val (BitVec.ofNat 64 id)
      return .seq
    | _ => pure ()
    let _ ← checkPerm pg true false
    let r ← guardCount pg
    if r == 0 then
      let s ← get
      let u := unitOf s.core
      modify fun s => s.addReport u 2
      modMe fun q => { q with evt := true }
      writeS d.val (jobId u (s.unitAt u).num)
      pure .seq
    else
      let q ← checkPerm p true false
      require (q.kind == 4) cPERM 0 (some p)
      throw (.copyReq (BitVec.ofNat 32 r) p))

/-! ## Acceptance (R258, R262, R263) -/

/-- Entries of the job queue that a core uses. -/
def CopyUnit.used (u : CopyUnit) (c : Nat) : Nat := (u.jobs.filter (·.core == c)).length

/-- Shared entries in use, of 16. -/
def CopyUnit.shared (u : CopyUnit) : Nat :=
  (once (u.jobs.map Job.core)).foldl (fun n c => n + (u.used c - 2)) 0

/-- A request finds no entry of the job queue free. -/
def CopyUnit.noEntry (u : CopyUnit) (r : CopyReq) : Bool := 2 ≤ u.used r.core && 16 ≤ u.shared

/-- The request that the unit accepts next: in order of arrival; those that have waited for a shared entry take it in
round-robin order of core number. -/
def CopyUnit.chosen (u : CopyUnit) : Option CopyReq :=
  match u.reqs.find? (!u.noEntry ·) with
  | none => none
  | some r =>
    if !r.waits || u.used r.core < 2 then some r else
    let waits := u.reqs.filter fun r => r.waits && 2 ≤ u.used r.core
    let dist := fun (r : CopyReq) => (r.core + 15 - u.lastCore) % 16
    some (waits.foldl (fun b r => if dist r < dist b then r else b) r)

/-- The snapshot of a block (R262): from the cache, or fetched, with the cache after it; bytes beyond the pointer's length
are zero, so that an entry serves pointers of one length. A cache entry that is lost is fetched again (R295). -/
def snapshot (u : Nat) (p : Fin 16) (lost : Bool) : M CacheLine := atOff p 0 do
  let x ← me
  let q := x.p[p]
  let (k, o) ← locateUp (q.key x.part.toNat)
  let ver : BitVec 16 := BitVec.ofNat 16 ((o.map fun e => e.2.version).getD 0)
  let v := (← get).unitAt u
  let n := if (o.map fun e => e.2.state == stDead).getD false then 0 else min 128 q.len
  let same := fun (l : CacheLine) => l.key == k && l.len == n
  let line ← match v.cache.find? fun l => !lost && same l && l.version == ver with
    | some l => pure l
    | none =>
      let bs ← if n == 0 then pure [] else readBytes k n
      let ptr := fun (o : Nat) => if n < o + 16 then pure PReg.null else do
        let g ← phys (k + o) aR
        pure ({ bits := BitVec.ofNat 128 (leAt bs o 16), tag := (← get).mem.isTagged g } : PReg)
      pure { key := k, version := ver, len := n, blk := BitVec.ofNat 1024 (natOf bs)
             src := ← ptr 0, dst := ← ptr 16, rise := ← ptr 32 }
  modify fun s => s.updUnit u fun v =>
    { v with cache := (line :: v.cache.filter fun l => !same l).take 16 }
  pure line

/-- The checks of R263, in order. -/
def checkBlock (p : Fin 16) (j : Job) : M Unit := do
  let esz := fld j.ctl 0 3
  require (j.fet != 3 && j.xf < 13 && j.tdim < 6 && (j.xf < 2 || 2 ^ esz == 2 * xfIn j.xf)) cILLEGAL 120 (some p)
  let s ← get
  require (j.src.tag && !s.malformed j.src && j.src.r) cPERM 0 (some p)
  require (j.dst.tag && !s.malformed j.dst && j.dst.w) cPERM 16 (some p)
  if j.rises then
    require (j.rise.tag && !s.malformed j.rise && j.rise.w) cPERM 32 (some p)
    require (← atOff p 32 (risePtr j.rise)) cPERM 32 (some p)

/-- The header of the issuing activation, as its completion activations carry it (R272). -/
def Ctx.header (q : Ctx) : Msg :=
  { cls := q.classno, tag := q.routetag, wuid := q.wuid, prio := q.prio, sender := q.sender, redel := q.redel
    slot := q.slot, part := q.part, launch := q.launch }

/-- A job is accepted (R261): its pend is promised, it gets its number, and its data may move 8 ck later. One that
moves nothing performs its actions 4 ck later (R260). -/
def acceptJob (u : Nat) (r : CopyReq) (lost : Bool) : M DWord := do
  let line ← snapshot u r.p lost
  let x ← me
  let s ← get
  let num := (s.unitAt u).num
  let j : Job :=
    { num, core := r.core, ctx := r.ctx, actId := r.actId, part := x.part, blk := line.blk, src := line.src
      dst := line.dst, rise := line.rise, guard := r.guard, msg := x.header, startAt := s.ck + 8 }
  checkBlock r.p j
  if j.rises && !j.nopend && j.rem != 0 then
    let ok ← atOff r.p 32 (updateRise j.rise j.part.toNat none 0 j.rem)
    if !ok then modify fun s => s.riseError r.core r.ctx j.msg
  let j := if j.isEmpty then { j with finished := true, doneAt := s.ck + 4 } else j
  modify fun s =>
    let s := (s.addReport u 0).updUnit u fun v => { v with jobs := v.jobs ++ [j], lastCore := r.core % 16 }
    if j.finished then s.later 4 (.copyDone u) else s.soon 8 (.copyBeat u)
  pure (jobId u num)

/-- COPY_ACCEPT (R261-R263): the request leaves the unit; its COPY completes with the identifier, or takes the trap
of its block. A disturbance may put the cache entry of that block in error (R295). -/
def execCopyAccept (unit : Fin 128) : State → Out := struck fun upset s =>
  let u := unit.val
  let live := fun (r : CopyReq) =>
    let q := s.ctxAt r.core r.ctx
    q.actId == r.actId && match q.run with
      | .copying => true
      | _ => false
  let s := s.updUnit u fun v =>
    { v with reqs := (v.reqs.filter live).map fun r => { r with waits := r.waits || v.noEntry r } }
  match (s.unitAt u).chosen with
  | none => .next s
  | some r =>
    let s := s.updUnit u fun v => { v with reqs := v.reqs.filter (· != r) }
    let s := if (s.unitAt u).reqs.isEmpty then s else s.soon 1 (.copyAccept u)
    let s := s.updCtx r.core r.ctx fun q => { q with run := .live }
    let own := { s with core := r.core, ctx := r.ctx }
    let back := fun (t : State) => { t with core := s.core, ctx := s.ctx }
    match M.filled (acceptJob u r (upset == .lost)) own with
    | .ok id t => .next (back (t.updCtx r.core r.ctx fun q => { q with latch := some [r.guard.toNat, id.toNat] }))
    | .error e t => .next (back ((own.updCore r.core fun k => k.release r.ctx.val).stopped e t))

/-! ## Movement and landing (R264) -/

/-- Some element from number g on, of n, writes a byte from lo to hi - 1 of the destination. -/
def Job.laterWrite (j : Job) (len : Nat) (lo hi : Int) : Nat → Nat → Bool
  | 0, _ => false
  | n + 1, g =>
    (match elemRange j.hd len (j.dstElem g) with
     | some (a, m) => (a : Int) < hi && lo < (a + m : Nat)
     | none => false) || j.laterWrite len lo hi n (g + 1)

/-- Element f completes the word whose bytes lie from lo at the destination (R264). -/
def Job.completes (j : Job) (len : Nat) (lo : Int) (f : Nat) : Bool :=
  !j.laterWrite len lo (lo + 4) (j.outer * j.inner - (f + 1)) (f + 1)

/-- Where a beat moves: the places of the two objects' offset 0, their lengths (0 where dead), and the places
themselves. -/
structure Ends where
  ks : Nat
  slen : Nat
  kd : Nat
  dlen : Nat
  deriving DecidableEq, Repr

/-- The ends of a job, with forwarding followed. -/
def jobEnds (j : Job) : M Ends := do
  let find := fun (p : PReg) => do
    let (k, o) ← locateUp (p.key j.part.toNat)
    let dead := (o.map fun e => e.2.state == stDead).getD false
    pure (k, if dead then 0 else p.len)
  let (ks, slen) ← find j.src
  let (kd, dlen) ← find j.dst
  pure { ks, slen, kd, dlen }

/-- The source bytes of an element: an overlapped one may be read with its original value (R264, log 4). -/
def sourceBytes (j : Job) (k n : Nat) : M (List Byte) := do
  let bs ← readRaw k n
  if (SMap.slice j.olds k (k + n)).isEmpty then pure bs else
  let s ← get
  set { s with fresh := s.fresh + 1 }
  if Config.overlapOld s.fresh then pure (bs.zipIdx.map fun (b, i) => SMap.get b j.olds (k + i)) else pure bs

/-- The job remembers the original bytes of source bytes that it is about to overwrite. -/
def keepOld (j : Job) (e : Ends) (k n : Nat) : M Job := do
  if k + n ≤ e.ks || e.ks + e.slen ≤ k then pure j else
  let bs ← readRaw k n
  pure { j with olds := bs.zipIdx.foldl (fun m (b, i) =>
    if (SMap.find m (k + i)).isSome then m else SMap.put m (k + i) b) j.olds }

/-- The full/empty bit that the word at offset w gets from element f (R264), or none where it keeps its own. -/
def wordBit (j : Job) (e : Ends) (f w lo n : Nat) (src : Option (Nat × Nat)) : M (Option Bool) := do
  if !j.completes e.dlen ((w : Int) - e.kd) f then pure none
  else if j.xf == 1 || j.fet == 1 then pure (some true)
  else if j.fet == 2 then pure none
  else match src with
    | none => pure (some false)
    | some (a, m) =>
      let y := min (w + 3) (e.kd + lo + n - 1) - (e.kd + lo)
      let o := if 2 ≤ j.xf then m - 1 else if j.hd == 1 then 0 else y
      pure (some (← allFull (e.ks + a + o) 1 true aR))

/-- Bytes land at place k, poisoned where their source was (R295), with the bits of their words. -/
def land (k : Nat) (bs : List Byte) (bad : Bool) (bits : List (Nat × Option Bool)) : M Unit := do
  writeRaw k bs
  if bad then
    (granules k bs.length).forM fun g => do
      let p ← phys g aW
      modify fun s => s.updMem fun m => m.setPoison p true
  bits.forM fun (w, b) => match b with
    | some b => setFE w 4 b aW
    | none => pure ()

/-- The next element of a job is moved, in the beat whose first element is numbered beat; lost says that the beat is in
error (R295). -/
def moveElem (u : Nat) (e : Ends) (beat : Nat) (lost : Bool) (j : Job) : M Job := do
  let f := j.next
  let se := j.srcElem f
  let src := elemRange j.hs e.slen se
  let dst := elemRange j.hd e.dlen (j.dstElem f)
  let j := { j with elem := j.elem + 1, rng := j.rng || src.isNone || dst.isNone }
  match dst with
  | none => pure j
  | some (lo, n) =>
    let (raw, bad) ← match src with
      | none => pure (List.replicate (max 1 (j.hs / 2)) 0, false)
      | some (a, m) => do pure (← sourceBytes j (e.ks + a) m, ← anyPoison (e.ks + a) m)
    let bad := bad || lost
    let k := e.kd + lo
    if j.hd == 1 then
      let v : BitVec 4 := BitVec.ofNat 4 (fld (natOf raw) (4 * (se % 2).toNat) 4)
      let high := (j.dstElem f) % 2 == 1
      let b ← wordBit j e f (k / 4 * 4) lo n src
      if spaceOf k < 1024 then
        let w : SubByte := ⟨j.dst, j.part.toNat, lo, high, v, b, bad, u, j.num, beat⟩
        modify fun s => { s with subs := s.subs ++ [w] }.later 1 .subByte
        pure j
      else
        let j ← keepOld j e k 1
        let old := natOf (← readRaw k 1)
        land k [BitVec.ofNat 8 (setFld old (if high then 4 else 0) 4 v.toNat)] bad [(k / 4 * 4, b)]
        pure j
    else
      let j ← keepOld j e k n
      let bits ← (wordsOf k n).mapM fun w => do pure (w, ← wordBit j e f w lo n src)
      land k (if 2 ≤ j.xf then xfUnit j.xf raw else raw) bad bits
      pure j

/-- The elements of a beat (R258): the first, and those that follow it in its tile, in the same spans, within 64
bytes. room counts half bytes. -/
def beatElems (u : Nat) (e : Ends) (beat : Nat) (lost : Bool) : Nat → Option (Int × Int) → Nat → Job → M Job
  | 0, _, _, j => pure j
  | fuel + 1, first, room, j => do
    if j.inner ≤ j.elem then pure j else
    let sp := (spanOf e.ks j.hs (j.srcElem j.next), spanOf e.kd j.hd (j.dstElem j.next))
    match first with
    | some g => if g != sp || room < j.hd then return j
    | none => pure ()
    let j ← moveElem u e beat lost j
    beatElems u e beat lost fuel (some sp) (room - j.hd) j

/-- A beat, with what follows it at its home: the version of a kind-4 object (R166), unless its writes are still on
their way (R186), and the scan of R183. -/
def beat (u : Nat) (j : Job) (lost : Bool) : M Job := do
  let e ← jobEnds j
  let first := j.next
  let j ← beatElems u e first lost 128 none 128 j
  let landed := (upTo (j.next - first)).findSome? fun i => elemRange j.hd e.dlen (j.dstElem (first + i))
  match landed with
  | some (lo, _) => if !(j.hd == 1 && spaceOf e.kd < 1024) then bumpVersion (e.kd + lo)
  | none => pure ()
  modify State.settled
  pure j

/-- The core whose local store holds the place that a pointer reaches, if one does. -/
def State.storeOf (s : State) (p : PReg) (part : Nat) : Option Nat :=
  let k := match (locate (p.key part)).try? s with
    | some ((k, _), _) => k
    | none => p.key part
  if k < localBase 1024 then some (spaceOf k) else none

/-- The beats of a unit that are in flight to a core (R265). -/
def State.inFlight (s : State) (u c : Nat) : Nat :=
  ((s.subs.filter fun b => b.unit == u && s.storeOf b.ptr b.part == some c).map fun b => (b.num, b.beat)).eraseDups.length

/-- The hatch of the core whose local store holds a job's destination admits no beat of this unit now (R265). -/
def State.hatchClosed (s : State) (u : Nat) (j : Job) : Bool :=
  match s.storeOf j.dst j.part.toNat with
  | none => false
  | some c =>
    c / 16 == u / 2 && (s.coreAt c).hatch[if unitOf c == u then (0 : Fin 2) else 1].toNat ≤ s.inFlight u c

/-- A job of a unit replaced. -/
def CopyUnit.setJob (u : CopyUnit) (j : Job) : CopyUnit :=
  { u with jobs := u.jobs.map fun i => if i.num == j.num then j else i }

/-- The unit's jobs that run: the first four whose last write is not performed. -/
def CopyUnit.running (u : CopyUnit) : List Job := (u.jobs.filter fun j => !j.finished).take 4

/-- An earlier ORD job of the unit has not ended (R269). -/
def CopyUnit.ordWaits (u : CopyUnit) (j : Job) : Bool :=
  j.ord && (u.jobs.takeWhile fun i => i.num != j.num).any Job.ord

/-- The status of a job that a unit knows (R273). -/
def CopyUnit.status (u : CopyUnit) (id half : Nat) : DWord :=
  match u.report.find? fun e => e.1 % 65536 == id % 65536 with
  | none => 4
  | some e =>
    if id / 65536 != half then 4 else
    match u.jobs.find? fun j => j.num == e.1 with
    | some j => j.status (if j.finished || u.running.any (·.num == e.1) then 1 else 0)
    | none => e.2

/-- A job ends without completing (R274): it reports a state. -/
def State.endJob (s : State) (u : Nat) (j : Job) (state : Nat) : State :=
  let q := s.ctxAt j.core j.ctx
  let saving := q.saving && q.actId == j.actId
  ((((s.updUnit u fun v => v.endJob j state saving).wakeJob u j.num).soon 1 (.copyBeat u)).soon 1 (.copyAccept u)).soon
    1 (.copyDone u)

/-- The last write of a tile has been performed (R266): its rise word is updated; the job goes on, stops (R274), or
has performed its last write. -/
def tileEnd (u : Nat) (j : Job) : M Unit := do
  if j.rises then
    let ok ← updateRise j.rise j.part.toNat none j.tileBytes (-(j.tileBytes : Int))
    if !ok then modify fun s => s.riseError j.core j.ctx j.msg
  let j := { j with tiles := j.tiles + 1, elem := 0 }
  let s ← get
  set <| match j.stopAt with
    | some st => s.endJob u j st.toNat
    | none =>
      if j.outer ≤ j.t0 + j.tiles then
        (s.updUnit u fun v => v.setJob { j with finished := true, doneAt := s.ck + 4 }).later 4 (.copyDone u)
      else s.updUnit u fun v => v.setJob j

/-- Work for a job: a page that it needs is asked for, and the job pauses (R307). -/
def State.forJob (s : State) (u : Nat) (j : Job) (m : M Unit) : Option State :=
  match M.as j.core j.ctx m s with
  | .ok _ t => some t
  | .error (.page k need _ _) _ => some (s.pageFault k need (s.ctxId j.core j.ctx) (.job u j.num))
  | .error _ _ => none

/-- The job waits for a page. -/
def State.jobPaged (s : State) (u : Nat) (j : Job) : Bool :=
  s.dies.toList.any fun v => v.stks.toList.any fun q =>
    (q.faults ++ q.waiting).any fun f => f.who == .job u j.num

/-- A sift holds the pad that a job's destination lies in: nothing lands there until it ends (R179). -/
def State.landingHeld (s : State) (j : Job) : Bool :=
  !s.sifts.isEmpty && (match s.storeOf j.dst j.part.toNat with
    | some c => s.siftRuns c
    | none => match s.padOf (j.dst.key j.part.toNat) with
      | some i => s.siftRuns i
      | none => false)

/-- Writes of four bits of a job are on their way. -/
def State.subsOf (s : State) (u : Nat) (j : Job) : Bool := s.subs.any fun b => b.unit == u && b.num == j.num

/-- The last write of a job's tile has been performed. -/
def State.tileOver (s : State) (u : Nat) (j : Job) : Bool := j.inner ≤ j.elem && !s.subsOf u j

/-- A job moves one beat, or ends a tile; none where it is passed over (R258). upset is what befalls the beat, or the
job's snapshot (R295). -/
def State.jobStep (s : State) (u : Nat) (upset : Upset) (j : Job) : Option State :=
  if (s.unitAt u).ordWaits j || s.jobPaged u j || s.ck < j.startAt || s.landingHeld j then none
  else if upset == .snapshot then some ((s.riseError j.core j.ctx j.msg).endJob u j 5)
  else if j.inner ≤ j.elem then
    if s.subsOf u j then none else s.forJob u j (tileEnd u j)
  else if s.hatchClosed u j then none
  else s.forJob u j do
    let j ← beat u j (upset == .lost)
    modify fun s => s.updUnit u fun v => v.setJob j
    if (← get).tileOver u j then tileEnd u j

/-- An error that a crossbar's code corrects is counted (R295). -/
def State.countUpset (s : State) (clu : Nat) (upset : Upset) : State :=
  if upset != .corrected then s else s.updClu clu fun c =>
    let v := c.cluerr.toNat
    { c with cluerr := BitVec.ofNat 64 (setFld v 32 32 (min (fld v 32 32 + 1) (2 ^ 32 - 1))) }

/-- COPY_BEAT (R258, R264): running jobs take turns, in the order of their acceptance. -/
def execCopyBeat (unit : Fin 128) : State → Out := struck fun upset s =>
  let u := unit.val
  let s := s.countUpset (u / 2) upset
  let js := (s.unitAt u).running
  let ahead := fun (j : Job) => (s.unitAt u).turn < j.num
  let go := (js.filter ahead ++ js.filter (!ahead ·)).findSome? fun j => (s.jobStep u upset j).map fun t =>
    t.updUnit u fun v => { v with turn := j.num }
  match go with
  | some t => .next (if (t.unitAt u).running.isEmpty then t else t.soon 1 (.copyBeat u))
  | none => .next (if js.isEmpty then s else s.soon 8 (.copyBeat u))

/-- A write of four bits is carried out as a read-modify-write of its byte (R186). -/
def SubByte.work (b : SubByte) : M Unit := do
  let (k, _) ← locateUp (b.ptr.key b.part + b.off)
  let old := natOf (← readRaw k 1)
  land k [BitVec.ofNat 8 (setFld old (if b.high then 4 else 0) 4 b.value.toNat)] b.bad [(k / 4 * 4, b.fe)]
  bumpVersion k
  modify State.settled

/-- The first of some writes of four bits that can be performed, past those of jobs that wait for a page: held are
the objects whose writes so far could not. A page that one needs is asked for in the name of its job. -/
def State.writeSub (s : State) (held : List PReg) : List SubByte → State
  | [] => s.later 8 .subByte
  | b :: bs =>
    match (s.unitAt b.unit).jobs.find? (·.num == b.num) with
    | none => { s with subs := s.subs.erase b }
    | some j =>
      let inScope := match s.storeOf b.ptr b.part with
        | some c => s.siftRuns c || s.halted (coreDie c)
        | none => false
      if held.contains b.ptr || inScope || s.halted (b.unit / 32) || s.jobPaged b.unit j then s.writeSub (b.ptr :: held) bs
      else match s.forJob b.unit j b.work with
        | none => s.writeSub (b.ptr :: held) bs
        | some t =>
          if t.jobPaged b.unit j then t.writeSub (b.ptr :: held) bs
          else
            let t := { t with subs := t.subs.erase b }
            let t := if t.tileOver b.unit j then (t.forJob b.unit j (tileEnd b.unit j)).getD t else t
            t.soon 1 (.copyBeat b.unit)

/-- SUB_BYTE_WRITE (R186): the oldest write of four bits that can be performed is. -/
def execSubByteWrite (s : State) : Out := .next (if s.subs.isEmpty then s else s.writeSub [] s.subs)

/-! ## Completion (R266, R272) -/

/-- SETF: every in-range destination word of the job is full. -/
def setWords (j : Job) (e : Ends) : Nat → Nat → M Unit
  | 0, _ => pure ()
  | n + 1, f => do
    match elemRange j.hd e.dlen (j.dstElem f) with
    | some (lo, m) => setFE (e.kd + lo) m true aW
    | none => pure ()
    setWords j e n (f + 1)

/-- A completion activation is raised (R272); with the internal queue full, the unit holds it (R314). -/
def State.raiseCompletion (s : State) (u : Nat) (j : Job) : State :=
  let c : Completion := { ent := BitVec.ofNat 16 (fld j.ctl 17 15), job := jobId u j.num, msg := j.msg }
  let s := s.launchMore j.msg.launch
  if 8 ≤ (s.coreAt j.core).internal then s.updUnit u fun v => { v with held := v.held ++ [(j.core, c)] }
  else s.join j.core false { prio := j.msg.prio, work := .completion c }

/-- COPY_COMPLETION (R266): the first job whose actions are due performs them and is complete; jobs with ORD do so in
the order of their acceptance (R269). -/
def execCopyCompletion (unit : Fin 128) (s : State) : Out :=
  let u := unit.val
  match (s.unitAt u).jobs.find? fun j =>
      j.finished && j.doneAt ≤ s.ck && !s.jobPaged u j && !(s.unitAt u).ordWaits j with
  | none => .next s
  | some j =>
    let work : M Unit := do
      if j.setf && !j.isEmpty then
        setWords j (← jobEnds j) ((j.outer - j.t0) * j.inner) (j.t0 * j.inner)
        modify State.settled
      modify fun s =>
        let q := s.ctxAt j.core j.ctx
        let s := if q.actId == j.actId && q.run != .free then s.updCtx j.core j.ctx fun q => q.event else s
        let s := if j.int then s.raiseCompletion u j else s
        s.endJob u j 2
    match s.forJob u j work with
    | some t => .next t
    | none => .next (s.soon 8 (.copyDone u))

/-! ## Status, waiting and stopping (R273, R274) -/

/-- The unit of the issuing core's half. -/
def myUnit : M (Nat × CopyUnit) := do
  let s ← get
  pure (unitOf s.core, s.unitAt (unitOf s.core))

/-- COPYQ (R273). -/
def execCopyq (d a : Sc) : State → Out :=
  unit (.copyq d a) (unitS [a.val] d.val do
    let (u, v) ← myUnit
    let id := (← readS a.val).toNat
    let r := v.status id (u % 2)
    if fld r.toNat 0 3 == 2 then afterRels
    pure r)

/-- COPYW (R273). -/
def execCopyw (a : Sc) : State → Out :=
  unit (.copyw a) (using_ { ss := [a.val] } do
    let (u, v) ← myUnit
    let id ← readS a.val
    afterRels
    if (← me).latch.isSome || 2 ≤ fld (v.status id.toNat (u % 2)).toNat 0 3 then pure .seq
    else throw (.park (.job id) 0))

/-- A unit of the issuing context would get as far as its work. -/
def State.unitReaches (s : State) (i : Instr) : Bool :=
  let q := s.ctxAt s.core s.ctx
  !(s.ctx == 7 && q.hbudget == 0) && q.accepts i && q.windowOk

/-- QUIESCE (R274): the jobs of the activation stop, and the unit waits for them. -/
def execQuiesce (s : State) : Out :=
  let q := s.ctxAt s.core s.ctx
  let ask := s.unitReaches .quiesce && (s.jobsOf s.core q.actId).any fun j => j.stopAt.isNone && !j.finished
  unit .quiesce (do
    let s ← get
    if !(s.jobsOf s.core q.actId).isEmpty then wait sCOPYSLOT
    pure .seq) (if ask then s.stopJobs s.core q.actId 3 q.saving else s)

/-- HATCH (R265). -/
def execHatch (a : Sc) : State → Out :=
  unit (.hatch a) (using_ { ss := [a.val] } do
    let v := (← readS a.val).toNat
    require (fld v 0 7 ≤ 64 && v < 256) cILLEGAL
    let i : Fin 2 := if bit v 7 then 1 else 0
    modCore fun k => { k with hatch := k.hatch.set i.val (BitVec.ofNat 7 v) i.isLt }
    modify fun s =>
      let u := unitOf s.core
      s.soon 1 (.copyBeat (if bit v 7 then u / 2 * 2 + (1 - u % 2) else u))
    pure .seq)

end Sys2Proof.Machine
end

