-- ==== Sys2Proof/Machine/Fabric.lean ====
section
/-! DEFINITION. The fabric (22 R416-R428): flits and credits of the scale-up ports, end-to-end answers, eye-margin
monitors and retrains, and the scale-out transport at its receiver. -/

namespace Sys2Proof.Machine

/-! ## Ports -/

/-- Buffer sizes that the device advertises (R419). -/
def advertised : Nat × Nat := (512, 64)

/-- The body of a kind-5 flit. -/
def creditBody (c0 c1 : Nat) (init : Bool) : List Byte :=
  bytesOf 240 (c0 % 2 ^ 16 + c1 % 2 ^ 16 * 2 ^ 16 + if init then 2 ^ 32 else 0)

/-- A flit for the switch's credit flow: no credit is needed, and no package is named but the own. -/
def State.creditOut (s : State) (n c0 c1 : Nat) (init : Bool) : State :=
  s.flitOut n s.pkg.pkgid.toNat 5 (creditBody c0 c1 init)

/-- The credit state of a port after training or a retrain (R419): the counts restart, and the buffers are
advertised. -/
def State.portInit (s : State) (n : Nat) : State :=
  (s.updPort n fun p =>
    { p with adv := false, credit := Vector.replicate 2 0, seen := Vector.replicate 2 0
             freed := Vector.replicate 2 0, told := Vector.replicate 2 0 }).creditOut n advertised.1 advertised.2 true

/-- FABRIC_PORT_UP (R417, R419): an enabled port has trained. The link starts anew, and what found no port up takes
it (R421). -/
def execFabricPortUp (port : Fin 36) (s : State) : Out :=
  let n := port.val
  let v := (s.portAt n).reg.toNat
  if !bit v 3 || bit v 2 then .next s
  else
    let s := (s.updPort n fun p => { p with reg := p.reg ||| 4, seq := 0, seqIn := 0, replay := [], rest := [] }).portInit n
    .next s.answersGo.sendRemotes

/-- CREDIT_FLIT (R419): the advertisement, after which flits that a retrain caught in flight go out again, or credits that
the switch port has freed. -/
def execCreditFlit (port : Fin 36) (c0 c1 : BitVec 16) (init : Bool) (s : State) : Out :=
  let n := port.val
  let p := s.portAt n
  if !s.portUp n || (!init && !p.adv) then .next s else
  let new : Vector (BitVec 16) 2 := #v[c0, c1]
  let p := if init then { p with adv := true, credit := #v[c0.toNat, c1.toNat], seen := Vector.replicate 2 0 }
    else { p with
      credit := #v[p.credit[0] + (c0 - p.seen[0]).toNat, p.credit[1] + (c1 - p.seen[1]).toNat]
      seen := new }
  let s := s.updPort n fun _ => p
  .next ((if init then s.replayOut n else s).pumped n)

/-- CREDIT_REPORT (R419): freed credits are reported. -/
def execCreditReport (port : Fin 36) (s : State) : Out :=
  let n := port.val
  let p := s.portAt n
  if !s.portUp n || p.freed == p.told then .next s
  else .next ((s.updPort n fun p => { p with told := p.freed }).creditOut n p.freed[0].toNat p.freed[1].toNat false)

/-- A flit of a class has left its buffer (R419): the report follows within 1 µs, or at once for 32. -/
def State.freeCredit (s : State) (n : Nat) (c : Fin 2) : State :=
  let s := s.updPort n fun p => { p with freed := p.freed.set c.val (p.freed[c] + 1) c.isLt }
  let p := s.portAt n
  let owed := (p.freed[0] - p.told[0]).toNat + (p.freed[1] - p.told[1]).toNat
  s.soon (if 32 ≤ owed then 0 else 1000) (.credit n)

/-! ## Messages from other packages (R420, R421) -/

/-- The messages at the start of some bytes, with their numbers and refusals, and the bytes of one that continues. -/
def takeMessages : Nat → List Byte → List (OutMsg × Nat × Nat) × List Byte
  | 0, bs => ([], bs)
  | n + 1, bs =>
    if bs.length < 8 || !bit (leAt bs 0 8) 63 then ([], []) else
    let size := 32 + 32 * ((headerLen bs + 31) / 32)
    if bs.length < 32 || bs.length < size then ([], bs) else
    let h := bs.take 32
    let r := takeMessages n (bs.drop size)
    ((msgOf h (bs.drop 32), fldAt h 224 32, fldAt h 44 2) :: r.1, r.2)

/-- A message of the domain that comes once more, since its sender's port went down before the answer (R424), waits here
already. -/
def State.landing? (s : State) (r : Req) : Bool := s.reqs.any fun q =>
  q.core == r.core && q.ctx == r.ctx && q.actId == r.actId

/-- The same of one that has been placed in an input buffer. -/
def State.landed? (s : State) (r : Req) : Bool := s.pkg.landedFrom.any fun e =>
  e.1 == r.core && e.2.1 == r.ctx && e.2.2.2 == r.actId

/-- A message from another package is presented to its core's input buffer; one that comes once more is only answered
(R421, log 47). -/
def State.landRemote (s : State) (o : OutMsg) (id refusals : Nat) : State :=
  let r : Req :=
    { id := s.reqNext, core := remoteCore o.msg.sender, ctx := Fin.ofNat 8 o.msg.sender.toNat, actId := id
      dst := s.destCore o, load := .message o, prio := o.msg.prio
      standing := if refusals == 0 then .sent else .refused refusals }
  if r.fromFabric && s.landing? r then s
  else if r.fromFabric && s.landed? r then s.answer r 2 0
  else { s with reqs := s.reqs ++ [r], reqNext := s.reqNext + 1 }.present r

/-- A message has had its answer. -/
def State.answered (s : State) (id : Nat) (f : Remote → Remote) : State := s.updPkg fun p =>
  { p with remotes := p.remotes.map fun r => if r.id == id then { f r with flying := false } else r }

/-- END_TO_END_ACK (R421): an acknowledgement, a refusal or HELD reaches the sender. -/
def execEndToEndAck (id : Nat) (ans : Answer) (s : State) : Out :=
  if !s.pkg.remotes.any fun r => r.id == id && r.sent then .next s else
  match ans with
  | .ack => .next ((s.updPkg fun p => { p with remotes := p.remotes.filter fun r => r.id != id }).sendRemotes)
  | .refusal => .next ((s.answered id fun r => { r with refusals := r.refusals + 1 }).later 16 (.refusal id))
  | .held => .next ((s.answered id fun r => r).later 256 (.heldAgain id))

/-- FLIT_RECEIVE (R418-R421): a flit whose CRC holds and whose number is the next one expected; one of kind 5 takes no
number (log 47). -/
def execFlitReceive (port : Fin 36) (flit : List Byte) (s : State) : Out :=
  let n := port.val
  let p := s.portAt n
  let body := (flit.drop 8).take 240
  let kind := fldAt flit 48 4
  if !s.portUp n || flit.length != 256 || Config.crc64 (flit.take 248) != BitVec.ofNat 64 (leAt flit 248 8) ||
      kind != 5 && BitVec.ofNat 16 (leAt flit 4 2) != p.seqIn then .next s
  else if kind == 5 then
    execCreditFlit port (BitVec.ofNat 16 (leAt body 0 2)) (BitVec.ofNat 16 (leAt body 2 2)) (bit (leAt body 4 1) 0) s
  else
  let s := s.updPort n fun p => { p with seqIn := p.seqIn + 1 }
  match kind with
  | 1 =>
    let src := fldAt flit 16 9
    let bs := SMap.get [] p.rest src ++ body
    let (ms, rest) := takeMessages (bs.length / 32) bs
    let s := s.updPort n fun p => { p with rest := SMap.set [] p.rest src rest }
    .next ((ms.foldl (fun s m => s.landRemote m.1 m.2.1 m.2.2) s).freeCredit n 0)
  | 2 =>
    match execEndToEndAck (leAt body 0 4) .ack s with
    | .next t => .next (t.freeCredit n 1)
    | o => o
  | 3 =>
    match execEndToEndAck (leAt body 0 4) (if leAt body 4 1 == 0 then .refusal else .held) s with
    | .next t => .next (t.freeCredit n 1)
    | o => o
  | 4 => .next (s.freeCredit n 0)
  | _ => .next s

/-! ## Margins and retrains (R423-R425) -/

/-- FPORT p or DDLINK k: links 0-35 and 36-51. -/
def State.linkReg (s : State) (l : Nat) : Nat :=
  if l < 36 then (s.portAt l).reg.toNat else s.pkg.ddlinks[Fin.ofNat 16 (l - 36)].toNat

/-- A link's register becomes v. -/
def State.setLinkReg (s : State) (l v : Nat) : State :=
  let w : DWord := BitVec.ofNat 64 v
  if l < 36 then s.updPort l fun p => { p with reg := w }
  else
    let k := Fin.ofNat 16 (l - 36)
    s.updPkg fun p => { p with ddlinks := p.ddlinks.set k.val w k.isLt }

/-- A retrain is counted, and ends with a new advertisement where a port is up (R419, R424); a link between dies has
trained (R423). -/
def State.retrain (s : State) (l : Nat) : State :=
  let v := s.linkReg l
  let v := if l < 36 then v else setFld v 2 1 1
  let s := s.setLinkReg l (setFld v 48 16 (min (fld v 48 16 + 1) 0xFFFF))
  if l < 36 && s.portUp l then s.portInit l else s

/-- LINK_RETRAIN (R424): the link retrains; nothing is lost. Between dies a beat that replays could not save is its
cause, which PKGERR records (R406). -/
def execLinkRetrain (link : Fin 52) (s : State) : Out :=
  let l := link.val
  .next ((if 36 ≤ l then s.logPkg 18 true (l - 36) ((l - 36) / 4) else s).retrain l)

/-- The flits of a port that is gone, but for those of messages: destination, kind and body of each that waited for credit,
or that the replay buffer holds. -/
def Port.others (p : Port) : List (Nat × Nat × List Byte) :=
  (p.replay.map (fun f => (fldAt f 0 9, fldAt f 48 4, (f.drop 8).take 240)) ++
    p.waiting.map (fun w => (flitDst w, flitKind w, w.2.drop 4))).filter fun e => e.2.1 != 1

/-- A port goes down, and its traffic moves to the next that is up (R420, R421, R424): the messages that it carried and
whose answers have not come are sent again, and so are its other flits, or wait for a port with those that found none
up. -/
def State.portDown (s : State) (n : Nat) : State :=
  let lost := (s.portAt n).others
  let s := s.updPort n fun p =>
    { p with reg := BitVec.ofNat 64 (setFld p.reg.toNat 2 1 0), adv := false, credit := Vector.replicate 2 0
             waiting := [], replay := [], rest := [] }
  let s := s.updPkg fun p =>
    { p with
      answersOut := p.answersOut ++ lost
      remotes := p.remotes.map fun r =>
        if r.port == some n && r.flying then { r with sent := false, flying := false, port := none } else r }
  s.answersGo.sendRemotes

/-- A faster step that a link's window held back comes into force (R425). -/
def State.applyStep (s : State) (l : Nat) : State :=
  match SMap.find s.pkg.stepAsk l with
  | none => s
  | some v =>
    let s := s.updPkg fun p => { p with stepAsk := p.stepAsk.erase l }
    let s := s.setLinkReg l (setFld (s.linkReg l) 0 2 v.toNat)
    if l < 36 && !s.portUp l then s else s.retrain l

/-- EYE_MONITOR_WINDOW (R423-R425): the margins of the window, and whether a codeword needed more than 8 corrections; a
trip slows the link by one step, after a clock handshake that runs, and discards a faster step asked for in the
window. -/
def execEyeMonitorWindow (link : Fin 52) (mgn : BitVec 32) (corr : Bool) (s : State) : Out :=
  let l := link.val
  let v := setFld (s.linkReg l) 8 32 mgn.toNat
  let s := s.setLinkReg l v
  let trips := corr || (upTo 4).any fun i => fld mgn.toNat (8 * i) 8 < fld v 40 8
  if !trips || (l < 36 && !bit v 2) then .next (s.applyStep l) else
  let step := fld v 0 2
  let s := s.updPkg fun p => { p with stepAsk := p.stepAsk.erase l }
  let s := s.setLinkReg l (setFld (setFld v 0 2 (min 3 (step + 1))) 4 1 1)
  .next (if step == 3 && l < 36 then s.portDown l else if bit s.pkg.clkstat.toNat 5 then s.later 1 (.retrain l)
    else s.retrain l)

/-- PORT_STEP_WRITE (R423): a retrain at the step written; en, trip, thr and ret are written with it. A faster step waits
for the end of the window, of at most 10 µs, in which a trip would discard it (R425, log 47). -/
def execPortStepWrite (link : Fin 52) (v : BitVec 64) : State → Out := managed fun s =>
  let l := link.val
  let w := v.toNat
  let old := s.linkReg l
  let waits := fld w 0 2 < fld old 0 2 && (36 ≤ l || (bit old 2 && bit w 3))
  let step := if waits then fld old 0 2 else fld w 0 2
  let new := setFld (setFld (setFld old 0 2 step) 40 24 (fld w 40 24)) 4 1 (if bit w 4 then fld old 4 1 else 0)
  let new := if l < 36 then setFld new 3 1 (fld w 3 1) else new
  let ask := fun (m : SMap (BitVec 2)) => if waits then m.put l (BitVec.ofNat 2 (fld w 0 2)) else m.erase l
  let s := (s.setLinkReg l new).updPkg fun p => { p with stepAsk := ask p.stepAsk }
  if l < 36 && !bit w 3 then .next (if bit old 2 then s.portDown l else s)
  else if waits then .next (s.later 12500 (.stepApply l))
  else if 36 ≤ l || bit new 2 then .next (s.retrain l) else .next s

/-! ## The scale-out transport (R426-R428) -/

/-- A frame is dropped and counted. -/
def State.dropFrame (s : State) (e : Nat) : State :=
  s.updPkg fun p =>
    let i := Fin.ofNat 16 e
    let v := p.eports[i].toNat
    { p with eports := p.eports.set i.val (BitVec.ofNat 64 (setFld v 32 32 (min (fld v 32 32 + 1) (2 ^ 32 - 1)))) i.isLt }

/-- The connection of an address and port: of a valid peer, or of a target while a checkpoint command runs. -/
def State.peerAt (s : State) (addr : BitVec 128) (port : BitVec 16) : Option Nat :=
  (upTo 239).find? fun j =>
    if j < 223 then
      let e := s.peerEntry j
      s.peerValid j && leAt e 0 16 == addr.toNat && leAt e 16 2 == port.toNat
    else
      let e := s.ckptBlock (16 + 32 * (j - 223)) 18
      s.pkg.ckpt.isSome && j - 223 < s.ckptTargets && leAt e 0 16 == addr.toNat && leAt e 16 2 == port.toNat

/-- A message of peer j is delivered: its sender's package is 288 + j (R427). -/
def State.landPeer (s : State) (j : Nat) (o : OutMsg) (id : Nat) : State :=
  let sender := BitVec.ofNat 22 (setFld o.msg.sender.toNat 13 9 (288 + j))
  s.landRemote { o with msg := { o.msg with sender } } id 0

/-- The packet at the head of connection j's order is delivered; a target sends no messages. -/
def State.deliver (s : State) (j : Nat) (p : Packet) : State :=
  let s := s.updPeer j fun q => { q with expect := q.expect + 1 }
  if p.kind != 1 || 223 ≤ j then s else
  ((takeMessages p.count.toNat p.body).1).foldl (fun s m => s.landPeer j m.1 m.2.1) s

/-- Packets held out of order that are now due are delivered. -/
def State.deliverAhead (j : Nat) : Nat → State → State
  | 0, s => s
  | n + 1, s =>
    let q := SMap.get {} s.pkg.peers j
    match q.ahead.find? fun e => e.1 == q.expect with
    | none => s
    | some e =>
      let s := s.updPeer j fun q => { q with ahead := q.ahead.filter fun a => a.1 != e.1 }
      (s.deliver j e.2).deliverAhead j n

/-- The sender's side of an acknowledgement: packets below cum, and those of the bitmap, are done, and their messages
with them. -/
def State.acknowledge (s : State) (j : Nat) (cum sack : BitVec 32) : State :=
  let q := SMap.get {} s.pkg.peers j
  let isDone := fun (e : BitVec 32 × Nat × List Byte) =>
    let d := (e.1 - cum).toNat
    2 ^ 31 ≤ d || (1 ≤ d && d ≤ 32 && bit sack.toNat (d - 1))
  let ids := (q.sent.filter isDone).map fun e => fldAt (e.2.2.drop 16) 224 32
  let s := s.updPeer j fun q => { q with sent := q.sent.filter fun e => !isDone e }
  (s.updPkg fun p => { p with remotes := p.remotes.filter fun r =>
    !(r.peer == some j && ids.contains r.id) }).sendRemotes

/-- SCALEOUT_PACKET_RECEIVE (R426-R428): packets of a connection are delivered in the order of their numbers, and
acknowledged. A frame that is not IPv6 without extension headers carrying UDP is dropped, and counted. -/
def execScaleoutPacketReceive (port : Fin 16) (pkt : Packet) (s : State) : Out :=
  let e := port.val
  if !bit s.pkg.eports[port].toNat 0 then .next s
  else if !pkt.plain || pkt.udp.toNat != fld s.pkg.soctl.toNat 0 16 then .next (s.dropFrame e) else
  match s.peerAt pkt.srcAddr pkt.srcPort with
  | none => .next (s.dropFrame e)
  | some j =>
    let s := s.acknowledge j pkt.cum pkt.sack
    if pkt.kind == 2 then .next s else
    let q := SMap.get {} s.pkg.peers j
    let d := (pkt.seq - q.expect).toNat
    let s :=
      if d == 0 then (s.deliver j pkt).deliverAhead j q.ahead.length
      else if d ≤ 256 && !q.ahead.any (fun a => a.1 == pkt.seq) then
        s.updPeer j fun q => { q with ahead := q.ahead ++ [(pkt.seq, pkt)] }
      else s
    .next (s.packetOut j 2 0 0 [])

/-- A peer is marked down: its messages are diverted (R428). -/
def State.peerDown (s : State) (j : Nat) : State :=
  let mine := s.pkg.remotes.filter fun r => r.peer == some j
  let s := s.updPeer j fun q => { q with down := true, sent := [] }
  let s := s.updPkg fun p => { p with remotes := p.remotes.filter fun r => r.peer != some j }
  mine.foldl (fun s r => s.divert r.core 5 { r.msg with launch := 0 }) s

/-- A packet of connection j that is not acknowledged is resent, at most eight times (R428); the checkpoint command of a
target that is then given up fails (log 49). -/
def State.resent (s : State) (j : Nat) (seq : BitVec 32) : State :=
  let q := SMap.get {} s.pkg.peers j
  match q.sent.find? fun e => e.1 == seq with
  | none => s
  | some e =>
    if 8 ≤ e.2.1 then
      if j < 223 then s.peerDown j
      else
        let s := s.updPeer j fun q => { q with sent := [] }
        if s.pkg.ckpt.isSome then s.ckptFail else s
    else
    let b := e.2.2
    let again := fun (a : BitVec 32 × Nat × List Byte) => if a.1 == seq then (a.1, a.2.1 + 1, a.2.2) else a
    let s := s.updPeer j fun q => { q with sent := q.sent.map again }
    (s.packetOut j (fldAt b 0 4) (fldAt b 16 16) seq.toNat (b.drop 16)).later
      (fld s.pkg.soctl.toNat 32 16 * 1250) (.resend j seq.toNat)

/-- RETRANSMIT_TIMEOUT (R428). -/
def execRetransmitTimeout (peer : Fin 223) (seq : BitVec 32) (s : State) : Out := .next (s.resent peer.val seq)

end Sys2Proof.Machine
end

