-- ==== Sys2Proof/Machine/Level.lean ====
section
/-! DEFINITION. What the levels do of themselves: sifts (07 R171, R177; 14 R299-R302), the expander (11 R245), scrubbing
(09 R233, 20 R406), translation and its faults (14 R306, R307; 20 R403), and a die's command (14 R311-R313). -/

namespace Sys2Proof.Machine

/-! ## Sifts -/

/-- The sifts that machine events of some pads have left waiting are over, or are tried anew. -/
def State.dropEventSifts (s : State) (pads : List Nat) : State :=
  { s with sifts := s.sifts.filter fun e => !(e.owner.isNone && match e.pads.getLast? with
      | some i => pads.contains i
      | none => true) }

/-- A sift runs, unless the pad's sift runs already (R299). A heap page that it needs is asked for, and it runs again
when the page is there (R302), or when its drain has ended (R177); with no room in the heap, the activations of the
partition are lost (R305). -/
def State.sift (s : State) (i : Nat) : State :=
  if s.siftRuns i then s else
  match M.filled (siftPad i) s with
  | .ok _ t => t.settled
  | .error (.siftPage k pads) _ => s.engineSift pads k
  | .error (.siftFull d part p) _ => s.lostRegion d part p
  | .error _ _ => s

/-- A pad's bump pointer has passed its high-water mark (R171, R299). -/
def State.siftAsked (s : State) (i : Nat) : Bool := (s.pad i).hwm < (s.pad i).bump

/-- CORE_SIFT (R171, R177). -/
def execCoreSift (core : Fin 1024) (s : State) : Out :=
  let s := s.dropEventSifts [core.val]
  .next (if s.siftAsked core.val then s.sift core.val else s)

/-- CLUSTER_SIFT (R299): also where a write-back has found no frame (R241). -/
def execClusterSift (clu : Fin 64) (s : State) : Out :=
  let i := 1024 + clu.val
  let s := s.dropEventSifts [i]
  .next (if s.siftAsked i || !(s.cluAt clu.val).held.isEmpty then s.sift i else s)

/-- DIE_SIFT (R299). -/
def execDieSift (die : Fin 4) (reg : Fin 8) (s : State) : Out :=
  let i := 2048 + 8 * die.val + reg.val
  let s := s.dropEventSifts [i]
  .next (if s.siftAsked i then s.sift i else s)

/-! ## The expander and scrubbing -/

/-- Errors befall a stored block: sectors of its run, by their place in it, and its header. -/
def Cluster.upset (c : Cluster) (blk : Nat) (upset : Upset) : Cluster :=
  match upset with
  | .block bad hdr =>
    let h := SMap.get {} c.blocks blk
    let hit := if h.z then [] else (upTo (h.n.toNat + 1)).filter fun i => bad.getLsbD i
    { c with
      badSect := hit.foldl (fun b i => b.add (h.sect.toNat + i)) c.badSect
      badHdr := if hdr then c.badHdr.add blk else c.badHdr }
  | _ => c

/-- EXPANDER_FILL (R245, R248, R249): a block takes the least recently used entry, once the errors that befall it have
done so (log 40). It stands still on a halted die (R354). -/
def execExpanderFill (clu : Fin 64) (blk : Fin 131072) : State → Out := struck fun upset s =>
  let s := s.updClu clu.val fun c => c.upset blk.val upset
  if (s.cluAt clu.val).held.contains blk.val || s.halted (clu.val / 16) then .next s
  else .next (s.expand clu.val blk.val false).settled

/-- The scrubber passes some granules of a local store (R233): correctable errors are corrected, and recorded. -/
def State.scrub (s : State) (c : Nat) (at_ : Nat → Bool) : State :=
  let hit := fun (f : Nat × Nat × Bool) => f.1 == 0 && at_ (f.2.1 / 2) && !f.2.2
  let fs := (s.coreAt c).flips.filter hit
  if fs.isEmpty then s else
  let s := s.updCore c fun k => { k with flips := k.flips.filter fun f => !hit f }
  fs.foldl (fun s f => s.logError c 0 false f.2.1 (s.coreId c)) s

/-- PATROL_SCRUB (R233): a local-store granule's correctable errors are corrected. -/
def execPatrolScrub (core : Fin 1024) (gran : Fin 65536) (s : State) : Out :=
  .next (s.scrub core.val (· == gran.val))

/-- HEAP_PATROL_SCRUB (R406): the scrub of a granule corrects an error that the heap's code can correct, and poisons a
granule with another; either is recorded. -/
def execHeapPatrolScrub (stk : Fin 12) (gran : Nat) : State → Out := struck fun upset s =>
  let d := stk.val / 3
  match upset with
  | .none => .next s
  | .corrected => .next (s.logPkg 16 false gran d)
  | _ =>
    .next ((s.updMem fun m => m.setPoison (stackBase d (stk.val % 3) + 16 * (gran % 2 ^ 37)) true).logPkg 16 true gran d)

/-! ## Translation (R306, R307) -/

/-- An error in the last table entry that a walk reads (R406): one that is corrected is recorded; with another the entry
is not valid, and the fault that follows records it. -/
def State.upsetWalk (s : State) (part va : Nat) (upset : Upset) : State :=
  let d := fld va 43 2
  match upset, (s.tablePath part va).getLast? with
  | .corrected, some a => s.logPkg 17 false (a / 8) d
  | .lost, some a => s.updMem fun m => m.setPoison (stackBase d (stackOf va) + a) true
  | _, _ => s

/-- A walk: a leaf that it finds enters the unit's cache (R306). -/
def State.walked (s : State) (part va : Nat) (upset : Upset) : State :=
  let s := s.upsetWalk part va upset
  match s.walk part va with
  | some w => s.fillCache part va w
  | none => s

/-- TRANSLATION_WALK (R306, R406): of an address that the unit does not hold. -/
def execTranslationWalk (part : Fin 16) (va : BitVec 45) (s : State) : Out :=
  if (s.cached part.val va.toNat).isSome || stackOf va.toNat == 3 then .next s
  else struck (fun upset s => .next (s.walked part.val va.toNat upset)) s

/-- An activation that waits for a page still has a fault on a list. -/
def State.stillFaults (s : State) (act : Nat) : Bool :=
  s.dies.toList.any fun v => v.stks.toList.any fun q => (q.faults ++ q.waiting).any fun f => match f.who with
    | .act _ _ a => a == act
    | .store _ _ a _ _ _ => a == act
    | _ => false

/-- A suspended activation resumes (R85, R228), with SV clear (R231): at TRAPPC, or in weight-driven mode as WDRES would
continue it (R224). -/
def State.resumePaged (s : State) (c : Nat) (x : Fin 8) (act : Nat) : State :=
  let q := s.ctxAt c x
  if q.actId != act || s.stillFaults act then s else
  match q.run with
  | .paged _ mode => s.updCtx c x fun q =>
    { q with evt := true, sv := false, pc := q.trappc, run := if mode then .weights none none else .live }
  | _ => s

/-- A store that has waited for its page is performed. -/
def State.heldStore (s : State) (c : Nat) (x : Fin 8) (act k : Nat) (bs : List Byte) (fe : Option Bool) : State :=
  let work : M Unit := do
    putBytes k bs fe
    bumpVersion k
    modify State.settled
  match M.filled work s with
  | .ok _ t => t
  | .error (.page k' need _ _) _ => s.pageFault k' need (s.ctxId c x) (.store c x act k bs fe)
  | .error _ _ => s

/-- A waiter's page is mapped. -/
def State.releaseFault (s : State) (f : PageFault) : State :=
  match f.who with
  | .act c x a => s.resumePaged c x a
  | .store c x a k bs fe => (s.heldStore c x a k bs fe).resumePaged c x a
  | .job u _ => (s.soon 1 (.copyBeat u)).soon 1 (.copyDone u)
  | .sift _ again => match again with
    | some i => s.soon 1 (siftDue i)
    | none => s
  | .landing r => s.soon 1 (.landing r)
  | .load => s.soon 1 .load
  | .post => s.soon 1 .posts

/-- A waiter stands still on a halted die (R354). -/
def State.waiterHalted (s : State) : PageWaiter → Bool
  | .act c _ _ => s.halted (coreDie c)
  | .store c _ _ _ _ _ => s.halted (coreDie c)
  | .job u _ => s.halted (u / 32)
  | .sift i _ => s.halted (padDie i)
  | _ => false

/-- The atomics on a refused page whose activation has ended are dropped (R307, R388). -/
def State.dropAtomics (s : State) (part page : Nat) : State :=
  let lost := fun (e : HEntry) => (s.ctxAt e.core e.ctx).actId != e.actId && match e.op with
    | .amo _ _ p _ _ _ n _ => p.lvl == 3 && partOf (p.key n) == part && pageOf (locOf (p.key n)) == page
    | .arrive _ _ _ _ => false
  s.cores.foldl (fun s k => (k.2.handler.filter lost).foldl (fun s e =>
    (s.serveHead k.1 e).contain e.core { cause := 9, at_ := s.ctxId e.core e.ctx }) s) s

/-- A waiter's page is refused (R307, R302); one of a halted die learns of it when the die runs on (R354). -/
def State.refuseFault (s : State) (f : PageFault) : State :=
  if s.waiterHalted f.who then s.later 1 (.refuse f) else
  let kill := fun (c : Nat) (x : Fin 8) (a : Nat) =>
    let q := s.ctxAt c x
    if q.actId == a && q.busy then some (s.kill c x 9 0) else none
  match f.who with
  | .act c x a => (kill c x a).getD s
  | .store c x a _ _ _ => (kill c x a).getD (s.contain c { cause := 9, at_ := s.ctxId c x })
  | .job u q => match (s.unitAt u).jobs.find? fun j => j.num == q with
    | some j => s.endJob u j 5
    | none => s
  | .sift i again =>
    let s := s.lostRegion (padDie i) (s.padPart i) i
    match again with
    | some j => s.soon 1 (siftDue j)
    | none => s
  | .landing r => s.dropStep r
  | .load => s.refuseLoad
  | .post => (s.dropPosts (heapBase f.part + f.page * 65536)).dropAtomics f.part f.page

/-- The page that PAGEANS names: partition, die, stack and page number. -/
def pageAnswered (v : Nat) : Nat × Nat × Nat × Nat :=
  let va := fld v 5 36 * 512
  (fld v 0 4, fld va 43 2, stackOf va, pageOf va)

/-- The faults of the page that PAGEANS names leave their list. -/
def State.takeFaults (s : State) (v : Nat) : List PageFault × State :=
  let (part, d, st, page) := pageAnswered v
  let mine := fun (f : PageFault) => f.part == part && f.page == page
  let q := (s.dieAt d).stks[Fin.ofNat 3 st]
  (q.faults.filter mine, s.updStack d st fun q => { q with faults := q.faults.filter fun f => !mine f })

/-- The write of PAGEANS. -/
def State.writeAnswer (s : State) (die : Nat) (v : DWord) : State :=
  s.updDie die fun d => { d with pageans := v &&& 0x1FFFFFFFFFF }

/-- PAGE_ANSWER_MAP (R307, R403): the page's waiters are released in arrival order. -/
def execPageAnswerMap (die : Fin 4) (v : BitVec 64) : State → Out := managed fun s =>
  let (fs, s) := (s.writeAnswer die.val v).takeFaults v.toNat
  .next (fs.foldl State.releaseFault s)

/-- PAGE_ANSWER_REFUSE (R307, R403): the refusal applies to every waiter. -/
def execPageAnswerRefuse (die : Fin 4) (v : BitVec 64) : State → Out := managed fun s =>
  let (fs, s) := (s.writeAnswer die.val v).takeFaults v.toNat
  .next (fs.foldl State.refuseFault s)

/-- An access that found its fault list full is presented again. -/
def State.representFault (s : State) (f : PageFault) : State :=
  match f.who with
  | .act c x a =>
    let q := s.ctxAt c x
    if q.actId != a || !q.busy then s else
    let va := match q.run with
      | .paged va _ => va
      | _ => f.page * 65536
    match s.translate (heapBase f.part + va) f.need with
    | some (_, t) => t.resumePaged c x a
    | none => s.pageFault (heapBase f.part + va) f.need (s.ctxId c x) f.who
  | .store c x a k bs fe => (s.heldStore c x a k bs fe).resumePaged c x a
  | _ => s.releaseFault f

/-- FAULT_LIST_REPRESENT (R307): every 1,024 ck. -/
def execFaultListRepresent (stk : Fin 12) (s : State) : Out :=
  let d := stk.val / 3
  let st := stk.val % 3
  let ws := (s.dieAt d).stks[Fin.ofNat 3 st].waiting
  .next (ws.foldl State.representFault (s.updStack d st fun q => { q with waiting := [] }))

/-! ## The die's command (R311-R313) -/

/-- An activation is held in a context of the die. -/
def State.dieBusy (s : State) (d : Nat) : Bool :=
  s.cores.any fun e => e.1 < 1024 && coreDie e.1 == d && e.2.ctxs.toList.any (·.busy)

/-- DIECMD after a command. -/
def State.dieResult (s : State) (d cmd res st : Nat) : State :=
  s.updDie d fun v => { v with cmd := BitVec.ofNat 64 (cmd + res * 4 + st * 16) }

/-- DIE_SHUTTER (R311). -/
def execDieShutter (die : Fin 4) : State → Out := managed fun s =>
  let d := die.val
  .next (if s.dieBusy d then s.dieResult d 2 2 (s.dieAt d).st else s.dieResult d 2 0 1)

/-- DIE_REOPEN (R313): the die is online; its cores dispatch, and those that may steal probe (R320). -/
def execDieReopen (die : Fin 4) : State → Out := managed fun s =>
  let s := s.dieResult die.val 3 0 0
  .next ((coresOfDie die.val).foldl (fun s c =>
    if (s.coreAt c).runq.isEmpty && !bit (s.coreReg c 0x20) 0 then s else s.later 1 (.dispatch c)) s)

/-- The cluster pads and die regions of a die. -/
def lowerPads (d : Nat) : List Nat := (upTo 16).map (fun k => 1024 + 16 * d + k) ++ (upTo 8).map fun r => 2048 + 8 * d + r

/-- The die regions of a partition on the other dies that are online. -/
def State.refuges (s : State) (d part : Nat) : List Nat :=
  (((upTo 4).filter fun e => e != d && (s.dieAt e).st == 0).flatMap fun e => (upTo 8).map fun r => 2048 + 8 * e + r).filter
    fun i => (s.pad i).ownedBy part

/-- need(p) and room(p) of R312. -/
def State.needRoom (s : State) (d part : Nat) : Nat × Nat :=
  let need := ((lowerPads d).filter fun i => (s.pad i).ownedBy part).foldl (fun n i =>
    n + (s.pad i).live.toNat + (s.pad i).pin.toNat) 0
  (need, (s.refuges d part).foldl (fun n i => n + ((s.pad i).hi - (s.pad i).bump)) 0)

/-- A pointer into a pinned footprint that moved keeps its offset. -/
def PReg.rebasePinned (f n g : Nat) (p : PReg) : PReg :=
  if p.tag && p.pn && p.lvl ≤ 2 && f + 16 ≤ p.key 0 && p.key 0 < f + n + 16 then p.moveTo (p.key 0 - f + g) else p

/-- Room for a footprint of a pad in its partition's regions on the other dies, pinned or not; else in the heap
(R312). A region whose high-water mark is passed is to be sifted (R299). -/
def evacuateTo (d pad n : Nat) (pin : Bool) : M Nat := do
  let s ← get
  let part := s.padPart pad
  let fits := fun i =>
    let p := s.pad i
    if pin then p.pinBump + n ≤ p.pinHi else p.bump + n ≤ p.hi
  let heap := heapRoom d part pad n
  match (s.refuges d part).find? fits with
  | none => heap
  | some i =>
    if pin then
      let p := s.pad i
      set (s.setPad i { p with pinBump := p.pinBump + n })
      pure (padBase i + p.pinBump)
    else match ← padAlloc (pure ()) i n with
      | some g => pure g
      | none => heap

/-- The pinned objects of a pad move. -/
def evacuatePinned (d i : Nat) : M Unit := do
  let s ← get
  let p := s.pad i
  (s.objectsIn (padBase i + p.pinLo) (padBase i + p.pinBump)).forM fun f => do
    let h ← header f
    let n := footprint h.len
    let g ← evacuateTo d i n true
    moveObject f g false
    modify (State.mapPtrs (PReg.rebasePinned f n g))
  modify fun s => s.setPad i { s.pad i with pinBump := p.pinLo }

/-- The evacuation of R312: pinned objects, then the live ones of the pads, the regions first. What is live is marked
before anything moves, from the pinned objects too (R300). -/
def evacuate (d : Nat) : M Unit := do
  let pads := coresOfDie d ++ lowerPads d
  afterSifts pads
  pads.forM fun i => asSift [i] (drain i)
  let s ← get
  let live := (lowerPads d).reverse.map fun i => (i, s.liveIn i)
  pads.forM fun i => asSift [i] (evacuatePinned d i)
  live.forM fun (i, fs) => asSift [i] (siftMoves (fun n _ => do pure (← evacuateTo d i n false, false)) i fs)

/-- DIE_OFFLINE (R311, R312). The sifters of a halted die stand still until it runs on (R354). -/
def execDieOffline (die : Fin 4) : State → Out := managed fun s =>
  let d := die.val
  if s.dieBusy d then .next (s.dieResult d 1 2 (s.dieAt d).st) else
  if s.halted d then .next (s.soon 1 (.offline d)) else
  let s := s.dropEventSifts (coresOfDie d ++ lowerPads d)
  let again := fun (e : Stop) => match e with
    | .siftPage k pads => (s.siftWaits pads none k).soon 64 (.offline d)
    | .siftFull e part i => (s.lostRegion e part i).soon 1 (.offline d)
    | _ => s.soon 64 (.offline d)
  match M.filled ((coresOfDie d).forM siftCore) s with
  | .error e _ => .next (again e)
  | .ok _ t =>
    if (upTo 16).any fun p => (t.needRoom d p).2 < (t.needRoom d p).1 then .next (t.dieResult d 1 1 1) else
    match M.filled (evacuate d) t with
    | .ok _ u => .next (u.settled.dieResult d 1 0 2)
    | .error e _ => .next (again e)

end Sys2Proof.Machine
end

