-- ==== Sys2Proof/Machine/Load.lean ====
section
/-! DEFINITION. The load engine (18 R361, R362): image headers, objects, relocations and cores. -/

namespace Sys2Proof.Machine

/-! ## The image -/

/-- n bytes at off of the image, as a number; bytes beyond its len read zero. -/
def State.imgNat (s : State) (off n : Nat) : Nat := natOf ((s.fetchObj? s.pkg.ldimg 0 off n).getD [])

/-- A word of the image header. -/
def State.imgWord (s : State) (off : Nat) : Nat := s.imgNat off 4

/-- LDMASK's cores, in ascending bit order. -/
def Package.loadSet (p : Package) : List Nat := (upTo 1024).filter fun c => p.ldmask.getLsbD c

/-- Poison among n bytes of the image at off. -/
def State.imgBad (s : State) (off n : Nat) : Bool :=
  let p := s.pkg.ldimg
  let work : M Bool := do
    let (k, _) ← locate (p.key 0 + off)
    anyPoison k (min n (p.len - off))
  if p.len ≤ off || n == 0 then false else ((work.try? s).map Prod.fst).getD false

/-- The image can be read, where its pointer is one that may be followed: the header's check fails on another. -/
def imgMapped : M Unit := do
  let s ← get
  let p := s.pkg.ldimg
  if !p.tag || s.malformed p || p.len == 0 then pure () else do
    let (k, _) ← locateUp (p.key 0)
    let _ ← piecesOf aR k p.len
    pure ()

/-- The header's check: failures 1 and 2. -/
def State.imgCheck (s : State) : Option Nat :=
  let w := s.imgWord
  let len := s.pkg.ldimg.len
  let p := s.pkg.ldimg
  let inside := fun (off n : Nat) => off % 16 == 0 && off + n ≤ len
  if !p.tag || s.malformed p || !p.r || w 0 != 0x47494D31 || w 4 != 1 || s.imgNat 52 12 != 0 ||
      !inside (w 8) (w 12) || !inside (w 20) (16 * w 24) || !inside (w 28) (16 * w 32) || !inside (w 36) (64 * w 40) ||
      !inside (w 44) (32 * w 48) || 256 < w 24 || 8 < w 32 then some 1
  else if w 12 % 2 != 0 || w 16 % 4 != 0 || 65536 < w 16 + w 12 then some 2
  else none

/-- Class record i, or pane record i (R362): what it names, and its value. -/
def State.imgRecord (s : State) (pane : Bool) (i : Nat) : Nat × Nat :=
  let at_ := s.imgWord (if pane then 28 else 20) + 16 * i
  (s.imgNat at_ 8, s.imgNat (at_ + 8) 8)

/-- A class or pane record that cannot be written: its failure code. -/
def State.recordBad (s : State) (pane : Bool) (i : Nat) : Option Nat :=
  let (n, v) := s.imgRecord pane i
  if s.imgBad (s.imgWord (if pane then 28 else 20) + 16 * i) 16 then some 6
  else if (if pane then fld n 3 61 != 0 || v ||| maskPane.toNat != maskPane.toNat
    else fld n 8 56 != 0 || setFld v 25 1 0 ||| classMask != classMask) then some 3
  else none

/-! ## Objects -/

/-- An object entry. -/
def State.objEntry (s : State) (k : Nat) : Nat := s.imgNat (s.imgWord 36 + 64 * k) 64

/-- The cluster of an entry, 0-63, and its core. -/
def entryCore (e : Nat) : Nat := fld e 18 2 * 256 + fld e 20 4 * 16 + fld e 24 4

/-- Takes n bytes at a pad's bump or pinned pointer. -/
def takePad (i n : Nat) (pinned : Bool) : M (Option Nat) := do
  let s ← get
  let p := s.pad i
  if pinned then
    if p.pinHi < p.pinBump + n then pure none else
    set (s.setPad i { p with pinBump := p.pinBump + n })
    pure (some (padBase i + p.pinBump))
  else
    if p.hi < p.bump + n then pure none else
    let s := s.setPad i { p with bump := p.bump + n }
    set (if p.hwm < p.bump + n then s.later 0 (siftDue i) else s)
    pure (some (padBase i + p.bump))

/-- Takes n bytes of a partition's arena in a stack (R305). -/
def takeArena (d st part n : Nat) : M (Option Nat) := do
  let s ← get
  let q := (s.dieAt d).stks[Fin.ofNat 3 st]
  let b := SMap.get 0 q.hbump part
  if SMap.get 0 q.hend part < b + n then pure none else
  set (s.updStack d st fun q => { q with hbump := SMap.set 0 q.hbump part (b + n) })
  pure (some (heapBase part + d * 2 ^ 43 + st * 2 ^ 41 + b))

/-- The pad from whose regions an entry allocates: at level 2 the region that its partition owns. -/
def State.entryPad (s : State) (e : Nat) : Option Nat :=
  match fld e 0 2 with
  | 0 => some (entryCore e)
  | 1 => some (1024 + fld e 18 2 * 16 + fld e 20 4)
  | _ => s.region (fld e 18 2) (fld e 14 4)

/-- The pointer of an entry at a locator, in R164's form. -/
def entryPtr (e addr : Nat) : PReg :=
  let lvl := fld e 0 2
  mkPtr addr lvl 0 (fld e 8 6) (fld e 4 4) (fld e 64 40) (fld e 18 2 * 64 + if lvl ≤ 1 then fld e 20 4 * 4 else 0)

/-- The pointer of an entry is malformed; one to a weight block may hold both W and XW (R362). -/
def State.badEntryPtr (s : State) (p : PReg) : Bool := s.malformed (if p.kind == 6 then p.setF 54 1 0 else p)

/-- n bytes at an offset of a pad lie in one of its two regions, or apart from both. -/
def PadRegs.keeps (p : PadRegs) (at_ n : Nat) : Bool :=
  let inside := fun (lo hi : Nat) => lo ≤ at_ && at_ + n ≤ hi
  let apart := fun (lo hi : Nat) => at_ + n ≤ lo || hi ≤ at_ || lo == hi
  inside p.lo p.hi || inside p.pinLo p.pinHi || (apart p.lo p.hi && apart p.pinLo p.pinHi)

/-- The pointer of an entry whose footprint of n bytes has been placed (R361); none where it fails: a
footprint at a locator fails where it runs past the end of the region that it begins in. loc is the place of
the footprint (log 34). -/
def placeEntry (e n : Nat) : M (Option PReg) := do
  let s ← get
  let part := fld e 14 4
  let d := fld e 18 2
  let mode := fld e 2 2
  if fld e 0 2 != 3 && s.halted d then wait sREMOTE
  let named := fun (f : Nat) => entryPtr e (placeFields (f + 16)).2.1
  if mode == 0 then
    let p := entryPtr e (fld e 128 64 + 16)
    if 2 ^ 48 ≤ fld e 128 64 + 16 || s.badEntryPtr p then return none
    if p.lvl == 3 then return some p
    match s.padOf (p.key part - 16) with
    | some i =>
      pure (if (s.pad i).ownedBy part && (s.pad i).keeps (locOf (p.key part - 16)) n then some p else none)
    | none => pure none
  else if fld e 0 2 == 3 then
    if fld e 28 2 == 3 then pure none
    else pure ((← takeArena d (fld e 28 2) part n).map named)
  else
    match s.entryPad e with
    | none => pure none
    | some i =>
      if (s.pad i).ownedBy part then pure ((← takePad i n (mode == 1)).map named) else pure none

/-- A store of the engine. -/
def loadBytes (k : Nat) (bs : List Byte) : M Unit := writeRaw k bs

/-- Object k is built (R361, R362): its pointer, or none where it fails. -/
def buildObject (k : Nat) : M (Option PReg) := do
  let s ← get
  let e := s.objEntry k
  let len := fld e 64 64
  let dlen := fld e 224 32
  let pn := bit e 13
  let map := (len + 31) / 32
  if fld e 2 2 == 3 || 6 < fld e 4 4 || 2 ^ 40 ≤ len || len < dlen || fld e 192 4 != 0 || fld e 256 4 != 0 ||
      s.pkg.ldimg.len < fld e 192 32 + dlen || s.pkg.ldimg.len < fld e 256 32 + map || pn != (fld e 2 2 == 1 && fld e 0 2 != 3) then return none
  let n := footprint len
  match ← placeEntry e n with
  | none => pure none
  | some p =>
    let b := p.key (fld e 14 4)
    if s.badEntryPtr p || b % 32 != 16 then return none
    initObject (b - 16) n (Header.fresh (fld e 4 4) len)
    loadBytes b ((s.fetchObj? s.pkg.ldimg 0 (fld e 192 32) dlen).getD [])
    let map := (s.fetchObj? s.pkg.ldimg 0 (fld e 256 32) map).getD []
    (wordsOf b len).forM fun w =>
      if bit (leAt map ((w - b) / 32) 1) ((w - b) / 4 % 8) then do
        let g ← phys w aW
        modify fun s => s.updMem fun m => m.setFull g true
      else pure ()
    modify fun s => s.touched (b - 16) n
    pure (some p)

/-! ## Relocations -/

/-- A relocation record. -/
def State.relocEntry (s : State) (k : Nat) : Nat := s.imgNat (s.imgWord 44 + 32 * k) 32

/-- The length that a relocation asks for. -/
def relocLen (r : Nat) (t : PReg) : Nat := if fld r 192 64 == 0 then t.len - fld r 128 64 else fld r 192 64

/-- The pointer that a relocation writes. -/
def relocPtr (r : Nat) (t : PReg) : PReg :=
  let toff := fld r 128 64
  let len := relocLen r t
  let perm := fld t.bits.toNat 53 5 &&& fld r 96 6
  (((t.setF 0 48 (t.addr + toff)).setF 64 40 len).setF 50 3 (fld r 102 3)).setF 53 5 perm

/-- Relocation k is written (R361, R362); false where it fails. -/
def relocate (k : Nat) : M Bool := do
  let s ← get
  let r := s.relocEntry k
  let objs := (s.pkg.loading.map Loading.objs).getD []
  match objs[fld r 0 32]?, objs[fld r 64 32]? with
  | some o, some t =>
    let goff := fld r 32 32
    let toff := fld r 128 64
    let q := relocPtr r t
    let part := fld (s.objEntry (fld r 0 32)) 14 4
    if goff % 16 != 0 || o.len < goff + 16 || t.len < toff || t.len < toff + relocLen r t || o.kind == 6 || (q.w && q.xw)
    then return false
    let (b, _) ← locateUp (o.key part)
    if !q.pn && q.lvl != 3 && (s.escapeTo (q.key part) b part).isSome then return false
    loadBytes (b + goff) (bytesOf 16 q.bits.toNat)
    let g ← phys (b + goff) aW
    modify fun s => s.updMem fun m =>
      (upTo 4).foldl (fun m i => m.setFull (g + 4 * i) true) (m.setTag g true)
    modify State.settled
    pure true
  | _, _ => pure false

/-! ## Steps -/

/-- The load's next step. -/
def State.loadTo (s : State) (step : LoadStep) : State :=
  s.updPkg fun p => { p with loading := p.loading.map fun l => { l with step } }

/-- A heap page that the engine needs is asked for, and the step runs again when it is mapped (R307). -/
def State.loadWaits (s : State) (k need : Nat) : State :=
  if s.dies.toList.any fun v => v.stks.toList.any fun q => (q.faults ++ q.waiting).any fun f => f.who == .load
  then s else s.pageFault k need 0 .load

/-- What follows object k. -/
def State.afterObject (s : State) (k : Nat) : LoadStep := if k < s.imgWord 40 then .object k else
  if s.imgWord 48 == 0 then .cores else .reloc 0

/-- An object entry, its bytes or its map holds an uncorrectable error. -/
def State.objBad (s : State) (k : Nat) : Bool :=
  let e := s.objEntry k
  s.imgBad (s.imgWord 36 + 64 * k) 64 || s.imgBad (fld e 192 32) (fld e 224 32) ||
    s.imgBad (fld e 256 32) ((fld e 64 64 + 31) / 32)

/-- One step of a load that has the image before it: a step that needs a page waits for it. -/
def State.loadStep (s : State) (l : Loading) : State :=
  match l.step with
  | .header =>
    if s.imgBad 0 64 then s.failLoad 6 0 else
    match s.imgCheck with
    | some code => s.failLoad code 0
    | none => (s.loadTo (s.afterObject 0)).later 1 .load
  | .object k =>
    if s.objBad k then s.failLoad 6 k else
    match M.filled (buildObject k) s with
    | .ok (some p) t =>
      ((t.updPkg fun g => { g with loading := g.loading.map fun l => { l with objs := l.objs ++ [p] } }).loadTo
        (t.afterObject (k + 1))).later 1 .load
    | .ok none _ => s.failLoad 4 k
    | .error (.page a need _ _) _ => s.loadWaits a need
    | .error (.wait _) _ => s.soon 8 .load
    | .error _ _ => s.failLoad 4 k
  | .reloc k =>
    if s.imgBad (s.imgWord 44 + 32 * k) 32 then s.failLoad 6 k else
    match M.filled (relocate k) s with
    | .ok true t => (t.loadTo (if k + 1 < t.imgWord 48 then .reloc (k + 1) else .cores)).later 1 .load
    | .ok false _ => s.failLoad 5 k
    | .error (.page a need _ _) _ => s.loadWaits a need
    | .error (.wait _) _ => s.soon 8 .load
    | .error _ _ => s.failLoad 5 k
  | .cores =>
    match l.cores with
    | c :: _ => s.later 1 (.loadCore c)
    | [] => (s.loadTo .finished).later 1 .load
  | .finished => s.updPkg fun p => { p with loading := none, ldcmd := 4 }

/-- A load is under way. -/
def Package.loadRuns (p : Package) : Bool := fld p.ldcmd.toNat 1 2 == 1

/-- A write of LDCMD (R361): go starts a load unless one runs. -/
def State.startLoad (s : State) (v : Nat) : State :=
  if !bit v 0 || s.pkg.loadRuns then s else
  (s.updPkg fun p => { p with ldcmd := 2, loading := some { cores := p.loadSet } }).later 1 .load

/-- The load engine does f once it can read the image; else the event comes again. -/
def State.withImage (s : State) (again : Due) (f : State → State) : State :=
  match M.filled imgMapped s with
  | .ok _ t => f t
  | .error (.page k need _ _) _ => s.loadWaits k need
  | .error _ _ => s.soon 8 again

/-- LOAD_IMAGE (R361): the load engine's next step of the header, the objects and the relocations. -/
def execLoadImage (s : State) : Out :=
  match s.pkg.loading with
  | none => .next s
  | some l => .next (s.withImage .load (·.loadStep l))

/-- A class or pane record is written into core c. -/
def State.loadRecord (s : State) (c : Nat) (pane : Bool) (i : Nat) : State :=
  let (n, v) := s.imgRecord pane i
  if pane then s.updCore c fun k => { k with panes := k.panes.set (Fin.ofNat 8 n).val (BitVec.ofNat 64 v) (Fin.ofNat 8 n).isLt }
  else s.writeClass c (n % 256) v

/-- The code section is written into core c's routine store. -/
def State.loadCode (s : State) (c : Nat) : State :=
  let w := s.imgWord
  let code := (s.fetchObj? s.pkg.ldimg 0 (w 8) (w 12)).getD []
  let at_ := routineBase c + w 16
  (s.updMem fun m =>
    (granules at_ code.length).foldl (fun m g => m.setPoison g false) (m.write at_ code)).wrote at_ code.length

/-- The records that a core gets, in order: classes, then panes. -/
def State.records (s : State) : List (Bool × Nat) :=
  (upTo (s.imgWord 24)).map (fun i => (false, i)) ++ (upTo (s.imgWord 32)).map fun i => (true, i)

/-- A core's code, class records and panes; the failure of the first that cannot be written, with what stands before
it written. -/
def State.loadOne (s : State) (c : Nat) : Option (Nat × Nat) × State :=
  if s.imgBad (s.imgWord 8) (s.imgWord 12) then (some (6, 0), s) else
  s.records.foldl (fun r (pane, i) => match r with
    | (none, s) => match s.recordBad pane i with
      | some code => (some (code, i), s)
      | none => (none, s.loadRecord c pane i)
    | r => r) (none, s.loadCode c)

/-- LOAD_CORE (R361): once no context of the core holds an activation, its code, classes and panes are written, and
its dispatch goes on. -/
def execLoadCore (core : Fin 1024) (s : State) : Out :=
  let c := core.val
  match s.pkg.loading with
  | none => .next s
  | some l =>
    if l.step != .cores || l.cores.head? != some c then .next s
    else if (s.coreAt c).ctxs.toList.any (·.busy) then .next (s.soon 8 (.loadCore c))
    else .next (s.withImage (.loadCore c) fun s =>
      match s.loadOne c with
      | (some (code, i), s) => (s.failLoad code i).later 1 (.dispatch c)
      | (none, s) =>
        let s := s.updPkg fun p => { p with loading := p.loading.map fun l => { l with cores := l.cores.drop 1 } }
        (s.later 1 (.dispatch c)).later 1 .load)

end Sys2Proof.Machine
end

