-- ==== Sys2Proof/Machine/Launch.lean ====
section
/-! DEFINITION. Launch queues, slots and launches (18 R370-R378), and the removal of translations (R379). -/

namespace Sys2Proof.Machine

/-! ## Queues and slots (R370, R371) -/

/-- A field of a queue's descriptor becomes v, written by the launch engine. -/
def State.setQueue (s : State) (q off n v : Nat) : State := s.enginePut s.pkg.qtbase 0 (64 * q + off) (bytesOf n v) none

/-- A queue's ctl. -/
def State.queueCtl (s : State) (q : Nat) : Nat := s.queueField q 40 8

/-- What the launch engine reads here, as pointers with their partition, an offset and a length: whether all of it can be
read now, and the state after it: what an expander fills or takes in stays (R245, R249); where something cannot be read,
the state in which the engine waits for it, a page that is missing asked for (R307, R355). -/
def State.engineReads (s : State) : List (PReg × Nat × Nat × Nat) → State × Bool
  | [] => (s, true)
  | (p, part, off, n) :: xs =>
    if !p.tag || s.malformed p || p.len ≤ off then s.engineReads xs else
    match M.filled (fetchObj p part off n) s with
    | .ok _ t => t.settled.engineReads xs
    | .error (.page k need _ _) _ => (s.askPage k need, false)
    | .error (.wait _) _ => (s, false)
    | .error _ _ => s.engineReads xs

/-- The state in which the launch engine waits for what it reads here, if it must. -/
def State.lacks (s : State) (xs : List (PReg × Nat × Nat × Nat)) : Option State :=
  match s.engineReads xs with
  | (t, false) => some t
  | _ => none

/-- The state after the launch engine has read these. -/
def State.taken (s : State) (xs : List (PReg × Nat × Nat × Nat)) : State := (s.engineReads xs).1

/-- The launch queue table (R370). -/
def State.queueTable (s : State) : PReg × Nat × Nat × Nat := (s.pkg.qtbase, 0, 0, 65536)

/-- The descriptor of a queue. -/
def State.descriptor (s : State) (q : Nat) : PReg × Nat × Nat × Nat := (s.pkg.qtbase, 0, 64 * q, 64)

/-- A queue has work (R370). -/
def State.hasWork (s : State) (q : Nat) : Bool := bit (s.queueCtl q) 24 && s.queueUsed q != 0

/-- Slot n. -/
def State.slotAt (s : State) (n : Nat) : Slot := SMap.get {} s.pkg.slots n
/-- Slot n changed by f. -/
def State.updSlot (s : State) (n : Nat) (f : Slot → Slot) : State :=
  s.updPkg fun p => { p with slots := SMap.put p.slots n (f (SMap.get {} p.slots n)) }

/-- The slot that serves a queue. -/
def State.slotFor (s : State) (q : Nat) : Option Nat := (upTo 128).find? fun n => (s.slotAt n).queue == some q

/-- Ticks of the timestamp counter in 1 ms, and in 100 µs (R366). -/
def ticksMs : Nat := 1250000
/-- Ticks in 100 µs. -/
def ticksHeld : Nat := 125000

/-- The effective priority of a queue without a slot (R371). -/
def State.aged (s : State) (q : Nat) : Nat :=
  let ctl := s.queueCtl q
  let base := fld ctl 0 6
  let since := SMap.get s.pkg.time s.pkg.ageing q
  min (base + (s.pkg.time - since).toNat / ticksMs) (max base (fld ctl 8 6))

/-- Queues without a slot that have work. -/
def State.unmapped (s : State) : List Nat :=
  (upTo 1024).filter fun q => s.hasWork q && (s.slotFor q).isNone

/-- Queues without a slot that have work have waited since they were first found so, and no others wait (R371). -/
def State.age (s : State) : State :=
  let us := s.unmapped
  s.updPkg fun p => { p with ageing := us.map fun q => (q, SMap.get p.time p.ageing q) }

/-- A queue's descriptor has changed: its slot reads on, or it begins to age, or to wait no more. -/
def State.queueChanged (s : State) (q : Nat) : State :=
  match s.slotFor q with
  | some n => s.later 1 (.start n)
  | none =>
    let since := SMap.get s.pkg.time s.pkg.ageing q
    let ageing := if s.hasWork q then SMap.put s.pkg.ageing q since else s.pkg.ageing.erase q
    (s.updPkg fun p => { p with ageing }).later 1 .mapSlot

/-- QUEUE_DOORBELL (R370): a new tail. -/
def execQueueDoorbell (v : BitVec 64) : State → Out := managed fun s =>
  let q := fld v.toNat 0 10
  let s := s.updPkg fun p => { p with qdoor := v }
  .next ((s.setQueue q 36 4 (fld v.toNat 10 32)).queueChanged q)

/-- The best of the queues without a slot: highest effective priority, then longest waiting. -/
def State.bestQueue (s : State) : Option Nat :=
  s.unmapped.foldl (fun b q => match b with
    | none => some q
    | some c =>
      let old := fun q => (SMap.get s.pkg.time s.pkg.ageing q).toNat
      if s.aged c < s.aged q || (s.aged c == s.aged q && old q < old c) then some q else b) none

/-- The slots look at their queues, which a store into the table may have given work; so they will again. -/
def State.lookAgain (s : State) : State :=
  if !s.pkg.qtbase.tag then s else
  let idle := s.pkg.slots.filter fun e => match e.2.queue with
    | some q => s.hasWork q && !s.pkg.launches.any fun l => l.queue == q
    | none => false
  (idle.foldl (fun s e => s.soon 1 (.start e.1)) s).soon 1024 .mapSlot

/-- SLOT_MAP (R371): a free slot is given to the best queue. -/
def execSlotMap (s : State) : Out :=
  match s.lacks [s.queueTable] with
  | some t => .next (t.soon 64 .mapSlot)
  | none =>
  let s := (s.taken [s.queueTable]).age
  match (upTo 128).find? fun n => (s.slotAt n).queue.isNone with
  | none => .next s.lookAgain
  | some n =>
    match s.bestQueue with
    | none => .next s.lookAgain
    | some q =>
      let eff := s.aged q
      let part : BitVec 4 := BitVec.ofNat 4 (fld (s.queueCtl q) 16 4)
      let s := s.updSlot n fun t => { t with queue := some q, part, eff, since := s.pkg.time }
      let s := s.updPkg fun p => { p with ageing := p.ageing.erase q }
      .next ((s.later 1 (.start n)).later 1 .mapSlot)

/-- A slot may be released (R371). -/
def State.releasable (s : State) (n : Nat) : Bool :=
  let t := s.slotAt n
  match t.queue with
  | none => false
  | some q =>
    (s.lacks [s.queueTable]).isNone && !s.pkg.launches.any (fun l => l.queue == q) &&
      (!s.hasWork q ||
        (ticksHeld ≤ (s.pkg.time - t.since).toNat && s.unmapped.any fun u => t.eff ≤ s.aged u))

/-- SLOT_RELEASE (R371): at a boundary. -/
def execSlotRelease (slot : Fin 128) (s : State) : Out :=
  if !s.releasable slot.val then .next s else
  match (s.slotAt slot.val).queue with
  | none => .next s
  | some q =>
    let s := s.updSlot slot.val fun t => { t with queue := none }
    .next ((s.queueChanged q).later 1 .mapSlot)

/-! ## Launch parameter blocks (R372) -/

/-- A number in the block. -/
def Launch.field (l : Launch) (off n : Nat) : Nat := leAt l.blk off n
/-- A pointer of the block: 0 args, 1 grp, 2 pay, 3 place, 4 wait, 5 done, 6 rec. -/
def Launch.ptr (l : Launch) (i : Nat) : PReg := l.ptrs.getD i .null
/-- count. -/
def Launch.count (l : Launch) : Nat := l.field 112 4
/-- ctl. -/
def Launch.ctl (l : Launch) : Nat := l.field 128 8
/-- L. -/
def Launch.plen (l : Launch) : Nat := fld l.ctl 16 9
/-- grpv. -/
def Launch.grpv (l : Launch) : Bool := bit l.ctl 25

/-- The pointer to a queue's core mask. -/
def State.maskPtr (s : State) (q : Nat) : PReg := s.granuleAt s.pkg.qtbase 0 (64 * q + 16)

/-- The cores of a queue's mask (R370). -/
def State.queueMask (s : State) (q : Nat) : Nat :=
  let m := s.maskPtr q
  if m.tag && !s.malformed m then natOf ((s.fetchObj? m (fld (s.queueCtl q) 16 4) 0 128).getD []) else 0

/-- Entry i of the place table. -/
def State.placeEntry (s : State) (l : Launch) (i : Nat) : Nat :=
  natOf ((s.fetchObj? (l.ptr 3) l.part (8 * i) 8).getD [])

/-- The terms in use of group entry g. -/
def State.groupTerms (s : State) (l : Launch) (g : Nat) : List (Nat × Nat × Nat) :=
  let bs := (s.fetchObj? (l.ptr 1) l.part (32 * g) 32).getD []
  ((upTo 4).map fun i =>
    let t := leAt bs (8 * i) 8
    (fld t 0 24, fld t 24 24, fld t 48 16)).filter fun t => t.2.2 != 0

/-- The group entries of a launch. -/
def State.groupTable (s : State) (l : Launch) : List (List (Nat × Nat × Nat)) :=
  if l.grpv then (upTo 256).map (s.groupTerms l) else []

/-- A pointer of the block that breaks R373's conditions. -/
def State.badPtr (s : State) (p : PReg) (required write : Bool) : Bool :=
  if p.tag then s.malformed p || !(if write then p.w else p.r) else required

/-- Status 2 of R373. -/
def State.badLaunch (s : State) (l : Launch) : Bool :=
  let place := l.ptr 3
  s.badPtr l.blkptr true false || fld l.ctl 26 6 != 0 || 2 ^ 10 ≤ l.field 136 8 || l.field 152 40 != 0 ||
    s.badPtr (l.ptr 0) false false || s.badPtr (l.ptr 1) l.grpv false || s.badPtr (l.ptr 2) (l.plen != 0) false ||
    s.badPtr place false false || s.badPtr (l.ptr 4) false false || s.badPtr (l.ptr 5) false true ||
    s.badPtr (l.ptr 6) false true || 256 < l.plen || (l.plen != 0 && (l.ptr 2).len < l.plen) ||
    (if place.tag then
      place.len < 8 || l.places.any fun e =>
        fld e 0 3 != 0 || fld e 22 10 != 0 || fld e 13 9 != s.pkg.pkgid.toNat || !bit l.mask.toNat (fld e 3 10)
     else l.mask == 0) ||
    (s.groupTable l).any fun ts => ts.any fun t => t.2.1 < t.1 || l.count ≤ t.2.1

/-- The validation of R373. -/
def State.launchStatus (s : State) (l : Launch) : Nat :=
  if 2 ^ 24 < l.count then 1
  else if s.badLaunch l then 2
  else
    let gs := s.groupTable l
    let entries := fun w => (gs.filter fun ts => ({ terms := ts : Group }).isMember w).length
    if (upTo l.count).any fun w => 5 ≤ entries w then 3 else 0

/-! ## The record and the end of a launch (R374, R375) -/

/-- A slot's stall totals, sixteen dwords. -/
def Slot.totalBytes (t : Slot) : List Byte := (upTo 16).flatMap fun i => bytesOf 8 (SMap.get 0 t.totals i).toNat

/-- A group record (R333). -/
def Group.bytes (v : Group) : List Byte :=
  bytesOf 4 v.members.toNat ++ bytesOf 4 v.arrived.toNat ++ bytesOf 4 v.gen.toNat ++ bytesOf 4 v.stray.toNat

/-- Bytes are written at off of a launch's record. -/
def State.recordPut (s : State) (l : Launch) (off : Nat) (bs : List Byte) : State :=
  s.enginePut (l.ptr 6) l.part off bs none

/-- The stall totals of a queue's slot, or zeros. -/
def State.queueTotals (s : State) (q : Nat) : List Byte :=
  match s.slotFor q with
  | some n => (s.slotAt n).totalBytes
  | none => List.replicate 128 0

/-- The start fields of a launch's record (R373, R375). -/
def State.openRecord (s : State) (l : Launch) : State :=
  (s.recordPut l 0 (bytesOf 8 s.pkg.time.toNat)).recordPut l 128 (s.queueTotals l.queue)

/-- A launch completes (R374): the record, then done; waiting launches may start. -/
def State.endLaunch (s : State) (l : Launch) (status : Nat) : State :=
  let word := bytesOf 8 (status + l.nplaced * 2 ^ 32)
  let put := fun (s : State) (off : Nat) (bs : List Byte) => s.recordPut l off bs
  let s := put s 16 word
  let s := put s 32 ([l.completed, l.killed, l.rolled, l.sealed].flatMap (bytesOf 8))
  let s := put s 64 (bytesOf 8 l.fp.toNat)
  let s := if l.grpv then
      (upTo 256).foldl (fun s g =>
        put s (512 + 32 * g) ((SMap.get {} s.pkg.groups (groupKey l.uid g)).bytes ++ bytesOf 16 0)) s
    else s
  let s := s.enginePut (l.ptr 5) l.part 0 word (some true)
  let s := s.updPkg fun p =>
    { p with
      launches := p.launches.filter fun m => m.uid != l.uid
      groups := SMap.clear p.groups (groupKey l.uid 0) (groupKey (l.uid + 1) 0)
      sealed := p.sealed.filter fun e => e.2.1 != l.uid }
  ((s.later 1 (.start l.slot.toNat)).later 1 (.stop l.slot.toNat)).later 1 .mapSlot

/-- A launch completes at once (R373, R378): with equal START and STOP fields (R375). -/
def State.endAtOnce (s : State) (l : Launch) (status : Nat) : State :=
  ((((s.openRecord l).recordPut l 8 (bytesOf 8 s.pkg.time.toNat)).recordPut l 256 (s.queueTotals l.queue)).endLaunch l
    status)

/-- The memory that holds the block of a launch. -/
def Launch.blockPlace (l : Launch) : PReg × Nat × Nat × Nat := (l.blkptr, l.part, 0, 192)

/-- The block of a launch, as it stands. -/
def State.readBlock (s : State) (l : Launch) : Launch :=
  let p := if s.badPtr l.blkptr true false then .null else l.blkptr
  { l with
    blk := (s.fetchObj? p l.part 0 192).getD (List.replicate 192 0)
    ptrs := (upTo 7).map fun i => s.granuleAt p l.part (16 * i) }

/-- A launch with the pointers of its block that may be used. -/
def State.usable (s : State) (l : Launch) : Launch :=
  { l with ptrs := (upTo 7).map fun i => if s.badPtr (l.ptr i) false (5 ≤ i) then PReg.null else l.ptr i }

/-- An atomic of a launch is not performed yet: its flags belong to the record (R331), and done follows it (R374). -/
def State.launchAmos (s : State) (uid : Nat) : Bool :=
  let mine := fun (op : HOp) => match op with
    | .amo _ _ _ _ _ _ _ l => l == uid
    | .arrive l _ _ _ => l == uid
  (s.reqs.any fun r => match r.load with
    | .handler op => mine op
    | _ => false) || s.cores.any fun e => e.2.handler.any fun h => mine h.op

/-- The record of a launch's START, which is the most recent one of its queue that has been read (R375). -/
def State.noteRecord (s : State) (l : Launch) : State :=
  if l.read && (SMap.get (0, .null) s.pkg.records l.queue).1 ≤ l.uid then
    s.updPkg fun p => { p with records := SMap.put p.records l.queue (l.uid, l.ptr 6) }
  else s

/-- LAUNCH_COMPLETE (R374): every message is placed, every activation has ended, and its atomics are performed. A launch
cancelled before it began reads its block first, to find its record. -/
def execLaunchComplete (id : Nat) (s : State) : Out :=
  match s.launch? id with
  | none => .next s
  | some l =>
    if !(l.active == 0 && l.allPlaced) then .next s
    else if s.launchAmos id then .next (s.soon 8 (.launchDone id))
    else
      let status := (l.cancelled.getD 0).toNat
      if l.blk.isEmpty then
        match s.lacks [l.blockPlace] with
        | some t => .next (t.soon 64 (.launchDone id))
        | none =>
          let s := s.taken [l.blockPlace]
          let l := s.usable (s.readBlock l)
          .next ((s.noteRecord l).endAtOnce l status)
      else .next (if status == 4 then s.endAtOnce l 4 else s.endLaunch l status)

/-! ## START, placement and STOP (R373, R375) -/

/-- Packet k of a queue's ring: its type, and its pointer. -/
def State.packetAt (s : State) (q k : Nat) : Nat × PReg :=
  let (ring, part, n) := s.queueRing q
  let off := 32 * (k % max 1 n)
  (fld (natOf ((s.fetchObj? ring part off 8).getD [])) 0 4, s.granuleAt ring part (off + 16))

/-- The memory that holds packet k of a queue's ring. -/
def State.packetPlace (s : State) (q k : Nat) : PReg × Nat × Nat × Nat :=
  let (ring, part, n) := s.queueRing q
  (ring, part, 32 * (k % max 1 n), 32)

/-- A launch of a START packet. -/
def State.newLaunch (s : State) (slot q seq : Nat) (p : PReg) : Launch :=
  { uid := s.pkg.launchNext, id := BitVec.ofNat 42 (q + seq * 1024), slot := BitVec.ofNat 7 slot, queue := q
    part := fld (s.queueCtl q) 16 4, blkptr := p }

/-- The word that a launch waits for. -/
def State.waitPtr (s : State) (l : Launch) : PReg :=
  if s.badPtr l.blkptr true false then .null else s.granuleAt l.blkptr l.part 64

/-- The word that a launch waits for is full, or there is none. -/
def State.waitOver (s : State) (l : Launch) : Bool :=
  let p := s.waitPtr l
  if !p.tag || s.malformed p || !p.r || p.len < 4 then true else
  let work : M Bool := do
    let (k, _) ← locate (p.key l.part)
    allFull k 4 true aR
  (work.try? s).elim false Prod.fst

/-- The group records of a launch that starts (R333). -/
def State.openGroups (s : State) (l : Launch) : State :=
  (s.groupTable l).zipIdx.foldl (fun s (ts, g) =>
    let v : Group := { terms := ts }
    let n := ((upTo l.count).filter v.isMember).length
    let v : Group := { v with members := BitVec.ofNat 25 n }
    s.updPkg fun p => { p with groups := SMap.put p.groups (groupKey l.uid g) v }) s

/-- A launch in flight changed to l. -/
def State.putLaunch (s : State) (l : Launch) : State := s.updLaunch l.uid fun _ => l

/-- The snapshot of a launch's block, with its queue's mask and the tables that it names (R373). -/
def State.snapshot (s : State) (l : Launch) : Launch :=
  let l := s.readBlock l
  let place := l.ptr 3
  { l with
    startTime := s.pkg.time
    mask := BitVec.ofNat 1024 (s.queueMask l.queue)
    places := if place.tag && !s.malformed place then (upTo (place.len / 8)).map (s.placeEntry l) else []
    pay := (s.fetchObj? (l.ptr 2) l.part 0 l.plen).getD [] }

/-- What the snapshot and the validation of a launch read, its block read already. -/
def State.reading (s : State) (l : Launch) : List (PReg × Nat × Nat × Nat) :=
  [(s.maskPtr l.queue, l.part, 0, 128), (l.ptr 2, l.part, 0, l.plen), (l.ptr 3, l.part, 0, (l.ptr 3).len)] ++
    if l.grpv then [(l.ptr 1, l.part, 0, 8192)] else []

/-- A launch with its snapshot l: validation, the start fields, and the first placement. -/
def State.beginLaunch (s : State) (l : Launch) : State :=
  let status := s.launchStatus l
  let l := if status == 2 then s.usable l else l
  let s := s.noteRecord l
  if status != 0 || l.count == 0 then s.endAtOnce l status
  else
    let s := (s.openRecord l).putLaunch { l with phase := .placing 0 }
    (s.openGroups l).later 1 (.place l.slot.toNat)

/-- The launch of a queue that has not placed its last message. -/
def State.unplaced (s : State) (q : Nat) : Option Launch := s.pkg.launches.find? fun l => l.queue == q && !l.allPlaced

/-- A launch that waits, or makes its snapshot, goes on (R373). -/
def State.goOn (s : State) (n : Nat) (l : Launch) : State :=
  match l.phase with
  | .waits =>
    match s.lacks [l.blockPlace, (s.waitPtr l, l.part, 0, 4)] with
    | some t => t.soon 64 (.start n)
    | none =>
      let s := s.taken [l.blockPlace, (s.waitPtr l, l.part, 0, 4)]
      if s.waitOver l then (s.putLaunch { l with phase := .reads }).later 0 (.start n) else s.later 8 (.start n)
  | .reads =>
    match s.lacks [l.blockPlace] <|> s.lacks (s.reading (s.readBlock l)) with
    | some t => t.soon 64 (.start n)
    | none =>
      let s := (s.taken [l.blockPlace]).taken (s.reading (s.readBlock l))
      s.beginLaunch (s.snapshot l)
  | _ => s

/-- START (R373): the slot reads its queue's next packet after the last placement. -/
def execStart (slot : Fin 128) (s : State) : Out :=
  let n := slot.val
  match (s.slotAt n).queue with
  | none => .next s
  | some q =>
    match s.unplaced q with
    | some l => .next (s.goOn n l)
    | none =>
      match s.lacks [s.descriptor q] with
      | some t => .next (t.soon 64 (.start n))
      | none =>
      let s := s.taken [s.descriptor q]
      if !s.hasWork q then .next (s.later 1 .mapSlot) else
      if s.releasable n then .next (s.later 1 .mapSlot) else
      let k := s.queueField q 32 4
      match s.lacks [s.packetPlace q k] with
      | some t => .next (t.soon 64 (.start n))
      | none =>
      let s := s.taken [s.packetPlace q k]
      let (ty, p) := s.packetAt q k
      let next := (k + 1) % 2 ^ 32
      if ty == 1 then
        let l := s.newLaunch n q k p
        let s := (s.setQueue q 32 4 next).updPkg fun g =>
          { g with launches := g.launches ++ [l], launchNext := g.launchNext + 1 }
        .next (s.later 1 (.start n))
      else if ty == 2 then .next (s.later 1 (.stop n))
      else .next ((s.setQueue q 32 4 next).later 1 (.start n))

/-- STOP (R375): it waits until every launch of its queue has completed, and closes the record of the most recent
START. -/
def execStop (slot : Fin 128) (s : State) : Out :=
  let n := slot.val
  match (s.slotAt n).queue with
  | none => .next s
  | some q =>
    let k := s.queueField q 32 4
    match s.lacks [s.descriptor q] <|> s.lacks [s.packetPlace q k] with
    | some t => .next (t.soon 64 (.stop n))
    | none =>
    let s := (s.taken [s.descriptor q]).taken [s.packetPlace q k]
    if !s.hasWork q || (s.packetAt q k).1 != 2 || s.pkg.launches.any (fun l => l.queue == q) then .next s else
    let part := fld (s.queueCtl q) 16 4
    let r := (SMap.get (0, .null) s.pkg.records q).2
    let s := s.enginePut r part 8 (bytesOf 8 s.pkg.time.toNat) none
    let s := s.enginePut r part 256 (s.slotAt n).totalBytes none
    .next ((s.setQueue q 32 4 ((k + 1) % 2 ^ 32)).later 1 (.start n))

/-- The next core of a mask after core c, in ascending order. -/
def nextOf (mask c : Nat) : Nat :=
  (((upTo 1024).map fun i => (c + 1 + i) % 1024).find? (bit mask ·)).getD 0

/-- The message of a work unit (R373). -/
def Launch.message (l : Launch) (w dst tag : Nat) (steal : Bool) : OutMsg :=
  let body := if bit l.ctl 15 then (bytesOf 8 w ++ l.pay.drop 8).take l.plen else l.pay
  { dst := BitVec.ofNat 22 dst
    msg := { cls := BitVec.ofNat 8 l.ctl, tag := BitVec.ofNat 32 tag, wuid := BitVec.ofNat 24 w
             prio := BitVec.ofNat 6 (fld l.ctl 8 6), cap := BitVec.ofNat 32 (fld l.ctl 32 32), body
             slot := l.slot, part := BitVec.ofNat 4 l.part
             launch := l.uid, steal } }

/-- MESSAGE_PLACEMENT (R373): the next work unit's message goes to its core. -/
def execMessagePlacement (slot : Fin 128) (s : State) : Out :=
  let n := slot.val
  let here : Launch → Bool := fun l => l.slot.toNat == n && match l.phase with
    | .placing _ => true
    | _ => false
  match s.pkg.launches.find? here with
  | none => .next s
  | some l =>
    match l.phase with
    | .placing w =>
      let place := l.ptr 3
      let e := l.places.getD (w % max 1 l.places.length) 0
      let core := if place.tag then fld e 3 10 else nextOf l.mask.toNat (s.slotAt n).lastCore
      let o := l.message w (if place.tag then fld e 0 22 else s.coreId core)
        (if place.tag then fld e 32 32 else 0) (!place.tag)
      let last := l.count ≤ w + 1
      let s := s.updLaunch l.uid fun l =>
        { l with active := l.active + 1, unaccepted := l.unaccepted + 1
                 phase := if last then .placed else .placing (w + 1) }
      let s := s.updSlot n fun t => { t with lastCore := if place.tag then t.lastCore else core }
      let s := s.request (65536 + 1024 + n) 0 0 core o.msg.prio (.initial o) (.message core) 1
      .next (if last then s else s.later 1 (.place n))
    | _ => .next s

/-! ## LAUNCH and CANCEL (R377, R378) -/

/-- Bytes of a queue's table or ring are written by a unit; the answer is their place. -/
def putQueue (p : PReg) (part off : Nat) (bs : List Byte) : M Nat := do
  let (k, _) ← locateUp (p.key part + off)
  putBytes k bs none
  bumpVersion k
  pure k

/-- A START packet for the block at own enters the ring of queue q at packet tail, as a release of what the context did
before (R377). -/
def putStart (q tail : Nat) (own : PReg) : M Unit := do
  let (ring, part, n) := (← get).queueRing q
  let off := 32 * (tail % max 1 n)
  let k ← putQueue ring part off (bytesOf 16 1 ++ bytesOf 16 own.bits.toNat)
  let g ← phys (k + 16) aW
  modify fun s => s.updMem fun m => m.setTag g true
  let _ ← putQueue (← get).pkg.qtbase 0 (64 * q + 36) (bytesOf 4 ((tail + 1) % 2 ^ 32))

/-- LAUNCH (R377). -/
def execLaunch (p : Pr) : State → Out :=
  unit (.launch p) do
    let r ← checkPerm p true true
    require (192 ≤ r.len) cPERM 0 (some p)
    atOff p 136 do
      match ← access p 136 8 1 true false with
      | none => pure ()
      | some k =>
        let q := fld (← readNat k 8) 0 10
        let table := (← get).pkg.qtbase
        if table.tag then let _ ← fetchObj table 0 (64 * q) 64
        let s ← get
        let ctl := s.queueCtl q
        require (bit ctl 24 && fld ctl 16 4 == (← me).part.toNat) cPRIV
        if !s.queueRoom q then throw (.park (.ring p q) 136)
        afterAmos
        let tail := s.queueField q 36 4
        putStart q tail (← preg p)
        storeBytes p 144 (k + 8) (bytesOf 8 (q + tail * 1024)) (some true)
        modify fun s => (s.queueChanged q).settled
    pure .seq

/-- The requests of a launch that no input buffer has accepted are dropped. -/
def State.dropInitial (s : State) (uid : Nat) : State :=
  let mine : Req → Bool := fun r => match r.load with
    | .initial o => o.msg.launch == uid
    | _ => false
  let n := (s.reqs.filter mine).length
  ({ s with reqs := s.reqs.filter fun r => !mine r }.updLaunch uid fun l =>
    { l with active := l.active - n, unaccepted := 0, phase := .placed })

/-- The result of a CANCEL (R378), for a partition or for the host. -/
def State.cancel (s : State) (id : Nat) (part : Option Nat) : Nat × State :=
  let q := fld id 0 10
  let seq := fld id 10 32
  let ctl := s.queueCtl q
  let other := match part with
    | some p => fld ctl 16 4 != p
    | none => false
  if other || 2 ^ 42 ≤ id then (3, s) else
  match s.pkg.launches.find? fun l => l.id.toNat == id with
  | some l =>
    let code := if l.nplaced == 0 then 0 else if l.allPlaced then 2 else 1
    if code == 2 then (2 + l.nplaced * 256, s)
    else
      let s := (s.dropInitial l.uid).updLaunch l.uid fun l => { l with cancelled := some (if code == 0 then 4 else 5) }
      (code + l.nplaced * 256, (s.later 0 (.launchDone l.uid)).later 1 (.start l.slot.toNat))
  | none =>
    let head := s.queueField q 32 4
    let (ty, p) := s.packetAt q seq
    if (seq + 2 ^ 32 - head) % 2 ^ 32 < s.queueUsed q && ty == 1 then
      let (ring, rp, off, _) := s.packetPlace q seq
      let l := { s.newLaunch ((s.slotFor q).getD 127) q seq p with phase := .placed, cancelled := some 4, read := false }
      let s := s.enginePut ring rp off (bytesOf 16 0) none
      (0, (s.updPkg fun g =>
        { g with launches := g.launches ++ [l], launchNext := g.launchNext + 1 }).later 0 (.launchDone l.uid))
    else (3, s)

/-- What a CANCEL reads of its queue, after the descriptor: the packet of the launch. -/
def State.cancelReads (s : State) (id : Nat) : List (PReg × Nat × Nat × Nat) :=
  [s.descriptor (fld id 0 10), s.packetPlace (fld id 0 10) (fld id 10 32)]

/-- The bytes of a place are read, where there is one. -/
def readPlace (x : PReg × Nat × Nat × Nat) : M Unit := do
  if x.1.tag && !(← get).malformed x.1 then discard (fetchObj x.1 x.2.1 x.2.2.1 x.2.2.2)

/-- CANCEL (R378): the result goes back to the register that named the launch. It waits for the pages of the queue. -/
def execCancel (a : Sc) : State → Out :=
  unit (.cancel a) do
    require (a.val < 32) cILLEGAL
    using_ { ss := [a.val], ds := [a.val] } do
      let id ← readS a.val
      readPlace ((← get).descriptor (fld id.toNat 0 10))
      ((← get).cancelReads id.toNat).forM readPlace
      let s ← get
      let (r, t) := s.cancel id.toNat (some (← me).part.toNat)
      set t
      writeS a.val (BitVec.ofNat 64 r)
      pure .seq

/-- The host's CANCEL (R378), once its queue can be read; the register reads the result. -/
def State.cancelHost (s : State) (v : BitVec 64) : State :=
  match s.lacks [s.descriptor (fld v.toNat 0 10)] <|> s.lacks (s.cancelReads v.toNat) with
  | some t => t.later 64 (.cancelq v)
  | none =>
    let s := (s.taken [s.descriptor (fld v.toNat 0 10)]).taken (s.cancelReads v.toNat)
    let (r, t) := s.cancel v.toNat none
    t.updPkg fun p => { p with cancelq := BitVec.ofNat 64 r }

/-- CANCELQ (R378). -/
def execCancelq (v : BitVec 64) : State → Out := managed fun s => .next (s.cancelHost v)

/-- PRECMD (R376): the supervisor's request for a slot, to the cores of PREMASK. -/
def execPrecmd (v : BitVec 64) : State → Out := managed fun s =>
  let s := s.updPkg fun p => { p with precmd := v }
  if !bit v.toNat 8 then .next s
  else .next (((upTo 1024).filter fun c => s.pkg.premask.getLsbD c).foldl (fun s c =>
    s.later 1 (.preempt (fld v.toNat 0 7) c)) s)

/-- ABANDON (R374): a sealed frame's seal becomes 2, and its activation counts as killed. -/
def execAbandon (q : BitVec 128) : State → Out := managed fun s =>
  let p : PReg := { bits := q, tag := true }
  let s := s.updPkg fun g => { g with abandon := p }
  if s.malformed p then .next s else
  match s.pkg.sealed.find? fun e => e.1 == p.key e.2.2.1 with
  | none => .next s
  | some e =>
    let s := s.enginePut p e.2.2.1 72 [2] (some true)
    let s := s.updPkg fun g => { g with sealed := g.sealed.filter (· != e) }
    .next ((s.updLaunch e.2.1 fun l => { l with killed := l.killed + 1, sealed := l.sealed - 1 }).launchLess e.2.1)

/-! ## XINV (R379) -/

/-- Translations of a partition in a range of pages leave every unit. -/
def State.dropTranslations (s : State) (part lo hi : Nat) : State :=
  { s with dies := s.dies.map fun v => { v with stks := v.stks.map fun q =>
      { q with cache := q.cache.filter fun e =>
          !(e.part == part && (if e.big then lo / 32 ≤ e.page / 32 && e.page / 32 * 32 < hi
            else lo ≤ e.page && e.page < hi)) } } }

/-- XINV (R379). -/
def execXinv (p : Pr) : State → Out :=
  unit (.xinv p) do
    require (← me).privileged cPRIV
    let ws ← loadWords p 6
    let d := fun i => ws.getD (2 * i) 0 + ws.getD (2 * i + 1) 0 * 2 ^ 32
    require (d 0 < 32 && d 1 % 65536 == 0 && d 2 % 65536 == 0 && d 1 < 2 ^ 45) cILLEGAL
    let part := fld (d 0) 0 4
    modify fun s =>
      if bit (d 0) 4 then s.dropTranslations part 0 (2 ^ 29)
      else s.dropTranslations part (d 1 / 65536) ((d 1 + d 2) / 65536)
    pure .seq

end Sys2Proof.Machine
end

