-- ==== Sys2Proof/Machine/Observe.lean ====
section
/-! DEFINITION. Observation and stops (16 R337-R356): trace records and counter snapshots, the timer, core stops, and
the halting of a die. -/

namespace Sys2Proof.Machine

/-! ## Trace and snapshot (R346-R348) -/

/-- TRACE (R347): a software record, or nothing where the kind is not enabled; it waits while the buffer is full. -/
def execTrace (a : Sc) : State → Out :=
  unit (.trace a) (using_ { ss := [a.val] } do
    let v ← readS a.val
    let s ← get
    if s.traces s.core 3 then
      if !s.trFull s.core && 8 ≤ (s.coreAt s.core).tbuf.length then wait sNOREADY
      set (s.trPut s.core (s.traceCtx s.core s.ctx 3 s.pkg.time.toNat v.toNat)
        (some ((← me).actId, s.reqNext)))
    pure .seq)

/-- CTRSNAP (R348): 20 dwords, in bounded stores of ascending order. -/
def execCtrsnap (p : Pr) : State → Out :=
  unit (.ctrsnap p) do
    modify fun s => (s.tallyCtx s.core s.ctx).tallyCore s.core
    let s ← get
    let q ← me
    let k ← myCore
    let vs := s.pkg.time :: (upTo 16).map (SMap.get 0 q.stalls) ++ [k.runck, k.searchck, k.idleck]
    atOff p 0 do
      let (at_, ok) ← accessEach p 8 8 ((upTo 20).map (8 * ·)) false true
      ok.forM fun o => storeBytes p o (at_ + o) (bytesOf 8 (vs.getD (o / 8) 0).toNat)
    pure .seq

/-- TRPOS after a record (R343): full, once the ring holds len/32 records and wrap is 0. -/
def State.trStep (s : State) (c : Nat) : State :=
  let v := s.coreReg c 0x2B
  let pos := (fld v 0 40 + 1) % 2 ^ 40
  let stop := !bit (s.coreReg c 0x2A) 5 && s.trLen c ≤ pos
  s.setCoreReg c 0x2B (pos + if stop then 2 ^ 40 else 0)

/-- TRACE_RECORD_WRITE (R346): the oldest record of the buffer is written to its place in one step, its words full. One
that finds the ring full, or no trace object, is dropped. What waits for a context's own record goes on (R386). -/
def execTraceRecordWrite (core : Fin 1024) (s : State) : Out :=
  let c := core.val
  match (s.coreAt c).tbuf with
  | [] => .next s
  | r :: rs =>
    let s := s.updCore c fun k => { k with tbuf := rs }
    let s := if rs.isEmpty then s else s.later 4 (.traceWrite c)
    let n := s.trLen c
    let pos := fld (s.coreReg c 0x2B) 0 40
    let p := s.coreptr c 0x28
    let s := if n == 0 || !p.tag || s.malformed p || s.trFull c then s.trLost c
      else if !bit (s.coreReg c 0x2A) 5 && n ≤ pos then (s.setCoreReg c 0x2B (pos + 2 ^ 40)).trLost c
      else (s.enginePut p 0 (32 * (pos % n)) (bytesOf 32 r.bits.toNat) (some true) (1 + c) r.own).trStep c
    .next (match r.own with
      | some (act, _) => s.wakeOps act
      | none => s)

/-! ## The timer (R349, R350) -/

/-- The period in ck. -/
def State.timerPeriod (s : State) (c : Nat) : Nat := max 1024 (fld (s.coreReg c 0x22) 16 32)

/-- TIMER_EXPIRY (R350): the timer is pending, or an expiry is lost, and the period restarts. -/
def execTimerExpiry (core : Fin 1024) (s : State) : Out :=
  let c := core.val
  let v := s.coreReg c 0x22
  if !bit v 0 then .next s else
  let s := if (s.coreAt c).timer then s.setCoreReg c 0x22 (setFld v 48 16 (min (fld v 48 16 + 1) 0xFFFF))
    else s.updCore c fun k => { k with timer := true }
  .next (s.soon (s.timerPeriod c) (.timer c))

/-- The context takes a pending timer before its next unit (R350). -/
def State.takesTimer (s : State) (c : Nat) (x : Fin 8) : Bool :=
  let q := s.ctxAt c x
  (s.coreAt c).timer && x != 7 && !q.ts && !q.saving && q.request.isNone && q.latch.isNone && q.run == .live

/-- TIMER_ENTRY (R350): as a trap, but at the timer's routine. -/
def execTimerEntry (core : Fin 1024) (ctx : Fin 8) (s : State) : Out :=
  let c := core.val
  if !s.takesTimer c ctx then .next s else
  let s := (s.updCore c fun k => { k with timer := false }).trap c ctx cTIMER 0
  .next (s.updCtx c ctx fun q => { q with pc := BitVec.ofNat 64 (4 * fld (s.coreReg c 0x22) 2 14) })

/-! ## Core stops (R351-R353) -/

/-- CORE_STOP (R352): a stop is asked for. -/
def execCoreStop (core : Fin 1024) : State → Out := managed fun s =>
  let c := core.val
  if (s.coreAt c).stopping then .next s
  else .next ((s.updCore c fun k => { k with stopping := true, stopCause := {} }).later 0 (.stopDone c))

/-- CORE_GO (R352, R353): the core goes on; the next decision passes over the breakpoint that stopped it, and held
pre-emption requests are delivered. -/
def execCoreGo (core : Fin 1024) : State → Out := managed fun s =>
  let c := core.val
  let k := s.coreAt c
  if !k.stopping then .next s else
  let s := s.updCore c fun k => { k with
    stopping := false, stopped := false, stopCause := {}, heldPreempts := []
    passBp := if k.stopCause.bph then some k.stopCause.bpi else k.passBp }
  let s := k.heldPreempts.foldl (fun s n => s.later 1 (.preempt n.toNat c)) s
  .next (s.later 1 (.dispatch c))

/-- A context that does not hold up a stop: it is free, or suspended (R59, R352). -/
def Ctx.atRest (q : Ctx) : Bool :=
  match q.run with
  | .free => true
  | .paged _ _ => true
  | _ => false

/-- The launch, the partition and the number of the activation that was sealed in a slot (R374), or zeros. -/
def State.sealedAct (s : State) (p : PReg) : Nat × Nat × Nat :=
  match s.pkg.sealed.find? fun e => e.1 == p.key e.2.2.1 with
  | some e => e.2
  | none => (0, 0, 0)

/-- The launch and the partition of a sealed activation's slot (R374), or zeros. -/
def State.sealedAt (s : State) (p : PReg) : Nat × Nat := ((s.sealedAct p).1, (s.sealedAct p).2.1)

/-- The launch and partition of the activation sealed in a slot: as its seal noted them, or the most recent launch of
its launch slot. -/
def State.resumeLaunch (s : State) (p : PReg) (f : List Byte) : Nat × Nat :=
  match s.sealedAt p with
  | (0, _) => match (s.pkg.launches.filter fun l => l.slot.toNat == fldAt f 288 7).getLast? with
    | some l => (l.uid, l.part)
    | none => (0, 0)
  | r => r

/-- The class, the entry address / 4 of its routine, and the header of what an entry starts (R351, R344). -/
def State.entryInfo (s : State) (c : Nat) (e : Entry) : Nat × Nat × Msg :=
  match e.work with
  | .message m => (m.cls.toNat, fld ((s.coreAt c).cls m.cls.toNat).toNat 2 14, m)
  | .completion d => (d.msg.cls.toNat, d.ent.toNat / 2, d.msg)
  | .resume r =>
    let f := (s.fetchObj? r.slot (s.sealedAt r.slot).2 0 128).getD []
    let m : Msg :=
      { cls := BitVec.ofNat 8 (fldAt f 320 8), tag := BitVec.ofNat 32 (fldAt f 384 32)
        wuid := BitVec.ofNat 24 (fldAt f 352 24), slot := BitVec.ofNat 7 (fldAt f 288 7)
        launch := (s.resumeLaunch r.slot f).1 }
    (m.cls.toNat, r.ent.toNat, m)

/-- STOP_COMPLETE (R352): every activation has ended or is suspended; the stop's record is written, and names the entry
that a breakpoint holds, with the entry address of its class (R344, R345). -/
def execStopComplete (core : Fin 1024) (s : State) : Out :=
  let c := core.val
  let k := s.coreAt c
  if !k.stopping || k.stopped then .next s
  else if !k.ctxs.toList.all (·.atRest) then .next (s.soon 8 (.stopDone c))
  else
    let s := (s.tallyCore c).updCore c fun k => { k with stopped := true }
    if !s.traces c 4 then .next s else
    let aux := k.stopCause.bph.toNat + k.stopCause.bpi.toNat * 4
    let bits := match k.stopCause.entry with
      | none => s.traceBits c 4 0 false 0 0 0 0 0 0 s.pkg.time.toNat aux
      | some e =>
        let (cls, _, m) := s.entryInfo c e
        s.traceBits c 4 0 e.stolen cls (fld (k.cls cls).toNat 2 14) m.tag.toNat m.wuid.toNat m.slot.toNat m.launch s.pkg.time.toNat aux
    .next (s.trPut c bits)

/-! ## Halting a die (R354-R356) -/

/-- DIE_HALT (R354): the die's cores, engines and save timers stand still. -/
def execDieHalt (die : Fin 4) : State → Out := managed fun s =>
  if s.halted die.val then .next s
  else
    let s := ((s.cores.map Prod.fst).filter fun c => c < 1024 && coreDie c == die.val).foldl (fun s c =>
      allCtx.foldl (fun s x => s.tallyCtx c x) (s.tallyCore c)) s
    .next (s.updDie die.val fun v => { v with dbg := 3, haltedAt := s.ck })

/-- The dies on which a waiter's park timer depends: its own, and that of the word's home (R356). -/
def State.timerDies (s : State) (c : Nat) (x : Fin 8) : List Nat :=
  match (s.ctxAt c x).run with
  | .waiting w => match w.need.ptr with
    | some r => [coreDie c, dieOf (s.sillPlace c x r)]
    | none => match w.need with
      | .group g _ => [coreDie c, coreDie (s.groupHome g)]
      | _ => [coreDie c]
  | _ => [coreDie c]

/-- The ck by which die d's halt, which ends now, has stopped a timer that runs since a ck and depends on these dies:
where another of them is halted still, the ck until its own halt began. -/
def State.haltGap (s : State) (d since : Nat) (ds : List Nat) : Nat :=
  if !ds.contains d then 0 else
  let from_ := max (s.dieAt d).haltedAt since
  let end_ := (ds.filter fun e => e != d && s.halted e).foldl
    (fun t e => min t (s.dieAt e).haltedAt) s.ck
  end_ - from_

/-- The ck since which a context's wait has been timed. -/
def Ctx.waitSince (q : Ctx) : Nat :=
  match q.run with
  | .waiting w => w.since
  | .weights _ (some t) => t
  | _ => 0

/-- A context's timers stood still for n ck, and its save timer for m. -/
def Ctx.shiftTimers (q : Ctx) (n m : Nat) : Ctx :=
  { q with
    saveSince := q.saveSince + m
    run := match q.run with
      | .waiting w => .waiting { w with since := w.since + n }
      | .weights i (some t) => .weights i (some (t + n))
      | r => r }

/-- DIE_RUN (R354, R356): the die goes on, with nothing lost; the timers that stood still have not counted. -/
def execDieRun (die : Fin 4) : State → Out := managed fun s =>
  let d := die.val
  if !s.halted d then .next (s.updDie d fun v => { v with dbg := 0 }) else
  let s := s.cores.foldl (fun s e =>
    allCtx.foldl (fun s x =>
      let q := s.ctxAt e.1 x
      let n := s.haltGap d q.waitSince (s.timerDies e.1 x)
      let m := s.haltGap d q.saveSince [coreDie e.1]
      if n == 0 && m == 0 then s else s.updCtx e.1 x fun q => q.shiftTimers n m) s) s
  .next (s.updDie d fun v => { v with dbg := 0 })

end Sys2Proof.Machine
end

