-- ==== Sys2Proof/Machine/Sched.lean ====
section
/-! DEFINITION. Dispatch (03 R53, R54, R432; 15 R314-R316), resumption (13 R291), pre-emption for priority (15 R317,
R318) and stealing (15 R320, R321). -/

namespace Sys2Proof.Machine

/-! ## What holds dispatch back -/

/-- A write of a core's pad registers waits for the core to be empty (R169). -/
def HostWrite.waitsFor (w : HostWrite) (c : Nat) : Bool :=
  !w.bar4 && w.read.isNone && w.released && w.landed == 0 && fld w.off 25 2 == 0 && fld w.off 15 10 == c &&
    fld w.off 3 12 ≤ 7

/-- A core that makes no dispatch decision: it stops or has stopped (R352), its die is not in service, or the load
engine (R361) or a write of its pad registers (R169) waits for it. -/
def State.dispatchHeld (s : State) (c : Nat) : Bool :=
  let k := s.coreAt c
  k.stopping || k.stopped || (s.dieAt (coreDie c)).st == 2 || s.pkg.orderQ.any (·.waitsFor c) ||
    match s.pkg.loading with
    | some l => l.step == .cores && l.cores.head? == some c
    | none => false

/-! ## Entry state (R53, R54, R432) -/

/-- Context x's message slot. -/
def messageSlot (c : Nat) (x : Fin 8) : Nat := localBase c + 0x7F000 + 512 * x.val

/-- The payload copy: every word full but those of a chunk that could not be decoded (R251), every tag clear. -/
def State.writeSlot (s : State) (c : Nat) (x : Fin 8) (body : List Byte) (holes : BitVec 4) : State :=
  let f := messageSlot c x
  let n := footprint body.length
  let hole := fun (w : Nat) => f + 16 ≤ w && bit holes.toNat ((w - f - 16) / 64) && w - f - 16 < 256
  (s.updMem fun m =>
    let m := (m.wipe f n).write f (bytesOf 16 (Header.fresh 7 body.length).toNat ++ body)
    let m := (wordsOf f n).foldl (fun m w => m.setFull w (!hole w)) m
    { m with starts := (NSet.clear m.starts (f / 32) (f / 32 + 16)).add (f / 32)
             fwd := SMap.clear m.fwd f (f + 512) }).wrote f n

/-- The pointer to a payload copy in a message slot. -/
def messagePtr (c : Nat) (x : Fin 8) (len : Nat) : PReg :=
  let (l, a, h) := placeFields (messageSlot c x + 16)
  mkPtr a l 0 (1 + 32) 7 len h

/-- p14: the entry of the launch's argument table (R53, R373). -/
def State.argOf (s : State) (launch : Nat) (wuid : BitVec 24) : PReg :=
  match s.launch? launch with
  | none => .null
  | some l =>
    let p := s.granuleAt (l.ptr 0) l.part (16 * if bit l.ctl 14 then wuid.toNat else 0)
    if p.tag then p else .null

/-- SRSEED at entry (R54). -/
def seedOf (def_ : Nat) (wuid : BitVec 24) : DWord :=
  BitVec.ofNat 64 (def_ + (wuid.toNat + 1) * 0x9E3779B97F4A7C15)

/-- The context of an activation started by a message with this payload copy, before its first issue (R53). -/
def State.entryCtx (s : State) (c : Nat) (x : Fin 8) (m : Msg) : Ctx :=
  { msg := m, classno := m.cls, routetag := m.tag, wuid := m.wuid, prio := m.prio, sender := m.sender
    msglen := BitVec.ofNat 9 m.body.length, redel := m.redel, hbudget := 256
    slot := m.slot, part := m.part, launch := m.launch
    w := Vector.ofFn fun i => if i.val < 8 then BitVec.ofNat 64 (leAt m.body (8 * i.val) 8) else 0
    p := ((Vector.replicate 16 PReg.null).set 14 (s.argOf m.launch m.wuid)).set 15 (messagePtr c x m.body.length) }

/-- A context takes the activation of an entry: its stamps, its latch of the stall bank (R340), the pads' bump
pointers (R61), a pre-emption in force for its launch (R280), and its trace record (R345). Of what stood in it, its spill
object stays, with nothing spilled (R57). An activation that resumes keeps its number: its accesses stay in its program
order (R382). -/
def State.occupy (s : State) (c : Nat) (x : Fin 8) (e : Entry) (q : Ctx) : State :=
  let old := s.ctxAt c x
  let d := coreDie c
  let pads := c :: (1024 + coreClu c) :: (upTo 8).map fun r => 2048 + 8 * d + r
  let mine := fun (p : Preempting) => p.slot == q.slot && q.launch != 0 && x != 7
  let asked := (s.coreAt c).preempts.any mine
  let got := fun (p : Preempting) => if mine p then { p with got := p.got ++ [x.val] } else p
  let s := s.updCore c fun k => { k.newCodes x.val with preempts := k.preempts.map got }
  let s := s.setCtx c x { q with
    run := .entering, actId := if q.actId == 0 then s.actNext else q.actId, enq := e.stamp, disp := s.pkg.time, stolen := e.stolen, stalls := old.stalls
    stallsAt := old.stalls, spill := old.spill, spillcap := old.spillcap, marks := pads.map (fun i => (i, (s.pad i).bump))
    request := if asked then some false else none }
  let s := { s with actNext := s.actNext + 1 }
  s.traceHw c x 1 s.pkg.time.toNat e.stamp.toNat

/-- ACTIVATION_ENTRY (R53, R54): the core's default registers are read, and the first unit may issue. -/
def execActivationEntry (core : Fin 1024) (ctx : Fin 8) (s : State) : Out :=
  let c := core.val
  if (s.ctxAt c ctx).run != .entering then .next s else
  .next (s.updCtx c ctx fun q =>
    { q with
      run := .live
      waitbudget := BitVec.ofNat 64 (s.coreReg c 0x40) &&& maskWait
      srseed := seedOf (s.coreReg c 0x41) q.wuid
      abfttol := BitVec.ofNat 64 (s.coreReg c 0x42) &&& maskAbft
      trapvec := BitVec.ofNat 16 (s.coreReg c 0x43) })

/-! ## Resumption (R289, R291) -/

/-- The bytes that a slot's outbox holds, as messages (R286): headers in release order, payloads packed. -/
def outboxOf (launch : Nat) : List (List Byte) → List Byte → List OutMsg
  | [], _ => []
  | h :: hs, pay =>
    let o := msgOf h (pay.take (headerLen h))
    { o with msg := { o.msg with launch } } :: outboxOf launch hs (pay.drop (headerLen h))

/-- A resume request is refused (R291): its containment record has cause 11. -/
def State.refuseResume (s : State) (c : Nat) (f : List Byte) : State :=
  s.contain c { cause := 11, cls := fldAt f 320 8, wuid := fldAt f 352 24, at_ := s.coreId c
                sender := fldAt f 416 22, slot := fldAt f 288 7 }

/-- A resume request is dispatched into context x (R291). -/
def State.resumeInto (s : State) (c : Nat) (x : Fin 8) (e : Entry) (r : ResumeReq) : State :=
  let (_, part, act) := s.sealedAct r.slot
  let get := fun (off n : Nat) => s.fetchObj? r.slot part off n
  if !r.slot.tag || s.malformed r.slot || r.slot.len < 32768 then s.refuseResume c [] else
  match get 0 128, get 128 256, get 4864 1024, get 5888 8192 with
  | some f, some pay, some heads, some pays =>
    if fldAt f 576 8 != 1 then s.refuseResume c f else
    let (uid, part) := s.resumeLaunch r.slot f
    let cls := fldAt f 320 8
    let m : Msg :=
      { cls := BitVec.ofNat 8 cls, tag := BitVec.ofNat 32 (fldAt f 384 32), wuid := BitVec.ofNat 24 (fldAt f 352 24)
        prio := BitVec.ofNat 6 (fldAt f 328 6), sender := BitVec.ofNat 22 (fldAt f 416 22)
        redel := BitVec.ofNat 2 (fldAt f 334 2), body := pay.take (fldAt f 336 9)
        slot := BitVec.ofNat 7 (fldAt f 288 7), part := BitVec.ofNat 4 part, launch := uid }
    let q := s.entryCtx c x m
    let hs := (upTo (fldAt f 656 8)).map fun i => (heads.drop (32 * i)).take 32
    let s := (s.enginePut r.slot part 72 [3] (some true) (65536 + c)).soon 1 (.priority c)
    let gone := fun (g : Nat × Nat × Nat × Nat) => g.1 == r.slot.key g.2.2.1
    let s := (s.updPkg fun g => { g with sealed := g.sealed.filter fun e => !gone e }).updLaunch uid fun l =>
      { l with sealed := l.sealed - 1 }
    let s := s.writeSlot c x m.body 0
    s.occupy c x e { q with
      actId := act, idem := bit ((s.coreAt c).cls cls).toNat 26
      actstart := BitVec.ofNat 64 (fldAt f 448 64)
      oc := bit (fldAt f 273 1) 0, outbox := outboxOf uid hs pays
      trapcause := BitVec.ofNat 8 cPREEMPT, trappc := BitVec.ofNat 64 (fldAt f 256 16)
      ts := true, mode := true, savedMode := fldAt f 272 1 == 1, evt := true, sv := false
      p := q.p.set 15 r.slot
      pc := BitVec.ofNat 64 (4 * r.ent.toNat) }
  | _, _, _, _ => s.refuseResume c []

/-! ## The dispatch decision (R315, R316, R351) -/

/-- A handler activation comes before an operation of the handler queue: by priority, and within one by arrival
(R323). -/
def Entry.before (e : Entry) (h : HEntry) : Bool := h.prio < e.prio || (h.prio == e.prio && e.came < h.came)

/-- The context that an entry would take: context 7, once no operation of the handler queue comes before it (R323), or the
lowest free one of 0-6. -/
def Core.freeFor (k : Core) (e : Entry) : Option (Fin 8) :=
  if e.hnd then (if k.ctxs[7].busy || !k.handler.all e.before then none else some 7)
  else ([0, 1, 2, 3, 4, 5, 6] : List (Fin 8)).find? fun x => !k.ctxs[x].busy

/-- The entry that a decision takes: of the highest priority whose context kind has a free context, the first. -/
def Core.choice (k : Core) : Option (Entry × Fin 8) :=
  k.runq.findSome? fun e => (k.freeFor e).map fun x => (e, x)

/-- The enabled breakpoint of lowest index that matches an entry (R351), but for the one that this decision passes
over. -/
def State.breakAt (s : State) (c : Nat) (e : Entry) : Option Nat :=
  let (cls, ent, m) := s.entryInfo c e
  (upTo 4).find? fun i =>
    let v := s.coreReg c (0x24 + i)
    bit v 0 && (s.coreAt c).passBp != some (BitVec.ofNat 2 i) &&
      (!bit v 1 || fld v 4 8 == cls) && (!bit v 2 || fld v 12 14 == ent) &&
      (!bit v 3 || fld v 32 24 == m.wuid.toNat)

/-- Entries that found the internal queue full join as it frees (R315): resumptions for priority in context order, the
management interface's, then completion activations. -/
def State.admitHeld (c : Nat) : Nat → State → State
  | 0, s => s
  | n + 1, s =>
    let k := s.coreAt c
    if 8 ≤ k.internal then s else
    let first := k.resumePrio.foldl (fun b r => match b with
      | none => some r
      | some a => if (r.byPrio.getD 0).val < (a.byPrio.getD 0).val then some r else some a) none
    match first, k.resumeHeld, (s.unitAt (unitOf c)).held.find? fun h => h.1 == c with
    | some r, _, _ =>
      (((s.updCore c fun k => { k with resumePrio := k.resumePrio.filter (· != r) }).join c true
        { prio := r.prio, work := .resume r })).admitHeld c n
    | none, some r, _ =>
      ((s.updCore c fun k => { k with resumeHeld := none }).join c true { prio := r.prio, work := .resume r }
        ).admitHeld c n
    | none, none, some h =>
      let s := s.updUnit (unitOf c) fun u => { u with held := u.held.erase h }
      (s.join c false { prio := h.2.msg.prio, work := .completion h.2 }).admitHeld c n
    | none, none, none => s

/-- An entry leaves the run queue: what it held of the input buffer or the internal queue frees. -/
def State.takeEntry (s : State) (c : Nat) (e : Entry) : State :=
  let s := s.updCore c fun k => { k with runq := k.runq.erase e }
  match e.work with
  | .message _ => s.freed (.input c)
  | _ => s.admitHeld c 8

/-- An entry is dispatched into a context (R53, R272, R291). -/
def State.dispatchInto (s : State) (c : Nat) (x : Fin 8) (e : Entry) : State :=
  match e.work with
  | .message m =>
    let (bad, s) := s.entryError c m.cls.toNat
    let v := ((s.coreAt c).cls m.cls.toNat).toNat
    if bad then (s.updCore c fun k => k.setCls m.cls.toNat (setFld v 24 1 0)).divert c 7 m 0 2
    else
      let s := s.writeSlot c x m.body m.holes
      s.occupy c x e { s.entryCtx c x { m with prio := e.prio } with
        msg := m, actstart := s.pkg.time, idem := bit v 26, mode := bit v 28
        pc := BitVec.ofNat 64 (4 * fld v 2 14) }
  | .completion d =>
    let body := bytesOf 8 d.job.toNat
    let m := { d.msg with body }
    let s := s.writeSlot c x body 0
    s.occupy c x e { s.entryCtx c x m with
      actstart := s.pkg.time, completion := true, jobdone := d.job, pc := BitVec.ofNat 64 (2 * d.ent.toNat) }
  | .resume r => s.resumeInto c x e r

/-- An entry for contexts 0-6 waits: pre-emption for priority is tried (R318). -/
def State.tryPriority (s : State) (c : Nat) : State :=
  if bit (s.coreReg c 0x14) 0 && (s.coreAt c).runq.any (!·.hnd) then s.soon 1 (.priority c) else s

/-- What follows a decision that placed nothing: pre-emption for priority (R318), or probing (R320). -/
def State.undispatched (s : State) (c : Nat) : State :=
  let s := s.tryPriority c
  if bit (s.coreReg c 0x20) 0 then s.soon 8 (.probe c) else s

/-- What a dispatch reads beside its entry: the argument of its launch, or its slot. -/
def State.entryReads (s : State) (e : Entry) : List (PReg × Nat × Nat × Nat) :=
  let arg := fun (uid : Nat) (wuid : BitVec 24) => match s.launch? uid with
    | some l => [(l.ptr 0, l.part, 16 * if bit l.ctl 14 then wuid.toNat else 0, 16)]
    | none => []
  match e.work with
  | .message m => arg m.launch m.wuid
  | .completion d => arg d.msg.launch d.msg.wuid
  | .resume r => [(r.slot, (s.sealedAt r.slot).2, 0, 14080)]

/-- DISPATCH_DECISION (R316): at most one in a ck. What holds it does not hold pre-emption for priority (R318). -/
def execDispatchDecision (core : Fin 1024) (s : State) : Out :=
  let c := core.val
  if s.dispatchHeld c then .next (s.tryPriority c) else
  match (s.coreAt c).choice with
  | none => .next (s.undispatched c)
  | some (e, x) =>
    match s.lacks (s.entryReads e) with
    | some t => .next (t.soon 8 (.dispatch c))
    | none =>
    match s.breakAt c e with
    | some i => .next ((s.updCore c fun k =>
        { k with stopping := true, passBp := none
                 stopCause := { bph := true, bpi := BitVec.ofNat 2 i, entry := some e } }).later 0 (.stopDone c))
    | none =>
      let s := (s.taken (s.entryReads e)).updCore c fun k => { k with passBp := none }
      .next (((s.takeEntry c e).dispatchInto c x e).later 1 (.dispatch c))

/-- RESUME_DISPATCH (R291): the resume request at the head of the run queue is dispatched into a free context 0-6. -/
def execResumeDispatch (core : Fin 1024) (s : State) : Out :=
  match (s.coreAt core.val).choice with
  | some (e, _) => match e.work with
    | .resume _ => execDispatchDecision core s
    | _ => .next s
  | none => .next s

/-- The slot of context x in the core's save area (R281). -/
def State.saveSlot (s : State) (c : Nat) (x : Fin 8) : PReg :=
  let p := s.coreptr c 0x10
  let a : PReg := p.setF 0 48 (p.addr + 32768 * x.val)
  a.setF 64 40 32768

/-- The context that seals its activation into a slot (R285). -/
def State.sealsInto (s : State) (p : PReg) : Option Ctx :=
  s.cores.findSome? fun e => e.2.ctxs.toList.zipIdx.findSome? fun (q, x) =>
    if q.run == .sealing && (s.saveSlot e.1 (Fin.ofNat 8 x)).key q.part.toNat == p.key q.part.toNat then some q else none

/-- RESUME_REQUEST_SUBMIT (R291, R315): the request in the core's registers joins the run queue, or is held. One that
comes while the slot's seal is in progress is refused (R293). -/
def execResumeRequestSubmit (core : Fin 1024) : State → Out := managed fun s =>
  let c := core.val
  let k := s.coreAt c
  if k.resumeHeld.isSome then .next s else
  let v := s.coreReg c 0x1A
  let r : ResumeReq :=
    { slot := s.coreptr c 0x18, ent := BitVec.ofNat 14 (fld v 0 14), prio := BitVec.ofNat 6 (fld v 14 6) }
  match s.sealsInto r.slot with
  | some q => .next (s.contain c { cause := 11, cls := q.classno.toNat, wuid := q.wuid.toNat, at_ := s.coreId c
                                   sender := q.sender.toNat, slot := q.slot.toNat })
  | none =>
  if k.internal < 8 then .next (s.join c true { prio := r.prio, work := .resume r })
  else .next (s.updCore c fun k => { k with resumeHeld := some r })

/-! ## Pre-emption for priority (R317, R318) -/

/-- The save slot of a context holds a sealed activation; one that cannot be read now counts as holding it. -/
def State.slotSealed (s : State) (c : Nat) (x : Fin 8) : Bool :=
  let p := s.saveSlot c x
  p.tag && !s.malformed p && s.pkg.sealed.any fun e =>
    e.1 == p.key e.2.2.1 && (s.padHeld p || (s.fetchObj? p e.2.2.1 72 1).all (· == [1]))

/-- A context that may be the victim of a pre-emption for priority. -/
def State.victimOk (s : State) (c : Nat) (x : Fin 8) : Bool :=
  let q := s.ctxAt c x
  q.busy && !q.saving && q.request.isNone && !s.slotSealed c x

/-- PRIORITY_PREEMPT (R318): the latest dispatched of the contexts at the lowest priority is asked to leave. While an
entry waits and no context is free, the test is made again. -/
def execPriorityPreempt (core : Fin 1024) (s : State) : Out :=
  let c := core.val
  let k := s.coreAt c
  let low : List (Fin 8) := [0, 1, 2, 3, 4, 5, 6]
  let taking := low.any fun x => k.ctxs[x].request == some true
  match k.runq.find? (!·.hnd) with
  | none => .next s
  | some e =>
    if !bit (s.coreReg c 0x14) 0 || low.any (fun x => !k.ctxs[x].busy) then .next s else
    let s := s.soon 64 (.priority c)
    if taking then .next s else
    let better := fun (a b : Fin 8) =>
      let p := k.ctxs[a]
      let q := k.ctxs[b]
      p.prio < q.prio || (p.prio == q.prio && (q.actstart < p.actstart || (p.actstart == q.actstart && b < a)))
    match (low.filter (s.victimOk c)).foldl (fun b x => match b with
      | none => some x
      | some y => if better x y then some x else some y) none with
    | none => .next s
    | some x =>
      if e.prio.toNat < k.ctxs[x].prio.toNat + 8 then .next s
      else .next (s.updCtx c x fun q => { q with request := some true })

/-! ## Stealing (R320, R321) -/

/-- A core that may steal. -/
def State.idle (s : State) (c : Nat) : Bool :=
  let k := s.coreAt c
  bit (s.coreReg c 0x20) 0 && !s.dispatchHeld c && k.thief.coming.isEmpty && !(k.runq.any (!·.hnd)) &&
    ([0, 1, 2, 3, 4, 5, 6] : List (Fin 8)).all fun x => !k.ctxs[x].busy

/-- The message that a victim offers: the last stealable one of its highest priority, to a thief of the launch's
mask. -/
def State.offer (s : State) (v thief : Nat) : Option Entry :=
  let k := s.coreAt v
  if ([0, 1, 2, 3, 4, 5, 6] : List (Fin 8)).any fun x => !k.ctxs[x].busy then none else
  let ok := k.runq.filter fun e => e.stealable && match e.work with
    | .message m => match s.launch? m.launch with
      | some l => l.mask.getLsbD thief
      | none => false
    | _ => false
  match ok with
  | [] => none
  | e :: _ => (ok.filter fun f => f.prio == e.prio).getLast?

/-- A count of a statistics register, saturating. -/
def bumpCount (v lo : Nat) : Nat := setFld v lo 32 (min (fld v lo 32 + 1) (2 ^ 32 - 1))

/-- STEAL_PROBE (R320): an idle core asks the next core of its cluster. -/
def execStealProbe (core : Fin 1024) (s : State) : Out :=
  let c := core.val
  let t := (s.coreAt c).thief
  if !s.idle c || t.backing then .next s else
  let v := c / 16 * 16 + (c + t.next) % 16
  let next := if t.next == 15 then 1 else t.next + 1
  let s := s.setCoreReg c 0x21 (bumpCount (s.coreReg c 0x21) 0)
  let s := s.updCore c fun k => { k with searchck := k.searchck + 8 }
  let takes := fun (e : Entry) => match e.work with
    | .message m =>
      let n := ((s.coreAt c).cls m.cls.toNat).toNat
      bit n 24 && fld n 32 32 == m.cap.toNat
    | _ => false
  match (s.offer v c).filter takes with
  | some e =>
    let s := s.updCore v fun k => { k with runq := k.runq.erase e }
    let s := s.updCore c fun k => { k with thief := { next, coming := [e] } }
    .next ((s.freed (.input v)).later 4 (.transfer c))
  | none =>
    let s := s.setCoreReg c 0x21 (bumpCount (s.coreReg c 0x21) 32)
    if t.failed < 14 then
      .next ((s.updCore c fun k => { k with thief := { t with next, failed := t.failed + 1 } }).soon 8 (.probe c))
    else
      .next ((s.updCore c fun k => { k with thief := { t with next, failed := 15, backing := true } }).later
        (16 * fld (s.coreReg c 0x20) 8 8) (.backoff c))

/-- STEAL_TRANSFER (R320): the accepted message joins the tail of its priority, with its stamp (R342). -/
def execStealTransfer (core : Fin 1024) (s : State) : Out :=
  let c := core.val
  match (s.coreAt c).thief.coming with
  | [] => .next s
  | e :: es =>
    let s := s.updCore c fun k => { k with thief := { k.thief with failed := 0, coming := es } }
    .next (s.join c false { e with stolen := true })

/-- STEAL_BACKOFF_EXPIRY (R320): the thief probes again. -/
def execStealBackoffExpiry (core : Fin 1024) (s : State) : Out :=
  let c := core.val
  if !(s.coreAt c).thief.backing then .next s else
  .next ((s.updCore c fun k => { k with thief := { k.thief with failed := 0, backing := false } }).soon 8 (.probe c))

end Sys2Proof.Machine
end

