-- ==== Sys2Proof/Machine/Trust.lean ====
section
/-! DEFINITION. Resets, boot and recovery (20 R397-R399; 18 R363), attestation (20 R400, R401), the security alarm (20
R404, R405), the clock (18 R364, R365) and power (20 R409). -/

namespace Sys2Proof.Machine

/-! ## Resets (R363, R405, R415) -/

/-- The package is reset: the fuses, the flash and ALARMLOG survive, and the boot ROM runs next. The stacks keep their
contents where heap says so; boot overwrites them. -/
def State.packageReset (s : State) (heap : Bool) : State :=
  let p := s.pkg
  let inStack := fun (lo hi k : Nat) => lo ≤ k && k < hi
  let lo := stackBase 0 0
  let hi := stackBase 3 3
  let mem : Memory := if heap then
      { bytes := s.mem.bytes.filter fun e => inStack lo hi e.1
        full := s.mem.full.filter (inStack (lo / 4) (hi / 4))
        tags := s.mem.tags.filter (inStack (lo / 16) (hi / 16))
        poison := s.mem.poison.filter (inStack (lo / 16) (hi / 16)) }
    else {}
  { State.reset with
    dies := s.dies.map fun v => { upper := v.upper }
    pkg := { keys := p.keys, revoked := p.revoked, antiroll := p.antiroll, seed := p.seed, flash := p.flash
             certs := p.certs, alarmlog := p.alarmlog, outward := p.outward }
    mem, sched := s.sched, inputs := s.inputs, upsets := s.upsets, accesses := s.accesses, ck := s.ck, fresh := s.fresh, actNext := s.actNext
    pending := [(s.ck + 1, .boot)] }

/-- FUNCTION_LEVEL_RESET (R415): en of every window and HQTAIL of every host queue clear. -/
def execFunctionLevelReset (s : State) : Out :=
  let off := fun (e : Nat × PReg × DWord) => (e.1, e.2.1, BitVec.ofNat 64 (setFld e.2.2.toNat 0 1 0))
  let s := s.updPkg fun p =>
    { p with windows := p.windows.map off, hostq := p.hostq.map fun e => (e.1, { e.2 with tail := 0 }) }
  .next (s.pkg.hostq.foldl (fun s e => s.freed (.ring e.1)) s)

/-- The package hands something to its surroundings. -/
def State.signal (s : State) (o : Outward) : State := s.updPkg fun p => { p with outward := p.outward ++ [o] }

/-- Main power is in regulation, or has gone: PWRGOOD follows it (R363). -/
def State.power (s : State) (on : Bool) : State := if s.pkg.powered == on then s else s.signal (.pwrgood on)

/-- PERST_RESET (R363): power and clocks are stable, and PERST# deasserts: the package leaves reset. -/
def execPerstReset (s : State) : Out :=
  .next (((s.power true).packageReset true).updPkg fun p => { p with powered := true })

/-- MAIN_POWER_LOSS (R363): every volatile state is lost, and the boot waits for PERST#. -/
def execMainPowerLoss (s : State) : Out :=
  let t := (s.power false).packageReset false
  .next { t with pkg := { t.pkg with powered := false }, pending := [] }

/-! ## The security alarm (R404, R405) -/

/-- The partition field of every queue descriptor is erased (R402). -/
def State.eraseQueues (s : State) : State :=
  (upTo 1024).foldl (fun s q =>
    let b := s.queueField q 42 1
    if b % 16 == 0 then s else s.enginePut s.pkg.qtbase 0 (64 * q + 42) [BitVec.ofNat 8 (b / 16 * 16)] none) s

/-- A sensor event: it is recorded, and at level 2 the volatile keys are erased and the package is reset, which clears
those that registers and class tables hold. -/
def State.alarm (s : State) (src : Nat) : State :=
  let level := fld s.pkg.alarmctl.toNat (2 * src) 2
  if level == 0 then s else
  let v := s.pkg.alarmlog.toNat
  let v := v ||| 2 ^ src ||| (if level == 2 then 2 ^ (6 + src) else 0)
  let v := setFld v 32 32 (min (fld v 32 32 + 1) (2 ^ 32 - 1))
  let s := s.updPkg fun p => { p with alarmlog := BitVec.ofNat 64 v }
  if level == 2 then s.eraseQueues.packageReset true else s

/-- SECURITY_ALARM (R404, R405). -/
def execSecurityAlarm (src : Fin 6) (s : State) : Out := .next (s.alarm src.val)

/-! ## Images (R397) -/

/-- The check of an image of a stage: 0, or the code of BOOTSTAT.fail. A header that names another stage or no slot, or
that holds more than its bytes, fails as a wrong magic does. -/
def Package.verify (p : Package) (stage : Nat) (img : List Byte) : Nat :=
  let len := leAt img 12 4
  let slot := leAt img 5 1
  let hdr := Config.sha384 (img.take 64)
  let key := (p.keys[Fin.ofNat 4 slot]).toNat
  if leAt img 0 4 != 0x4C4D4239 || leAt img 4 1 != stage || 3 < slot || leAt img 6 2 != 0 ||
      img.length < 16672 + len then 1
  else if Config.sha384 ((img.drop 16672).take len) != BitVec.ofNat 384 (leAt img 16 48) then 2
  else if !Config.rsaVerifies (BitVec.ofNat 384 key) ((img.drop 64).take 384) hdr then 3
  else if !Config.slhVerifies (BitVec.ofNat 384 (key / 2 ^ 384)) ((img.drop 448).take 16224) hdr then 4
  else if bit p.revoked.toNat slot then 5
  else if leAt img 8 4 < p.antiroll.toNat then 6
  else 0

/-- The first stage whose image fails, with its code. -/
def Package.firstFail (p : Package) (imgs : List (List Byte)) : Option (Nat × Nat) :=
  ([1, 2, 3].map fun k => (k, p.verify k (imgs.getD (k - 1) []))).find? fun e => e.2 != 0

/-- BOOTSTAT of a stage, a failure and recovery, with the fuses. -/
def Package.bootWord (p : Package) (stage fail fstage : Nat) : DWord :=
  BitVec.ofNat 64 (stage + fail * 4 + fstage * 32 + (if fail != 0 then 128 else 0) + p.antiroll.toNat * 2 ^ 16 +
    p.revoked.toNat * 2 ^ 24)

/-- The boot of three images (R397, R398): the stacks are overwritten with zeros and the identity keys are derived
(R400, R405), and the links between the dies have trained (R423); or the device is left in recovery, after the alarm where it is a later stage that fails (R404). -/
def State.bootWith (s : State) (imgs : List (List Byte)) : State :=
  match s.pkg.firstFail imgs with
  | some (k, code) =>
    let t := if k == 1 then s else s.alarm 4
    { t with pkg := { t.pkg with bootstat := t.pkg.bootWord 0 code k }, pending := t.pending.filter fun e => e.2 != .boot }
  | none =>
    let lo := stackBase 0 0
    let s := s.updMem fun m => m.wipe lo (stackBase 3 3 - lo)
    s.updPkg fun p =>
      { p with bootstat := p.bootWord 3 0 0, identity := some p.seed
               ddlinks := p.ddlinks.map (· ||| 4)
               images := Vector.ofFn fun i => Config.sha384 (imgs.getD i.val []) }

/-- BOOT (R397): the boot ROM runs once after a reset. -/
def execBoot (s : State) : Out :=
  if fld s.pkg.bootstat.toNat 0 2 != 0 || s.pkg.recovery || !s.pkg.powered then .next s
  else .next (s.bootWith s.pkg.flash)

/-- A write of RCVCMD (R399): commands 1 and 2 start a verification unless one runs; others are ignored. -/
def State.startRecovery (s : State) (v : Nat) : State :=
  if fld s.pkg.rcvstat.toNat 0 2 == 1 || !(fld v 0 2 == 1 || fld v 0 2 == 2) then s else
  s.updPkg fun p => { p with rcvcmd := BitVec.ofNat 64 (fld v 0 2), rcvstat := 1 }

/-- The fuses that a supervisor command names (R398): key slots to revoke, and the anti-rollback fuses to blow besides;
the management firmware, which runs from stage 2 on, blows them, and BOOTSTAT shows them. -/
def State.blowFuses (s : State) (v : Nat) : State :=
  if fld s.pkg.bootstat.toNat 0 2 < 2 then s else
  s.updPkg fun p =>
    let revoked := p.revoked ||| BitVec.ofNat 4 v
    let antiroll := min 64 (p.antiroll.toNat + fld v 8 7)
    { p with
      revoked, antiroll := BitVec.ofNat 8 antiroll
      bootstat := BitVec.ofNat 64 (setFld (setFld p.bootstat.toNat 16 8 antiroll) 24 4 revoked.toNat) }

/-- The buffer has been read (R399): the image that it begins with is checked as a stage-1 image, and with flash it
replaces the one in the flash; it then runs as if it had been loaded from there. -/
def State.recover (s : State) (buf : List Byte) (flash : Bool) : State :=
  let buf := buf.take s.pkg.rcvlen.toNat
  let img := buf.take (16672 + leAt buf 12 4)
  let code := s.pkg.verify 1 img
  if code != 0 then s.updPkg fun p => { p with rcvstat := BitVec.ofNat 64 (3 + code * 4) } else
  let later := s.pkg.flash.drop 1
  let s := s.updPkg fun p =>
    { p with rcvstat := 2, flash := if flash then img :: later else p.flash
             bootstat := BitVec.ofNat 64 (setFld p.bootstat.toNat 7 1 0) }
  s.bootWith (img :: later)

/-- A verification of the mailbox's command runs. -/
def Package.recovers (p : Package) (cmd : Nat) : Bool :=
  p.recovery && fld p.rcvstat.toNat 0 2 == 1 && p.rcvcmd.toNat == cmd

/-- RECOVERY_VERIFY_RUN (R399): img is what the host's buffer holds. -/
def execRecoveryVerifyRun (img : List Byte) (s : State) : Out :=
  if s.pkg.recovers 1 then .next (s.recover img false) else .next s

/-- RECOVERY_VERIFY_FLASH_RUN (R399). -/
def execRecoveryVerifyFlashRun (img : List Byte) (s : State) : Out :=
  if s.pkg.recovers 2 then .next (s.recover img true) else .next s

/-! ## Attestation (R401) -/

/-- ATTESTATION_REQUEST (R401): ATTCMD reads 1 while the report is built. -/
def execAttestationRequest : State → Out := managed fun s => .next (s.updPkg fun p => { p with attcmd := 1 })

/-- The first 208 bytes of a report. -/
def State.reportBody (s : State) (nonce : List Byte) : List Byte :=
  padTo 48 nonce ++ s.pkg.images.toList.flatMap (fun d => bytesOf 48 d.toNat) ++ bytesOf 8 s.pkg.bootstat.toNat ++
    padTo 8 (bytesOf 1 ((upTo 4).foldl (fun a d => a + if (s.dieAt d).upper then 2 ^ d else 0) 0) ++ [Config.stepping])

/-- A report with its two signatures, by the identity keys that boot has derived. -/
def State.report (s : State) (key : BitVec 384) (nonce : List Byte) : List Byte :=
  let b := s.reportBody nonce
  b ++ signatures key (Config.sha384 b)

/-- ATTESTATION_REPORT_DONE (R401): nonce is what the host wrote at ATTADDR. There is no report without the identity
keys, which boot derives and a reset erases (R400, R402). -/
def execAttestationReportDone (nonce : List Byte) (s : State) : Out :=
  match s.pkg.identity with
  | none => .next s
  | some key =>
    if s.pkg.attcmd != 1 then .next s else
    .next ((s.updPkg fun p => { p with attcmd := 2 }).signal (.hostMem s.pkg.attaddr.toNat (s.report key nonce)))

/-! ## The clock (R364, R365) and power (R409) -/

/-- A handshake of the clock runs. -/
def Package.clkBusy (p : Package) : Bool := bit p.clkstat.toNat 5
/-- The step that is wanted: max(CLKCTL.step, p). -/
def Package.clkWant (p : Package) : Nat := max p.clkstep.toNat p.pwrp.toNat

/-- A handshake starts. -/
def State.clkGo (s : State) : State :=
  (s.updPkg fun p => { p with clkstat := BitVec.ofNat 64 (setFld p.clkstat.toNat 5 1 1)
                              clkgoal := BitVec.ofNat 5 p.clkWant }).later 0 .handshake

/-- The step wanted has changed: a handshake starts, or one follows the one that runs. -/
def State.clkMove (s : State) : State :=
  if s.pkg.clkBusy then s.updPkg fun p => { p with clkPending := true }
  else if s.pkg.clkWant == fld s.pkg.clkstat.toNat 0 5 then s
  else s.clkGo

/-- The power controller's step has changed: a handshake that runs takes it in, so that a change of CLKCTL.step that falls
together with it has one handshake with it (R409, log 48). -/
def State.clkJoin (s : State) : State :=
  if s.pkg.clkBusy then
    if s.pkg.clkPending then s else s.updPkg fun p => { p with clkgoal := BitVec.ofNat 5 p.clkWant }
  else s.clkMove

/-- CLOCK_STEP_REQUEST (R364): a write of CLKCTL. -/
def execClockStepRequest (v : BitVec 64) : State → Out := managed fun s =>
  let k := fld v.toNat 0 5
  if 16 < k then .next (s.updPkg fun p => { p with clkstat := BitVec.ofNat 64 (setFld p.clkstat.toNat 6 1 1) })
  else .next (s.updPkg fun p => { p with clkstep := BitVec.ofNat 5 k }).clkMove

/-- CLOCK_HANDSHAKE (R365): the new step is in force, and a later request has one further handshake. -/
def execClockHandshake (s : State) : Out :=
  if !s.pkg.clkBusy then .next s else
  let v := s.pkg.clkstat.toNat
  let v := setFld (setFld (setFld v 0 5 s.pkg.clkgoal.toNat) 5 1 0) 32 32 (fld v 32 32 + 1)
  let again := s.pkg.clkPending
  let s := s.updPkg fun p => { p with clkstat := BitVec.ofNat 64 v, clkPending := false }
  .next (if again then s.clkGo else s)

/-- CLKSTAT_WRITE (R364): err clears. -/
def execClkstatWrite (_v : BitVec 64) : State → Out := managed fun s =>
  .next (s.updPkg fun p => { p with clkstat := BitVec.ofNat 64 (setFld p.clkstat.toNat 6 1 0) })

/-- A save is under way. -/
def Package.saves (p : Package) : Bool := p.ckpt.any (·.cmd == 1)

/-- The power controller makes a step, which PWRSTAT counts (R409). -/
def State.powerStep (s : State) (p : BitVec 5) : State :=
  (s.updPkg fun q => { q with pwrp := p, pwrn := q.pwrn + 1 }).clkJoin

/-- POWER_CONTROL_TICK (R409): the average of a millisecond is compared with the limit. During a save the controller
holds its step (R407). -/
def execPowerControlTick (avg : BitVec 12) (s : State) : Out :=
  let p := s.pkg
  let lim := p.pwrlim.toNat
  let low := if avg.toNat + 100 < lim then p.pwrlow + 1 else 0
  let s := s.updPkg fun p => { p with pwravg := avg, pwrlow := if low == 10 then 0 else low }
  if p.saves then .next s
  else if lim < avg.toNat && p.pwrp.toNat < 16 then .next (s.powerStep (p.pwrp + 1))
  else if low == 10 && p.pwrp != 0 then .next (s.powerStep (p.pwrp - 1))
  else .next s

end Sys2Proof.Machine
end

