-- ==== Sys2Proof/Machine/Manage.lean ====
section
/-! DEFINITION. Writes of the management interface (18 R360): pad, save and trace registers, plain registers, and the
registers whose write is an event of its own. -/

namespace Sys2Proof.Machine

/-! ## Writes that wait (R169, R281, R296) -/

/-- The pad and the pad register that an offset names. -/
def padReg (off : Nat) : Option (Nat × Nat) :=
  let i := regIdx off
  match regScope off with
  | 0 => if i < 8 then some (regCore off, i) else none
  | 1 => if i < 9 then some (1024 + regClu off, i) else none
  | 2 => if 0x40 ≤ i && i < 0xC0 && i % 16 < 9 then some (2048 + 8 * regDie off + (i - 0x40) / 16, i % 16) else none
  | _ => none

/-- A context of the core holds an activation. -/
def State.coreHolds (s : State) (c : Nat) : Bool := (s.coreAt c).ctxs.toList.any (·.busy)

/-- A write of a pad's registers waits: of a core's, while a context of the core holds an activation (R169); and while
a sift of the pad runs (R296). -/
def State.padWaits (s : State) (i : Nat) : Bool := s.siftRuns i || (i < 1024 && s.coreHolds i)

/-- PAD_REGISTER_WRITE (R169, R296): a pad register is written once nothing holds the write. -/
def execPadRegisterWrite (reg : MReg) (v : BitVec 64) : State → Out := managed fun s =>
  match padReg reg.toNat with
  | none => .next s
  | some (i, j) =>
    if s.padWaits i then .next s
    else if j == 8 then .next (s.setPad i { s.pad i with owner := BitVec.ofNat 5 v.toNat })
    else
      let s := s.writePad i j v.toNat
      .next (if i < 1024 then s.later 1 (.dispatch i) else s)

/-- A context of the core saves. -/
def State.coreSaves (s : State) (c : Nat) : Bool := (s.coreAt c).ctxs.toList.any (·.saving)

/-- SAVE_REGISTER_WRITE (R281): once no context of the core is saving. -/
def execSaveRegisterWrite (reg : MReg) (v : BitVec 64) : State → Out := managed fun s =>
  let off := reg.toNat
  let i := regIdx off
  let c := regCore off
  if regScope off != 0 || i < 0x10 || 0x13 < i || s.coreSaves c then .next s
  else .next (s.putCoreReg c i (if i == 0x12 then v.toNat &&& 0xFFFC else if i == 0x13 then v.toNat % 2 ^ 32 else v.toNat))

/-- TRBASE keeps R343's conditions. -/
def State.traceBaseOk (s : State) (p : PReg) : Bool :=
  p.tag && !s.malformed p && p.w && p.pn && p.kind == 0 && p.len != 0 && p.len % 32 == 0

/-- TRBASE_WRITE (R343): a pointer that breaks the conditions clears TRCTL.en. -/
def execTrbaseWrite (reg : MReg) (v : BitVec 64) : State → Out := managed fun s =>
  let off := reg.toNat
  let i := regIdx off
  let c := regCore off
  if regScope off != 0 || (i != 0x28 && i != 0x29) then .next s else
  let s := s.putCoreReg c i v.toNat
  .next (if s.traceBaseOk (s.coreptr c 0x28) then s else s.setCoreReg c 0x2A (setFld (s.coreReg c 0x2A) 0 1 0))

/-! ## Plain registers -/

/-- The bits that a core-scope register holds, where its write only stores them. -/
def coreMask (i : Nat) : Option Nat :=
  if i == 0x14 then some 0xFFFD
  else if i == 0x18 || i == 0x19 then some 0xFFFFFFFFFFFFFFFF
  else if i == 0x1A then some 0xFFFFF
  else if i == 0x20 then some 0xFF01
  else if i == 0x22 then some 0xFFFFFFFFFFFFFFFD
  else if 0x24 ≤ i && i < 0x28 then some 0x00FFFFFF03FFFFFF
  else if i == 0x2A then some 0xFFFFFFFF0000003F
  else if i == 0x2B then some 0xFFFFFFFFFF
  else if 0x30 ≤ i && i < 0x3A then some 0xFFFFFFFFFFFFFF0F
  else if i == 0x3A then some 0x1FFFFFFFFF
  else if i == 0x40 then some 0x0000FFFFFFFF0FFF
  else if i == 0x41 then some 0xFFFFFFFFFFFFFFFF
  else if i == 0x42 then some 0xFF3F
  else if i == 0x43 then some 0xFFFE
  else none

/-- A plain register of a core. STEALCNT is cleared by zero alone (R321); a resume request is dropped while one is held
(R315); the timer starts its period (R350), and a thief its probes (R320); PRE may have an entry preempt (R318). -/
def State.writeCorePlain (s : State) (c i v : Nat) : State :=
  if i == 0x21 then (if v == 0 then s.setCoreReg c i 0 else s) else
  if (i == 0x18 || i == 0x19 || i == 0x1A) && (s.coreAt c).resumeHeld.isSome then s else
  match coreMask i with
  | none => s
  | some m =>
    let s := s.putCoreReg c i (v &&& m)
    if i == 0x20 && bit v 0 then s.soon 8 (.probe c)
    else if i == 0x14 && bit v 0 then s.soon 1 (.priority c)
    else if i == 0x22 then
      let s := { s with pending := s.pending.filter fun e => e.2 != .timer c }
      if bit v 0 then s.later (s.timerPeriod c) (.timer c) else s
    else s

/-- A plain register of a cluster: CLUERR (R250) and CAPFAULT (R294). -/
def State.writeCluPlain (s : State) (k i v : Nat) : State :=
  if i == 0x10 then s.putCluReg k i (v &&& 0xFFFFFFFF1FFFFFF7)
  else if i == 0x11 && v == 0 then s.putCluReg k i 0
  else s

/-- A plain register of a die. A ring that SQBASE names takes what the queue holds (R403). -/
def State.writeDiePlain (s : State) (d i v : Nat) : State :=
  if i == 2 then s.putDieReg d i v
  else if i == 8 || i == 9 then (s.putDieReg d i v).sqJoin d []
  else if i == 0xC then (if v == 0 then s.putDieReg d i 0 else s)
  else if 0x100 ≤ i && i < 0x160 then s.putDieReg d i (v &&& 0x1FFFFFFFFE0)
  else if 0x180 ≤ i && i < 0x1B0 then s.putDieReg d i (v % 2 ^ 32)
  else s

/-- A fabric port is up (R416). -/
def State.anyPortUp (s : State) : Bool := (upTo 36).any s.portUp

/-- A plain register of the package. A table that QTBASE names may hold queues with work (R370). -/
def State.writePkgPlain (s : State) (i v : Nat) : State :=
  let put := fun (x : Nat) => s.updPkg fun p => p.put i x
  if i == 3 then (put v).soon 1 .mapSlot
  else if i == 2 || i == 8 || 0x10 ≤ i && i < 0x20 || i == 0x22 || i == 0x7A || i == 0x7B ||
      0xA0 ≤ i && i < 0xB2 || 0x100 ≤ i && i < 0x200 then put v
  else if i == 0x21 then put (v &&& 0xC3F ||| s.pkg.alarmctl.toNat &&& 0x3C0)
  else if i == 0x24 then (if v == 0 then put 0 else s)
  else if i == 0x25 then put (v &&& 0xFFFFFFFFFFFFFF0F)
  else if i == 0x27 then put (min 2000 (max 500 (v % 4096)))
  else if 0x30 ≤ i && i < 0x36 then (if s.anyPortUp then s else put v)
  else if 0x68 ≤ i && i < 0x78 then put (fld v 0 1 * 3 + fld v 32 32 * 2 ^ 32)
  else if i == 0x78 || i == 0x79 then
    (put v).updPkg fun p => { p with peers := p.peers.map fun e => (e.1, { e.2 with down := false }) }
  else if i == 0x7C then put (v &&& 0x0000FFFF3FFFFFFF)
  else if 0x800 ≤ i && i % 8 < 5 && i % 8 != 2 then put v
  else s

/-- A register with no behaviour of its own stores the value (R360). -/
def State.storeReg (s : State) (off v : Nat) : State :=
  let i := regIdx off
  match regScope off with
  | 0 => s.writeCorePlain (regCore off) i v
  | 1 => s.writeCluPlain (regClu off) i v
  | 2 => s.writeDiePlain (regDie off) i v
  | _ => s.writePkgPlain i v

/-- An item of R96 of core c is reached by the management interface (R353): the core is stopped, and CTXRD and CTXWR
would take the selector. -/
def reachItem (c sel : Nat) : M Unit := do
  let k := (← get).coreAt c
  require (k.stopped && selectorOk sel && targetOk97 none k sel) cILLEGAL

/-- The management interface acts on core c beside the context that a selector names. -/
def State.atItem {α : Type} (s : State) (c sel : Nat) (m : M α) : Option (α × State) :=
  match M.as c (Fin.ofNat 8 (sel + 1)) (do reachItem c sel; m) s with
  | .ok a t => some (a, t)
  | .error _ _ => none

/-- The item that a selector names in core c (R353), or zero where it cannot be read. -/
def State.itemValue (s : State) (c sel : Nat) : Nat × State :=
  match s.atItem c sel (readItem sel) with
  | some (v, t) => (v.toNat, t)
  | none => (0, s)

/-- The item that a selector names in core c is written (R353), where it can be. -/
def State.putItem (s : State) (c sel : Nat) (v : BitVec 64) : State :=
  match s.atItem c sel (writeItem sel v) with
  | some (_, t) => t
  | none => s

/-- MGMT_REGISTER_WRITE (R360): a register with no behaviour of its own stores the value; an item of a stopped core is
written (R353), or fuses are blown (R398). -/
def execMgmtRegisterWrite (reg : MReg) (v : BitVec 64) : State → Out := managed (reaching fun acc s =>
  let off := reg.toNat
  if off % 8 != 0 then .next s else
  match acc with
  | .register | .bar0 => .next (s.storeReg off v.toNat)
  | .item sel => .next (if regScope off == 0 then s.putItem (regCore off) sel.toNat v else s)
  | .fuses => .next (s.blowFuses v.toNat))

/-- HQHEAD_WRITE (R369): the host has read on, and reservations may be granted. -/
def execHqheadWrite (h : Fin 256) (v : BitVec 64) : State → Out := managed fun s =>
  .next ((s.updHost h.val fun q => { q with head := v }).freed (.ring h.val))

/-- SQHEAD_WRITE (R403): entries free, and what was held joins the ring. -/
def execSqheadWrite (die : Fin 4) (v : BitVec 64) : State → Out := managed fun s =>
  let s := s.updDie die.val fun d => { d with sqhead := v &&& 0xFFFFFFFF }
  .next (s.sqJoin die.val [])

/-! ## Writes that are events -/

/-- The state after an event. -/
def Out.stateOr (o : Out) (s : State) : State := match o with
  | .next t => t
  | _ => s

/-- A write of a core-scope register; none where it waits. -/
def State.writeCore (s : State) (off v : Nat) : Option State :=
  let c := regCore off
  let i := regIdx off
  let core : Fin 1024 := Fin.ofNat 1024 c
  let reg : MReg := BitVec.ofNat 27 off
  let x : BitVec 64 := BitVec.ofNat 64 v
  if i < 8 then (if s.padWaits c then none else some ((execPadRegisterWrite reg x s).stateOr s))
  else if 0x10 ≤ i && i < 0x14 then (if s.coreSaves c then none else some ((execSaveRegisterWrite reg x s).stateOr s))
  else if i == 0x1B then some ((execResumeRequestSubmit core s).stateOr s)
  else if i == 0x23 then some ((if bit v 0 then execCoreStop core s else execCoreGo core s).stateOr s)
  else if i == 0x28 || i == 0x29 then some ((execTrbaseWrite reg x s).stateOr s)
  else some (s.storeReg off v)

/-- A write of a pad register of a cluster or a die region, or none where it waits; any other register of its scope is
written by other. -/
def State.writePadOr (s : State) (off v : Nat) (other : State → State) : Option State :=
  match padReg off with
  | some (i, _) =>
    if s.padWaits i then none
    else some ((execPadRegisterWrite (BitVec.ofNat 27 off) (BitVec.ofNat 64 v) s).stateOr s)
  | none => some (other s)

/-- A write of a die-scope register that is no pad register. -/
def State.writeDie (s : State) (off v : Nat) : State :=
  let die : Fin 4 := Fin.ofNat 4 (regDie off)
  let i := regIdx off
  let x : BitVec 64 := BitVec.ofNat 64 v
  let o := match i with
    | 0x0 => match v % 4 with
      | 1 => execDieOffline die s
      | 2 => execDieShutter die s
      | 3 => execDieReopen die s
      | _ => .next (s.updDie die.val fun d => { d with cmd := BitVec.ofNat 64 (setFld d.cmd.toNat 0 2 0) })
    | 0x1 => if bit v 0 then execDieHalt die s else execDieRun die s
    | 0xA => execSqheadWrite die x s
    | 0xD => if bit v 4 then execPageAnswerRefuse die x s else execPageAnswerMap die x s
    | _ => .next (s.storeReg off v)
  o.stateOr s

/-- CKPTCMD (R407): a command and its path. -/
def State.writeCkpt (s : State) (v : Nat) : State :=
  if s.pkg.ckpt.isSome && v % 4 != 3 then s else
  let s := s.updPkg fun p => { p with ckptcmd := BitVec.ofNat 64 (setFld p.ckptcmd.toNat 0 3 v) }
  match v % 4 with
  | 1 => (execCheckpointSave s).stateOr s
  | 2 => (s.ckptStart 2).getD s
  | 3 => (execCheckpointAbort s).stateOr s
  | _ => s

/-- A write of a package-scope register outside recovery. -/
def State.writePkg (s : State) (off v : Nat) : State :=
  let i := regIdx off
  let x : BitVec 64 := BitVec.ofNat 64 v
  if 0x40 ≤ i && i < 0x64 then (execPortStepWrite (Fin.ofNat 52 (i - 0x40)) x s).stateOr s
  else if 0x80 ≤ i && i < 0x90 then (execPortStepWrite (Fin.ofNat 52 (36 + (i - 0x80))) x s).stateOr s
  else if 0x800 ≤ i && i % 8 == 2 then (execHqheadWrite (Fin.ofNat 256 ((i - 0x800) / 8)) x s).stateOr s
  else match i with
    | 0x00 => (execClockStepRequest x s).stateOr s
    | 0x01 => (execClkstatWrite x s).stateOr s
    | 0x04 => (execQueueDoorbell x s).stateOr s
    | 0x05 => (execPrecmd x s).stateOr s
    | 0x06 => (execCancelq x s).stateOr s
    | 0x09 => (execAbandon (s.pkg.abandon.setHalf true v).bits s).stateOr s
    | 0x23 => if v == 1 then (execAttestationRequest s).stateOr s else s
    | 0x26 => s.writeCkpt v
    | 0xB2 => s.startLoad v
    | _ => s.storeReg off v

/-- A write of the recovery mailbox (R399). -/
def State.writeMailbox (s : State) (i v : Nat) : State :=
  if i == 0x29 || i == 0x2A then s.updPkg fun p => p.put i v
  else if i == 0x2B then s.startRecovery v
  else s

/-- A management write (R360); none where it waits. In recovery the mailbox alone is served (R398). -/
def State.manage (s : State) (off v : Nat) : Option State :=
  if off % 8 != 0 then some s
  else if s.pkg.recovery then some (if regScope off == 3 then s.writeMailbox (regIdx off) v else s)
  else match regScope off with
    | 0 => s.writeCore off v
    | 1 => s.writePadOr off v (·.storeReg off v)
    | 2 => s.writePadOr off v (·.writeDie off v)
    | _ => some (s.writePkg off v)

end Sys2Proof.Machine
end

