-- ==== Sys2Proof/Machine/Host.lean ====
section
/-! DEFINITION. The ordering point (18 R367, R368; 21 R410-R413): host writes as they enter, are released, land and are
acknowledged, and host reads. -/

namespace Sys2Proof.Machine

/-! ## Entering (R368, R410, R412) -/

/-- The windows as the management writes that have entered leave them (R412). -/
def State.windowsAhead (s : State) : SMap (PReg × DWord) :=
  (s.pkg.orderQ.filter fun w => !w.bar4 && !w.bar0 && w.read.isNone && !w.poisoned && w.landed == 0 && regScope w.off == 3 &&
    0x100 ≤ regIdx w.off && regIdx w.off < 0x200).foldl
    (fun m w => windowPut m (regIdx w.off) (natOf w.data)) s.pkg.windows

/-- The parts of a data write, split at window boundaries. -/
def splitWrite : Nat → Nat → List Byte → List (Nat × List Byte)
  | 0, _, _ => []
  | n + 1, off, bs =>
    if bs.isEmpty then [] else
    let l := 2 ^ 26 - off % 2 ^ 26
    (off % 2 ^ 32, bs.take l) :: splitWrite n (off + l) (bs.drop l)

/-- A part of a data write as it enters. -/
def State.dataWrite (s : State) (poisoned : Bool) (part : Nat × List Byte) : HostWrite :=
  let (p, c) := windowOf s.windowsAhead (fld part.1 26 6)
  { bar4 := true, off := part.1, data := part.2, poisoned, ptr := p, ctl := c
    route := if p.tag && !s.malformed p then some (Fin.ofNat 5 p.die) else none }

/-- Something enters the ordering point. -/
def State.enterPoint (s : State) (ws : List HostWrite) : State :=
  (s.updPkg fun p => { p with orderQ := p.orderQ ++ ws }).soon 1 .release

/-- An access of n bytes at off of BAR0 is one or two dwords, aligned (R415, log 50). -/
def bar0Ok (off n : Nat) : Bool := (n == 4 || n == 8) && off % n == 0

/-- The next management access reaches BAR0. -/
def State.toBar0 (s : State) : Bool := s.accesses.head? == some .bar0

/-- A posted write in BAR0 enters the ordering point (R415). -/
def State.enterBar0 (s : State) (off : Nat) (data : List Byte) (poisoned : Bool) : State :=
  let s := { s with accesses := s.accesses.drop 1 }
  if bar0Ok off data.length then
    s.enterPoint [{ bar4 := false, bar0 := true, off := off % 2 ^ 14, data, poisoned, route := some 4 }]
  else s.emit .unsupported

/-- HOST_POSTED_WRITE (R360, R410, R415): a whole TLP enters; in BAR2 it is one dword, or an Unsupported Request. -/
def execHostPostedWrite (bar4 : Bool) (off : BitVec 32) (data : List Byte) (poisoned : Bool) (s : State) : Out :=
  if !s.pkg.powered then .next s
  else if !bar4 && s.toBar0 then .next (s.enterBar0 off.toNat data poisoned)
  else if bar4 then .next (s.enterPoint ((splitWrite 65 off.toNat data).map (s.dataWrite poisoned)))
  else if off.toNat % 8 != 0 || data.length != 8 then .next (s.emit .unsupported)
  else .next (s.enterPoint [{ bar4 := false, off := off.toNat % 2 ^ 27, data, poisoned, route := some 4 }])

/-- HOST_READ (R368): it waits at the ordering point for the writes before it; in BAR2 it may name an item (R353), or
it may be in BAR0 (R415). -/
def execHostRead (bar4 : Bool) (off : BitVec 32) (n : Nat) : State → Out := reaching fun acc s =>
  if !s.pkg.powered then .next s
  else
    let bar0 := !bar4 && acc == .bar0
    if !bar4 && !(if bar0 then bar0Ok off.toNat n else off.toNat % 8 == 0 && n == 8) then .next (s.emit .unsupported)
    else
    let item := match acc with
      | .item sel => some sel
      | _ => none
    .next (s.enterPoint [{ bar4, bar0, off := off.toNat, read := some n, item }])

/-! ## Reads (R367, R368) -/

/-- Part of a read in BAR4: what its window's object holds, and zeros beyond it, which are counted. -/
def State.readPart (s : State) (off n : Nat) : List Byte × State :=
  let w := fld off 26 6
  let (p, c) := windowOf s.pkg.windows w
  let o := fld off 0 26
  let len := if bit c.toNat 0 && p.tag && !s.malformed p && p.w then min n (p.len - o) else 0
  let bs := (s.fetchObj? p 0 o len).getD []
  (padTo n (bs.take len), s.countDrop w (n - len))

/-- A read in BAR4, split at window boundaries. -/
def State.readData : Nat → Nat → Nat → State → List Byte × State
  | 0, _, _, s => ([], s)
  | fuel + 1, off, n, s =>
    if n == 0 then ([], s) else
    let l := min n (2 ^ 26 - off % 2 ^ 26)
    let (a, s) := s.readPart (off % 2 ^ 32) l
    let (b, s) := readData fuel (off + l) (n - l) s
    (a ++ b, s)

/-! ## BAR0 (R415)

The table stands at offset 0, four dwords a vector, and the pending bits at 0x2000 (log 50). -/

/-- A dword of BAR0. -/
def Package.bar0Word (p : Package) (off : Nat) : Nat :=
  let i := off / 4
  if i < 1028 then (p.msixWord i).toNat
  else if 0x800 ≤ i then (upTo 32).foldl (fun a b => a + if p.pba.has (32 * (i - 0x800) + b) then 2 ^ b else 0) 0
  else 0

/-- A dword of BAR0 is written: of the table alone. A pending vector whose mask goes is raised. -/
def State.putBar0 (s : State) (off : Nat) (v : Nat) : State :=
  let i := off / 4
  if 1028 ≤ i then s else
  let x : BitVec 32 := BitVec.ofNat 32 (if i % 4 == 3 then v % 2 else v)
  let s := s.updPkg fun p => { p with msixTab := SMap.set (if i % 4 == 3 then 1 else 0) p.msixTab i x }
  if i % 4 == 3 && x == 0 && s.pkg.pba.has (i / 4) then
    (s.updPkg fun p => { p with pba := p.pba.del (i / 4) }).raiseVec (i / 4)
  else s

/-- The bytes of a write in BAR0 are stored. -/
def State.writeBar0 (s : State) (off : Nat) (data : List Byte) : State :=
  let s := s.putBar0 off (leAt data 0 4)
  if data.length == 8 then s.putBar0 (off + 4) (leAt data 4 4) else s

/-- What n bytes of BAR0 read as. -/
def State.readBar0 (s : State) (off n : Nat) : List Byte :=
  (bytesOf 4 (s.pkg.bar0Word off) ++ bytesOf 4 (s.pkg.bar0Word (off + 4))).take n

/-- What a read in BAR2 gives: a register, whose counter comes up to date, or an item of R96 of a stopped core. -/
def State.manageRead (s : State) (off : Nat) (item : Option (BitVec 64)) : Nat × State :=
  match item with
  | some sel =>
    if regScope off != 0 || s.pkg.recovery then (0, s) else s.itemValue (regCore off) sel.toNat
  | none =>
    let s := if s.pkg.recovery then s else s.tallied off
    (s.regValue off, s)

/-- A host read of n bytes is performed, and its data goes to the host. -/
def State.hostAnswer (s : State) (w : HostWrite) (n : Nat) : State :=
  if w.bar4 then
    let (bs, s) := s.readData 65 w.off n
    s.emit (.readData bs)
  else if w.bar0 then s.emit (.readData (s.readBar0 (w.off % 2 ^ 14) n))
  else
    let (v, s) := s.manageRead (w.off % 2 ^ 27) w.item
    s.emit (.readData (bytesOf 8 v))

/-! ## Release (R368, R411) -/

/-- The ck from release to the first landing step: 8 on route 4, else R173's latency of the object's level. -/
def HostWrite.lead (w : HostWrite) : Nat :=
  if !w.bar4 then 8 else match w.ptr.lvl with
  | 3 => 240
  | _ => 96

/-- A write has nothing to land: it is acknowledged as it is released (R410). -/
def HostWrite.emptied (w : HostWrite) (s : State) : Bool := w.poisoned || (w.bar4 && w.keep s == 0)

/-- The first entry that is not released may be: writes before it have its own route; a read, and a write without a
route, wait for all of them. During a save inbound writes wait (R407), but for the one that can end it, of CKPTCMD
(log 16). -/
def State.mayRelease (s : State) (before : List HostWrite) (w : HostWrite) : Bool :=
  let ends := !w.bar4 && !w.bar0 && regScope w.off == 3 && regIdx w.off == 0x26
  (match w.route with
   | some r => before.all fun e => e.route == some r
   | none => before.isEmpty) && !(w.read.isNone && !ends && s.pkg.saves)

/-- The first entry that is not released has an error in the queues of the I/O die (R406): one that is corrected is
recorded; another drops a host write, whose bytes its window counts. -/
def State.upsetEntry (s : State) (before : List HostWrite) (w : HostWrite) (upset : Upset) : HostWrite × State :=
  match upset with
  | .none => (w, s)
  | .corrected => (w, s.logPkg 19 false before.length 0)
  | _ =>
    let s := s.logPkg 19 true before.length 0
    if w.read.isSome then (w, s)
    else ({ w with poisoned := true }, if w.bar4 then s.countDrop w.win (w.keep s) else s)

/-- ROUTE_RELEASE (R368, R406, R410, R411). -/
def execRouteRelease : State → Out := struck fun upset s =>
  let q := s.pkg.orderQ
  let before := q.takeWhile (·.released)
  match q.dropWhile (·.released) with
  | [] => .next s
  | w :: rest =>
    if !s.mayRelease before w then .next s else
    match w.read with
    | some n =>
      let s := (s.upsetEntry before w upset).2
      .next (((s.updPkg fun p => { p with orderQ := before ++ rest }).hostAnswer w n).soon 1 .release)
    | none =>
      let s := if w.bar4 then s.countDrop w.win (w.data.length - w.keep s) else s
      let (w, s) := s.upsetEntry before w upset
      if w.emptied s then .next ((s.updPkg fun p => { p with orderQ := before ++ rest }).soon 1 .release)
      else
        let s := s.updPkg fun p => { p with orderQ := before ++ { w with released := true, total := w.keep s } :: rest }
        .next ((s.later w.lead (.landing (w.route.getD 4).val)).soon 1 .release)

/-! ## Landing and acknowledgement (R411, R413) -/

/-- LANDING_STEP (R411, R413): the next step of the first write on a route that has not landed; a management write
that has to wait is tried again. -/
def execLandingStep (route : Fin 5) (s : State) : Out :=
  match s.landingOn route with
  | none => .next s
  | some w =>
    if w.bar4 then .next (s.land route w) else
    match if w.bar0 then some (s.writeBar0 w.off w.data) else s.manage w.off (natOf w.data) with
    | none => .next (s.soon 8 (.landing route.val))
    | some t => .next (((t.setLanding w { w with landed := 8 }).later 32 (.ack route.val)).soon 1 (.landing route.val))

/-- A write has landed whole. -/
def HostWrite.complete (w : HostWrite) : Bool := if w.bar4 then w.total ≤ w.landed else w.landed == 8

/-- ROUTE_ACK (R411): the first released write of a route, landed whole, is acknowledged. -/
def execRouteAck (route : Fin 5) (s : State) : Out :=
  match s.pkg.orderQ.find? fun w => w.released && w.route == some route with
  | none => .next s
  | some w =>
    if !w.complete then .next s
    else .next ((s.updPkg fun p => { p with orderQ := p.orderQ.erase w }).soon 1 .release)

end Sys2Proof.Machine
end

