-- ==== Sys2Proof/Machine/Integer.lean ====
section
/-! DEFINITION. Scalar integer instructions (04 R66-R74) and their compact forms (02 R25, 04 R69-R72). -/

namespace Sys2Proof.Machine

/-! ## Operations on n bits (R68) -/

/-- An operation on the low 64 bits, or on the low 32 with the result sign-extended (R66). -/
def sized1 (wd : Bool) (f : (n : Nat) → BitVec n → BitVec n) (x : DWord) : DWord :=
  if wd then (f 32 (x.setWidth 32)).signExtend 64 else f 64 x

/-- The same with two sources. -/
def sized2 (wd : Bool) (f : (n : Nat) → BitVec n → BitVec n → BitVec n) (x y : DWord) : DWord :=
  if wd then (f 32 (x.setWidth 32) (y.setWidth 32)).signExtend 64 else f 64 x y

/-- MULH (R68). -/
def opMulh (n : Nat) (x y : BitVec n) : BitVec n :=
  ((x.signExtend (2 * n) * y.signExtend (2 * n)) >>> n).setWidth n
/-- MULHN (R68). -/
def opMulhn (n : Nat) (x y : BitVec n) : BitVec n :=
  ((x.setWidth (2 * n) * y.setWidth (2 * n)) >>> n).setWidth n
/-- DIV (R68): by zero gives all ones; the quotient truncates toward zero and wraps. -/
def opDiv (n : Nat) (x y : BitVec n) : BitVec n := if y = 0 then BitVec.allOnes n else x.sdiv y
/-- DIVN (R68). -/
def opDivn (n : Nat) (x y : BitVec n) : BitVec n := if y = 0 then BitVec.allOnes n else x / y
/-- REM (R68): by zero gives x; the sign is that of x. -/
def opRem (n : Nat) (x y : BitVec n) : BitVec n := if y = 0 then x else x.srem y
/-- REMN (R68). -/
def opRemn (n : Nat) (x y : BitVec n) : BitVec n := if y = 0 then x else x % y
/-- SHL by the count modulo n (R68). -/
def opShl (n : Nat) (x y : BitVec n) : BitVec n := x <<< (y.toNat % n)
/-- SHR. -/
def opShr (n : Nat) (x y : BitVec n) : BitVec n := x >>> (y.toNat % n)
/-- SAR. -/
def opSar (n : Nat) (x y : BitVec n) : BitVec n := x.sshiftRight (y.toNat % n)
/-- ROL. -/
def opRol (n : Nat) (x y : BitVec n) : BitVec n :=
  (x <<< (y.toNat % n)) ||| (x >>> (n - y.toNat % n))

/-- The zero bits below bit i down to the first one, of the low i bits. -/
def zerosDown (x : Nat) : Nat → Nat
  | 0 => 0
  | i + 1 => if bit x i then 0 else 1 + zerosDown x i
/-- The zero bits from bit 0 up to the first one, of n - i bits that remain. -/
def zerosUp (x : Nat) : Nat → Nat
  | 0 => 0
  | i + 1 => if bit x 0 then 0 else 1 + zerosUp (x / 2) i
/-- The one bits among the low n. -/
def onesOf (x : Nat) : Nat → Nat
  | 0 => 0
  | i + 1 => (if bit x i then 1 else 0) + onesOf x i

/-- CLZ (R68). -/
def opClz (n : Nat) (x : BitVec n) : BitVec n := BitVec.ofNat n (zerosDown x.toNat n)
/-- CTZ. -/
def opCtz (n : Nat) (x : BitVec n) : BitVec n := BitVec.ofNat n (zerosUp x.toNat n)
/-- POPC. -/
def opPopc (n : Nat) (x : BitVec n) : BitVec n := BitVec.ofNat n (onesOf x.toNat n)
/-- ABS: the most negative value is unchanged. -/
def opAbs (n : Nat) (x : BitVec n) : BitVec n := if x.msb then -x else x
/-- MIN. -/
def opMin (n : Nat) (x y : BitVec n) : BitVec n := if x.sle y then x else y
/-- MINN. -/
def opMinn (n : Nat) (x y : BitVec n) : BitVec n := if x.ule y then x else y
/-- MAX. -/
def opMax (n : Nat) (x y : BitVec n) : BitVec n := if y.sle x then x else y
/-- MAXN. -/
def opMaxn (n : Nat) (x y : BitVec n) : BitVec n := if y.ule x then x else y
/-- 1 or 0. -/
def opFlag (n : Nat) (b : Bool) : BitVec n := if b then BitVec.ofNat n 1 else BitVec.ofNat n 0

/-- The result of a two-source integer instruction by its mnemonic's function. -/
abbrev Op2 := (n : Nat) → BitVec n → BitVec n → BitVec n

/-- A unit of two sources and a destination. -/
def alu2 (i : Instr) (wd : Bool) (d a b : Nat) (f : Op2) (s : State) : Out :=
  unit i (unitS [a, b] d do
    let x ← readS a
    let y ← readS b
    pure (sized2 wd f x y)) s

/-- A unit of one source and a destination. -/
def alu1 (i : Instr) (wd : Bool) (d a : Nat) (f : (n : Nat) → BitVec n → BitVec n) (s : State) : Out :=
  unit i (unitS [a] d do
    let x ← readS a
    pure (sized1 wd f x)) s

/-- A unit of a source, an immediate and a destination (R70, R71). -/
def aluI (i : Instr) (wd : Bool) (d a : Nat) (y : DWord) (f : Op2) (s : State) : Out :=
  unit i (unitS [a] d do
    let x ← readS a
    pure (sized2 wd f x y)) s

/-- The code of SEL's condition register (R36). -/
def selCode (c : Nat) : Nat := if c < 8 then c else c + 16

/-- Bits [hi:lo] of x replaced by the low bits of v (R72, R74). -/
def insertBits (x v : DWord) (lo n : Nat) : DWord :=
  let m : DWord := (BitVec.allOnes 64 >>> (64 - n)) <<< lo
  (x &&& ~~~m) ||| ((v <<< lo) &&& m)

/-! ## Register instructions (R68) -/

/-- ADD (R68). -/
def execAdd (wd : Bool) (d a b : Sc) : State → Out :=
  alu2 (.add wd d a b) wd d.val a.val b.val (fun _ x y => x + y)

/-- SUB (R68). -/
def execSub (wd : Bool) (d a b : Sc) : State → Out :=
  alu2 (.sub wd d a b) wd d.val a.val b.val (fun _ x y => x - y)

/-- MUL (R68). -/
def execMul (wd : Bool) (d a b : Sc) : State → Out :=
  alu2 (.mul wd d a b) wd d.val a.val b.val (fun _ x y => x * y)

/-- MULH (R68). -/
def execMulh (wd : Bool) (d a b : Sc) : State → Out :=
  alu2 (.mulh wd d a b) wd d.val a.val b.val opMulh

/-- MULHN (R68). -/
def execMulhn (wd : Bool) (d a b : Sc) : State → Out :=
  alu2 (.mulhn wd d a b) wd d.val a.val b.val opMulhn

/-- DIV (R68). -/
def execDiv (wd : Bool) (d a b : Sc) : State → Out :=
  alu2 (.div wd d a b) wd d.val a.val b.val opDiv

/-- DIVN (R68). -/
def execDivn (wd : Bool) (d a b : Sc) : State → Out :=
  alu2 (.divn wd d a b) wd d.val a.val b.val opDivn

/-- REM (R68). -/
def execRem (wd : Bool) (d a b : Sc) : State → Out :=
  alu2 (.rem wd d a b) wd d.val a.val b.val opRem

/-- REMN (R68). -/
def execRemn (wd : Bool) (d a b : Sc) : State → Out :=
  alu2 (.remn wd d a b) wd d.val a.val b.val opRemn

/-- AND (R68). -/
def execAnd (wd : Bool) (d a b : Sc) : State → Out :=
  alu2 (.and wd d a b) wd d.val a.val b.val (fun _ x y => x &&& y)

/-- OR (R68). -/
def execOr (wd : Bool) (d a b : Sc) : State → Out :=
  alu2 (.or wd d a b) wd d.val a.val b.val (fun _ x y => x ||| y)

/-- XOR (R68). -/
def execXor (wd : Bool) (d a b : Sc) : State → Out :=
  alu2 (.xor wd d a b) wd d.val a.val b.val (fun _ x y => x ^^^ y)

/-- SHL (R68). -/
def execShl (wd : Bool) (d a b : Sc) : State → Out :=
  alu2 (.shl wd d a b) wd d.val a.val b.val opShl

/-- SHR (R68). -/
def execShr (wd : Bool) (d a b : Sc) : State → Out :=
  alu2 (.shr wd d a b) wd d.val a.val b.val opShr

/-- SAR (R68). -/
def execSar (wd : Bool) (d a b : Sc) : State → Out :=
  alu2 (.sar wd d a b) wd d.val a.val b.val opSar

/-- ROL (R68). -/
def execRol (wd : Bool) (d a b : Sc) : State → Out :=
  alu2 (.rol wd d a b) wd d.val a.val b.val opRol

/-- CLZ (R68). -/
def execClz (wd : Bool) (d a : Sc) : State → Out := alu1 (.clz wd d a) wd d.val a.val opClz

/-- CTZ (R68). -/
def execCtz (wd : Bool) (d a : Sc) : State → Out := alu1 (.ctz wd d a) wd d.val a.val opCtz

/-- POPC (R68). -/
def execPopc (wd : Bool) (d a : Sc) : State → Out := alu1 (.popc wd d a) wd d.val a.val opPopc

/-- ABS (R68). -/
def execAbs (wd : Bool) (d a : Sc) : State → Out := alu1 (.abs wd d a) wd d.val a.val opAbs

/-- MIN (R68). -/
def execMin (wd : Bool) (d a b : Sc) : State → Out :=
  alu2 (.min wd d a b) wd d.val a.val b.val opMin

/-- MINN (R68). -/
def execMinn (wd : Bool) (d a b : Sc) : State → Out :=
  alu2 (.minn wd d a b) wd d.val a.val b.val opMinn

/-- MAX (R68). -/
def execMax (wd : Bool) (d a b : Sc) : State → Out :=
  alu2 (.max wd d a b) wd d.val a.val b.val opMax

/-- MAXN (R68). -/
def execMaxn (wd : Bool) (d a b : Sc) : State → Out :=
  alu2 (.maxn wd d a b) wd d.val a.val b.val opMaxn

/-- SEQ (R68). -/
def execSeq (wd : Bool) (d a b : Sc) : State → Out :=
  alu2 (.seq wd d a b) wd d.val a.val b.val (fun n x y => opFlag n (x == y))

/-- SNE (R68). -/
def execSne (wd : Bool) (d a b : Sc) : State → Out :=
  alu2 (.sne wd d a b) wd d.val a.val b.val (fun n x y => opFlag n (x != y))

/-- SLT (R68). -/
def execSlt (wd : Bool) (d a b : Sc) : State → Out :=
  alu2 (.slt wd d a b) wd d.val a.val b.val (fun n x y => opFlag n (x.slt y))

/-- SLB (R68). -/
def execSlb (wd : Bool) (d a b : Sc) : State → Out :=
  alu2 (.slb wd d a b) wd d.val a.val b.val (fun n x y => opFlag n (x.ult y))

/-- SEL (R73): both sources are read. -/
def execSel (wd : Bool) (d : Sc) (c : Fin 16) (a b : Sc) : State → Out :=
  unit (.sel wd d c a b) (unitS [selCode c.val, a.val, b.val] d.val do
    let t ← readS (selCode c.val)
    let x ← readS a.val
    let y ← readS b.val
    let pick : Op2 := fun n x y => if (t.setWidth n) != 0 then x else y
    pure (sized2 wd pick x y))

/-! ## Immediate forms (R70, R71) -/

/-- ADDI (R70). -/
def execAddi (wd : Bool) (d a : Sc) (imm : BitVec 10) : State → Out :=
  aluI (.addi wd d a imm) wd d.val a.val (imm.signExtend 64) (fun _ x y => x + y)

/-- ANDI (R70). -/
def execAndi (wd : Bool) (d a : Sc) (imm : BitVec 10) : State → Out :=
  aluI (.andi wd d a imm) wd d.val a.val (imm.signExtend 64) (fun _ x y => x &&& y)

/-- ORI (R70). -/
def execOri (wd : Bool) (d a : Sc) (imm : BitVec 10) : State → Out :=
  aluI (.ori wd d a imm) wd d.val a.val (imm.signExtend 64) (fun _ x y => x ||| y)

/-- XORI (R70). -/
def execXori (wd : Bool) (d a : Sc) (imm : BitVec 10) : State → Out :=
  aluI (.xori wd d a imm) wd d.val a.val (imm.signExtend 64) (fun _ x y => x ^^^ y)

/-- SHLI (R71). -/
def execShli (wd : Bool) (d a : Sc) (n : Fin 64) : State → Out :=
  aluI (.shli wd d a n) wd d.val a.val (BitVec.ofNat 64 n.val) opShl

/-- SHRI (R71). -/
def execShri (wd : Bool) (d a : Sc) (n : Fin 64) : State → Out :=
  aluI (.shri wd d a n) wd d.val a.val (BitVec.ofNat 64 n.val) opShr

/-- SARI (R71). -/
def execSari (wd : Bool) (d a : Sc) (n : Fin 64) : State → Out :=
  aluI (.sari wd d a n) wd d.val a.val (BitVec.ofNat 64 n.val) opSar

/-! ## Moves and bit fields (R72, R74) -/

/-- MOVI (R72). -/
def execMovi (d : Sc) (imm : BitVec 18) : State → Out :=
  unit (.movi d imm) (unitS [] d.val (pure (imm.signExtend 64)))

/-- MOVHI (R72): d is read and written. -/
def execMovhi (d : Sc) (imm : BitVec 16) (k : Fin 4) : State → Out :=
  unit (.movhi d imm k) (unitS [d.val] d.val do
    let x ← readS d.val
    pure (insertBits x (imm.setWidth 64) (16 * k.val) 16))

/-- BFX (R74). -/
def execBfx (d a : Sc) (pos lm : Fin 64) : State → Out :=
  unit (.bfx d a pos lm) (unitS [a.val] d.val do
    let x ← readS a.val
    pure ((x >>> pos.val) &&& (BitVec.allOnes 64 >>> (63 - lm.val))))

/-- BFI (R74): a queue or direction named as d is not read, and the field goes into zero. -/
def execBfi (d a : Sc) (pos lm : Fin 64) : State → Out :=
  unit (.bfi d a pos lm) (unitS (if d.val < 32 then [d.val, a.val] else [a.val]) d.val do
    let x ← readS a.val
    let t ← if d.val < 32 then readS d.val else pure 0
    pure (insertBits t x pos.val (lm.val + 1)))

/-! ## Compact forms (R25, R69-R72) -/

/-- ADDI d, d, imm6 (R25). -/
def execAddiCompact (d : R5) (imm : BitVec 6) : State → Out :=
  aluI (.addiCompact d imm) false d.val d.val (imm.signExtend 64) (fun _ x y => x + y)

/-- MOVI d, imm6 (R25). -/
def execMoviCompact (d : R5) (imm : BitVec 6) : State → Out :=
  unit (.moviCompact d imm) (unitS [] d.val (pure (imm.signExtend 64)))

/-- SHLI d, d, n (R25). -/
def execShliCompact (d : R5) (n : Fin 64) : State → Out :=
  aluI (.shliCompact d n) false d.val d.val (BitVec.ofNat 64 n.val) opShl

/-- SHRI d, d, n (R25). -/
def execShriCompact (d : R5) (n : Fin 64) : State → Out :=
  aluI (.shriCompact d n) false d.val d.val (BitVec.ofNat 64 n.val) opShr

/-- SARI d, d, n (R25). -/
def execSariCompact (d : R5) (n : Fin 64) : State → Out :=
  aluI (.sariCompact d n) false d.val d.val (BitVec.ofNat 64 n.val) opSar

/-- ADD d, d, a (R25, R69). -/
def execAddCompact (d a : R5) : State → Out :=
  alu2 (.addCompact d a) false d.val d.val a.val (fun _ x y => x + y)

/-- SUB d, d, a (R25, R69). -/
def execSubCompact (d a : R5) : State → Out :=
  alu2 (.subCompact d a) false d.val d.val a.val (fun _ x y => x - y)

/-- AND d, d, a (R25, R69). -/
def execAndCompact (d a : R5) : State → Out :=
  alu2 (.andCompact d a) false d.val d.val a.val (fun _ x y => x &&& y)

/-- OR d, d, a (R25, R69). -/
def execOrCompact (d a : R5) : State → Out :=
  alu2 (.orCompact d a) false d.val d.val a.val (fun _ x y => x ||| y)

/-- XOR d, d, a (R25, R69). -/
def execXorCompact (d a : R5) : State → Out :=
  alu2 (.xorCompact d a) false d.val d.val a.val (fun _ x y => x ^^^ y)

/-- ADD d, a, g0: the register move (R25, R69). -/
def execAddMoveCompact (d a : R5) : State → Out :=
  alu2 (.addMoveCompact d a) false d.val a.val 24 (fun _ x y => x + y)

end Sys2Proof.Machine
end

