-- ==== Sys2Proof/Machine/Mask.lean ====
section
/-! DEFINITION. Mask instructions (06 R145). -/

namespace Sys2Proof.Machine

/-- A mask function of two masks. -/
def mask2 (i : Instr) (md ma mb : Mk) (f : BitVec 16 → BitVec 16 → BitVec 16) (s : State) : Out :=
  unit i (do
    let x ← readM ma
    let y ← readM mb
    writeM md (f x y)
    pure .seq) s

/-- A scalar of a mask. -/
def maskScalar (i : Instr) (d : Nat) (ma : Mk) (f : BitVec 16 → Nat) (s : State) : Out :=
  unit i (unitS [] d do
    let x ← readM ma
    pure (BitVec.ofNat 64 (f x))) s

/-- The number of one bits among the low n. -/
def countOnes (x : BitVec 16) : Nat → Nat
  | 0 => 0
  | n + 1 => (x.getLsbD n).toNat + countOnes x n

/-- The index of the least one bit, or 16. -/
def firstOne (x : BitVec 16) : Nat := ((List.range 16).find? x.getLsbD).getD 16

/-- MAND (R145). -/
def execMand (md ma mb : Mk) : State → Out := mask2 (.mand md ma mb) md ma mb fun x y => x &&& y
/-- MOR (R145). -/
def execMor (md ma mb : Mk) : State → Out := mask2 (.mor md ma mb) md ma mb fun x y => x ||| y
/-- MXOR (R145). -/
def execMxor (md ma mb : Mk) : State → Out := mask2 (.mxor md ma mb) md ma mb fun x y => x ^^^ y
/-- MNOT (R145). -/
def execMnot (md ma : Mk) : State → Out := mask2 (.mnot md ma) md ma ma fun x _ => ~~~x
/-- MANY (R145). -/
def execMany (d : Sc) (ma : Mk) : State → Out :=
  maskScalar (.many d ma) d.val ma fun x => (x != 0).toNat
/-- MALL (R145). -/
def execMall (d : Sc) (ma : Mk) : State → Out :=
  maskScalar (.mall d ma) d.val ma fun x => (x == 0xFFFF).toNat
/-- MPOP (R145). -/
def execMpop (d : Sc) (ma : Mk) : State → Out := maskScalar (.mpop d ma) d.val ma fun x => countOnes x 16
/-- MFIRST (R145). -/
def execMfirst (d : Sc) (ma : Mk) : State → Out := maskScalar (.mfirst d ma) d.val ma firstOne
/-- MFROM (R145). -/
def execMfrom (md : Mk) (a : Sc) : State → Out :=
  unit (.mfrom md a) (using_ { ss := [a.val] } do
    let x ← readS a.val
    writeM md (x.setWidth 16)
    pure .seq)
/-- MTO (R145). -/
def execMto (d : Sc) (ma : Mk) : State → Out := maskScalar (.mto d ma) d.val ma BitVec.toNat
/-- MSET (R145). -/
def execMset (md : Mk) (imm : BitVec 16) : State → Out :=
  unit (.mset md imm) do
    writeM md imm
    pure .seq

end Sys2Proof.Machine
end

