-- ==== Sys2Proof/Machine/Message.lean ====
section
/-! DEFINITION. Claims of mesh directions (05 R108, 12 R257) and the sending of messages (12 R254-R256, 15
R328). -/

namespace Sys2Proof.Machine

/-! ## Links (R108, R257) -/

/-- LINKC (R257). -/
def execLinkc (a : Fin 4) : State → Out :=
  unit (.linkc a) do
    let s ← get
    let d := a.val
    require (neighbour s.core d).isSome cILLEGAL (36 + d)
    match ((s.coreAt s.core).link d).claim with
    | none => modCore fun k => k.setLink d { k.link d with claim := some s.ctx }
    | some x => if x != s.ctx then wait sLINK
    pure .seq

/-- LINKF (R257): flits stay in the buffer. -/
def execLinkf (a : Fin 4) : State → Out :=
  unit (.linkf a) do
    let s ← get
    let d := a.val
    modCore fun k =>
      if (k.link d).claim == some s.ctx then k.setLink d { k.link d with claim := none } else k
    pure .seq

/-! ## Messages (R254, R255) -/

/-- The payload bytes that an outbox holds. -/
def Ctx.outBytes (q : Ctx) : Nat := q.outbox.foldl (fun n o => n + o.msg.body.length) 0

/-- A message enters the outbox; one that would overflow it first releases every held message and sets OC (R60). -/
def holdMessage (o : OutMsg) : M Unit := do
  let q ← me
  if 32 ≤ q.outbox.length || 8192 < q.outBytes + o.msg.body.length then
    modify fun s => s.releaseOutbox s.core s.ctx
    modMe fun q => { q with oc := true }
  modMe fun q => { q with outbox := q.outbox ++ [o] }

/-- A header value's reserved bits are zero (R254). -/
def headerOk (h : DWord) : Bool := fld h.toNat 18 14 == 0

/-- The payload that p names, raw: at most 256 bytes (R255). -/
def payload (p : Pr) : M (List Byte) := atOff p 0 do
  let q ← checkPerm p true false
  require (q.len ≤ 256) cILLEGAL q.len
  if q.len == 0 then pure [] else
  match ← access p 0 q.len 1 true false false with
  | none => pure (List.replicate q.len 0)
  | some k => readBytes k q.len

/-- The message of a header value, a destination and a payload (R255). -/
def placeMessage (dst : Nat) (tag hdr : Nat) (body : List Byte) (handler : Bool) : M Unit := do
  let s ← get
  let q ← me
  holdMessage
    { dst := BitVec.ofNat 22 dst, handler
      msg := { cls := BitVec.ofNat 8 (fld hdr 0 8), tag := BitVec.ofNat 32 tag, wuid := q.wuid
               prio := BitVec.ofNat 6 (fld hdr 8 6), sender := BitVec.ofNat 22 (s.ctxId s.core s.ctx)
               cap := BitVec.ofNat 32 (fld hdr 32 32), xf := BitVec.ofNat 4 (fld hdr 14 4), body
               slot := q.slot, part := q.part, launch := q.launch } }

/-- SEND, SENDV and SENDH: res0 is the mask of the destination value's reserved bits. -/
def sendUnit (i : Instr) (a b : Nat) (sv : List Nat) (res0 : Nat) (handler : Bool) (body : M (List Byte))
    (s : State) : Out :=
  unit i (using_ { ss := [a, b], sv := sv } do
    let dst := (← readS a).toNat
    let hdr ← readS b
    require (dst &&& res0 == 0 && headerOk hdr) cILLEGAL
    let bs ← body
    placeMessage (fld dst 0 22) (fld dst 32 32) hdr.toNat bs handler
    pure .seq) s

/-- SEND (R255). -/
def execSend (a b : Sc) (p : Pr) : State → Out :=
  sendUnit (.send a b p) a.val b.val [] 0xFFC00007 false (payload p)

/-- SENDV (R255). -/
def execSendv (a b : Sc) (v : Vc) : State → Out :=
  sendUnit (.sendv a b v) a.val b.val [v.val] 0xFFC00007 false do
    pure (bytesOf 64 (← readV v.val).toNat)

/-- REPLY (R255): the destination is the sender of the message that started the activation. -/
def execReply (b : Sc) (p : Pr) : State → Out :=
  unit (.reply b p) (using_ { ss := [b.val] } do
    let hdr ← readS b.val
    require (headerOk hdr) cILLEGAL
    let bs ← payload p
    let q ← me
    placeMessage (fld q.sender.toNat 3 19 * 8) q.routetag.toNat hdr.toNat bs false
    pure .seq)

/-- SENDH (R328): the destination is a handler core, found where the message is released. -/
def execSendh (a b : Sc) (p : Pr) : State → Out :=
  sendUnit (.sendh a b p) a.val b.val [] 0xFFC00787 true (payload p)

end Sys2Proof.Machine
end

