-- ==== Sys2Proof/Machine/Pointer.lean ====
section
/-! DEFINITION. Allocation (07 R170-R172, R192), TOUCH, ACQ and REL (R193, R194), FENCE (R195), the pointer
instructions (R196), and the request of a sift (15 R335). -/

namespace Sys2Proof.Machine

/-! ## Allocation -/

/-- A level's choice of place (R170). -/
inductive Level where
  | pad (i : Nat)
  | heap
  deriving DecidableEq, Repr

/-- The pads that an activation of a core may allocate in, nearest first (R170, R297). -/
def State.ownPads (s : State) (c part : Nat) (shared : Bool) : List Nat :=
  let die := match s.region (coreDie c) part with
    | some r => [r]
    | none => []
  ((if shared then [] else [c]) ++ [1024 + coreClu c] ++ die).filter fun i => (s.pad i).ownedBy part

/-- The level at which F bytes are allocated (R170). -/
def State.chooseLevel (s : State) (c part n : Nat) (shared : Bool) : Level :=
  match (s.ownPads c part shared).find? fun i => n ≤ (s.pad i).hi - (s.pad i).lo with
  | some i => .pad i
  | none => .heap

/-- A place for a footprint (R170, R171): PAD_FULL where there is none. -/
def placeObject (n len : Nat) (shared pin : Bool) : M Nat := do
  let s ← get
  let part := (← me).part.toNat
  let d := coreDie s.core
  let got ← if (s.dieAt d).st == 1 then
      -- a shuttered die's allocations go to the heap of the next die that is not (R313)
      match [1, 2, 3].find? fun i => (s.dieAt (d + i)).st != 1 with
      | some i => heapAlloc ((d + i) % 4) part n
      | none => pure none
    else match s.chooseLevel s.core part n shared with
    | .heap => heapAlloc d part n
    | .pad i =>
      if pin then
        let p := s.pad i
        if p.pinHi < p.pinBump + n then pure none
        else do
          modify fun s => s.setPad i { p with pinBump := p.pinBump + n }
          pure (some (padBase i + p.pinBump))
      else allocPad i n
  match got with
  | some g => pure g
  | none => trap cPADFULL len

/-- NEW and NEWP (R192). -/
def newUnit (i : Instr) (pd : Pr) (kind : Nat) (a : Nat) (perm : BitVec 5) (pin : Bool) (s : State) : Out :=
  unit i (using_ { ss := [a] } do
    require (kind != 8 || (← me).privileged) cPRIV
    require (!(perm.getLsbD 1 && perm.getLsbD 3)) cPERM
    let len := (← readS a).toNat
    require (len < 2 ^ 40) cPADFULL len
    let n := footprint len
    let g ← placeObject n len (perm.getLsbD 4) pin
    initObject g n (Header.fresh kind len)
    let (l, addr, home) := placeFields (g + 16)
    setPreg pd (mkPtr addr l 0 (perm.toNat + 32 * pin.toNat) kind len home)
    modMe fun q => { q with news := q.news ++ [g] }
    pure .seq) s

/-- NEW (R192). -/
def execNew (pd : Pr) (kind : Fin 16) (a : Sc) (perm : BitVec 5) : State → Out :=
  newUnit (.new pd kind a perm) pd kind.val a.val perm false
/-- NEWP (R192). -/
def execNewp (pd : Pr) (kind : Fin 16) (a : Sc) (perm : BitVec 5) : State → Out :=
  newUnit (.newp pd kind a perm) pd kind.val a.val perm true

/-- TOUCH (R193): a copy-up of an eligible object that fits without a sift, or nothing. -/
def execTouch (pa : Pr) : State → Out :=
  unit (.touch pa) do
    let p ← checkPerm pa false false
    atOff pa 0 do
      let s ← get
      let q := s.pad s.core
      let k := p.key (← me).part.toNat
      let (k', o) ← locateUp k
      match o with
      | none => pure ()
      | some (_, h) =>
        if k' == k && q.bump + footprint h.len ≤ q.hi then
          if ← eligible p h then discard (reach pa true)
    pure .seq

/-! ## Holding objects (R194) -/

/-- The checks of ACQ and REL; a discarded object has length zero (R61). -/
def checkShared (pa : Pr) : M PReg := do
  let p ← checkPerm pa false false
  let (_, o) ← locateUp (p.key (← me).part.toNat)
  let dead := match o with
    | some (_, h) => h.state == stDead
    | none => false
  require (p.sh && p.len != 0 && !dead) cPERM 0 (some pa)
  pure p

/-- ACQ (R194). -/
def execAcq (pa : Pr) (scope : Fin 8) : State → Out :=
  unit (.acq pa scope) do
    atOff pa 0 do
      afterRels
      if (← me).latch.isSome then pure () else
      let _ ← checkShared pa
      discard (waited (.acq pa))
    pure .seq

/-- REL (R194): the first waiter is granted in the same step. -/
def execRel (pa : Pr) (scope : Fin 8) : State → Out :=
  unit (.rel pa scope) do
    atOff pa 0 do
      afterAmos
      let p ← checkShared pa
      let s ← get
      let (_, o) ← locateUp (p.key (← me).part.toNat)
      match o with
      | none => trap cPERM 0 (some pa)
      | some (f, h) =>
        require (h.acq == acqId s.core s.ctx) cPERM 0 (some pa)
        putHeader f { h with acq := 0x1FFF, version := (h.version + 1) % 65536 } aR
        let same ← (← me).holds.filterM fun q => do
          let (_, o) ← locateUp (q.key (← me).part.toNat)
          match o with
          | some (g, _) => pure (g != f)
          | none => pure false
        modMe fun q => { q with holds := same }
        modify State.settled
    pure .seq

/-! ## FENCE (R195) -/

/-- A refill of a stream that a context has bound is under way. -/
def State.refilling (s : State) (c : Nat) (x : Fin 8) : Bool := s.pending.any fun e => match e.2 with
  | .strmRefill c' x' _ => c' == c && x' == x.val
  | _ => false

/-- Engine operations of an activation that are not performed (R380): jobs, stream refills, sub-byte writes and remote
matrix commands, with the done words that wait to be written. -/
def State.enginesOut (s : State) (c : Nat) (x : Fin 8) (act : Nat) : Bool :=
  !(s.jobsOf c act).isEmpty || s.refilling c x || !s.subs.isEmpty ||
    s.posts.any (fun b => 16384 ≤ b.src && b.src < 65536) ||
    s.reqs.any (fun r => r.actId == act && match r.load with
      | .matrix _ => true
      | _ => false) ||
    s.cores.any fun e => e.2.cmds.any fun m => m.actId == act

/-- FENCE (R195): it waits for the accesses of its predecessor set; units issue in order, so that what it holds
back is whatever comes after it. -/
def execFence (pred succ : BitVec 3) (scope : Fin 8) : State → Out :=
  unit (.fence pred succ scope) do
    let s ← get
    let q ← me
    if (pred.getLsbD 0 || pred.getLsbD 1) && s.amosOut q.actId then wait sFENCE
    if pred.getLsbD 1 && !(s.tracesOut q.actId).isEmpty then wait sFENCE
    if pred.getLsbD 2 && s.enginesOut s.core s.ctx q.actId then wait sFENCE
    pure .seq

/-! ## Pointer arithmetic (R196) -/

/-- A tagged source. -/
def tagged (pb : Pr) : M PReg := do
  let p ← preg pb
  require p.tag cPERM 0 (some pb)
  pure p

/-- A pointer moved forward by k bytes with a new length. -/
def PReg.step (p : PReg) (k len : Nat) : PReg := (p.setF 0 48 (p.addr + k)).setF 64 40 len

/-- PADD (R196). -/
def execPadd (pa pb : Pr) (s : Sc) : State → Out :=
  unit (.padd pa pb s) (using_ { ss := [s.val] } do
    let p ← tagged pb
    let k := (← readS s.val).toNat
    if p.len < k then recordRange pb k false 3
    setPreg pa (p.step (min k p.len) (p.len - k))
    pure .seq)

/-- PNARROW (R196). -/
def execPnarrow (pa pb : Pr) (s t : Sc) : State → Out :=
  unit (.pnarrow pa pb s t) (using_ { ss := [s.val, t.val] } do
    let p ← tagged pb
    let k := (← readS s.val).toNat
    let m := (← readS t.val).toNat
    if p.len < k + m then recordRange pb (k + m) false 3
    setPreg pa (p.step (min k p.len) (min m (p.len - k)))
    pure .seq)

/-- PVIEW (R196). -/
def execPview (pa pb : Pr) (view : Fin 8) : State → Out :=
  unit (.pview pa pb view) do
    let p ← tagged pb
    setPreg pa (p.setF 50 3 view.val)
    pure .seq

/-- PPERM (R196): R, W, XC and XW are each ANDed with the mask. -/
def execPperm (pa pb : Pr) (mask : BitVec 4) : State → Out :=
  unit (.pperm pa pb mask) do
    require (!(mask.getLsbD 1 && mask.getLsbD 3)) cPERM 0 (some pb)
    let p ← tagged pb
    setPreg pa (p.setF 53 4 (fld p.bits.toNat 53 4 &&& mask.toNat))
    pure .seq

/-- PLEN (R196). -/
def execPlen (s : Sc) (pb : Pr) : State → Out :=
  unit (.plen s pb) (unitS [] s.val do
    let p ← preg pb
    pure (if p.tag then BitVec.ofNat 64 p.len else 0))

/-- PCMP (R196). -/
def execPcmp (s : Sc) (pa pb : Pr) : State → Out :=
  unit (.pcmp s pa pb) (unitS [] s.val do
    let p ← preg pa
    let q ← preg pb
    let both := p.tag && q.tag
    pure (BitVec.ofNat 64 ((both && p.bits == q.bits).toNat +
      2 * (both && p.lvl == q.lvl && p.home == q.home && p.addr == q.addr).toNat +
      4 * p.tag.toNat + 8 * q.tag.toNat)))

/-- PMOV (R196). -/
def execPmov (pa pb : Pr) : State → Out :=
  unit (.pmov pa pb) do
    setPreg pa (← preg pb)
    pure .seq

/-! ## Requesting a sift (R335) -/

/-- The pad that SIFT's operand names, if there is one (R335): another partition's raises PRIV. -/
def siftTarget (a : Nat) : M (Option Nat) := do
  let v := (← readS a).toNat
  require (v < 3) cILLEGAL
  let s ← get
  let part := (← me).part.toNat
  if v == 2 then pure (s.region (coreDie s.core) part) else
  let i := if v == 0 then s.core else 1024 + coreClu s.core
  let o := (s.pad i).owner.toNat
  require (v == 0 || !bit o 4 || fld o 0 4 == part) cPRIV
  pure (some i)

/-- SIFT (R335): without a die region it does nothing. One that met a running sift has waited for its end, and starts
none. -/
def execSift (a : Sc) : State → Out :=
  unit (.sift a) (using_ { ss := [a.val] } do
    match ← siftTarget a.val with
    | none => pure ()
    | some i =>
      if (← get).siftRuns i then wait sSIFT
      if !(← me).metSift then
        siftPad i
        modify State.settled
    pure .seq)

/-- A context that a sift holds meets it with its next unit, where that is a SIFT of a pad that the sift runs in (R177,
R335). -/
def State.meetSift (s : State) (i : Instr) : State := match i with
  | .sift a => match siftTarget a.val s with
    | .ok (some p) _ => if s.siftRuns p then s.updCtx s.core s.ctx fun q => { q with metSift := true } else s
    | _ => s
  | _ => s

end Sys2Proof.Machine
end

