-- ==== Sys2Proof/Machine/Stream.lean ====
section
/-! DEFINITION. Streams (12 R270, R271): binding a vector register to a pattern, the strips that the half's copy
unit fetches ahead, and the end of a binding. -/

namespace Sys2Proof.Machine

/-- Elements per strip. -/
def Stream.per (b : Stream) : Nat := if tmEsz b.map == 4 then 8 else 16

/-- The format that a binding's elements are decoded from; 15 places them raw (R270). -/
def Stream.fmt (b : Stream) : Nat := paneFmt b.pane.toNat 15

/-- The element's index tuple, dimension 0 innermost, as an element number of the object. f counts elements. -/
def tmWalk (d : V512) : Nat → Nat → Nat → Int
  | 0, _, _ => 0
  | n + 1, k, f =>
    let e := max 1 (tmExt d k)
    (f % e : Nat) * tmStr d k + tmWalk d n (k + 1) (f / e)

/-- An element of a stream as its lane holds it (R270): raw, or decoded exactly to FP32, or kept as FP64. -/
def streamElem (o : Operand) (fmt : Nat) (e : Int) : M Nat := do
  if fmt == 15 || fmt == 8 || fmt == 9 then
    let c ← elemCode o none (tmEsz o.map) e
    pure (c.getD 0)
  else pure (round32 (← elemVal o none e)).1

/-- Strip number n of a binding. -/
def stripAt (o : Operand) (b : Stream) (n : Nat) : M V512 := do
  let per := b.per
  let total := tmElems b.map
  let xs ← (upTo per).mapM fun i => do
    let f := n * per + i
    if total ≤ f then pure 0 else streamElem o b.fmt (tmBase b.map + tmWalk b.map 6 0 f)
  pure (ofLanes (512 / per) xs)

/-- The next strip of a binding joins those fetched ahead, after the context's atomics (R271); a poisoned one waits for its
consumer (R233). -/
def refill (x : Nat) (b : Stream) : M Unit := do
  afterAmos
  let (k, dead) ← inPlace b.ptr
  let o : Operand := { reg := 0, ptr := b.ptr, at_ := k, dead, map := b.map, pane := b.pane.toNat, fmt := b.fmt }
  let n := b.popped + b.ahead.length
  let strip ← tryCatch (do pure (some (← stripAt o b n))) fun
    | .rollback _ _ => pure none
    | e => throw e
  modMe fun q => q.setStream x (some { b with ahead := b.ahead ++ [strip] })

/-- STREAM_REFILL (R271): up to four strips ahead. -/
def execStreamRefill (core : Fin 1024) (ctx : Fin 8) (x : Fin 8) (s : State) : Out :=
  let c := core.val
  match (s.ctxAt c ctx).strm[x] with
  | none => .next s
  | some b =>
    if 4 ≤ b.ahead.length || b.strips ≤ b.popped + b.ahead.length then .next s else
    let again := Due.strmRefill c ctx.val x.val
    match M.as c ctx (refill x.val b) s with
    | .ok _ t => .next (t.soon 1 again)
    | .error (.page k need _ _) _ =>
      .next ((s.enginePage c ctx k need).soon 64 again)
    | .error _ _ => .next (s.soon 8 again)

/-- STRM (R270): a bound register drops its unread strips. -/
def execStrm (x : Fin 8) (p : Pr) (tm : Tm) : State → Out :=
  unit (.strm x p tm) do
    let q ← checkPerm p true false
    let d ← readMap tm
    require (d != 0) cILLEGAL
    let pane ← paneOf q
    let fmt := paneFmt pane 15
    require (fmt == 15 || tmEsz d == fmtEsz fmt) cILLEGAL
    modMe fun c => c.setStream x.val (some { ptr := q, map := d, pane := BitVec.ofNat 64 pane })
    modify fun s => s.soon 4 (.strmRefill s.core s.ctx.val x.val)
    pure .seq

/-- STRMX (R271): the binding ends, and the register reads zero. -/
def execStrmx (x : Fin 8) : State → Out :=
  unit (.strmx x) do
    modMe fun c => (c.setStream x.val none).setV (24 + x.val) 0
    pure .seq

end Sys2Proof.Machine
end

