-- ==== Sys2Proof/Machine/Weight.lean ====
section
/-! DEFINITION. Weight-driven mode (08 R198-R226): the entry, the fetch of a block, the effects of the blocks slice
by slice, successors, and faults inside the mode. -/

namespace Sys2Proof.Machine

/-! ## Tensors and blocks -/

/-- CRC-32C of one byte more (R203). -/
def crcBit (c : BitVec 32) : Nat → BitVec 32
  | 0 => c
  | n + 1 => crcBit (if c.getLsbD 0 then (c >>> 1) ^^^ 0x82F63B78#32 else c >>> 1) n

/-- CRC-32C (R203). -/
def crc32c (bs : List Byte) : BitVec 32 :=
  (bs.foldl (fun c b => crcBit (c ^^^ b.setWidth 32) 8) 0xFFFFFFFF#32) ^^^ 0xFFFFFFFF#32

/-- A pointer that can be run (R220). -/
def PReg.runs (q : PReg) (s : State) : Bool := q.tag && !s.malformed q && q.xw && q.kind == 6

/-- n bytes of a tensor at body offset off, fetched for execution (R219, R306). -/
def fetchTensor (q : PReg) (off n : Nat) : M (List Byte) := do
  let (k, _) ← inPlace q
  readBytes (k + off) n aXW

/-- The running tensor's pointer, in a register that follows its object (R175): of a discarded object, with length zero
(R61). -/
def tensorPtr (r : Fin 16) : M PReg := do
  let (_, dead) ← inPlaceOf r
  let p ← preg r
  pure (if dead then p.setF 64 40 0 else p)

/-- nslot and the sixteen entries of a tensor's head; none where it is malformed (R198), or its object discarded (R61). -/
def tensorHead (q : PReg) : M (Option (Nat × List Nat)) := do
  if q.len < 80 then return none
  if (← inPlace q).2 then pure none else
  let bs ← fetchTensor q 0 80
  let n := fldAt bs 0 9
  if leAt bs 0 16 / 2 ^ 9 != 0 || 256 < n || q.len < 80 + 16 * n then pure none
  else pure (some (n, sixteen.map fun k => leAt bs (16 + 4 * k) 4))

/-- An offset lies in the block region (R198). -/
def inRegion (q : PReg) (nslot : Nat) (off : Nat) : Bool := 80 + 16 * nslot ≤ off && off < q.len

/-- A near successor's header may stand at an offset (R215). -/
def inBlocks (q : PReg) (nslot : Nat) (off : Int) : Bool := 80 + 16 * nslot ≤ off && off + 16 ≤ q.len

/-- Fields of a block header (R200). -/
def blkBop (b : List Byte) : Nat := leAt b 0 1
/-- fmt. -/
def blkFmt (b : List Byte) : Nat := leAt b 1 1
/-- rows, as it stands. -/
def blkRows0 (b : List Byte) : Nat := leAt b 2 1
/-- The number of rows, strips or links: 0 means 256 for bops 1 to 6. -/
def blkRows (b : List Byte) : Nat :=
  if blkRows0 b == 0 && 1 ≤ blkBop b && blkBop b ≤ 6 then 256 else blkRows0 b
/-- in. -/
def blkIn (b : List Byte) : Nat := leAt b 3 1
/-- out. -/
def blkOut (b : List Byte) : Nat := leAt b 4 1
/-- acc. -/
def blkAcc (b : List Byte) : Nat := leAt b 5 1
/-- The Y tile. -/
def blkY (b : List Byte) : Nat := fld (blkAcc b) 0 2
/-- The X tile. -/
def blkX (b : List Byte) : Nat := fld (blkAcc b) 2 2
/-- XY. -/
def blkXY (b : List Byte) : Bool := bit (blkAcc b) 4
/-- plen. -/
def blkPlen (b : List Byte) : Nat := leAt b 6 2
/-- link. -/
def blkLink (b : List Byte) : Nat := leAt b 8 4
/-- The payload. -/
def blkPayload (b : List Byte) : List Byte := b.drop 16

/-- Bytes of a column block (R205). -/
def colBytes (ty : Nat) : Nat := match ty with
  | 9 => 128
  | 10 => 64
  | 11 => 64
  | 12 => 32
  | 13 => 24
  | _ => 16

/-- Column blocks in a row. -/
def blkCols (b : List Byte) : Nat := fld (blkFmt b) 5 3 + 1

/-- The bytes of the present map (R206). -/
def mapBytes (b : List Byte) : Nat :=
  if bit (blkFmt b) 4 then 16 * ((blkRows b * blkCols b + 127) / 128) else 0

/-- Column block i is present (R206). -/
def present (b : List Byte) (i : Nat) : Bool :=
  !bit (blkFmt b) 4 || bit ((blkPayload b).getD (i / 8) 0).toNat (i % 8)

/-- Present column blocks among the first n. -/
def presentBelow (b : List Byte) (n : Nat) : Nat := ((upTo n).filter (present b)).length

/-- The offset of the Q4 scales in the payload (R206). -/
def scaleStart (b : List Byte) : Nat :=
  mapBytes b + colBytes (blkFmt b % 16) * presentBelow b (blkRows b * blkCols b)

/-- The payload's length that R206 gives. -/
def payloadBytes (b : List Byte) : Nat :=
  let q := if blkFmt b % 16 == 14 then presentBelow b (blkRows b * blkCols b) else 0
  16 * ((scaleStart b + q + 15) / 16)

/-- A route field that names a route of n strips (R201). -/
def routeOk (r n : Nat) : Bool :=
  let v := r % 64
  r / 64 == 2 && ((v < 8 && v + n ≤ 8) || (32 ≤ v && v < 40))

/-- Element size of a bias or a scale (R202). -/
def rowBytes (ty : Nat) : Nat := if ty == 9 then 4 else if ty == 12 then 1 else 2

/-- A header that keeps R200 to R206 and R213. -/
def blkOk (b : List Byte) : Bool :=
  let f := blkFmt b % 16
  let n := blkRows b
  let noRoute := blkIn b == 0 && blkOut b == 0
  let link := blkLink b
  blkAcc b < 32 && blkPlen b ≤ 2048 && (!bit link 31 || fld link 8 23 == 0) &&
  match blkBop b with
  | 1 | 2 => 9 ≤ f && f ≤ 14 && noRoute && !blkXY b && blkX b != blkY b && 16 * blkPlen b == payloadBytes b
  | 3 | 4 => 9 ≤ f && f ≤ 12 && blkFmt b < 16 && noRoute && blkX b == 0 && !blkXY b &&
      blkPlen b == (n * rowBytes f + 15) / 16
  | 5 => blkPlen b == 0 && blkFmt b < 4 && noRoute && (if blkXY b then blkX b != blkY b else blkX b == 0)
  | 6 => blkPlen b == 0 && 9 ≤ f && f ≤ 11 && blkFmt b < 16 && blkIn b == 0 && blkX b == 0 && !blkXY b &&
      routeOk (blkOut b) ((n + 15) / 16)
  | 7 => blkPlen b == 0 && blkFmt b == 0 && noRoute && blkAcc b == 0 && n != 0
  | 9 => blkPlen b == 0 && 9 ≤ f && f ≤ 11 && blkFmt b < 16 && 1 ≤ n && n ≤ 16 && blkOut b == 0 &&
      blkY b == 0 && !blkXY b && routeOk (blkIn b) n
  | 8 => blkPlen b == 0 && blkFmt b == 0 && n == 0 && noRoute && blkAcc b == 0 && link == 0
  | _ => blkPlen b == 0 && blkFmt b == 0 && n == 0 && noRoute && blkAcc b == 0

/-- The slices of a block (R209). -/
def blkSlices (b : List Byte) : Nat :=
  if blkBop b == 9 then blkRows b
  else if 1 ≤ blkBop b && blkBop b ≤ 6 then (blkRows b + 15) / 16 else 0

/-! ## Run state (R209, R222) -/

/-- WB.blk. -/
def Ctx.wdBlk (q : Ctx) : Nat := fld q.wb.toNat 0 40
/-- WB.preg. -/
def Ctx.wdPreg (q : Ctx) : Fin 16 := Fin.ofNat 16 (fld q.wb.toNat 40 4)
/-- WB.org. -/
def Ctx.wdOrg (q : Ctx) : Nat := fld q.wb.toNat 48 15
/-- WB.RV. -/
def Ctx.wdRV (q : Ctx) : Bool := bit q.wb.toNat 63
/-- WP.slice. -/
def Ctx.wdSlice (q : Ctx) : Nat := fld q.wp.toNat 0 5
/-- WP.rc. -/
def Ctx.wdRC (q : Ctx) : Nat := fld q.wp.toNat 24 9

/-- WB with its blk replaced. -/
def Ctx.setBlk (q : Ctx) (v : Nat) : Ctx := { q with wb := BitVec.ofNat 64 (setFld q.wb.toNat 0 40 v) }
/-- WP with its slice replaced. -/
def Ctx.setSlice (q : Ctx) (v : Nat) : Ctx := { q with wp := BitVec.ofNat 64 (setFld q.wp.toNat 0 5 v) }
/-- WP with its row cursor replaced. -/
def Ctx.setRC (q : Ctx) (v : Nat) : Ctx := { q with wp := BitVec.ofNat 64 (setFld q.wp.toNat 24 9 v) }

/-- TRAPVAL of a fault in the mode (R223). -/
def wdVal (slice reason route fslot : Nat) : Nat :=
  slice % 32 + reason * 2 ^ 8 + route % 64 * 2 ^ 12 + fslot % 256 * 2 ^ 18

/-- A fault of the current block. -/
def wdTrap {α : Type} (cause reason : Nat) (route fslot : Nat := 0) : M α := do
  trap cause (wdVal (← me).wdSlice reason route fslot)

/-- The weight buffer is this context's, or it waits (R218). -/
def takeBuffer : M Unit := do
  let s ← get
  match (s.coreAt s.core).wbuf with
  | some x => if x != s.ctx then wait sMATRIX
  | none => modCore fun k => { k with wbuf := some s.ctx }

/-- The buffer is released. -/
def State.dropBuffer (s : State) (c : Nat) (x : Fin 8) : State :=
  s.updCore c fun k => { k with wbuf := if k.wbuf == some x then none else k.wbuf }

/-! ## WDRUN, WDRES, WDQ (R220-R222) -/

/-- The entry of WDRUN, up to its first block. The tensor is read after the context's earlier accesses (R219). -/
def wdEnter (i : Instr) (p : Pr) (slot : Fin 16) : M Flow := do
  let s ← get
  require (s.ctx != 7) cILLEGAL
  let q ← preg p
  require (q.runs s) cPERM (wdVal (← me).wdSlice 0 0 0) (some p)
  takeBuffer
  afterAmos
  let q ← atOff p 0 (tensorPtr p)
  match ← atOff p 0 (tensorHead q) with
  | none => wdTrap cWDBLOCK 2
  | some (n, es) =>
    let e := es.getD slot.val 0
    if e == 0 || !inRegion q n (16 * e) then wdTrap cWDLINK 3
    modMe fun x =>
      { x with
        wb := BitVec.ofNat 64 (16 * e + p.val * 2 ^ 40 + x.pc.toNat / 2 * 2 ^ 48 + 2 ^ 63)
        wp := 0
        wdNblk := 0
        run := .weights none none
        blocked := none
        latch := none
        sig := sigAfter i x.pc.toNat x.sig }
    modify fun s => s.updCore s.core fun k => { k with last := s.ctx }
    pure .gone

/-- The reason that WDQ records for a fault of WDRUN before its first block (R220). -/
def wdEntryFault : Stop → Option Nat
  | .trap cause val _ _ =>
    if cause == cPERM || cause == cWDBLOCK || cause == cWDLINK then some (fld val 8 4) else none
  | _ => none

/-- WDRUN (R220). WDQ gets a fault that it raises, and no other. -/
def execWdrun (p : Pr) (slot : Fin 16) (s : State) : Out :=
  let i : Instr := .wdrun p slot
  let q := s.ctxAt s.core s.ctx
  let t := runUnit i (wdEnter i p slot) s
  match wdEnter i p slot (s.dropSifts s.core s.ctx) with
  | .ok _ _ => .next t
  | .error e _ =>
    match wdEntryFault e with
    | some r =>
      if q.windowOk && q.accepts i && !s.acqWaits s.core s.ctx && !s.spent then .next (t.updCtx s.core s.ctx fun q =>
        { q with wdEnd := 2, wdReason := BitVec.ofNat 4 r, wdNblk := 0 })
      else .next t
    | none => .next t

/-- WDRES (R221): the run continues with its block read again. -/
def execWdres (s : State) : Out :=
  unit .wdres (do
    let q ← me
    require (q.wdRV && !q.saving) cILLEGAL
    let p ← preg q.wdPreg
    require (p.runs (← get)) cPERM (wdVal q.wdSlice 0 0 0) (some q.wdPreg)
    takeBuffer
    modMe fun q =>
      let q := if q.ts then { q with mode := q.savedMode, ts := false, sig := 0 }
        else { q with sig := sigAfter .wdres q.pc.toNat q.sig }
      { q with sv := false, pc := BitVec.ofNat 64 (2 * q.wdOrg), run := .weights none none
               blocked := none, latch := none }
    modify fun s => s.updCore s.core fun k => { k with last := s.ctx }
    pure .gone) s

/-- WDQ (R222). -/
def execWdq (r : Sc) : State → Out :=
  unit (.wdq r) (unitS [] r.val do
    let q ← me
    pure (BitVec.ofNat 64 (q.wdRV.toNat + q.wdEnd.toNat * 2 + q.wdBop.toNat * 2 ^ 8 +
      q.wdReason.toNat * 2 ^ 16 + q.wdNblk.toNat * 2 ^ 32)))

/-! ## Events of the mode -/

/-- The context named by an event becomes the one that acts. -/
def State.asCtx (s : State) (c : Nat) (x : Fin 8) : State := { s with core := c, ctx := x }

/-- How a fault leaves the mode (R223): WDQ's record, the buffer released, the trap at the WDRUN; PAGE suspends
(R224), an uncorrectable error rolls back. What the slice met of errors is recorded (R234, R235). -/
def State.wdStopped (s : State) (c : Nat) (x : Fin 8) (e : Stop) (t : State) : State :=
  let q := s.ctxAt c x
  let noted := fun (cause val : Nat) =>
    (s.dropBuffer c x).updCtx c x fun q =>
      { q with
        wdEnd := 2
        wdReason := if cause == cWDBLOCK || cause == cWDLINK then BitVec.ofNat 4 (fld val 8 4) else q.wdReason }
  match e with
  | .wait id => (s.asCtx c x).stall id
  | .trap cause val ptr _ => ((noted cause val).keepMet t).trap c x cause val ptr
  | .page k need _ _ =>
    let s := (noted cPAGE 0).takePage c x k need (wdVal q.wdSlice 0 0 0) none
    s.updCtx c x fun q => match q.run with
      | .paged va _ => { q with run := .paged va true }
      | _ => q
  | .rollback cause val => (s.keepLogs c t).rollback c x cause q.pc.toNat val
  | _ => s

/-- An event of a context in the mode: its work, for a context whose buffer is as asked. -/
def State.wdEvent (s : State) (c : Nat) (x : Fin 8) (bop : Option Nat) (body : List Byte → M Unit) : State :=
  match (s.ctxAt c x).run with
  | .weights img _ =>
    if img.map blkBop == bop then
      match M.filled (body (img.getD [])) (s.asCtx c x) with
      | .ok _ t => (t.updCtx c x fun q => { q with blocked := none }).settled
      | .error e t => s.wdStopped c x e t
    else s
  | _ => s

/-- The image in the buffer changes; no strip waits. -/
def setImage (img : Option (List Byte)) : M Unit := modMe fun q => { q with run := .weights img none }

/-- The image of a block as it is written to the weight buffer: an injection armed on 16 bytes of it acts. An error that
the parity finds is recorded, and the block is read once more, which no injection meets: what disturbs it is the next of
upsets, and a second failure raises ECC (R233, log 18). A silent flip stands in the image (R235), whose CRC is formed from
the buffer (log 40). -/
def loadImage (b : List Byte) : M (List Byte) := do
  let s ← get
  match s.armed s.core 8 with
  | none => pure b
  | some v =>
    let a := fld v 8 20
    if b.length ≤ 16 * a then return b
    set (s.disarm s.core)
    if bit v 34 then
      pure (b.take (16 * a) ++ bytesOf 16 (leAt b (16 * a) 16 ^^^ flipMask v 128) ++ b.drop (16 * a + 16))
    else
      let again := (← get).upsets.headD .none
      modify fun s => { s.logError s.core 8 true a (s.ctxId s.core s.ctx) with upsets := s.upsets.drop 1 }
      if again == .lost then
        modify fun s => s.logError s.core 8 true a (s.ctxId s.core s.ctx)
        throw (.rollback cECC 8)
      pure b

/-- A block is read into the buffer and checked (R218, R219, R223). Of several reasons for WD_BLOCK it takes the first of
3, 0, 1, 2, 5 and 4 (log 39). -/
def fetchBlock : M Unit := do
  takeBuffer
  let q ← me
  if !(← preg q.wdPreg).runs (← get) then wdTrap cPERM 0
  afterAmos
  let p ← tensorPtr q.wdPreg
  let off := q.wdBlk
  if p.len < off + 16 then wdTrap cWDBLOCK 3
  let h ← fetchTensor p off 16
  modMe fun q => { q with wdBop := BitVec.ofNat 8 (blkBop h) }
  if p.len < off + 16 + 16 * blkPlen h then wdTrap cWDBLOCK 3
  let b ← loadImage (h ++ (← fetchTensor p (off + 16) (16 * blkPlen h)))
  if (crc32c (b.take 12 ++ blkPayload b)).toNat != leAt b 12 4 then wdTrap cWDBLOCK 0
  if 9 < blkBop b then wdTrap cWDBLOCK 1
  if !blkOk b then wdTrap cWDBLOCK 2
  if (blkBop b == 1 || blkBop b == 2) && q.wdSlice == 0 && 256 < q.wdRC + blkRows b then wdTrap cWDBLOCK 5
  let route := (if blkBop b == 9 then blkIn b else blkOut b) % 64
  let k ← myCore
  let s ← get
  if 36 ≤ route && (k.link (route - 36)).claim != some s.ctx then wdTrap cWDBLOCK 4
  setImage (some b)

/-- WEIGHT_BLOCK_FETCH (R218, R219): the block that the fault of a fetch names has been started (R222). -/
def execWeightBlockFetch (core : Fin 1024) (ctx : Fin 8) (s : State) : Out :=
  let t := s.wdEvent core.val ctx none fun _ => fetchBlock
  match (s.ctxAt core.val ctx).run with
  | .weights none _ =>
    match M.filled fetchBlock (s.asCtx core.val ctx) with
    | .error (.trap _ _ _ _) u => .next (t.updCtx core.val ctx fun q =>
        { q with wdBop := (u.ctxAt core.val ctx).wdBop })
    | _ => .next t
  | _ => .next t

/-! ## Successors (R215, R216) -/

/-- The link of a block whose header ends at offset end_ is taken. A running tensor whose own head has become malformed
raises WD_LINK, with reason 0 for a near link and 1 for a far one (log 39). DESIGN CHOICE: the object of a far link's
pointer does not escape, as one that PLD loads does (R298): R215 names no escape (log 39). -/
def takeLink (link end_ : Nat) : M Unit := do
  let q ← me
  let p ← tensorPtr q.wdPreg
  if !bit link 31 then
    let t : Int := end_ + 16 * signedOf 31 link
    match ← tensorHead p with
    | none => wdTrap cWDLINK 0
    | some (n, _) =>
      if !inBlocks p n t then wdTrap cWDLINK 0
      modMe fun q => q.setBlk t.toNat
  else
    let j := fld link 0 8
    match ← tensorHead p with
    | none => wdTrap cWDLINK 1 0 j
    | some (n, _) =>
      if n ≤ j then wdTrap cWDLINK 1 0 j
      let (k, _) ← inPlace p
      let a := k + 80 + 16 * j
      let bs ← readBytes a 16 aXW
      let g ← phys a aXW
      let t : PReg := { bits := BitVec.ofNat 128 (natOf bs), tag := (← get).mem.isTagged g }
      if !t.tag then wdTrap cWDLINK 2 0 j
      if !t.runs (← get) then wdTrap cPERM 0 0 j
      match ← tensorHead t with
      | none => wdTrap cWDLINK 3 0 j
      | some (n, es) =>
        let e := es.headD 0
        if e == 0 || !inRegion t n (16 * e) then wdTrap cWDLINK 3 0 j
        setPreg q.wdPreg t
        modMe fun q => q.setBlk (16 * e)

/-- A block has completed: its successor is chosen (R215, R222). -/
def successor (b : List Byte) (link : Nat) : M Unit := do
  takeLink link ((← me).wdBlk + 16 + 16 * blkPlen b)
  modMe fun q =>
    { q.setSlice 0 with wdNblk := if q.wdNblk == 0xFFFFFFFF#32 then q.wdNblk else q.wdNblk + 1 }
  setImage none

/-- One slice of a block with rows or strips, then its successor after the last. -/
def slices (b : List Byte) (tiles : List Nat) (work : Nat → M Unit) (after : M Unit) : M Unit := do
  let n := (← me).wdSlice
  if n < blkSlices b then
    takeTiles tiles
    work n
    modMe fun q => q.setSlice (n + 1)
    setImage (some b)
    if n + 1 == blkSlices b then after
  -- the successor's own check ends a slice of its own (R229)
  else successor b (blkLink b)

/-- The rows of slice n. -/
def sliceRows (b : List Byte) (n : Nat) : List Nat := (upTo (min 16 (blkRows b - 16 * n))).map (16 * n + ·)

/-! ## Block effects (R211-R217) -/

/-- The pane scale of R207. -/
def weightScale : M Int := do
  let q ← me
  let pane ← paneOf (← preg q.wdPreg)
  pure (signedOf 7 (fld pane 8 7))

/-- Element j of the column block at a payload offset (R205, R207). -/
def weightElem (ty : Nat) (pay : List Byte) (off j : Nat) (sc : Int) (q4 : Nat) : FVal :=
  if ty == 14 then
    if q4 == 255 then .nan false
    else (decodeQ4 (fld (leAt pay (off + j / 2) 1) (4 * (j % 2)) 4)).scale ((q4 : Int) - 127)
  else if ty == 13 then (decodeT6 (fld (leAt pay off 24) (6 * j) 6)).scale sc
  else if ty == 12 then (decodeT8 (leAt pay (off + j) 1)).scale sc
  else decodeVal ty (leAt pay (off + colBytes ty / 32 * j) (colBytes ty / 32))

/-- Row r of the weights (R205, R206). -/
def weightRow (b : List Byte) (sc : Int) (r : Nat) : List FVal :=
  let ty := blkFmt b % 16
  let nb := blkCols b
  let pay := blkPayload b
  (upTo nb).flatMap fun g =>
    let i := r * nb + g
    if present b i then
      let rank := presentBelow b i
      let q4 := if ty == 14 then leAt pay (scaleStart b + rank) 1 else 0
      (upTo 32).map fun j => weightElem ty pay (mapBytes b + colBytes ty * rank) j sc q4
    else List.replicate 32 (.fin false 0 0)

/-- One slice of BMV or BMVZ (R211): all its rows are computed, then written. -/
def bmvSlice (b : List Byte) (zero : Bool) (n : Nat) : M Unit := do
  let sc ← weightScale
  let xs ← (upTo (32 * blkCols b)).mapM fun k => do pure (decodeVal 9 (← readCell (blkX b) k))
  let xg := groups8 (4 * blkCols b) xs
  let rc := (← me).wdRC
  let ys ← (sliceRows b n).mapM fun r => do
    let old ← if zero then pure 0 else readCell (blkY b) (rc + r)
    let ws := groups8 (4 * blkCols b) (weightRow b sc r)
    let (v, f) := (ws.zip xg).foldl (fun (v, f) (w, x) =>
      let (c, g) := addGroup false v w x
      (c, f ||| g)) (old, (0 : Flags))
    raise f
    pure (rc + r, v)
  ys.forM fun (y, v) => updateCell (blkY b) y v
  modTile (blkY b) fun t => { t with cv := false }

/-- The row cursor after the last slice of a product. -/
def advanceRC (b : List Byte) : M Unit := modMe fun q => q.setRC (q.wdRC + blkRows b)

/-- BMV (R211). -/
def execBmv (core : Fin 1024) (ctx : Fin 8) (s : State) : Out :=
  .next (s.wdEvent core.val ctx (some 1) fun b => slices b [blkX b, blkY b] (bmvSlice b false) (advanceRC b))

/-- BMVZ (R211). -/
def execBmvz (core : Fin 1024) (ctx : Fin 8) (s : State) : Out :=
  .next (s.wdEvent core.val ctx (some 2) fun b => slices b [blkX b, blkY b] (bmvSlice b true) (advanceRC b))

/-- One slice of BBIAS or BSCALE (R212). -/
def rowSlice (b : List Byte) (f : FVal → FVal → FVal × Flags) (n : Nat) : M Unit := do
  let sc ← weightScale
  let ty := blkFmt b % 16
  let sz := rowBytes ty
  (sliceRows b n).forM fun i => do
    let v := (decodeVal ty (leAt (blkPayload b) (i * sz) sz)).scale (if ty == 12 then sc else 0)
    let (r, g) := f (decodeVal 9 (← readCell (blkY b) i)) v
    let (c, h) := round32 r
    raise (g ||| h)
    writeCell (blkY b) i c
  modTile (blkY b) fun t => { t with cv := false }

/-- BBIAS (R212). -/
def execBbias (core : Fin 1024) (ctx : Fin 8) (s : State) : Out :=
  .next (s.wdEvent core.val ctx (some 3) fun b => slices b [blkY b] (rowSlice b (FVal.add false)) (pure ()))

/-- BSCALE (R212). -/
def execBscale (core : Fin 1024) (ctx : Fin 8) (s : State) : Out :=
  .next (s.wdEvent core.val ctx (some 4) fun b => slices b [blkY b] (rowSlice b FVal.mul) (pure ()))

/-- BACT's function of an FP32 code (R213). -/
def activation (f c : Nat) : Nat :=
  if fld c 23 8 == 255 && fld c 0 23 != 0 then canonNaN 9
  else if f == 1 || f == 2 then
    if bit c 31 then 0 else if f == 2 && 0x40C00000 < c then 0x40C00000 else c
  else if f == 3 && 0x3F800000 < fld c 0 31 then fld c 31 1 * 2 ^ 31 + 0x3F800000
  else c

/-- One slice of BACT (R213). -/
def actSlice (b : List Byte) (n : Nat) : M Unit := do
  (sliceRows b n).forM fun i => do
    let v := activation (blkFmt b % 16) (← readCell (blkY b) i)
    writeCell (blkY b) i v
    if blkXY b then writeCell (blkX b) i v
  modTile (blkY b) fun t => { t with cv := false }
  if blkXY b then modTile (blkX b) fun t => { t with cv := false }

/-- BACT (R213). -/
def execBact (core : Fin 1024) (ctx : Fin 8) (s : State) : Out :=
  .next (s.wdEvent core.val ctx (some 5) fun b =>
    slices b (if blkXY b then [blkX b, blkY b] else [blkY b]) (actSlice b) do
      if blkXY b then
        ((upTo 256).filter (blkRows b ≤ ·)).forM fun i => writeCell (blkX b) i 0
      modMe fun q => q.setRC 0)

/-- A strip goes out on a route: a v register, a queue or a direction (R201, R214). -/
def routeOut (r n : Nat) (v : V512) : M Unit := do
  if r < 8 then putVec (r + n) v
  else
    roomV r
    writeV r v

/-- One strip of BSEND (R214). -/
def sendSlice (b : List Byte) (n : Nat) : M Unit := do
  let ty := blkFmt b % 16
  let xs ← (upTo 16).mapM fun l => do
    let i := 16 * n + l
    if blkRows b ≤ i then pure 0 else
    let c ← readCell (blkY b) i
    if ty == 9 then pure c else
    let (d, f) := roundVal ty .rne 0 (decodeVal 9 c)
    raise f
    pure d
  routeOut (blkOut b % 64) n (ofLanes 32 xs)

/-- BSEND (R214). -/
def execBsend (core : Fin 1024) (ctx : Fin 8) (s : State) : Out :=
  .next (s.wdEvent core.val ctx (some 6) fun b =>
    slices b [blkY b] (sendSlice b) (modMe fun q => q.setRC 0))

/-- BNOP (R217). -/
def execBnop (core : Fin 1024) (ctx : Fin 8) (s : State) : Out :=
  .next (s.wdEvent core.val ctx (some 0) fun b => successor b (blkLink b))

/-- BLINK (R216). -/
def linkBlock (b : List Byte) : M Unit := do
  let q ← me
  let la := bit q.wp.toNat 17
  let lc := if la then fld q.wp.toNat 8 9 else blkRows b
  let put := fun (lc la : Nat) => modMe fun q =>
    { q with wp := BitVec.ofNat 64 (setFld (setFld q.wp.toNat 8 9 lc) 17 1 la) }
  if 0 < lc then
    put (lc - 1) 1
    successor b (blkLink b)
  else
    put 0 0
    successor b 0

/-- BLINK (R216). -/
def execBlink (core : Fin 1024) (ctx : Fin 8) (s : State) : Out :=
  .next (s.wdEvent core.val ctx (some 7) linkBlock)

/-- The end of the mode (R217, R222). DESIGN CHOICE: the context continues at the place that R217 names, also where the
WDRUN ends the body of a hardware loop: the end of the mode is no sequential advance of R81 (log 39). -/
def endMode : M Unit := do
  modMe fun q =>
    { q with
      wb := BitVec.ofNat 64 (setFld q.wb.toNat 63 1 0)
      wdEnd := 1
      wdNblk := if q.wdNblk == 0xFFFFFFFF#32 then q.wdNblk else q.wdNblk + 1
      run := .live
      pc := BitVec.ofNat 64 (2 * q.wdOrg + 4) }
  modify fun s => s.dropBuffer s.core s.ctx

/-- BEND (R217). -/
def execBend (core : Fin 1024) (ctx : Fin 8) (s : State) : Out :=
  .next (s.wdEvent core.val ctx (some 8) fun _ => endMode)

/-- The ck that a strip may wait (R223). -/
def Ctx.stripBudget (q : Ctx) : Nat := 8 * q.spins + q.parkCk

/-- One strip of BWAIT (R214). -/
def waitSlice (b : List Byte) (n : Nat) : M Unit := do
  let r := blkIn b % 64
  let v ← if r < 8 then takeVec (r + n) else do
    readyV r
    tryCatch (readV r) fun
      | .trap cause _ ptr f => do throw (.trap cause (wdVal (← me).wdSlice 0 r 0) ptr f)
      | e => throw e
  if 8 ≤ r then popAll { sv := [r] }
  let ty := blkFmt b % 16
  (upTo 16).forM fun l =>
    let c := laneOf v 32 l
    writeCell (blkX b) (16 * n + l) (if ty == 9 then c else (round32 (decodeVal ty c)).1)
  modTile (blkX b) fun t => { t with cv := false }

/-- A strip that finds its route empty begins to wait (R223). -/
def State.stripWaits (s : State) (c : Nat) (x : Fin 8) : State :=
  let q := s.ctxAt c x
  match q.run, q.blocked with
  | .weights img none, some id =>
    if id != sQEMPTY && id != sLINK then s else
    (s.updCtx c x fun q => { q with run := .weights img (some s.ck) }).later (q.stripBudget + 1)
      (.waitExpiry c x.val)
  | _, _ => s

/-- BWAIT (R214). -/
def execBwait (core : Fin 1024) (ctx : Fin 8) (s : State) : Out :=
  let t := s.wdEvent core.val ctx (some 9) fun b => slices b [blkX b] (waitSlice b) (pure ())
  match (s.ctxAt core.val ctx).run with
  | .weights (some b) _ => .next (if blkBop b == 9 then t.stripWaits core.val ctx else t)
  | _ => .next t

/-- BWAIT_BUDGET_EXPIRY (R223): the strip has waited longer than its budget. -/
def execBwaitBudgetExpiry (core : Fin 1024) (ctx : Fin 8) (s : State) : Out :=
  let q := s.ctxAt core.val ctx
  match q.run with
  | .weights (some b) (some t) =>
    if blkBop b != 9 then .next s
    else if q.stripBudget < s.ck - t then
      .next (s.wdStopped core.val ctx (.trap cFEBUDGET (wdVal q.wdSlice 0 (blkIn b % 64) 0) none none) s)
    else .next (s.soon (t + q.stripBudget + 1 - s.ck) (.waitExpiry core.val ctx.val))
  | _ => .next s

/-- What a context in the mode does next. -/
def State.wdTurn (s : State) (c : Fin 1024) (x : Fin 8) : Out :=
  match (s.ctxAt c.val x).run with
  | .weights none _ => execWeightBlockFetch c x s
  | .weights (some b) _ =>
    match blkBop b with
    | 0 => execBnop c x s
    | 1 => execBmv c x s
    | 2 => execBmvz c x s
    | 3 => execBbias c x s
    | 4 => execBscale c x s
    | 5 => execBact c x s
    | 6 => execBsend c x s
    | 7 => execBlink c x s
    | 8 => execBend c x s
    | 9 => execBwait c x s
    | _ => .next s
  | _ => .next s

end Sys2Proof.Machine
end

