-- ==== Sys2Proof/Machine/Preempt.lean ====
section
/-! DEFINITION. Pre-emption (13 R280-R289, R293): delivery of a request, entry to the save routine, the save timer, and
the seal. -/

namespace Sys2Proof.Machine

/-! ## Requests (R280, R319) -/

/-- A resume request that the core placed for a launch of a slot (R319). -/
def State.ownResume (s : State) (slot : BitVec 7) (r : ResumeReq) : Bool :=
  r.byPrio.isSome && match s.launch? (s.sealedAt r.slot).1 with
    | some l => l.slot == slot
    | none => false

/-- PREEMPTION_REQUEST (R280): the request reaches every context of contexts 0-6 that holds an activation of the
launch. Resume requests of the launch that the core placed itself are removed, and their contexts count as sealed
(R319). A stopped core holds the request until its go (R353). -/
def execPreemptionRequest (slot : Fin 128) (core : Fin 1024) (s : State) : Out :=
  let c := core.val
  let n : BitVec 7 := BitVec.ofNat 7 slot.val
  let k := s.coreAt c
  if k.stopped then
    .next (if k.heldPreempts.contains n then s
      else s.updCore c fun k => { k with heldPreempts := k.heldPreempts ++ [n] })
  else if k.preempts.any (·.slot == n) then .next s
  else
    let low : List (Fin 8) := [0, 1, 2, 3, 4, 5, 6]
    let got := low.filter fun x => k.ctxs[x].busy && k.ctxs[x].slot == n && k.ctxs[x].launch != 0
    let isOwn := fun (e : Entry) => match e.work with
      | .resume r => s.ownResume n r
      | _ => false
    let queued := (k.runq.filter isOwn).filterMap fun e => match e.work with
      | .resume r => r.byPrio
      | _ => none
    let waiting := (k.resumePrio.filter (s.ownResume n)).filterMap ResumeReq.byPrio
    let sealed : BitVec 8 := (queued ++ waiting).foldl (fun m x => m ||| BitVec.ofNat 8 (2 ^ x.val)) 0
    let ask := fun (q : Ctx) => if q.request.isNone && !q.saving then { q with request := some false } else q
    let s := s.updCore c fun k => { k with
      runq := k.runq.filter fun e => !isOwn e
      resumePrio := k.resumePrio.filter fun r => !s.ownResume n r
      preempts := k.preempts ++ [{ slot := n, got := (got ++ queued ++ waiting).map Fin.val, sealed }] }
    let s := got.foldl (fun s x => s.updCtx c x ask) s
    .next ((s.admitHeld c 8).endPreempt c)

/-! ## The frame (R286, R287, R289) -/

/-- SAVEBASE is usable (R281). -/
def saveBaseOk (s : State) (p : PReg) : Bool :=
  p.tag && !s.malformed p && p.r && p.w && p.pn && p.kind == 0 && p.lvl != 0 && 262144 ≤ p.len

/-- Bytes are written at off of a slot, their words full and their granules untagged. -/
def putSlot (slot : PReg) (part off : Nat) (bs : List Byte) : M Unit :=
  if bs.isEmpty then pure () else do
    let (k, _) ← locateUp (slot.key part + off)
    putBytes k bs (some true)

/-- A pointer that is to be stored into a slot: its object escapes toward the slot's level (R176, R281). The pointer is
taken from the state, since an earlier escape may have moved its object. -/
def escapeInto (slot : PReg) (part : Nat) (p : State → Option PReg) : M Unit := do
  match p (← get) with
  | some q => escape q (slot.key part) part
  | none => pure ()

/-- A pointer granule is written at off of a slot. -/
def putSlotPtr (slot : PReg) (part off : Nat) (p : PReg) : M Unit := do
  putSlot slot part off (bytesOf 16 p.bits.toNat)
  let (k, _) ← locateUp (slot.key part + off)
  let g ← phys k aW
  modify fun s => s.updMem fun m => m.setTag g p.tag

/-- The pointer to the payload copy of a slot. -/
def payloadPtr (slot : PReg) (len : Nat) : PReg :=
  (((slot.setF 0 48 (slot.addr + 128)).setF 53 6 1).setF 59 4 7).setF 64 40 len

/-- The bytes of an entry frame after its pointer: g6 to the timestamp at entry; the fields of the seal read zero. -/
def Ctx.frameBytes (q : Ctx) (x : Fin 8) (est time : Nat) : List Byte :=
  let why := if q.request == some true then 1 else 0
  bytesOf 8 (q.g[(6 : Fin 8)]).toNat ++ bytesOf 8 (q.g[(7 : Fin 8)]).toNat ++
    bytesOf 8 (q.pc.toNat % 65536 + q.mode.toNat * 2 ^ 16 + q.oc.toNat * 2 ^ 17 + x.val * 2 ^ 18 + est * 2 ^ 21 +
      why * 2 ^ 24 + q.slot.toNat * 2 ^ 32) ++
    bytesOf 8 (q.classno.toNat + q.prio.toNat * 2 ^ 8 + q.redel.toNat * 2 ^ 14 + q.msglen.toNat * 2 ^ 16 +
      q.wuid.toNat * 2 ^ 32) ++
    bytesOf 8 (q.routetag.toNat + q.sender.toNat * 2 ^ 32) ++
    bytesOf 8 q.actstart.toNat ++ bytesOf 8 time ++ bytesOf 56 0

/-- The frame's bits [319:256] (R283 step 5). -/
def Ctx.frameWord (q : Ctx) (x : Fin 8) (est : Nat) : DWord := BitVec.ofNat 64 (leAt (q.frameBytes x est 0) 16 8)

/-- The record of stream binding i. -/
def putStream (slot : PReg) (part i : Nat) (b : Option Stream) : M Unit :=
  let off := 640 + 96 * i
  match b with
  | none => putSlot slot part off (bytesOf 96 0)
  | some b => do
    putSlotPtr slot part off b.ptr
    putSlot slot part (off + 16) (bytesOf 64 b.map.toNat ++ bytesOf 16 (b.popped % 2 ^ 32 + 2 ^ 32))

/-- What entry writes into the slot (R283 steps 3 and 4). -/
def writeFrame (slot : PReg) (q : Ctx) (c : Nat) (x : Fin 8) (est : Nat) : M Unit := do
  let part := q.part.toNat
  (upTo 8).forM fun i => escapeInto slot part fun s => ((s.ctxAt c x).strm[Fin.ofNat 8 i]).map Stream.ptr
  let s ← get
  let strm := (s.ctxAt c x).strm
  putSlot slot part 128 (s.mem.read (messageSlot c x + 16) q.msglen.toNat)
  putSlotPtr slot part 0 (payloadPtr slot q.msglen.toNat)
  putSlot slot part 16 (q.frameBytes x est s.pkg.time.toNat)
  (upTo 8).forM fun i => putStream slot part i strm[Fin.ofNat 8 i]

/-! ## Entry (R282, R283) -/

/-- The context takes a request now (R282, R229). -/
def Ctx.takesPreempt (q : Ctx) (x : Fin 8) : Bool :=
  q.request.isSome && q.busy && !q.saving && !q.ts && q.latch.isNone && x != 7

/-- What the context does is given up (R282): the state that the frame records, and the machine after it. -/
def State.giveUp (s : State) (c : Nat) (x : Fin 8) : Nat × State :=
  let q := s.ctxAt c x
  let free := s.updCore c fun k => k.release x.val
  match q.run with
  | .live => (if q.blocked.isSome then 1 else 0, free)
  | .asleep => (3, free)
  | .waiting w =>
    let est := match w.need with
      | .sheet _ _ _ _ _ _ => 1
      | _ => 2
    (est, s.unwait c x)
  | .copying =>
    (1, free.updUnit (unitOf c) fun u => { u with reqs := u.reqs.filter fun r => !(r.core == c && r.ctx == x) })
  | .weights _ _ => (4, s.dropBuffer c x)
  | .paged _ _ =>
    let isMe := fun (f : PageFault) => match f.who with
      | .act c' x' _ => c' == c && x' == x
      | _ => false
    let keep := fun (q : Stack) => { q with faults := q.faults.filter fun f => !isMe f
                                            waiting := q.waiting.filter fun f => !isMe f }
    (5, { s with dies := s.dies.map fun v => { v with stks := v.stks.map keep } })
  | _ => (0, s)

/-- The context's registers after entry (R283 steps 1 and 4 to 6). -/
def State.enterSave (s : State) (c : Nat) (x : Fin 8) (est : Nat) (slot : PReg) : State :=
  let s := s.updCore c fun k => k.freeLinks x
  let s := if (s.ctxAt c x).sheet.isSome then
      s.updClu (coreClu c) fun k => { k with partials := k.partials.filter (·.core != c) } else s
  let drop := fun (q : Ctx) => (upTo 8).foldl (fun q i =>
    if (q.strm[Fin.ofNat 8 i]).isSome then (q.setStream i none).setV (24 + i) 0 else q) q
  let s := s.updCtx c x fun q =>
    let word := q.frameWord x est
    { drop q with
      trapcause := BitVec.ofNat 8 cPREEMPT
      trappc := q.pc
      trapinst := s.trapInst c q.pc.toNat
      trapval := 0
      trapptr := 0
      savedMode := q.mode, mode := true, ts := true, sig := 0, sv := false
      p := q.p.set 15 slot
      g := (q.g.set 6 0).set 7 word
      sheet := none, sheetN := 0
      saving := true, saveSince := s.ck, blocked := none, run := .live
      pc := BitVec.ofNat 64 (4 * fld (s.coreReg c 0x12) 2 14) }
  s.later (1024 * fld (s.coreReg c 0x13) 0 32 + 1) (.saveExpiry c x.val)

/-- What stops a write into a context's save slot: a page is asked for, a sift runs, and a heap with no room ends the
activation (R284). -/
def State.saveStops (s : State) (c : Nat) (x : Fin 8) (e : Stop) : State :=
  match e with
  | .page k need _ _ => s.enginePage c x k need
  | .siftPage k pads => s.engineSift pads k
  | .siftFull d part i => s.lostRegion d part i
  | .trap cause _ _ _ => s.kill c x 10 cause (s.ctxAt c x).pc.toNat
  | _ => s

/-- PREEMPT_ENTRY (R283): the request is taken. A page of the save area that is not mapped is asked for first. -/
def execPreemptEntry (core : Fin 1024) (ctx : Fin 8) (s : State) : Out :=
  let c := core.val
  if !(s.ctxAt c ctx).takesPreempt ctx then .next s else
  let s := if (s.ctxAt c ctx).run == .entering then
      match execActivationEntry core ctx s with
      | .next t => t
      | _ => s
    else s
  let q := s.ctxAt c ctx
  if !saveBaseOk s (s.coreptr c 0x10) then .next (s.kill c ctx 10 cPREEMPT q.pc.toNat) else
  let slot := s.saveSlot c ctx
  let (est, t) := s.giveUp c ctx
  match M.filled (writeFrame slot q c ctx est) t with
  | .ok _ t => .next (t.settled.enterSave c ctx est slot)
  | .error e _ => .next (s.saveStops c ctx e)

/-- SAVE_TIMER_EXPIRY (R284): the save has taken longer than SAVEBUD allows. -/
def execSaveTimerExpiry (core : Fin 1024) (ctx : Fin 8) (s : State) : Out :=
  let c := core.val
  let q := s.ctxAt c ctx
  let limit := 1024 * fld (s.coreReg c 0x13) 0 32
  if !q.saving then .next s
  else if limit < s.ck - q.saveSince then .next (s.kill c ctx 10 q.trapcause.toNat q.trappc.toNat)
  else .next (s.soon (q.saveSince + limit + 1 - s.ck) (.saveExpiry c ctx.val))

/-! ## The seal (R285, R288) -/

/-- A job takes its place among others in the order of acceptance. -/
def insertJob (j : Job) : List Job → List Job
  | [] => [j]
  | i :: is => if j.num < i.num then j :: i :: is else i :: insertJob j is

/-- The resume block's control and dimensions: the snapshot with t0 moved on and NOPEND set. -/
def Job.resumeBits (j : Job) : Nat :=
  setFld (setFld j.blk.toNat (960 + 32) 32 (j.t0 + j.tiles)) (960 + 16) 1 1

/-- The rise word's four fields, or zeros. -/
def riseFields (j : Job) : M (List Byte) :=
  if !j.rises then pure (bytesOf 16 0) else do
    let (k, _) ← locateUp (j.rise.key j.part.toNat)
    readRaw k 16

/-- Job record i (R288). -/
def putJob (slot : PReg) (part unit i : Nat) (j : Job) (rise : List Byte) : M Unit := do
  let off := 1408 + 192 * i
  putSlotPtr slot part off j.src
  putSlotPtr slot part (off + 16) j.dst
  putSlotPtr slot part (off + 32) j.rise
  putSlot slot part (off + 48) (bytesOf 80 (j.resumeBits / 2 ^ 384))
  putSlot slot part (off + 128) (bytesOf 4 j.guard.toNat ++ bytesOf 4 3 ++ bytesOf 8 (j.tiles % 2 ^ 32) ++
    bytesOf 8 (jobId unit j.num).toNat ++ bytesOf 8 j.rem ++ rise ++ bytesOf 16 0)

/-- The stopped jobs of an activation in the order of their acceptance, as many as a slot records (R288). -/
def CopyUnit.records (v : CopyUnit) (act : Nat) : List Job :=
  ((v.stopped.filter fun j => j.actId == act).foldl (fun js j => insertJob j js) []).take 18

/-- What the seal writes (R285 steps 2 to 5). -/
def writeSeal (slot : PReg) (c : Nat) (x : Fin 8) : M Unit := do
  let unit := unitOf c
  let q := (← get).ctxAt c x
  let part := q.part.toNat
  let job := fun (i : Nat) (s : State) => ((s.unitAt unit).records q.actId)[i]?
  (upTo 18).forM fun i => do
    escapeInto slot part fun s => (job i s).map Job.src
    escapeInto slot part fun s => (job i s).map Job.dst
    escapeInto slot part fun s => (job i s).map Job.rise
  (upTo 16).forM fun i => escapeInto slot part fun s => (s.ctxAt c x).holds[i]?
  let s ← get
  let q := s.ctxAt c x
  let jobs := (s.unitAt unit).records q.actId
  let rises ← jobs.mapM riseFields
  ((jobs.zip rises).zipIdx).forM fun ((j, r), i) => putJob slot part unit i j r
  let listed := q.holds.take 16
  (upTo 16).forM fun i => putSlotPtr slot part (384 + 16 * i) (listed.getD i .null)
  (q.outbox.zipIdx).forM fun (o, i) => putSlot slot part (4864 + 32 * i) (headerOf o 0)
  putSlot slot part 5888 (q.outbox.flatMap fun o => o.msg.body)
  let s ← get
  putSlot slot part 72 (bytesOf 4 1 ++
    bytesOf 4 jobs.length ++
    bytesOf 8 (listed.length + min 255 (q.holds.length - listed.length) * 2 ^ 8 + q.outbox.length * 2 ^ 16) ++
    bytesOf 8 s.pkg.time.toNat)

/-- The core places its own resume request after a save for priority (R319), at the priority that the slot's frame
holds. -/
def State.resumeOwn (s : State) (c : Nat) (x : Fin 8) (slot : PReg) (prio : BitVec 6) : State :=
  let r : ResumeReq := { slot, ent := BitVec.ofNat 14 (fld (s.coreReg c 0x14) 2 14), prio, byPrio := some x }
  if (s.coreAt c).internal < 8 then s.join c true { prio, work := .resume r }
  else s.updCore c fun k => { k with resumePrio := k.resumePrio ++ [r] }

/-- SEAL (R285). It waits until the activation's jobs have stopped and a command that runs on one of its tiles has
ended. -/
def execSealEvent (core : Fin 1024) (ctx : Fin 8) (s : State) : Out :=
  let c := core.val
  let q := s.ctxAt c ctx
  if q.run != .sealing then .next s else
  let u := unitOf c
  let s := if (s.jobsOf c q.actId).any fun j => j.stopAt.isNone && !j.finished then s.stopJobs c q.actId 3 true else s
  let busy := match (s.coreAt c).cmds with
    | m :: _ => 0 < m.finished && m.owner (s.coreAt c) == some ctx
    | [] => false
  if !(s.jobsOf c q.actId).isEmpty || busy then .next (s.soon 8 (.seal c ctx.val)) else
  let slot := s.saveSlot c ctx
  match M.filled (writeSeal slot c ctx) s with
  | .error e _ => .next ((s.saveStops c ctx e).soon 8 (.seal c ctx.val))
  | .ok _ s =>
    let s := s.updUnit u fun v => { v with stopped := v.stopped.filter fun j => j.actId != q.actId }
    let s := s.updPkg fun g =>
      { g with sealed := (g.sealed.filter fun e => e.1 != slot.key q.part.toNat) ++
          [(slot.key q.part.toNat, q.launch, q.part.toNat, q.actId)] }
    let asked := (s.coreAt c).preempts.any fun p => p.got.contains ctx.val
    let s := (s.countEnd q.launch 3).freeCtx c ctx 3
    let frame := (s.fetchObj? slot q.part.toNat 0 128).getD []
    .next (if q.request == some true && !asked then s.resumeOwn c ctx slot (BitVec.ofNat 6 (fldAt frame 328 6)) else s)

end Sys2Proof.Machine
end

