-- ==== Sys2Proof/Machine/Sheet.lean ====
section
/-! DEFINITION. Sheets (12 R275-R278): joining and leaving, the collective multiply SHMMA, its pairing, and the
merging of partials where the columns of a sheet split K. -/

namespace Sys2Proof.Machine

/-! ## Descriptors (R275) -/

/-- x0. -/
def shX (d : DWord) : Nat := fld d.toNat 0 2
/-- y0. -/
def shY (d : DWord) : Nat := fld d.toNat 2 2
/-- The width. -/
def shW (d : DWord) : Nat := fld d.toNat 4 2 + 1
/-- The height. -/
def shH (d : DWord) : Nat := fld d.toNat 6 2 + 1
/-- The sheet tile. -/
def shC (d : DWord) : Nat := fld d.toNat 8 2
/-- The columns split K. -/
def shKs (d : DWord) : Bool := bit d.toNat 10

/-- A member's position (r, s). -/
def shPos (d : DWord) (c : Nat) : Nat × Nat := (c / 4 % 4 - shY d, c % 4 - shX d)
/-- The core at a position of the rectangle, in the cluster of core c. -/
def shCore (d : DWord) (c r s : Nat) : Nat := c / 16 * 16 + (shY d + r) * 4 + shX d + s
/-- The core lies in the rectangle. -/
def shInside (d : DWord) (c : Nat) : Bool :=
  shX d ≤ c % 4 && c % 4 < shX d + shW d && shY d ≤ c / 4 % 4 && c / 4 % 4 < shY d + shH d

/-- The context of a core that has joined a sheet. -/
def Core.member (k : Core) : Option (Fin 8) := allCtx.find? fun x => k.ctxs[x].sheet.isSome

/-- SHJOIN (R275). A core whose other context is joined waits for it to leave (R275: at most one). -/
def execShjoin (a : Sc) : State → Out :=
  unit (.shjoin a) (using_ { ss := [a.val] } do
    let d ← readS a.val
    let s ← get
    let k := s.coreAt s.core
    let q ← me
    let n := d.toNat
    require (fld n 11 5 == 0 && fld n 48 16 == 0 && shX d + shW d ≤ 4 && shY d + shH d ≤ 4 &&
      shInside d s.core && q.sheet.isNone) cILLEGAL
    require (fld n 16 32 == fld (k.cls q.classno.toNat).toNat 32 32) cPERM
    if k.member.isSome then wait sMATRIX
    takeTiles [shC d]
    modMe fun q => { q with sheet := some d, sheetN := 0 }
    pure .seq)

/-- SHLEAVE (R275): the tile is kept. -/
def execShleave : State → Out :=
  unit .shleave do
    modMe fun q => { q with sheet := none, sheetN := 0 }
    pure .seq

/-! ## The collective (R276, R277) -/

/-- A member of a collective: its core, its context and what it waits with. -/
structure Member where
  core : Nat
  ctx : Fin 8
  pa : Fin 16
  tma : Fin 8
  pb : Fin 16
  tmb : Fin 8
  ty : Nat
  panes : Nat × Nat
  deriving DecidableEq, Repr

/-- Core c's member where it waits, not paired yet, in the SHMMA of number n under descriptor d. -/
def State.waitingMember (s : State) (d : DWord) (n c : Nat) : Option Member :=
  match (s.coreAt c).member with
  | none => none
  | some x =>
    let q := s.ctxAt c x
    match q.run with
    | .waiting w =>
      match w.need, w.phase with
      | _, .spin _ => none
      | .sheet pa tma pb tmb ty panes, _ =>
        if q.sheet == some d && q.sheetN == n then some ⟨c, x, pa, tma, pb, tmb, ty, panes⟩ else none
      | _, _ => none
    | _ => none

/-- The cores of a sheet, row by row. -/
def shCores (d : DWord) (c : Nat) : List Nat :=
  (upTo (shH d)).flatMap fun r => (upTo (shW d)).map fun s => shCore d c r s

/-- The slice of 256 that an index along K lies in is one that the member forms: where the columns split K, member (r, s)
forms slice q with q mod w = s (R277). -/
def ownSlice (d : DWord) (s k : Nat) : Bool := !shKs d || k / 256 % shW d == s

/-- A member's A operand, through the pane current at its issue (R115): 16 rows from row first, +0 outside the slices
that keep names. -/
def Member.rowsA (m : Member) (src : Option Nat) (first : Nat) (keep : Nat → Bool) : M (List (List FVal)) := do
  let o ← openWith m.pa (← readMap m.tma) m.ty m.panes.1
  sixteen.mapM fun i => (upTo (tmExt o.map 0)).mapM fun k =>
    if keep k then elemAt o src k (first + i) else pure (.fin false 0 0)

/-- A member's B operand, through the pane current at its issue: K rows of the 16 columns from column first, +0 outside
the slices that keep names. -/
def Member.colsB (m : Member) (src : Option Nat) (len first : Nat) (keep : Nat → Bool) : M (List (List FVal)) := do
  let o ← openWith m.pb (← readMap m.tmb) m.ty m.panes.2
  let rows ← (upTo len).mapM fun k => sixteen.mapM fun j =>
    if keep k then elemAt o src (first + j) k else pure (.fin false 0 0)
  pure (sixteen.map fun j => rows.map fun r => r.getD j (.fin false 0 0))

/-- The K of a member's A map. -/
def Member.lenK (m : Member) : M Nat := do pure (tmExt (← readMap m.tma) 0)

/-- Work as a member's context. -/
def asMember {α : Type} (m : Member) (f : M α) : M α := do
  let s ← get
  set (s.asCtx m.core m.ctx)
  let a ← f
  modify fun t => t.asCtx s.core s.ctx
  pure a

/-- The partial of one element over a slice, from +0 (R276). It is FP32 also where a pane makes an operand FP64, since R276
gives the collective one FP32 accumulator (log 44). -/
def partialOf (gs : List (List FVal × List FVal)) : Nat × Flags :=
  gs.foldl (fun (p, f) (xs, ys) =>
    let (c, g) := addGroup false p xs ys
    (c, f ||| g)) (0, 0)

/-- The partials of a tile in the slices that keep names, each with its number: 256 FP32 codes. -/
def partialsOf (as bs : List (List FVal)) (k : Nat) (keep : Nat → Bool) : M (List (List Nat × Nat)) :=
  ((upTo ((k + 255) / 256)).filter fun q => keep (256 * q)).mapM fun q => do
    let cs ← (upTo 256).mapM fun w => do
      let gs := (lineGroups as (w / 16)).zip (lineGroups bs (w % 16))
      let (c, f) := partialOf ((gs.drop (32 * q)).take 32)
      raise f
      pure c
    pure (cs, q)

/-- acc := Round(acc + P, f32, RNE) (R276, R277). It reads and updates the elements, so that an injection on one acts
(R236, log 44). -/
def mergePartial (n : Nat) (p : List Nat) : M Unit :=
  p.zipIdx.forM fun (v, w) => do
    let old ← readCell n w
    let (t, f) := (decodeVal 9 old).add false (decodeVal 9 v)
    let (c, g) := roundVal 9 .rne 0 t
    raise (f ||| g)
    updateCell n w c

/-- What one member of a sheet computes. Where the columns split K, its partials go to the row's first member. -/
def memberWork (d : DWord) (ms : List Member) (m : Member) : M Unit := do
  let (r, s) := shPos d m.core
  if shKs d then
    let keep := ownSlice d s
    let k ← asMember m m.lenK
    let as ← asMember m (m.rowsA none (16 * r) keep)
    let bs ← asMember m (m.colsB none k 0 keep)
    let ps ← asMember m (partialsOf as bs k keep)
    let root := shCore d m.core r 0
    modify fun st => st.updClu (coreClu m.core) fun c =>
      { c with partials := c.partials ++ (ps.map fun (p, q) =>
          { core := root, slice := q, acc := BitVec.ofNat 8192 (packWords p) }) }
    if s == 0 then modify fun st => st.later 16 (.sheetMerge root)
  else
    match ms.find? (fun e => e.core == shCore d m.core r 0), ms.find? (fun e => e.core == shCore d m.core 0 s) with
    | some a, some b =>
      let k ← asMember a a.lenK
      let as ← asMember a (a.rowsA none (16 * r) fun _ => true)
      let bs ← asMember b (b.colsB none k (16 * s) fun _ => true)
      asMember m do
        let ps ← partialsOf as bs k fun _ => true
        ps.forM fun p => mergePartial (shC d) p.1
        modTile (shC d) fun t => { t with cv := false }
    | _, _ => pure ()

/-- The collective of all members; where one member's work stops, that member and why. -/
def State.collective (s : State) (d : DWord) (ms : List Member) : List Member → Except (Member × Stop × State) State
  | [] => .ok s
  | m :: rest =>
    match memberWork d ms m s with
    | .ok _ t => t.collective d ms rest
    | .error e t => .error (m, e, t)

/-- A member's SHMMA is performed: its unit completes when it next issues, but for the first of a row whose columns
split K, which waits for the partials. -/
def State.memberDone (s : State) (d : DWord) (m : Member) : State :=
  s.updCtx m.core m.ctx fun q =>
    let q := { q with sheetN := q.sheetN + 1 }
    if shKs d && (shPos d m.core).2 == 0 then q.setPhase (.spin 0)
    else { q with run := .live, latch := some [] }

/-- The members of the sheet of a member that waits, if all of them wait in the same SHMMA. own is the member
that issues now. -/
def State.sheetMembers (s : State) (d : DWord) (n : Nat) (own : Option Member) (c : Nat) : Option (List Member) :=
  (shCores d c).mapM fun e =>
    match own with
    | some m => if m.core == e then some m else s.waitingMember d n e
    | none => s.waitingMember d n e

/-- The checks of SHMMA at issue (R152, R276): of the operands that this member supplies; what they read is read
once here, so that PAGE and RANGE stop the unit before it waits. -/
def sheetChecks (d : DWord) (m : Member) : M Unit := do
  let s ← get
  let (r, t) := shPos d s.core
  let own := (if shKs d || t == 0 then [m.panes.1] else []) ++ (if shKs d || r == 0 then [m.panes.2] else [])
  require (!(own.any (paneFmt · m.ty == 8) && shC d % 2 == 1)) cILLEGAL
  if shKs d || t == 0 then
    let ma ← operandMap m.pa m.tma m.ty 0
    require (tmExt ma 0 ≤ 4096) cILLEGAL 0
    discard (checkPerm m.pa true false)
  if shKs d || r == 0 then
    discard (operandMap m.pb m.tmb m.ty 1)
    discard (checkPerm m.pb true false)
  let keep := ownSlice d t
  if shKs d || t == 0 then discard (m.rowsA (some 1) (16 * r) keep)
  if shKs d || r == 0 then
    let k := tmExt (← readMap m.tmb) 1
    discard (m.colsB (some 1) k (if shKs d then 0 else 16 * t) keep)

/-- SHMMA (R276): the last partner performs the collective. -/
def execShmma (c : Tl) (pa : Pr) (tma : Tm) (pb : Pr) (tmb : Tm) (ty : Fin 16) : State → Out :=
  unit (.shmma c pa tma pb tmb ty) do
    if (← me).latch.isSome then return .seq
    let q ← me
    let d ← match q.sheet with
      | some d => pure d
      | none => trap cILLEGAL
    require (shC d == c.val && ty != 8) cILLEGAL
    takeTiles [c.val]
    let s ← get
    let panes := (← paneOf (← preg pa), ← paneOf (← preg pb))
    let m : Member := ⟨s.core, s.ctx, pa, tma, pb, tmb, ty.val, panes⟩
    sheetChecks d m
    let s ← get
    let need : Need := .sheet pa tma pb tmb ty.val panes
    match s.sheetMembers d q.sheetN (some m) s.core with
    | none => throw (.park need 0)
    | some ms =>
      match s.collective d ms ms with
      | .error _ =>
        modify fun s => s.later 1 (.sheetPair s.core)
        throw (.park need 0)
      | .ok t =>
        set (ms.foldl (fun t e => if e.core == m.core then t else t.memberDone d e) t)
        modMe fun q => { q with sheetN := q.sheetN + 1 }
        if shKs d && (shPos d s.core).2 == 0 then throw (.park need 1) else pure .seq

/-- SHEET_PAIRING (R276): members that wait pair off; one whose operands stop the collective takes its end. -/
def execSheetPairing (core : Fin 1024) (s : State) : Out :=
  let c := core.val
  match (s.coreAt c).member with
  | none => .next s
  | some x =>
    match (s.ctxAt c x).sheet with
    | none => .next s
    | some d =>
      match s.sheetMembers d (s.ctxAt c x).sheetN none c with
      | none => .next s
      | some ms =>
        match s.collective d ms ms with
        | .ok t => .next (ms.foldl (fun t e => t.memberDone d e) t)
        | .error (m, e, t) =>
          let own := s.updCtx m.core m.ctx fun q => { q with run := .live }
          .next ((((own.unwait m.core m.ctx).asCtx m.core m.ctx).stopped e t).asCtx s.core s.ctx)

/-! ## Merging (R277) -/

/-- The first of the partials on their way to a core, in slice order. -/
def firstPartial (c : Nat) (ps : List Partial) : Option Partial :=
  (ps.filter (·.core == c)).foldl (fun b p => match b with
    | some e => if p.slice < e.slice then some p else b
    | none => some p) none

/-- SHEET_PARTIAL_MERGE (R277): the next partial joins the tile; after the last, the SHMMA completes. -/
def execSheetPartialMerge (core : Fin 1024) (s : State) : Out :=
  let c := core.val
  match (s.coreAt c).member, firstPartial c (s.cluAt (coreClu c)).partials with
  | some x, some p =>
    match (s.ctxAt c x).sheet with
    | none => .next s
    | some d =>
      let work : M Unit := do
        mergePartial (shC d) ((upTo 256).map fun w => fld p.acc.toNat (32 * w) 32)
        modTile (shC d) fun t => { t with cv := false }
      match work (s.asCtx c x) with
      | .error e t => .next (((s.asCtx c x).stopped e t).asCtx s.core s.ctx)
      | .ok _ t =>
        let t := (t.asCtx s.core s.ctx).updClu (coreClu c) fun k => { k with partials := k.partials.filter (· != p) }
        if (firstPartial c (t.cluAt (coreClu c)).partials).isSome then .next (t.later 2 (.sheetMerge c))
        else .next (t.updCtx c x fun q => { q with run := .live, latch := some [] })
  | _, _ => .next s

end Sys2Proof.Machine
end

