-- ==== Sys2Proof/Machine/Vector.lean ====
section
/-! DEFINITION. Vector instructions (06 R135-R144). -/

namespace Sys2Proof.Machine

/-! ## Lane-wise work (R133, R135) -/

/-- Active lanes of vector destination d become f of their number; inactive ones keep their value. -/
def lanewise (vx : Vx) (d : Nat) (f : Nat → M Nat) : M Unit := do
  let m ← readM vx.mask
  let old ← oldV d
  let w := laneWidth vx.type
  let xs ← (upTo (lanesOf vx.type)).mapM fun i => if active m i then f i else pure (laneOf old w i)
  writeV d (ofLanes w xs)

/-- The rounding mode of a vector instruction. -/
def roundingOf (vx : Vx) : Mode := Mode.ofCode vx.mode

/-- The number of an integer element (R31). -/
def intOf (ty c : Nat) : Int := if ty < 4 then signedOf (elemBits ty) c else (c % 2 ^ elemBits ty : Nat)

/-- The lane that holds an integer, wrapped to its type (R132, R134). -/
def intLane (ty : Nat) (x : Int) : Nat := placeElem ty (x % (2 ^ elemBits ty : Nat)).toNat

/-- A two-source function: of exact values, with its flags, and of integers. -/
structure Fn2 where
  real : Bool → FVal → FVal → FVal × Flags
  int : Int → Int → Int

/-- One lane of a two-source instruction: rounded once (R126), or wrapped. -/
def lane2 (vx : Vx) (f : Fn2) (x y : V512) (i : Nat) : M Nat :=
  let ty := vx.type
  let a := elemOf ty x i
  let b := elemOf ty y i
  if intType ty then pure (intLane ty (f.int (intOf ty a) (intOf ty b)))
  else
    let (v, g) := f.real (roundingOf vx = .rdn) (decodeVal ty a) (decodeVal ty b)
    round ty (roundingOf vx) v g

/-- A two-source lane-wise unit (R135). -/
def vector2 (i : Instr) (vx : Vx) (d a b : Nat) (f : Fn2) (s : State) : Out :=
  unit i (using_ { sv := [a, b], dv := [d] } do
    let x ← readV a
    let y ← readV b
    lanewise vx d (lane2 vx f x y)
    pure .seq) s

/-- x - y. -/
def subVal (rdn : Bool) (x y : FVal) : FVal × Flags := x.add rdn y.neg

/-- One lane of VMIN or VMAX (R135): its exact value is rounded as any lane's is (R126). -/
def lanePick (vx : Vx) (f : FVal → FVal → FVal × Flags) (g : Int → Int → Int) (a b : Nat) : M Nat :=
  let ty := vx.type
  if intType ty then pure (intLane ty (g (intOf ty a) (intOf ty b)))
  else
    let (v, fl) := f (decodeVal ty a) (decodeVal ty b)
    round ty (roundingOf vx) v fl

/-- VMIN and VMAX (R135). -/
def vectorPick (i : Instr) (vx : Vx) (d a b : Nat) (f : FVal → FVal → FVal × Flags) (g : Int → Int → Int)
    (s : State) : Out :=
  unit i (using_ { sv := [a, b], dv := [d] } do
    let x ← readV a
    let y ← readV b
    lanewise vx d fun i => lanePick vx f g (elemOf vx.type x i) (elemOf vx.type y i)
    pure .seq) s

/-- VADD (R135). -/
def execVadd (vx : Vx) (d a b : Vc) : State → Out :=
  vector2 (.vadd vx d a b) vx d.val a.val b.val ⟨fun r x y => x.add r y, fun x y => x + y⟩
/-- VSUB (R135). -/
def execVsub (vx : Vx) (d a b : Vc) : State → Out :=
  vector2 (.vsub vx d a b) vx d.val a.val b.val ⟨subVal, fun x y => x - y⟩
/-- VMUL (R135). -/
def execVmul (vx : Vx) (d a b : Vc) : State → Out :=
  vector2 (.vmul vx d a b) vx d.val a.val b.val ⟨fun _ x y => x.mul y, fun x y => x * y⟩
/-- Compact VADD.f32 vd, vd, va (R25). -/
def execVaddF32Compact (d a : Fin 32) : State → Out :=
  vector2 (.vaddF32Compact d a) ⟨0, none⟩ d.val d.val a.val ⟨fun r x y => x.add r y, fun x y => x + y⟩
/-- Compact VMUL.f32 vd, vd, va (R25). -/
def execVmulF32Compact (d a : Fin 32) : State → Out :=
  vector2 (.vmulF32Compact d a) ⟨0, none⟩ d.val d.val a.val ⟨fun _ x y => x.mul y, fun x y => x * y⟩

/-- a·b + c, exact (R126). -/
def fmaVal (rdn : Bool) (a b c : FVal) : FVal × Flags :=
  let (p, f) := a.mul b
  let (v, g) := p.add rdn c
  (v, f ||| g)

/-- c - a·b, exact. -/
def fmsVal (rdn : Bool) (a b c : FVal) : FVal × Flags :=
  let (p, f) := a.mul b
  let (v, g) := c.add rdn p.neg
  (v, f ||| g)

/-- VFMA and VFMS (R135): vd is the third source. -/
def vector3 (i : Instr) (vx : Vx) (d a b : Nat) (f : Bool → FVal → FVal → FVal → FVal × Flags)
    (g : Int → Int → Int → Int) (s : State) : Out :=
  unit i (using_ { sv := [a, b, d], dv := [d] } do
    let x ← readV a
    let y ← readV b
    let z ← readV d
    let ty := vx.type
    lanewise vx d fun i =>
      let a := elemOf ty x i
      let b := elemOf ty y i
      let c := elemOf ty z i
      if intType ty then pure (intLane ty (g (intOf ty a) (intOf ty b) (intOf ty c)))
      else
        let (v, fl) := f (roundingOf vx = .rdn) (decodeVal ty a) (decodeVal ty b) (decodeVal ty c)
        round ty (roundingOf vx) v fl
    pure .seq) s

/-- VFMA (R135). -/
def execVfma (vx : Vx) (d a b : Vc) : State → Out :=
  vector3 (.vfma vx d a b) vx d.val a.val b.val fmaVal fun x y z => x * y + z
/-- VFMS (R135). -/
def execVfms (vx : Vx) (d a b : Vc) : State → Out :=
  vector3 (.vfms vx d a b) vx d.val a.val b.val fmsVal fun x y z => z - x * y

/-- VMIN (R135). -/
def execVmin (vx : Vx) (d a b : Vc) : State → Out :=
  vectorPick (.vmin vx d a b) vx d.val a.val b.val FVal.min2 min
/-- VMAX (R135). -/
def execVmax (vx : Vx) (d a b : Vc) : State → Out :=
  vectorPick (.vmax vx d a b) vx d.val a.val b.val FVal.max2 max

/-- VMIN(VMAX(c, lo), hi) of values (R135). -/
def clampVal (c lo hi : FVal) : FVal × Flags :=
  let (v, f) := c.max2 lo
  let (u, g) := v.min2 hi
  (u, f ||| g)

/-- VCLAMP (R135): vd is the input, va the low bound and vb the high one. -/
def execVclamp (vx : Vx) (d a b : Vc) : State → Out :=
  unit (.vclamp vx d a b) (using_ { sv := [a.val, b.val, d.val], dv := [d.val] } do
    let x ← readV a.val
    let y ← readV b.val
    let z ← readV d.val
    let ty := vx.type
    lanewise vx d.val fun i =>
      let lo := elemOf ty x i
      let hi := elemOf ty y i
      let c := elemOf ty z i
      if intType ty then pure (intLane ty (min (max (intOf ty c) (intOf ty lo)) (intOf ty hi)))
      else
        let (v, fl) := clampVal (decodeVal ty c) (decodeVal ty lo) (decodeVal ty hi)
        round ty (roundingOf vx) v fl
    pure .seq)

/-- Bitwise and shift instructions on the n-bit element (R135). -/
def vectorBits (i : Instr) (vx : Vx) (d a b : Nat) (f : (n : Nat) → BitVec n → BitVec n → BitVec n)
    (s : State) : Out :=
  unit i (using_ { sv := [a, b], dv := [d] } do
    let x ← readV a
    let y ← readV b
    let ty := vx.type
    let n := elemBits ty
    lanewise vx d fun i =>
      pure (placeElem ty (f n (BitVec.ofNat n (elemOf ty x i)) (BitVec.ofNat n (elemOf ty y i))).toNat)
    pure .seq) s

/-- VAND (R135). -/
def execVand (vx : Vx) (d a b : Vc) : State → Out :=
  vectorBits (.vand vx d a b) vx d.val a.val b.val fun _ x y => x &&& y
/-- VOR (R135). -/
def execVor (vx : Vx) (d a b : Vc) : State → Out :=
  vectorBits (.vor vx d a b) vx d.val a.val b.val fun _ x y => x ||| y
/-- VXOR (R135). -/
def execVxor (vx : Vx) (d a b : Vc) : State → Out :=
  vectorBits (.vxor vx d a b) vx d.val a.val b.val fun _ x y => x ^^^ y
/-- VSHL (R135). -/
def execVshl (vx : Vx) (d a b : Vc) : State → Out :=
  vectorBits (.vshl vx d a b) vx d.val a.val b.val fun n x y => x <<< (y.toNat % n)
/-- VSHR (R135). -/
def execVshr (vx : Vx) (d a b : Vc) : State → Out :=
  vectorBits (.vshr vx d a b) vx d.val a.val b.val fun n x y => x >>> (y.toNat % n)
/-- VSAR (R135). -/
def execVsar (vx : Vx) (d a b : Vc) : State → Out :=
  vectorBits (.vsar vx d a b) vx d.val a.val b.val fun n x y => x.sshiftRight (y.toNat % n)

/-- Lane 0 becomes x; the other lanes of a register keep their values, and are zero otherwise (R140). -/
def writeLane0 (vx : Vx) (d x : Nat) : M Unit := do
  writeV d (setLane (← oldV d) (laneWidth vx.type) 0 x)

/-- VDOT (R129, R140). With no active lane its sum of nothing is rounded as any other, and steps the generator under RS
(log 44). -/
def execVdot (vx : Vx) (d a b : Vc) : State → Out :=
  unit (.vdot vx d a b) (using_ { sv := [a.val, b.val], dv := [d.val] } do
    let x ← readV a.val
    let y ← readV b.val
    let ty := vx.type
    let acts := activeLanes (← readM vx.mask) (lanesOf ty)
    let as_ := acts.map (elemOf ty x)
    let bs := acts.map (elemOf ty y)
    if intType ty then
      let t := (as_.zip bs).foldl (fun t p => t + intOf ty p.1 * intOf ty p.2) 0
      writeLane0 vx d.val (intLane ty t)
    else
      let (v, f) := dotVals (as_.map (decodeVal ty)) (bs.map (decodeVal ty))
      writeLane0 vx d.val (← round ty (roundingOf vx) v f)
    pure .seq)

/-- VPERM (R138). -/
def execVperm (vx : Vx) (d a b : Vc) : State → Out :=
  unit (.vperm vx d a b) (using_ { sv := [a.val, b.val], dv := [d.val] } do
    let x ← readV a.val
    let y ← readV b.val
    let w := laneWidth vx.type
    lanewise vx d.val fun i => pure (laneOf x w (laneOf y w i % lanesOf vx.type))
    pure .seq)

/-! ## One source (R136) -/

/-- A one-source lane-wise unit. -/
def vector1 (i : Instr) (vx : Vx) (d a : Nat) (f : Nat → M Nat) (s : State) : Out :=
  unit i (using_ { sv := [a], dv := [d] } do
    let x ← readV a
    lanewise vx d fun i => f (elemOf vx.type x i)
    pure .seq) s

/-- VABS (R136). -/
def execVabs (vx : Vx) (d a : Vc) : State → Out :=
  vector1 (.vabs vx d a) vx d.val a.val fun c =>
    let ty := vx.type
    if intType ty then pure (intLane ty (if ty < 4 then (intOf ty c).natAbs else intOf ty c))
    else round ty (roundingOf vx) (decodeVal ty c).abs (flagIf (decodeVal ty c).isSig flagNV)
/-- VNEG (R136). -/
def execVneg (vx : Vx) (d a : Vc) : State → Out :=
  vector1 (.vneg vx d a) vx d.val a.val fun c =>
    let ty := vx.type
    if intType ty then pure (intLane ty (-(intOf ty c)))
    else round ty (roundingOf vx) (decodeVal ty c).neg (flagIf (decodeVal ty c).isSig flagNV)

/-- The four functions of R136 flush a subnormal FP16 or BF16 result to a zero of its sign, with UF and NX
(R134). -/
def flushed (ty c : Nat) : M Nat :=
  let sub := (ty == 10 || ty == 11) && fld c (fracBits ty) (expBits ty) == 0 && fld c 0 (fracBits ty) != 0
  if sub then do
    raise (flagUF ||| flagNX)
    pure (c - fld c 0 (fracBits ty))
  else pure c

/-- VRCP, VRSQ, VEXP2 and VLOG2 (R136). -/
def vectorFn (i : Instr) (vx : Vx) (d a : Nat) (f : FVal → FVal × Flags) : State → Out :=
  vector1 i vx d a fun c => do
    let (v, g) := f (decodeVal vx.type c)
    flushed vx.type (← round vx.type (roundingOf vx) v g)

/-- VRCP (R136). -/
def execVrcp (vx : Vx) (d a : Vc) : State → Out := vectorFn (.vrcp vx d a) vx d.val a.val rcpVal
/-- VRSQ (R136). -/
def execVrsq (vx : Vx) (d a : Vc) : State → Out := vectorFn (.vrsq vx d a) vx d.val a.val rsqVal
/-- VEXP2 (R136). -/
def execVexp2 (vx : Vx) (d a : Vc) : State → Out := vectorFn (.vexp2 vx d a) vx d.val a.val exp2Val
/-- VLOG2 (R136). -/
def execVlog2 (vx : Vx) (d a : Vc) : State → Out := vectorFn (.vlog2 vx d a) vx d.val a.val log2Val

/-! ## Moves, selection and compare (R137-R139) -/

/-- VMOV (R137): lanes are moved bit for bit. -/
def execVmov (vx : Vx) (d a : Vc) : State → Out :=
  unit (.vmov vx d a) (using_ { sv := [a.val], dv := [d.val] } do
    let x ← readV a.val
    lanewise vx d.val fun i => pure (laneOf x (laneWidth vx.type) i)
    pure .seq)

/-- VIOTA (R137). -/
def execViota (vx : Vx) (d : Vc) : State → Out :=
  unit (.viota vx d) (using_ { dv := [d.val] } do
    lanewise vx d.val fun i =>
      pure (if intType vx.type then i else (roundVal vx.type .rne 0 (FVal.ofInt i)).1)
    pure .seq)

/-- VBCAST (R137). -/
def execVbcast (vx : Vx) (d : Vc) (a : Sc) : State → Out :=
  unit (.vbcast vx d a) (using_ { ss := [a.val], dv := [d.val] } do
    let x ← readS a.val
    lanewise vx d.val fun _ => pure (placeElem vx.type x.toNat)
    pure .seq)

/-- VINS (R137): the mask is ignored, and a queue or direction receives the lane in a zero vector. -/
def execVins (vx : Vx) (d : Vc) (a : Sc) (lane : Fin 64) : State → Out :=
  unit (.vins vx d a lane) (using_ { ss := [a.val], dv := [d.val] } do
    let x ← readS a.val
    writeV d.val (setLane (← oldV d.val) (laneWidth vx.type) lane.val (placeElem vx.type x.toNat))
    pure .seq)

/-- VEXT (R137): the mask is ignored. -/
def execVext (vx : Vx) (d : Sc) (a : Vc) (lane : Fin 64) : State → Out :=
  unit (.vext vx d a lane) (using_ { sv := [a.val], ds := [d.val] } do
    let x ← readV a.val
    let w := laneWidth vx.type
    let v := laneOf x w lane.val
    writeS d.val (if vx.type < 4 then (BitVec.ofNat w v).signExtend 64 else BitVec.ofNat 64 v)
    pure .seq)

/-- A comparison of R139 by its condition code. -/
def holdsCond (cond : Nat) (lt eq : Bool) : Bool :=
  match cond with
  | 0 => eq
  | 1 => !eq
  | 2 => lt
  | 3 => lt || eq
  | 4 => !lt && !eq
  | _ => !lt

/-- One lane's comparison and its flags (R139). -/
def compareLane (ty cond a b : Nat) : Bool × Flags :=
  if intType ty then (holdsCond cond (intOf ty a < intOf ty b) (intOf ty a == intOf ty b), 0)
  else
    let x := decodeVal ty a
    let y := decodeVal ty b
    if x.isNaN || y.isNaN then (cond == 1, flagIf (x.isSig || y.isSig || 2 ≤ cond) flagNV)
    else (holdsCond cond (x.lt y) (x.eqv y), 0)

/-- VCMP (R139). -/
def execVcmp (vx : Vx) (md : Mk) (a b : Vc) (cond : Fin 8) : State → Out :=
  unit (.vcmp vx md a b cond) (using_ { sv := [a.val, b.val] } do
    let x ← readV a.val
    let y ← readV b.val
    let ty := vx.type
    let rs := (activeLanes (← readM vx.mask) (lanesOf ty)).map fun i =>
      (i, compareLane ty cond.val (elemOf ty x i) (elemOf ty y i))
    raise (rs.foldl (fun f r => f ||| r.2.2) 0)
    writeM md (BitVec.ofNat 16 (rs.foldl (fun n r => if r.2.1 then n + 2 ^ r.1 else n) 0))
    pure .seq)

/-- VSEL (R139): the mask selects, and every lane is written. -/
def execVsel (vx : Vx) (d a b : Vc) : State → Out :=
  unit (.vsel vx d a b) (using_ { sv := [a.val, b.val], dv := [d.val] } do
    let x ← readV a.val
    let y ← readV b.val
    let m ← readM vx.mask
    let w := laneWidth vx.type
    writeV d.val (ofLanes w ((upTo (lanesOf vx.type)).map fun i =>
      if active m i then laneOf x w i else laneOf y w i))
    pure .seq)

/-! ## Reductions (R127, R128, R140) -/

/-- Identity(op) (R127), as an element. -/
def identityOf (ty op : Nat) : Nat :=
  let n := elemBits ty
  if intType ty then
    match op with
    | 1 => if ty < 4 then 2 ^ (n - 1) - 1 else 2 ^ n - 1
    | 2 => if ty < 4 then 2 ^ (n - 1) else 0
    | 3 => 2 ^ n - 1
    | _ => 0
  else match op with
    | 1 => infCode ty false
    | 2 => infCode ty true
    | _ => 2 ^ (n - 1)

/-- Rounding in a masked-off lane: it raises no flag (R124) and does not step the generator, so that under RS its number
is a free value (R123, log 39). -/
def roundMasked (ty : Nat) (mode : Mode) (a b : Nat) (v : FVal) : M Nat := do
  pure (roundVal ty mode (Config.maskedDraw (← me).srseed a b).toNat v).1

/-- One node of a tree, or one lane of a scan's pass, active or not (R127, R128): on elements. -/
def combine (vx : Vx) (op : Nat) (act : Bool) (a b : Nat) : M Nat :=
  let ty := vx.type
  let n := elemBits ty
  if intType ty then
    let x := intOf ty a
    let y := intOf ty b
    pure (match op with
      | 0 => ((x + y) % (2 ^ n : Nat)).toNat
      | 1 => if x ≤ y then a else b
      | 2 => if y ≤ x then a else b
      | 3 => a &&& b
      | 4 => a ||| b
      | _ => a ^^^ b)
  else
    let x := decodeVal ty a
    let y := decodeVal ty b
    let (v, f) := match op with
      | 0 => x.add (roundingOf vx = .rdn) y
      | 1 => x.min2 y
      | _ => x.max2 y
    if act then round ty (roundingOf vx) v f else roundMasked ty (roundingOf vx) a b v

/-- One level of the tree (R127). Every node is rounded, one whose leaves are all masked off too, and steps the
generator under RS (log 44: R123 keeps masked-off lanes from it and does not speak of nodes). -/
def treeLevel (vx : Vx) (op : Nat) : List Nat → M (List Nat)
  | a :: b :: t => do
    let x ← combine vx op true a b
    let xs ← treeLevel vx op t
    pure (x :: xs)
  | xs => pure xs

/-- The tree of R127 over a power of two of elements. -/
def treeOf (vx : Vx) (op : Nat) : Nat → List Nat → M (List Nat)
  | 0, xs => pure xs
  | n + 1, xs => do treeOf vx op n (← treeLevel vx op xs)

/-- Elements of a vector, inactive ones replaced by the identity. -/
def leaves (vx : Vx) (op : Nat) (x : V512) (m : BitVec 16) : List Nat :=
  (upTo (lanesOf vx.type)).map fun i => if active m i then elemOf vx.type x i else identityOf vx.type op

/-- The levels of a tree over the lanes of a type. -/
def treeDepth (vx : Vx) : Nat := if lanesOf vx.type == 8 then 3 else 4

/-- VRED (R127, R140). -/
def execVred (vx : Vx) (d a : Vc) (op : Fin 64) : State → Out :=
  unit (.vred vx d a op) (using_ { sv := [a.val], dv := [d.val] } do
    let x ← readV a.val
    let r ← treeOf vx op.val (treeDepth vx) (leaves vx op.val x (← readM vx.mask))
    writeLane0 vx d.val (placeElem vx.type (r.headD 0))
    pure .seq)

/-- One pass of R128 at distance k under a mask, from the highest lane down: ys are the lanes from lane i down. -/
def scanPass (vx : Vx) (op : Nat) (m : BitVec 16) (k : Nat) (old : List Nat) : Nat → M (List Nat)
  | 0 => pure []
  | i + 1 => do
    let y ← if k ≤ i then combine vx op (active m i) (old.getD (i - k) 0) (old.getD i 0) else pure (old.getD i 0)
    let ys ← scanPass vx op m k old i
    pure (ys ++ [y])

/-- The passes of R128, at distances 1, 2, 4 and so on. -/
def scanOf (vx : Vx) (op : Nat) (m : BitVec 16) : Nat → Nat → List Nat → M (List Nat)
  | 0, _, xs => pure xs
  | n + 1, k, xs => do scanOf vx op m n (2 * k) (← scanPass vx op m k xs xs.length)

/-- Lane 0 of a scan, which no pass combines: a NaN is made canonical as any floating result, and a signalling one raises
NV (R125, R134). -/
def quieted (ty c : Nat) : M Nat := do
  if intType ty then pure c
  else
    let v := decodeVal ty c
    raise (flagIf v.isSig flagNV)
    pure (if v.isNaN then canonNaN ty else c)

/-- VSCAN (R128, R140). -/
def execVscan (vx : Vx) (d a : Vc) (op : Fin 64) : State → Out :=
  unit (.vscan vx d a op) (using_ { sv := [a.val], dv := [d.val] } do
    let x ← readV a.val
    let m ← readM vx.mask
    let r ← scanOf vx op.val m (treeDepth vx) 1 (leaves vx op.val x m)
    lanewise vx d.val fun i => do
      let c ← if i == 0 then quieted vx.type (r.getD 0 0) else pure (r.getD i 0)
      pure (placeElem vx.type c)
    pure .seq)

/-! ## Conversion and quantisation (R141-R144) -/

/-- One element converted (R141). -/
def convertElem (vx : Vx) (src c : Nat) : M Nat := do
  let ty := vx.type
  let v := decodeVal src c
  if ty == src then
    pure (placeElem ty (if v.isNaN && 8 ≤ ty && ty ≤ 11 then canonNaN ty else c))
  else
    let x ← round ty (roundingOf vx) v (flagIf v.isSig flagNV)
    pure (placeElem ty x)

/-- VCVT (R141): lanes beyond the lesser lane count become zero. -/
def execVcvt (vx : Vx) (d a : Vc) (src : Fin 64) : State → Out :=
  unit (.vcvt vx d a src) (using_ { sv := [a.val], dv := [d.val] } do
    let x ← readV a.val
    let m ← readM vx.mask
    let old ← oldV d.val
    let w := laneWidth vx.type
    let n := lanesOf vx.type
    let c := min (lanesOf src.val) n
    let xs ← (upTo n).mapM fun i =>
      if c ≤ i then pure 0
      else if active m i then convertElem vx src.val (elemOf src.val x i)
      else pure (laneOf old w i)
    writeV d.val (ofLanes w xs)
    pure .seq)

/-- The mask pair of R142: the active ones of the 32 elements. -/
def activePair (vx : Vx) : M (Nat → Bool) := do
  let lo ← readM vx.mask
  let hi ← if vx.mask == 0 then pure 0xFFFF else readM (vx.mask + 1)
  pure fun j => if j < 16 then active lo j else active hi (j - 16)

/-- The scale exponent of R143: the least t with m * 2^e at most 6 * 2^t. -/
def blockExp (m : Nat) (e : Int) : Int :=
  let l := Nat.log2 m
  e + l - (if 2 * m ≤ 3 * 2 ^ l then 2 else 1)

/-- The larger of two magnitudes. -/
def maxMag (x y : Nat × Int) : Nat × Int :=
  let lo := min x.2 y.2
  if fixAt false x.1 x.2 lo < fixAt false y.1 y.2 lo then y else x

/-- The scale code of a block of finite values (R143). -/
def scaleCode (vs : List FVal) : Nat :=
  let big := vs.foldl (fun b v => match v with
    | .fin _ m e => maxMag b (m, e)
    | _ => b) (0, 0)
  if big.1 == 0 then 127 else (max (blockExp big.1 big.2) (-127) + 127).toNat

/-- The codes of a block packed in 16 bytes, and its scale code (R142). -/
def packBlock (codes : List Nat) (sc : Nat) : V512 :=
  BitVec.ofNat 512 (codes.foldr (fun c a => c % 16 + 16 * a) 0 + sc * 2 ^ 128)

/-- VQNT (R143). -/
def execVqnt (vx : Vx) (d a : Vc) : State → Out :=
  unit (.vqnt vx d a) (using_ { sv := [a.val, a.val + 1], dv := [d.val] } do
    let x ← readV a.val
    let y ← readV (a.val + 1)
    let act ← activePair vx
    let e := fun j => decodeVal 9 (if j < 16 then laneOf x 32 j else laneOf y 32 (j - 16))
    let vs := ((upTo 32).filter act).map e
    if vs.any fun v => !v.isFin then
      raise flagNV
      writeV d.val (packBlock [] 255)
    else
      let sc := scaleCode vs
      let codes ← (upTo 32).mapM fun j =>
        if act j then round 14 (roundingOf vx) ((e j).scale (127 - sc)) else pure 0
      writeV d.val (packBlock codes sc)
    pure .seq)

/-- VDQ (R144). -/
def execVdq (vx : Vx) (d a : Vc) : State → Out :=
  unit (.vdq vx d a) (using_ { sv := [a.val], dv := [d.val, d.val + 1] } do
    let x ← readV a.val
    let act ← activePair vx
    let lo ← oldV d.val
    let hi ← oldV (d.val + 1)
    let sc := fld x.toNat 128 8
    let ty := vx.type
    let one := fun (old : V512) (j i : Nat) => do
      if !act j then pure (laneOf old 32 i)
      else if sc == 255 then pure (canonNaN ty)
      else round ty (roundingOf vx) ((decodeQ4 (fld x.toNat (4 * j) 4)).scale (sc - 127))
    let xs ← (upTo 16).mapM fun i => one lo i i
    let ys ← (upTo 16).mapM fun i => one hi (i + 16) i
    writeV d.val (ofLanes 32 xs)
    writeV (d.val + 1) (ofLanes 32 ys)
    pure .seq)

end Sys2Proof.Machine
end

