-- ==== Sys2Proof/Machine/Dispatch.lean ====
section
/-! DEFINITION. The dispatch: one arm for each constructor of Instr, a direct call of its meaning. -/

namespace Sys2Proof.Machine

/-- What an instruction, or an event, does. -/
def exec (i : Instr) (s : State) : Host.Outcome State Fault Refusal :=
  match i with
  | .add wd d a b => Sys2Proof.Machine.execAdd wd d a b s
  | .sub wd d a b => Sys2Proof.Machine.execSub wd d a b s
  | .mul wd d a b => Sys2Proof.Machine.execMul wd d a b s
  | .mulh wd d a b => Sys2Proof.Machine.execMulh wd d a b s
  | .mulhn wd d a b => Sys2Proof.Machine.execMulhn wd d a b s
  | .div wd d a b => Sys2Proof.Machine.execDiv wd d a b s
  | .divn wd d a b => Sys2Proof.Machine.execDivn wd d a b s
  | .rem wd d a b => Sys2Proof.Machine.execRem wd d a b s
  | .remn wd d a b => Sys2Proof.Machine.execRemn wd d a b s
  | .and wd d a b => Sys2Proof.Machine.execAnd wd d a b s
  | .or wd d a b => Sys2Proof.Machine.execOr wd d a b s
  | .xor wd d a b => Sys2Proof.Machine.execXor wd d a b s
  | .shl wd d a b => Sys2Proof.Machine.execShl wd d a b s
  | .shr wd d a b => Sys2Proof.Machine.execShr wd d a b s
  | .sar wd d a b => Sys2Proof.Machine.execSar wd d a b s
  | .rol wd d a b => Sys2Proof.Machine.execRol wd d a b s
  | .clz wd d a => Sys2Proof.Machine.execClz wd d a s
  | .ctz wd d a => Sys2Proof.Machine.execCtz wd d a s
  | .popc wd d a => Sys2Proof.Machine.execPopc wd d a s
  | .abs wd d a => Sys2Proof.Machine.execAbs wd d a s
  | .min wd d a b => Sys2Proof.Machine.execMin wd d a b s
  | .minn wd d a b => Sys2Proof.Machine.execMinn wd d a b s
  | .max wd d a b => Sys2Proof.Machine.execMax wd d a b s
  | .maxn wd d a b => Sys2Proof.Machine.execMaxn wd d a b s
  | .seq wd d a b => Sys2Proof.Machine.execSeq wd d a b s
  | .sne wd d a b => Sys2Proof.Machine.execSne wd d a b s
  | .slt wd d a b => Sys2Proof.Machine.execSlt wd d a b s
  | .slb wd d a b => Sys2Proof.Machine.execSlb wd d a b s
  | .sel wd d c a b => Sys2Proof.Machine.execSel wd d c a b s
  | .addi wd d a imm => Sys2Proof.Machine.execAddi wd d a imm s
  | .andi wd d a imm => Sys2Proof.Machine.execAndi wd d a imm s
  | .ori wd d a imm => Sys2Proof.Machine.execOri wd d a imm s
  | .xori wd d a imm => Sys2Proof.Machine.execXori wd d a imm s
  | .shli wd d a n => Sys2Proof.Machine.execShli wd d a n s
  | .shri wd d a n => Sys2Proof.Machine.execShri wd d a n s
  | .sari wd d a n => Sys2Proof.Machine.execSari wd d a n s
  | .movi d imm => Sys2Proof.Machine.execMovi d imm s
  | .movhi d imm k => Sys2Proof.Machine.execMovhi d imm k s
  | .bfx d a pos lm => Sys2Proof.Machine.execBfx d a pos lm s
  | .bfi d a pos lm => Sys2Proof.Machine.execBfi d a pos lm s
  | .beq a b off => Sys2Proof.Machine.execBeq a b off s
  | .bne a b off => Sys2Proof.Machine.execBne a b off s
  | .blt a b off => Sys2Proof.Machine.execBlt a b off s
  | .bge a b off => Sys2Proof.Machine.execBge a b off s
  | .blo a b off => Sys2Proof.Machine.execBlo a b off s
  | .bhs a b off => Sys2Proof.Machine.execBhs a b off s
  | .bz a off => Sys2Proof.Machine.execBz a off s
  | .bnz a off => Sys2Proof.Machine.execBnz a off s
  | .b t => Sys2Proof.Machine.execB t s
  | .j t => Sys2Proof.Machine.execJ t s
  | .call t => Sys2Proof.Machine.execCall t s
  | .loop a len => Sys2Proof.Machine.execLoop a len s
  | .loopi n len => Sys2Proof.Machine.execLoopi n len s
  | .sig t => Sys2Proof.Machine.execSig t s
  | .done => Sys2Proof.Machine.execDone s
  | .yield => Sys2Proof.Machine.execYield s
  | .wfe => Sys2Proof.Machine.execWfe s
  | .sev => Sys2Proof.Machine.execSev s
  | .brk imm => Sys2Proof.Machine.execBrk imm s
  | .sysc imm => Sys2Proof.Machine.execSysc imm s
  | .eret => Sys2Proof.Machine.execEret s
  | .jr a => Sys2Proof.Machine.execJr a s
  | .callr a => Sys2Proof.Machine.execCallr a s
  | .ret => Sys2Proof.Machine.execRet s
  | .clen a => Sys2Proof.Machine.execClen a s
  | .cldis a => Sys2Proof.Machine.execCldis a s
  | .clpend b a => Sys2Proof.Machine.execClpend b a s
  | .savew a => Sys2Proof.Machine.execSavew a s
  | .loadw a => Sys2Proof.Machine.execLoadw a s
  | .ctxrd b a => Sys2Proof.Machine.execCtxrd b a s
  | .ctxwr a b => Sys2Proof.Machine.execCtxwr a b s
  | .fence pred succ scope => Sys2Proof.Machine.execFence pred succ scope s
  | .linkc dir => Sys2Proof.Machine.execLinkc dir s
  | .linkf dir => Sys2Proof.Machine.execLinkf dir s
  | .gbar a => Sys2Proof.Machine.execGbar a s
  | .gwait a => Sys2Proof.Machine.execGwait a s
  | .sift a => Sys2Proof.Machine.execSift a s
  | .launch p => Sys2Proof.Machine.execLaunch p s
  | .cancel a => Sys2Proof.Machine.execCancel a s
  | .xinv p => Sys2Proof.Machine.execXinv p s
  | .trace a => Sys2Proof.Machine.execTrace a s
  | .ctrsnap p => Sys2Proof.Machine.execCtrsnap p s
  | .csrr d csr => Sys2Proof.Machine.execCsrr d csr s
  | .csrw d csr => Sys2Proof.Machine.execCsrw d csr s
  | .csrset d csr => Sys2Proof.Machine.execCsrset d csr s
  | .csrclr d csr => Sys2Proof.Machine.execCsrclr d csr s
  | .ld d x sgn sz os p off => Sys2Proof.Machine.execLd d x sgn sz os p off s
  | .ldw d x sgn sz os p off => Sys2Proof.Machine.execLdw d x sgn sz os p off s
  | .ldc d x sgn sz os p off => Sys2Proof.Machine.execLdc d x sgn sz os p off s
  | .st d x sgn sz os p off => Sys2Proof.Machine.execSt d x sgn sz os p off s
  | .stf d x sgn sz os p off => Sys2Proof.Machine.execStf d x sgn sz os p off s
  | .feget d x os p off => Sys2Proof.Machine.execFeget d x os p off s
  | .feset d x full os p off => Sys2Proof.Machine.execFeset d x full os p off s
  | .pld q x os p off => Sys2Proof.Machine.execPld q x os p off s
  | .pst q x os p off => Sys2Proof.Machine.execPst q x os p off s
  | .new pd kind a perm => Sys2Proof.Machine.execNew pd kind a perm s
  | .newp pd kind a perm => Sys2Proof.Machine.execNewp pd kind a perm s
  | .vld v x m os p off => Sys2Proof.Machine.execVld v x m os p off s
  | .vldw v x m os p off => Sys2Proof.Machine.execVldw v x m os p off s
  | .vldc v x m os p off => Sys2Proof.Machine.execVldc v x m os p off s
  | .vst v x m os p off => Sys2Proof.Machine.execVst v x m os p off s
  | .vstf v x m os p off => Sys2Proof.Machine.execVstf v x m os p off s
  | .vgath v m os p vi => Sys2Proof.Machine.execVgath v m os p vi s
  | .vscat v m os p vi => Sys2Proof.Machine.execVscat v m os p vi s
  | .padd pa pb r => Sys2Proof.Machine.execPadd pa pb r s
  | .pnarrow pa pb r t => Sys2Proof.Machine.execPnarrow pa pb r t s
  | .pview pa pb view => Sys2Proof.Machine.execPview pa pb view s
  | .pperm pa pb mask => Sys2Proof.Machine.execPperm pa pb mask s
  | .plen r pb => Sys2Proof.Machine.execPlen r pb s
  | .pcmp r pa pb => Sys2Proof.Machine.execPcmp r pa pb s
  | .pmov pa pb => Sys2Proof.Machine.execPmov pa pb s
  | .touch pa => Sys2Proof.Machine.execTouch pa s
  | .acq pa scope => Sys2Proof.Machine.execAcq pa scope s
  | .rel pa scope => Sys2Proof.Machine.execRel pa scope s
  | .vadd vx d a b => Sys2Proof.Machine.execVadd vx d a b s
  | .vsub vx d a b => Sys2Proof.Machine.execVsub vx d a b s
  | .vmul vx d a b => Sys2Proof.Machine.execVmul vx d a b s
  | .vfma vx d a b => Sys2Proof.Machine.execVfma vx d a b s
  | .vfms vx d a b => Sys2Proof.Machine.execVfms vx d a b s
  | .vmin vx d a b => Sys2Proof.Machine.execVmin vx d a b s
  | .vmax vx d a b => Sys2Proof.Machine.execVmax vx d a b s
  | .vclamp vx d a b => Sys2Proof.Machine.execVclamp vx d a b s
  | .vand vx d a b => Sys2Proof.Machine.execVand vx d a b s
  | .vor vx d a b => Sys2Proof.Machine.execVor vx d a b s
  | .vxor vx d a b => Sys2Proof.Machine.execVxor vx d a b s
  | .vshl vx d a b => Sys2Proof.Machine.execVshl vx d a b s
  | .vshr vx d a b => Sys2Proof.Machine.execVshr vx d a b s
  | .vsar vx d a b => Sys2Proof.Machine.execVsar vx d a b s
  | .vdot vx d a b => Sys2Proof.Machine.execVdot vx d a b s
  | .vperm vx d a b => Sys2Proof.Machine.execVperm vx d a b s
  | .vabs vx d a => Sys2Proof.Machine.execVabs vx d a s
  | .vneg vx d a => Sys2Proof.Machine.execVneg vx d a s
  | .vrcp vx d a => Sys2Proof.Machine.execVrcp vx d a s
  | .vrsq vx d a => Sys2Proof.Machine.execVrsq vx d a s
  | .vexp2 vx d a => Sys2Proof.Machine.execVexp2 vx d a s
  | .vlog2 vx d a => Sys2Proof.Machine.execVlog2 vx d a s
  | .vmov vx d a => Sys2Proof.Machine.execVmov vx d a s
  | .viota vx d => Sys2Proof.Machine.execViota vx d s
  | .vbcast vx d a => Sys2Proof.Machine.execVbcast vx d a s
  | .vins vx d a lane => Sys2Proof.Machine.execVins vx d a lane s
  | .vext vx d a lane => Sys2Proof.Machine.execVext vx d a lane s
  | .vcmp vx md a b cond => Sys2Proof.Machine.execVcmp vx md a b cond s
  | .vsel vx d a b => Sys2Proof.Machine.execVsel vx d a b s
  | .vred vx d a op => Sys2Proof.Machine.execVred vx d a op s
  | .vscan vx d a op => Sys2Proof.Machine.execVscan vx d a op s
  | .vcvt vx d a src => Sys2Proof.Machine.execVcvt vx d a src s
  | .vqnt vx d a => Sys2Proof.Machine.execVqnt vx d a s
  | .vdq vx d a => Sys2Proof.Machine.execVdq vx d a s
  | .mand md ma mb => Sys2Proof.Machine.execMand md ma mb s
  | .mor md ma mb => Sys2Proof.Machine.execMor md ma mb s
  | .mxor md ma mb => Sys2Proof.Machine.execMxor md ma mb s
  | .mnot md ma => Sys2Proof.Machine.execMnot md ma s
  | .many d ma => Sys2Proof.Machine.execMany d ma s
  | .mall d ma => Sys2Proof.Machine.execMall d ma s
  | .mpop d ma => Sys2Proof.Machine.execMpop d ma s
  | .mfirst d ma => Sys2Proof.Machine.execMfirst d ma s
  | .mfrom md a => Sys2Proof.Machine.execMfrom md a s
  | .mto d ma => Sys2Proof.Machine.execMto d ma s
  | .mset md imm => Sys2Proof.Machine.execMset md imm s
  | .mma c pa tma pb tmb ty => Sys2Proof.Machine.execMma c pa tma pb tmb ty s
  | .mmaz c pa tma pb tmb ty => Sys2Proof.Machine.execMmaz c pa tma pb tmb ty s
  | .mcks c pa tma pb tmb ty => Sys2Proof.Machine.execMcks c pa tma pb tmb ty s
  | .shmma c pa tma pb tmb ty => Sys2Proof.Machine.execShmma c pa tma pb tmb ty s
  | .mchk r c => Sys2Proof.Machine.execMchk r c s
  | .mfix c r => Sys2Proof.Machine.execMfix c r s
  | .mld p tm => Sys2Proof.Machine.execMld p tm s
  | .maccld c p => Sys2Proof.Machine.execMaccld c p s
  | .maccst p c => Sys2Proof.Machine.execMaccst p c s
  | .mzero c => Sys2Proof.Machine.execMzero c s
  | .mtr c => Sys2Proof.Machine.execMtr c s
  | .mcmd r p => Sys2Proof.Machine.execMcmd r p s
  | .tmset tm p => Sys2Proof.Machine.execTmset tm p s
  | .tmget p tm => Sys2Proof.Machine.execTmget p tm s
  | .wdrun p slot => Sys2Proof.Machine.execWdrun p slot s
  | .wdres => Sys2Proof.Machine.execWdres s
  | .wdq r => Sys2Proof.Machine.execWdq r s
  | .send a b p => Sys2Proof.Machine.execSend a b p s
  | .sendv a b v => Sys2Proof.Machine.execSendv a b v s
  | .reply b p => Sys2Proof.Machine.execReply b p s
  | .sendh a b p => Sys2Proof.Machine.execSendh a b p s
  | .copy d p pg => Sys2Proof.Machine.execCopy d p pg s
  | .copyq d a => Sys2Proof.Machine.execCopyq d a s
  | .copyw a => Sys2Proof.Machine.execCopyw a s
  | .quiesce => Sys2Proof.Machine.execQuiesce s
  | .strm x p tm => Sys2Proof.Machine.execStrm x p tm s
  | .strmx x => Sys2Proof.Machine.execStrmx x s
  | .rise p a => Sys2Proof.Machine.execRise p a s
  | .risew p a => Sys2Proof.Machine.execRisew p a s
  | .hatch a => Sys2Proof.Machine.execHatch a s
  | .shjoin a => Sys2Proof.Machine.execShjoin a s
  | .shleave => Sys2Proof.Machine.execShleave s
  | .amoadd d p b os ty => Sys2Proof.Machine.execAmoadd d p b os ty s
  | .amofadd d p b os ty => Sys2Proof.Machine.execAmofadd d p b os ty s
  | .amomin d p b os ty => Sys2Proof.Machine.execAmomin d p b os ty s
  | .amomax d p b os ty => Sys2Proof.Machine.execAmomax d p b os ty s
  | .amoswp d p b os ty => Sys2Proof.Machine.execAmoswp d p b os ty s
  | .amocas d p b os ty => Sys2Proof.Machine.execAmocas d p b os ty s
  | .amologAnd d p b os ty => Sys2Proof.Machine.execAmologAnd d p b os ty s
  | .amologOr d p b os ty => Sys2Proof.Machine.execAmologOr d p b os ty s
  | .amologXor d p b os ty => Sys2Proof.Machine.execAmologXor d p b os ty s
  | .addiCompact d imm => Sys2Proof.Machine.execAddiCompact d imm s
  | .moviCompact d imm => Sys2Proof.Machine.execMoviCompact d imm s
  | .shliCompact d n => Sys2Proof.Machine.execShliCompact d n s
  | .shriCompact d n => Sys2Proof.Machine.execShriCompact d n s
  | .sariCompact d n => Sys2Proof.Machine.execSariCompact d n s
  | .addCompact d a => Sys2Proof.Machine.execAddCompact d a s
  | .subCompact d a => Sys2Proof.Machine.execSubCompact d a s
  | .andCompact d a => Sys2Proof.Machine.execAndCompact d a s
  | .orCompact d a => Sys2Proof.Machine.execOrCompact d a s
  | .xorCompact d a => Sys2Proof.Machine.execXorCompact d a s
  | .addMoveCompact d a => Sys2Proof.Machine.execAddMoveCompact d a s
  | .bzCompact a off => Sys2Proof.Machine.execBzCompact a off s
  | .bnzCompact a off => Sys2Proof.Machine.execBnzCompact a off s
  | .bCompact off => Sys2Proof.Machine.execBCompact off s
  | .ldS64Compact d p k => Sys2Proof.Machine.execLdS64Compact d p k s
  | .stS64Compact d p k => Sys2Proof.Machine.execStS64Compact d p k s
  | .ldS32Compact d p k => Sys2Proof.Machine.execLdS32Compact d p k s
  | .stS32Compact d p k => Sys2Proof.Machine.execStS32Compact d p k s
  | .doneCompact => Sys2Proof.Machine.execDoneCompact s
  | .yieldCompact => Sys2Proof.Machine.execYieldCompact s
  | .retCompact => Sys2Proof.Machine.execRetCompact s
  | .jrCompact a => Sys2Proof.Machine.execJrCompact a s
  | .wfeCompact => Sys2Proof.Machine.execWfeCompact s
  | .sevCompact => Sys2Proof.Machine.execSevCompact s
  | .callrCompact a => Sys2Proof.Machine.execCallrCompact a s
  | .vaddF32Compact d a => Sys2Proof.Machine.execVaddF32Compact d a s
  | .vmulF32Compact d a => Sys2Proof.Machine.execVmulF32Compact d a s
  | .messageArrival core => Sys2Proof.Machine.execMessageArrival core s
  | .dispatchDecision core => Sys2Proof.Machine.execDispatchDecision core s
  | .activationEntry core ctx => Sys2Proof.Machine.execActivationEntry core ctx s
  | .linkFlitArrival core dir => Sys2Proof.Machine.execLinkFlitArrival core dir s
  | .feRecheck core ctx => Sys2Proof.Machine.execFeRecheck core ctx s
  | .feParkTimeout core ctx => Sys2Proof.Machine.execFeParkTimeout core ctx s
  | .subByteWrite => Sys2Proof.Machine.execSubByteWrite s
  | .coreSift core => Sys2Proof.Machine.execCoreSift core s
  | .clusterSift clu => Sys2Proof.Machine.execClusterSift clu s
  | .dieSift die reg => Sys2Proof.Machine.execDieSift die reg s
  | .expanderFill clu blk => Sys2Proof.Machine.execExpanderFill clu blk s
  | .patrolScrub core gran => Sys2Proof.Machine.execPatrolScrub core gran s
  | .heapPatrolScrub stk gran => Sys2Proof.Machine.execHeapPatrolScrub stk gran s
  | .copyAccept unit => Sys2Proof.Machine.execCopyAccept unit s
  | .copyBeat unit => Sys2Proof.Machine.execCopyBeat unit s
  | .copyCompletion unit => Sys2Proof.Machine.execCopyCompletion unit s
  | .streamRefill core ctx x => Sys2Proof.Machine.execStreamRefill core ctx x s
  | .mldFill core => Sys2Proof.Machine.execMldFill core s
  | .matrixCommandAccept core => Sys2Proof.Machine.execMatrixCommandAccept core s
  | .matrixCommandRepeat core => Sys2Proof.Machine.execMatrixCommandRepeat core s
  | .sheetPairing core => Sys2Proof.Machine.execSheetPairing core s
  | .sheetPartialMerge core => Sys2Proof.Machine.execSheetPartialMerge core s
  | .weightBlockFetch core ctx => Sys2Proof.Machine.execWeightBlockFetch core ctx s
  | .bnop core ctx => Sys2Proof.Machine.execBnop core ctx s
  | .bmv core ctx => Sys2Proof.Machine.execBmv core ctx s
  | .bmvz core ctx => Sys2Proof.Machine.execBmvz core ctx s
  | .bbias core ctx => Sys2Proof.Machine.execBbias core ctx s
  | .bscale core ctx => Sys2Proof.Machine.execBscale core ctx s
  | .bact core ctx => Sys2Proof.Machine.execBact core ctx s
  | .bsend core ctx => Sys2Proof.Machine.execBsend core ctx s
  | .blink core ctx => Sys2Proof.Machine.execBlink core ctx s
  | .bend core ctx => Sys2Proof.Machine.execBend core ctx s
  | .bwait core ctx => Sys2Proof.Machine.execBwait core ctx s
  | .bwaitBudgetExpiry core ctx => Sys2Proof.Machine.execBwaitBudgetExpiry core ctx s
  | .preemptionRequest slot core => Sys2Proof.Machine.execPreemptionRequest slot core s
  | .preemptEntry core ctx => Sys2Proof.Machine.execPreemptEntry core ctx s
  | .saveTimerExpiry core ctx => Sys2Proof.Machine.execSaveTimerExpiry core ctx s
  | .sealEvent core ctx => Sys2Proof.Machine.execSealEvent core ctx s
  | .priorityPreempt core => Sys2Proof.Machine.execPriorityPreempt core s
  | .resumeDispatch core => Sys2Proof.Machine.execResumeDispatch core s
  | .resumeRequestSubmit core => Sys2Proof.Machine.execResumeRequestSubmit core s
  | .stealProbe core => Sys2Proof.Machine.execStealProbe core s
  | .stealTransfer core => Sys2Proof.Machine.execStealTransfer core s
  | .stealBackoffExpiry core => Sys2Proof.Machine.execStealBackoffExpiry core s
  | .refusalRetry id => Sys2Proof.Machine.execRefusalRetry id s
  | .ticketPresent id => Sys2Proof.Machine.execTicketPresent id s
  | .heldRetry id => Sys2Proof.Machine.execHeldRetry id s
  | .atomicService core => Sys2Proof.Machine.execAtomicService core s
  | .atomicReply core ctx => Sys2Proof.Machine.execAtomicReply core ctx s
  | .groupArrival core => Sys2Proof.Machine.execGroupArrival core s
  | .gwaitRecheck core ctx => Sys2Proof.Machine.execGwaitRecheck core ctx s
  | .timerExpiry core => Sys2Proof.Machine.execTimerExpiry core s
  | .timerEntry core ctx => Sys2Proof.Machine.execTimerEntry core ctx s
  | .traceRecordWrite core => Sys2Proof.Machine.execTraceRecordWrite core s
  | .coreStop core => Sys2Proof.Machine.execCoreStop core s
  | .coreGo core => Sys2Proof.Machine.execCoreGo core s
  | .stopComplete core => Sys2Proof.Machine.execStopComplete core s
  | .dieHalt die => Sys2Proof.Machine.execDieHalt die s
  | .dieRun die => Sys2Proof.Machine.execDieRun die s
  | .dieOffline die => Sys2Proof.Machine.execDieOffline die s
  | .dieShutter die => Sys2Proof.Machine.execDieShutter die s
  | .dieReopen die => Sys2Proof.Machine.execDieReopen die s
  | .translationWalk part va => Sys2Proof.Machine.execTranslationWalk part va s
  | .faultListRepresent stk => Sys2Proof.Machine.execFaultListRepresent stk s
  | .pageAnswerMap die v => Sys2Proof.Machine.execPageAnswerMap die v s
  | .pageAnswerRefuse die v => Sys2Proof.Machine.execPageAnswerRefuse die v s
  | .padRegisterWrite reg v => Sys2Proof.Machine.execPadRegisterWrite reg v s
  | .saveRegisterWrite reg v => Sys2Proof.Machine.execSaveRegisterWrite reg v s
  | .trbaseWrite reg v => Sys2Proof.Machine.execTrbaseWrite reg v s
  | .mgmtRegisterWrite reg v => Sys2Proof.Machine.execMgmtRegisterWrite reg v s
  | .loadImage => Sys2Proof.Machine.execLoadImage s
  | .loadCore core => Sys2Proof.Machine.execLoadCore core s
  | .clockStepRequest v => Sys2Proof.Machine.execClockStepRequest v s
  | .clockHandshake => Sys2Proof.Machine.execClockHandshake s
  | .clkstatWrite v => Sys2Proof.Machine.execClkstatWrite v s
  | .queueDoorbell v => Sys2Proof.Machine.execQueueDoorbell v s
  | .slotMap => Sys2Proof.Machine.execSlotMap s
  | .slotRelease slot => Sys2Proof.Machine.execSlotRelease slot s
  | .start slot => Sys2Proof.Machine.execStart slot s
  | .messagePlacement slot => Sys2Proof.Machine.execMessagePlacement slot s
  | .stop slot => Sys2Proof.Machine.execStop slot s
  | .launchComplete id => Sys2Proof.Machine.execLaunchComplete id s
  | .abandon q => Sys2Proof.Machine.execAbandon q s
  | .precmd v => Sys2Proof.Machine.execPrecmd v s
  | .cancelq v => Sys2Proof.Machine.execCancelq v s
  | .hostPostedWrite bar4 off data poisoned => Sys2Proof.Machine.execHostPostedWrite bar4 off data poisoned s
  | .routeRelease => Sys2Proof.Machine.execRouteRelease s
  | .landingStep route => Sys2Proof.Machine.execLandingStep route s
  | .routeAck route => Sys2Proof.Machine.execRouteAck route s
  | .hostRead bar4 off n => Sys2Proof.Machine.execHostRead bar4 off n s
  | .hostQueueWrite h => Sys2Proof.Machine.execHostQueueWrite h s
  | .hqheadWrite h v => Sys2Proof.Machine.execHqheadWrite h v s
  | .functionLevelReset => Sys2Proof.Machine.execFunctionLevelReset s
  | .perstReset => Sys2Proof.Machine.execPerstReset s
  | .mainPowerLoss => Sys2Proof.Machine.execMainPowerLoss s
  | .boot => Sys2Proof.Machine.execBoot s
  | .recoveryVerifyRun img => Sys2Proof.Machine.execRecoveryVerifyRun img s
  | .recoveryVerifyFlashRun img => Sys2Proof.Machine.execRecoveryVerifyFlashRun img s
  | .attestationRequest => Sys2Proof.Machine.execAttestationRequest s
  | .attestationReportDone nonce => Sys2Proof.Machine.execAttestationReportDone nonce s
  | .securityAlarm src => Sys2Proof.Machine.execSecurityAlarm src s
  | .checkpointSave => Sys2Proof.Machine.execCheckpointSave s
  | .checkpointRestore image => Sys2Proof.Machine.execCheckpointRestore image s
  | .checkpointAbort => Sys2Proof.Machine.execCheckpointAbort s
  | .checkpointComplete ok us => Sys2Proof.Machine.execCheckpointComplete ok us s
  | .powerControlTick avg => Sys2Proof.Machine.execPowerControlTick avg s
  | .fabricPortUp port => Sys2Proof.Machine.execFabricPortUp port s
  | .flitReceive port flit => Sys2Proof.Machine.execFlitReceive port flit s
  | .creditFlit port c0 c1 init => Sys2Proof.Machine.execCreditFlit port c0 c1 init s
  | .creditReport port => Sys2Proof.Machine.execCreditReport port s
  | .endToEndAck id ans => Sys2Proof.Machine.execEndToEndAck id ans s
  | .eyeMonitorWindow link mgn corr => Sys2Proof.Machine.execEyeMonitorWindow link mgn corr s
  | .linkRetrain link => Sys2Proof.Machine.execLinkRetrain link s
  | .portStepWrite link v => Sys2Proof.Machine.execPortStepWrite link v s
  | .scaleoutPacketReceive port pkt => Sys2Proof.Machine.execScaleoutPacketReceive port pkt s
  | .retransmitTimeout peer seq => Sys2Proof.Machine.execRetransmitTimeout peer seq s
  | .sqheadWrite die v => Sys2Proof.Machine.execSqheadWrite die v s

end Sys2Proof.Machine
end

