-- ==== Sys2Proof/Machine/Turn.lean ====
section
/-! DEFINITION. Turns (log 1): which agent moves next, and the issue of a core's contexts (05 R100). -/

namespace Sys2Proof.Machine

/-- Time passes (log 3): the timestamp counter runs, and so do the ck but during a clock handshake (R365, R366). -/
def State.tick (s : State) : State :=
  { s with
    ck := if s.pkg.clkBusy then s.ck else s.ck + 1
    fresh := s.fresh + 1
    pkg := { s.pkg with time := s.pkg.time + Config.tick s.fresh } }

/-! ## Issue (R100) -/

/-- The scheduler does not pass over the context (R84). -/
def Ctx.awake (q : Ctx) (ck : Nat) : Bool := q.yieldTo.isEmpty || q.yieldCk ≤ ck

/-- The context has something to do in its issue slot (R99, R100): a unit, its entry, or a pre-emption request to take
(R282). -/
def Ctx.runnable (q : Ctx) (x : Fin 8) (ck : Nat) : Bool :=
  q.takesPreempt x || match q.run with
  | .live => q.awake ck
  | .entering => true
  | _ => false

/-- A core that may issue (R311, R352, R354, R365). -/
def State.coreOn (s : State) (c : Nat) : Bool :=
  !(s.coreAt c).stopped && (s.dieAt (coreDie c)).st != 2 && !s.halted (coreDie c) && !s.pkg.clkBusy

/-- A unit of the context that s names. -/
def State.issue (s : State) : Out :=
  match s.fetch with
  | .ok i => exec i (s.fetched i.size)
  | .error e => .next (s.badFetch e)

/-- The next unit of context x of core c waits, and for what (R100). -/
def State.waits (s : State) (c : Nat) (x : Fin 8) : Option Nat :=
  match { s with core := c, ctx := x }.issue with
  | .next t => (t.ctxAt c x).blocked
  | _ => none

/-- What every context that issues units waits for now, which STATE and a frame show (R96, R287). -/
def State.readied (s : State) (c : Nat) : State :=
  allCtx.foldl (fun t y =>
    if (s.ctxAt c y).run != .live then t else t.updCtx c y fun q => { q with blocked := s.waits c y }) s

/-- The next unit of the context that s names reads the state of contexts (R96). -/
def State.inspects (s : State) : Bool := match s.fetch with
  | .ok (.ctxrd _ _) => true
  | _ => false

/-- A context that issues units, in its issue slot: a pending timer is taken before the next unit that is ready (R350). -/
def State.liveSlot (s : State) (c : Nat) (x : Fin 8) : Out :=
  let s := if { s with core := c, ctx := x }.inspects then (s.readied c).updCtx c x fun q => { q with blocked := none } else s
  match { s with core := c, ctx := x }.issue with
  | .next t =>
    if s.takesTimer c x && (t.ctxAt c x).blocked.isNone then execTimerEntry (Fin.ofNat 1024 c) x s else .next t
  | o => o

/-- The issue slot of context x of core c: what is taken before its next unit, in R229's order, or that unit. -/
def State.slotOf (s : State) (c : Nat) (x : Fin 8) : Out :=
  let core : Fin 1024 := Fin.ofNat 1024 c
  let q := s.ctxAt c x
  if q.takesPreempt x && !s.ownsSift c x then execPreemptEntry core x (s.readied c)
  else match q.run with
    | .entering => execActivationEntry core x s
    | .live => s.liveSlot c x
    | _ => .next s

/-- Context x of core c does not have its next unit ready: it has been found so. -/
def State.notReady (s : State) (c : Nat) (x : Fin 8) : Bool := (s.ctxAt c x).blocked.isSome

/-- Context x of core c is ready (R100): what it has to do can be done now. -/
def State.readyNow (s : State) (c : Nat) (x : Fin 8) : Bool :=
  (s.ctxAt c x).isReady && !s.heldBySift c x && match s.slotOf c x with
    | .next t => !t.notReady c x
    | _ => true

/-- Context x of core c has issued: a context that yields to others waits for those that were ready (R84), and an issue
of context 7 lets a handler operation be served (R323). -/
def State.afterIssue (s : State) (c : Nat) (x : Fin 8) : State :=
  let s := if x == 7 then s.updCore c fun k => { k with owes := true } else s
  if (s.ctxAt c x).yieldTo.isEmpty then s
  else s.updCtx c x fun q => { q with yieldTo := q.yieldTo.filter fun y => s.readyNow c (Fin.ofNat 8 y) }

/-- A context that a sift holds stalls (R177); where its next unit asks for that sift, it has met it (R335). -/
def State.held (s : State) (c : Nat) (x : Fin 8) : State :=
  let t := { s with core := c, ctx := x }
  match t.fetch with
  | .ok i => (t.meetSift i).stall sSIFT
  | .error _ => t.stall sSIFT

/-- Context x of core c in its issue slot, and whether it has used the slot. -/
def State.tryOwn (c : Nat) (x : Fin 8) (s : State) : Out × Bool :=
  if !(s.ctxAt c x).runnable x s.ck then (.next s, false)
  else if s.heldBySift c x then (.next (s.held c x), false)
  else match s.slotOf c x with
    | .next t =>
      -- a request that could not be taken yet leaves the slot to others
      let stuck := (s.ctxAt c x).takesPreempt x && !s.ownsSift c x && (t.ctxAt c x).takesPreempt x
      if t.notReady c x || stuck then (.next t, false) else (.next (t.afterIssue c x), true)
    | o => (o, true)

/-- A handler activation that comes before an operation is about to be dispatched (R323). -/
def State.comesFirst (s : State) (c : Nat) (e : HEntry) : Bool :=
  let k := s.coreAt c
  !k.ctxs[7].busy && !s.dispatchHeld c && !s.inSift c && k.runq.any fun f => f.hnd && f.before e

/-- The operation at the head of core c's handler queue is served (R323), and whether it could be. A sift that waits for
the atomics of its scope does not hold it (R177). -/
def State.tryServe (c : Nat) (s : State) : Out × Bool :=
  match (s.coreAt c).handler with
  | [] => (.next s, false)
  | e :: _ =>
    if s.comesFirst c e then (.next s, false) else
    let o := match e.op with
      | .arrive _ _ _ _ => execGroupArrival (Fin.ofNat 1024 c) s
      | .amo _ _ _ _ _ _ _ _ => execAtomicService (Fin.ofNat 1024 c) s
    match o with
    | .next t => (.next t, !(t.coreAt c).handler.contains e)
    | o => (o, true)

/-- A slot's second use, where the first has left it. -/
def orElse (r : Out × Bool) (f : State → Out × Bool) : Out × Bool :=
  match r with
  | (.next t, false) => f t
  | r => r

/-- An issue slot of core c's context x. Context 7's serves an operation of the handler queue while it has no
activation, or once its activation has issued a unit (R323); where that activation's unit is not ready, too (log 39). -/
def State.trySlot (c : Nat) (x : Fin 8) (s : State) : Out × Bool :=
  if x != 7 then s.tryOwn c x
  else if (s.coreAt c).owes || !(s.ctxAt c x).busy then orElse (s.tryServe c) (State.tryOwn c x)
  else orElse (s.tryOwn c x) (State.tryServe c)

/-- The contexts in circular order after the pointer (R100). -/
def circular (last : Fin 8) : List (Fin 8) := (upTo 8).map fun i => Fin.ofNat 8 (last.val + 1 + i)

/-- The first ready context of a list issues (R100); one that is not ready is passed over. -/
def State.tryCtxs (c : Nat) : List (Fin 8) → State → Out
  | [], s => .next s
  | x :: xs, s =>
    match s.trySlot c x with
    | (.next t, false) => t.tryCtxs c xs
    | (o, _) => o

/-- The contexts of core c in weight-driven mode go on, beside what issues: they issue no units (R100, R220). -/
def State.runWeights (c : Nat) : List (Fin 8) → State → Out
  | [], s => .next s
  | x :: xs, s =>
    let q := s.ctxAt c x
    let runs := match q.run with
      | .weights _ _ => !q.takesPreempt x && !s.heldBySift c x
      | _ => false
    if !runs then s.runWeights c xs else
    match s.wdTurn (Fin.ofNat 1024 c) x with
    | .next t => t.runWeights c xs
    | o => o

/-- A ck of core c counts (R341): one in which a context holds an activation, one of a probing core, which its probes
count, or an idle one. -/
def State.countCk (s : State) (c : Nat) : State :=
  let k := s.coreAt c
  if allCtx.any fun x => k.ctxs[x].busy then s.updCore c fun k => { k with runck := k.runck + 1 }
  else if s.idle c && !k.thief.backing then s
  else s.updCore c fun k => { k with idleck := k.idleck + 1 }

/-- Core c serves its handler queue alone: it is stopped, or its die offline, and not halted (R353, R354). -/
def State.servesOnly (s : State) (c : Nat) : Bool :=
  !s.coreOn c && !s.halted (coreDie c) && !s.pkg.clkBusy && !(s.coreAt c).handler.isEmpty

/-- Core c's turn: a ck of it counts (R341). -/
def State.coreStep (s : State) (c : Nat) : Out :=
  if s.coreOn c then
    match ({ s with coreTurn := c }.countCk c).runWeights c allCtx with
    | .next t => t.tryCtxs c (circular (s.coreAt c).last)
    | o => o
  else if s.servesOnly c then ({ s with coreTurn := c }.tryServe c).1
  else .next s

/-- A core that has a context with something to do, or an operation to serve. -/
def State.coreBusy (s : State) (c : Nat) : Bool :=
  s.servesOnly c || (s.coreOn c && (!(s.coreAt c).handler.isEmpty || allCtx.any fun x =>
    (s.ctxAt c x).runnable x s.ck || match (s.ctxAt c x).run with
      | .weights _ _ => true
      | _ => false))

/-- The next core after the one served last that has something to do, among those with state. -/
def State.nextCore (s : State) : Option Nat :=
  let cs := (s.cores.map Prod.fst).filter fun c => c < 1024 && s.coreBusy c
  match cs.find? (s.coreTurn < ·) with
  | some c => some c
  | none => cs.head?

/-! ## Due events -/

/-- An event of the machine itself happens. -/
def State.happen (s : State) : Due → Out
  | .dispatch c => execDispatchDecision (Fin.ofNat 1024 c) s
  | .linkFlit c d => execLinkFlitArrival (Fin.ofNat 1024 c) (Fin.ofNat 4 d) s
  | .recheck c x => execFeRecheck (Fin.ofNat 1024 c) (Fin.ofNat 8 x) s
  | .parkTimeout c x => execFeParkTimeout (Fin.ofNat 1024 c) (Fin.ofNat 8 x) s
  | .groupRecheck c x => execGwaitRecheck (Fin.ofNat 1024 c) (Fin.ofNat 8 x) s
  | .subByte => execSubByteWrite s
  | .coreSift c => execCoreSift (Fin.ofNat 1024 c) s
  | .clusterSift k => execClusterSift (Fin.ofNat 64 k) s
  | .dieSift d r => execDieSift (Fin.ofNat 4 d) (Fin.ofNat 8 r) s
  | .copyAccept u => execCopyAccept (Fin.ofNat 128 u) s
  | .copyBeat u => execCopyBeat (Fin.ofNat 128 u) s
  | .copyDone u => execCopyCompletion (Fin.ofNat 128 u) s
  | .strmRefill c x i => execStreamRefill (Fin.ofNat 1024 c) (Fin.ofNat 8 x) (Fin.ofNat 8 i) s
  | .mldFill c => execMldFill (Fin.ofNat 1024 c) s
  | .mcmdAccept c => execMatrixCommandAccept (Fin.ofNat 1024 c) s
  | .mcmdRepeat c => execMatrixCommandRepeat (Fin.ofNat 1024 c) s
  | .sheetPair c => execSheetPairing (Fin.ofNat 1024 c) s
  | .sheetMerge c => execSheetPartialMerge (Fin.ofNat 1024 c) s
  | .waitExpiry c x => execBwaitBudgetExpiry (Fin.ofNat 1024 c) (Fin.ofNat 8 x) s
  | .preempt n c => execPreemptionRequest (Fin.ofNat 128 n) (Fin.ofNat 1024 c) s
  | .saveExpiry c x => execSaveTimerExpiry (Fin.ofNat 1024 c) (Fin.ofNat 8 x) s
  | .seal c x => execSealEvent (Fin.ofNat 1024 c) (Fin.ofNat 8 x) s
  | .priority c => execPriorityPreempt (Fin.ofNat 1024 c) s
  | .probe c => execStealProbe (Fin.ofNat 1024 c) s
  | .transfer c => execStealTransfer (Fin.ofNat 1024 c) s
  | .backoff c => execStealBackoffExpiry (Fin.ofNat 1024 c) s
  | .refusal i => execRefusalRetry i s
  | .ticket i => execTicketPresent i s
  | .heldAgain i => execHeldRetry i s
  | .atomicReply c x => execAtomicReply (Fin.ofNat 1024 c) (Fin.ofNat 8 x) s
  | .message c => execMessageArrival (Fin.ofNat 1024 c) s
  | .timer c => execTimerExpiry (Fin.ofNat 1024 c) s
  | .traceWrite c => execTraceRecordWrite (Fin.ofNat 1024 c) s
  | .stopDone c => execStopComplete (Fin.ofNat 1024 c) s
  | .faults n => execFaultListRepresent (Fin.ofNat 12 n) s
  | .load => execLoadImage s
  | .loadCore c => execLoadCore (Fin.ofNat 1024 c) s
  | .handshake => execClockHandshake s
  | .mapSlot => match (upTo 128).find? s.releasable with
    | some n => execSlotRelease (Fin.ofNat 128 n) s
    | none => execSlotMap s
  | .start n => execStart (Fin.ofNat 128 n) s
  | .place n => execMessagePlacement (Fin.ofNat 128 n) s
  | .stop n => execStop (Fin.ofNat 128 n) s
  | .launchDone i => execLaunchComplete i s
  | .release => execRouteRelease s
  | .landing r => execLandingStep (Fin.ofNat 5 r) s
  | .ack r => execRouteAck (Fin.ofNat 5 r) s
  | .hostQueue h => execHostQueueWrite (Fin.ofNat 256 h) s
  | .boot => execBoot s
  | .offline d => execDieOffline (Fin.ofNat 4 d) s
  | .credit n => execCreditReport (Fin.ofNat 36 n) s
  | .resend j q => .next (s.resent j (BitVec.ofNat 32 q))
  | .cancelq v => .next (s.cancelHost v)
  | .refuse f => .next (s.refuseFault f)
  | .patrol c => .next (s.scrub c fun _ => true)
  | .stepApply n => .next (s.applyStep n)
  | .retrain n => .next (s.retrain n)
  | .posts => .next ((upTo 4).foldl (fun s d => s.sqJoin d []) s.runPosts)

/-- What the launch engine reads or writes lies in a pad of a halted die: it waits at the die's port (R355). -/
def State.engineHeld (s : State) : Bool :=
  s.padHeld s.pkg.qtbase || s.pkg.launches.any (fun l => s.padHeld l.blkptr || l.ptrs.any s.padHeld) ||
    s.pkg.records.any (fun e => s.padHeld e.2.2) || s.pkg.slots.any fun e => match e.2.queue with
      | some q => s.padHeld (s.queueRing q).1 || s.padHeld (s.maskPtr q)
      | none => false

/-- The event stands still: its die is halted (R354-R356), a sift holds it (R177, R179, R302), or a clock handshake runs
(R365). -/
def State.frozen (s : State) : Due → Bool
  | .handshake => false
  | .boot => false
  | e => s.pkg.clkBusy || match e with
    | .dispatch c => s.halted (coreDie c) || s.inSift c
    | .linkFlit c _ => s.halted (coreDie c)
    | .recheck c x => s.halted (coreDie c) || s.heldBySift c (Fin.ofNat 8 x)
    | .parkTimeout c x => (s.timerDies c (Fin.ofNat 8 x)).any s.halted
    | .groupRecheck c x => s.halted (coreDie c) || s.heldBySift c (Fin.ofNat 8 x)
    | .coreSift c => s.halted (coreDie c)
    | .clusterSift k => s.halted (k / 16)
    | .dieSift d _ => s.halted d
    | .copyAccept u => s.halted (u / 32)
    | .copyBeat u => s.halted (u / 32)
    | .copyDone u => s.halted (u / 32)
    | .strmRefill c _ _ => s.halted (coreDie c) || s.inSift c
    | .mldFill c => s.halted (coreDie c) || s.inSift c
    | .mcmdRepeat c => s.halted (coreDie c)
    | .sheetPair c => s.halted (coreDie c) || s.inSift c
    | .sheetMerge c => s.halted (coreDie c)
    | .waitExpiry c _ => s.halted (coreDie c)
    | .preempt _ c => s.halted (coreDie c) || s.inSift c
    | .saveExpiry c _ => s.halted (coreDie c)
    | .seal c _ => s.halted (coreDie c) || s.inSift c
    | .priority c => s.halted (coreDie c) || s.inSift c
    | .probe c => s.halted (coreDie c)
    | .transfer c => s.halted (coreDie c)
    | .backoff c => s.halted (coreDie c)
    | .atomicReply c _ => s.halted (coreDie c)
    | .timer c => s.halted (coreDie c)
    | .traceWrite c => s.halted (coreDie c)
    | .stopDone c => s.halted (coreDie c)
    | .loadCore c => s.halted (coreDie c)
    | .offline d => s.halted d
    | .refuse f => s.waiterHalted f.who
    | .cancelq _ => s.engineHeld
    | .mapSlot => s.engineHeld || s.pkg.saves
    | .start _ => s.engineHeld
    | .place _ => s.engineHeld
    | .stop _ => s.engineHeld
    | .launchDone _ => s.engineHeld
    | _ => false

/-- An event of the list may happen now. -/
def State.isDue (s : State) (e : Nat × Due) : Bool := e.1 ≤ s.ck && !s.frozen e.2

/-- A sift, which comes before anything else (R171). -/
def Due.isSift : Due → Bool
  | .coreSift _ => true
  | .clusterSift _ => true
  | .dieSift _ _ => true
  | _ => false

/-- The event at place k of the list happens, if it may. -/
def State.runDue (s : State) (k : Nat) : Out :=
  match s.pending[k]? with
  | none => .next s
  | some e => if s.isDue e then { s with pending := s.pending.eraseIdx k }.happen e.2 else .next s

/-! ## Turns -/

/-- The default turn: due events and inputs at even ck, cores at odd ck, each before the others. -/
def State.defaultTurn (s : State) : Option Turn :=
  let event := (s.pending.findIdx? s.isDue).map Turn.due
  let input := if s.inputs.isEmpty then none else some Turn.input
  let core := s.nextCore.map Turn.core
  if s.ck % 2 == 0 then event <|> input <|> core else core <|> event <|> input

/-- One turn. -/
def State.turn (s : State) : Turn → Out
  | .due k => s.runDue k
  | .input =>
    match s.inputs with
    | [] => .next s
    | i :: is => exec i { s with inputs := is }
  | .core c => s.coreStep c

/-- One step: time passes, and the agent whose turn it is moves; with none, nothing else happens. A sift that is due
comes first. -/
def State.move (s : State) : Out :=
  let s := s.tick
  match s.pending.findIdx? fun e => e.2.isSift && s.isDue e with
  | some k => s.runDue k
  | none =>
    match s.sched with
    | t :: ts => { s with sched := ts }.turn t
    | [] =>
      match s.defaultTurn with
      | some t => s.turn t
      | none => .next s

/-- An instruction's parcels stand at core 0's PC 0 in context 0, and it is core 0's turn (log 2). -/
def State.placed (s : State) (nbits w : Nat) : State :=
  let v := w % 2 ^ nbits
  let s := s.updMem fun m => m.write (routineBase 0) (bytesOf 6 v)
  let s := s.updCore 0 fun k =>
    { k with
      last := 7, stopped := false, stopping := false
      ctxs := (Vector.replicate 8 {}).set 0 { k.ctxs[0] with run := .live, pc := 0, request := none } }
  { s with
    dies := s.dies.set 0 { s.dies[0] with cmd := 0, dbg := 0 }
    pending := s.pending.filter fun e => !e.2.isSift
    pkg := { s.pkg with clkstat := 0 }
    sched := [.core 0] }

end Sys2Proof.Machine
end

