-- ==== Sys2Proof/Machine/Step.lean ====
section
/-! DEFINITION. The step of the machine, and the placing of one instruction where the next step fetches. -/

namespace Sys2Proof.Machine

/-- One step of the machine (log 1). -/
def step (s : State) : Host.Outcome State Fault Refusal := s.move

/-- s with one instruction where the next step fetches it (log 2). -/
def State.withFetchWord (s : State) (nbits w : Nat) : State := s.placed nbits w

end Sys2Proof.Machine
end

