-- ==== Sys2Proof/Safety.lean ====
section
/-! DEFINITION. The terms that claims are stated in: safe runs, the unit that issues, operands that are ready, and
what a piece of work leaves behind. -/

namespace Sys2Proof.Machine

/-! ## Runs -/

/-- A step answers with a next state. -/
def Goes (s : State) : Prop := ∃ t, step s = .next t

/-- k steps answer with next states. -/
def SafeFor : Nat → State → Prop
  | 0, _ => True
  | k + 1, s => ∃ t, step s = .next t ∧ SafeFor k t

/-! ## Work -/

/-- The state that some work leaves, whether it answers or stops. -/
def M.after {α : Type} (m : M α) (s : State) : State :=
  match m s with
  | .ok _ t => t
  | .error _ t => t

/-- The work answers a, and leaves t. -/
def M.answers {α : Type} (m : M α) (s : State) (a : α) (t : State) : Prop := m s = .ok a t

/-! ## The unit that issues -/

/-- The issuing context. -/
def State.now (s : State) : Ctx := s.ctxAt s.core s.ctx

/-- The issuing context's core. -/
def State.nowCore (s : State) : Core := s.coreAt s.core

/-- Nothing stands before the unit that the context issues: the handler's budget is not spent (R65), no atomic with .acq
of the context is unperformed (R385), no sift of its own waits (R177), and no word of the core's registers and queues
has an error or is to get one (R233, R235). -/
abbrev State.attempts (s : State) : Prop :=
  (s.ctx = 7 → s.now.hbudget ≠ 0) ∧ s.acqWaits s.core s.ctx = false ∧ s.ownsSift s.core s.ctx = false ∧
    s.codesClean s.core = true

/-- The checks that stand before the work of a unit (R229) pass: nothing stands before it, its encoding and its
place, and the register window. -/
abbrev State.issues (s : State) (i : Instr) : Prop :=
  s.attempts ∧ s.now.accepts i = true ∧ s.now.windowOk = true

/-- What the issuing activation has issued is performed (R386): no atomic of its own is on its way, and no trace record of
its own waits to be written. -/
abbrev State.performed (s : State) : Prop := s.amosOut s.now.actId = false ∧ s.tracesOut s.now.actId = []

/-- What the issuing activation has released is performed (R385 row 9). -/
abbrev State.released (s : State) : Prop := s.relsOut s.now.actId = false

/-- A trap of the issuing context is vectored, and does not end the activation (R62, R65). -/
abbrev State.vectors (s : State) : Prop := s.now.ts = false ∧ s.ctx ≠ 7

/-! ## Operands (R29, R100, R106-R109, R271) -/

/-- Scalar source c is ready, and v is what it reads. -/
abbrev State.gives (s : State) (c : Nat) (v : DWord) : Prop :=
  if c < 32 then s.now.awaits c = false ∧ s.now.reg c = v
  else if c < 36 then (s.nowCore.qs[Fin.ofNat 4 (c - 32)]).front s.ctx.val = some v
  else (s.nowCore.link (c - 36)).claim = some s.ctx ∧
    (s.nowCore.link (c - 36)).buf.head? = some (.scalar v)

/-- Vector source c is ready, and v is what it reads. -/
abbrev State.givesV (s : State) (c : Nat) (v : V512) : Prop :=
  if c < 32 then
    (s.now.stream c = none → s.now.v[Fin.ofNat 32 c] = v) ∧
      ∀ b ∈ s.now.stream c, b.ahead.head? = some (some v) ∨ (b.ahead = [] ∧ b.strips ≤ b.popped ∧ v = 0)
  else if c < 36 then (s.nowCore.qv[Fin.ofNat 4 (c - 32)]).front s.ctx.val = some v
  else (s.nowCore.link (c - 36)).claim = some s.ctx ∧
    (s.nowCore.link (c - 36)).buf.head? = some (.vector v)

/-- The direction that code c names can take a flit. -/
abbrev State.sends (s : State) (c : Nat) : Prop :=
  (s.nowCore.link (c - 36)).claim = some s.ctx ∧
    ∀ n ∈ neighbour s.core (c - 36), ((s.coreAt n).link (opposite (c - 36))).fill < 4

/-- Scalar destination c can be written. -/
abbrev State.takes (s : State) (c : Nat) : Prop :=
  if c < 32 then s.now.awaits c = false
  else if c < 36 then (s.nowCore.qs[Fin.ofNat 4 (c - 32)]).room 8 s.ctx.val = true
  else s.sends c

/-- Vector destination c can be written. -/
abbrev State.takesV (s : State) (c : Nat) : Prop :=
  if c < 32 then s.now.stream c = none
  else if c < 36 then (s.nowCore.qv[Fin.ofNat 4 (c - 32)]).room 4 s.ctx.val = true
  else s.sends c

/-- Every operand of a unit is ready. -/
def State.readyFor (s : State) (u : Uses) : Prop :=
  (∀ c ∈ u.ss, ∃ v, s.gives c v) ∧ (∀ c ∈ u.sv, ∃ v, s.givesV c v) ∧
    (∀ c ∈ u.ds, s.takes c) ∧ ∀ c ∈ u.dv, s.takesV c

/-- The state after a unit over u has written v to scalar destination d and its sources are popped. -/
def State.putS (s : State) (u : Uses) (d : Nat) (v : DWord) : State := M.after (do writeS d v; popAll u) s

/-- The state after a unit over u has written v to vector destination d and its sources are popped. -/
def State.putV (s : State) (u : Uses) (d : Nat) (v : V512) : State := M.after (do writeV d v; popAll u) s

end Sys2Proof.Machine
end

