-- ==== Sys2Proof/Certificates/Slice0/Obligations.lean ====
section
/-! DEFINITION. The statements for the provers. Each result is stated for every form of its instruction, and as what
exec answers; State.finish, which UnitCompletion states, is what a unit leaves behind its own effect, and State.takeTrap,
which TrapEntry states, what a trap leaves. Where a statement names an event that falls due later, its delay in steps
is the model's scheduling (log 1, log 3). -/

/-! ## Scalar instructions -/

namespace Sys2Proof.Claims

/-- A two-source integer operation of R68: from the n-bit sources, an integer whose low n bits are the result. -/
abbrev IntOp := (n : Nat) → BitVec n → BitVec n → Int

/-- Low(v, n) sign-extended to 64 bits, n = 64 or, with wd, 32 (R66). -/
def sizedResult (wd : Bool) (f : IntOp) (x y : DWord) : DWord :=
  if wd then (BitVec.ofInt 32 (f 32 (x.setWidth 32) (y.setWidth 32))).signExtend 64 else BitVec.ofInt 64 (f 64 x y)

/-- The column res of R68's table for the instructions of two sources. -/
def twoSource (wd : Bool) (d a b : Sc) : List (Instr × IntOp) :=
  [(.add wd d a b, fun _ x y => x.toNat + y.toNat),
   (.sub wd d a b, fun _ x y => (x.toNat : Int) - y.toNat),
   (.mul wd d a b, fun _ x y => x.toInt * y.toInt),
   (.mulh wd d a b, fun n x y => (x.toInt * y.toInt) / 2 ^ n),
   (.mulhn wd d a b, fun n x y => ((x.toNat * y.toNat) / 2 ^ n : Nat)),
   (.div wd d a b, fun _ x y => if y.toNat = 0 then -1 else x.toInt.tdiv y.toInt),
   (.divn wd d a b, fun _ x y => if y.toNat = 0 then -1 else (x.toNat / y.toNat : Nat)),
   (.rem wd d a b, fun _ x y => if y.toNat = 0 then x.toInt else x.toInt.tmod y.toInt),
   (.remn wd d a b, fun _ x y => if y.toNat = 0 then x.toNat else (x.toNat % y.toNat : Nat)),
   (.and wd d a b, fun _ x y => (x.toNat &&& y.toNat : Nat)),
   (.or wd d a b, fun _ x y => (x.toNat ||| y.toNat : Nat)),
   (.xor wd d a b, fun _ x y => (x.toNat ^^^ y.toNat : Nat)),
   (.shl wd d a b, fun n x y => (x.toNat * 2 ^ (y.toNat % n) : Nat)),
   (.shr wd d a b, fun n x y => (x.toNat / 2 ^ (y.toNat % n) : Nat)),
   (.sar wd d a b, fun n x y => x.toInt / 2 ^ (y.toNat % n)),
   (.rol wd d a b, fun n x y =>
     (x.toNat * 2 ^ (y.toNat % n) % 2 ^ n ||| x.toNat / 2 ^ (n - y.toNat % n) : Nat)),
   (.min wd d a b, fun _ x y => if x.toInt ≤ y.toInt then x.toInt else y.toInt),
   (.minn wd d a b, fun _ x y => if x.toNat ≤ y.toNat then x.toNat else y.toNat),
   (.max wd d a b, fun _ x y => if x.toInt ≥ y.toInt then x.toInt else y.toInt),
   (.maxn wd d a b, fun _ x y => if x.toNat ≥ y.toNat then x.toNat else y.toNat),
   (.seq wd d a b, fun _ x y => if x.toNat = y.toNat then 1 else 0),
   (.sne wd d a b, fun _ x y => if x.toNat ≠ y.toNat then 1 else 0),
   (.slt wd d a b, fun _ x y => if x.toInt < y.toInt then 1 else 0),
   (.slb wd d a b, fun _ x y => if x.toNat < y.toNat then 1 else 0)]

/-- The column res of R68's table for the instructions of one source. -/
def oneSource (wd : Bool) (d a : Sc) : List (Instr × IntOp) :=
  [(.clz wd d a, fun n x _ => (((List.range n).find? fun k => x.getLsbD (n - 1 - k)).getD n : Nat)),
   (.ctz wd d a, fun n x _ => (((List.range n).find? fun k => x.getLsbD k).getD n : Nat)),
   (.popc wd d a, fun n x _ => (((List.range n).filter fun k => x.getLsbD k).length : Nat)),
   (.abs wd d a, fun _ x _ => x.toInt.natAbs)]

/-- The instructions with an immediate source of R70 and R71: with their source value y. -/
def immediate (wd : Bool) (d a : Sc) (imm : BitVec 10) (k : Fin 64) : List (Instr × DWord × IntOp) :=
  [(.addi wd d a imm, imm.signExtend 64, fun _ x y => x.toNat + y.toNat),
   (.andi wd d a imm, imm.signExtend 64, fun _ x y => (x.toNat &&& y.toNat : Nat)),
   (.ori wd d a imm, imm.signExtend 64, fun _ x y => (x.toNat ||| y.toNat : Nat)),
   (.xori wd d a imm, imm.signExtend 64, fun _ x y => (x.toNat ^^^ y.toNat : Nat)),
   (.shli wd d a k, BitVec.ofNat 64 k.val, fun n x y => (x.toNat * 2 ^ (y.toNat % n) : Nat)),
   (.shri wd d a k, BitVec.ofNat 64 k.val, fun n x y => (x.toNat / 2 ^ (y.toNat % n) : Nat)),
   (.sari wd d a k, BitVec.ofNat 64 k.val, fun n x y => x.toInt / 2 ^ (y.toNat % n))]

/-- The compact forms that work on d and an immediate (R25, R71). -/
def compactImmediate (d : R5) (imm : BitVec 6) (k : Fin 64) : List (Instr × DWord × IntOp) :=
  [(.addiCompact d imm, imm.signExtend 64, fun _ x y => x.toNat + y.toNat),
   (.shliCompact d k, BitVec.ofNat 64 k.val, fun _ x y => (x.toNat * 2 ^ y.toNat : Nat)),
   (.shriCompact d k, BitVec.ofNat 64 k.val, fun _ x y => (x.toNat / 2 ^ y.toNat : Nat)),
   (.sariCompact d k, BitVec.ofNat 64 k.val, fun _ x y => x.toInt / 2 ^ y.toNat)]

/-- The compact forms that work on d and a (R25, R69). -/
def compactRegister (d a : R5) : List (Instr × IntOp) :=
  [(.addCompact d a, fun _ x y => x.toNat + y.toNat),
   (.subCompact d a, fun _ x y => (x.toNat : Int) - y.toNat),
   (.andCompact d a, fun _ x y => (x.toNat &&& y.toNat : Nat)),
   (.orCompact d a, fun _ x y => (x.toNat ||| y.toNat : Nat)),
   (.xorCompact d a, fun _ x y => (x.toNat ^^^ y.toNat : Nat))]

/-- Bits [pos + len - 1 : pos] of t become the low len bits of x (R74). -/
def withField (t x : DWord) (pos len : Nat) : DWord :=
  BitVec.ofNat 64 (t.toNat - t.toNat / 2 ^ pos % 2 ^ len * 2 ^ pos + x.toNat % 2 ^ len * 2 ^ pos)

end Sys2Proof.Claims

open Sys2Proof Sys2Proof.Machine

/-- R68, R66: each integer register instruction of two sources, whose operands are ready, completes with the n-bit
result of R68's table sign-extended in d; its sources are popped (R7). -/
def Sys2Proof.Claims.IntegerTwoSourceResults : Prop :=
  ∀ (s : State) (wd : Bool) (d a b : Sc) (x y : DWord), ∀ p ∈ Claims.twoSource wd d a b,
    s.issues p.1 → s.gives a.val x → s.gives b.val y → s.takes d.val →
    exec p.1 s = .next (s.finish p.1 .seq
      (s.putS { ss := [a.val, b.val], ds := [d.val] } d.val (Claims.sizedResult wd p.2 x y)))

/-- R68, R66: CLZ, CTZ, POPC and ABS. -/
def Sys2Proof.Claims.IntegerOneSourceResults : Prop :=
  ∀ (s : State) (wd : Bool) (d a : Sc) (x : DWord), ∀ p ∈ Claims.oneSource wd d a,
    s.issues p.1 → s.gives a.val x → s.takes d.val →
    exec p.1 s = .next (s.finish p.1 .seq
      (s.putS { ss := [a.val], ds := [d.val] } d.val (Claims.sizedResult wd p.2 x 0)))

/-- R69-R71: the immediate forms and the compact forms that stand for them. -/
def Sys2Proof.Claims.IntegerImmediateResults : Prop :=
  (∀ (s : State) (wd : Bool) (d a : Sc) (imm : BitVec 10) (k : Fin 64) (x : DWord),
    ∀ p ∈ Claims.immediate wd d a imm k, s.issues p.1 → s.gives a.val x → s.takes d.val →
    exec p.1 s = .next (s.finish p.1 .seq
      (s.putS { ss := [a.val], ds := [d.val] } d.val (Claims.sizedResult wd p.2.2 x p.2.1)))) ∧
  (∀ (s : State) (d : R5) (imm : BitVec 6) (k : Fin 64) (x : DWord),
    ∀ p ∈ Claims.compactImmediate d imm k, s.issues p.1 → s.gives d.val x → s.takes d.val →
    exec p.1 s = .next (s.finish p.1 .seq
      (s.putS { ss := [d.val], ds := [d.val] } d.val (Claims.sizedResult false p.2.2 x p.2.1)))) ∧
  (∀ (s : State) (d a : R5) (x y : DWord), ∀ p ∈ Claims.compactRegister d a,
    s.issues p.1 → s.gives d.val x → s.gives a.val y → s.takes d.val →
    exec p.1 s = .next (s.finish p.1 .seq
      (s.putS { ss := [d.val, a.val], ds := [d.val] } d.val (Claims.sizedResult false p.2 x y)))) ∧
  (∀ (s : State) (d a : R5) (x : DWord), s.issues (.addMoveCompact d a) → s.gives a.val x → s.gives 24 0 →
    s.takes d.val → exec (.addMoveCompact d a) s = .next (s.finish (.addMoveCompact d a) .seq
      (s.putS { ss := [a.val, 24], ds := [d.val] } d.val x)))

/-- Results of the integer instructions: IntegerTwoSourceResults, IntegerOneSourceResults and
IntegerImmediateResults. -/
def Obligations.IntegerResults : Prop :=
  Claims.IntegerTwoSourceResults ∧ Claims.IntegerOneSourceResults ∧ Claims.IntegerImmediateResults

/-- R72-R74: MOVI and its compact form, MOVHI, SEL, BFX and BFI. That MOVHI of a queue or a direction pops its old value
and pushes the new one is log 14. -/
def Obligations.MoveAndFieldResults : Prop :=
  (∀ (s : State) (d : Sc) (imm : BitVec 18), s.issues (.movi d imm) → s.takes d.val →
    exec (.movi d imm) s = .next (s.finish (.movi d imm) .seq
      (s.putS { ds := [d.val] } d.val (imm.signExtend 64)))) ∧
  (∀ (s : State) (d : R5) (imm : BitVec 6), s.issues (.moviCompact d imm) → s.takes d.val →
    exec (.moviCompact d imm) s = .next (s.finish (.moviCompact d imm) .seq
      (s.putS { ds := [d.val] } d.val (imm.signExtend 64)))) ∧
  (∀ (s : State) (d : Sc) (imm : BitVec 16) (k : Fin 4) (x : DWord), s.issues (.movhi d imm k) →
    s.gives d.val x → s.takes d.val →
    exec (.movhi d imm k) s = .next (s.finish (.movhi d imm k) .seq
      (s.putS { ss := [d.val], ds := [d.val] } d.val (Claims.withField x (imm.setWidth 64) (16 * k.val) 16)))) ∧
  (∀ (s : State) (wd : Bool) (d : Sc) (c : Fin 16) (a b : Sc) (t x y : DWord), s.issues (.sel wd d c a b) →
    s.gives (if c.val < 8 then c.val else c.val + 16) t → s.gives a.val x → s.gives b.val y → s.takes d.val →
    exec (.sel wd d c a b) s = .next (s.finish (.sel wd d c a b) .seq
      (s.putS { ss := [if c.val < 8 then c.val else c.val + 16, a.val, b.val], ds := [d.val] } d.val
        (Claims.sizedResult wd (fun n x y => if (t.setWidth n) ≠ 0 then x.toInt else y.toInt) x y)))) ∧
  (∀ (s : State) (d a : Sc) (pos lm : Fin 64) (x : DWord), s.issues (.bfx d a pos lm) → s.gives a.val x →
    s.takes d.val → exec (.bfx d a pos lm) s = .next (s.finish (.bfx d a pos lm) .seq
      (s.putS { ss := [a.val], ds := [d.val] } d.val
        (BitVec.ofNat 64 (x.toNat / 2 ^ pos.val % 2 ^ (lm.val + 1)))))) ∧
  (∀ (s : State) (d a : Sc) (pos lm : Fin 64) (x t : DWord), s.issues (.bfi d a pos lm) → s.gives a.val x →
    (d.val < 32 → s.gives d.val t) → (32 ≤ d.val → t = 0) → s.takes d.val →
    exec (.bfi d a pos lm) s = .next (s.finish (.bfi d a pos lm) .seq
      (s.putS { ss := if d.val < 32 then [d.val, a.val] else [a.val], ds := [d.val] } d.val
        (Claims.withField t x pos.val (lm.val + 1)))))

/-! ## Branches, jumps, calls and loops -/

namespace Sys2Proof.Claims

/-- The conditional branches on two sources, with the condition of R75's table. -/
def branchTwo (a b : Sc) (off : BitVec 10) : List (Instr × (DWord → DWord → Bool)) :=
  [(.beq a b off, fun x y => x.toNat = y.toNat), (.bne a b off, fun x y => x.toNat ≠ y.toNat),
   (.blt a b off, fun x y => x.toInt < y.toInt), (.bge a b off, fun x y => x.toInt ≥ y.toInt),
   (.blo a b off, fun x y => x.toNat < y.toNat), (.bhs a b off, fun x y => x.toNat ≥ y.toNat)]

/-- The conditional branches on one source: the source, the offset in parcels, and the condition. -/
def branchOne (a : Sc) (c : R5) (off : BitVec 10) (imm : BitVec 6) : List (Instr × Nat × Int × (DWord → Bool)) :=
  [(.bz a off, a.val, off.toInt, fun x => x.toNat = 0), (.bnz a off, a.val, off.toInt, fun x => x.toNat ≠ 0),
   (.bzCompact c imm, c.val, imm.toInt, fun x => x.toNat = 0),
   (.bnzCompact c imm, c.val, imm.toInt, fun x => x.toNat ≠ 0)]

/-- PC + 2 * off. -/
def relTarget (s : State) (off : Int) : Int := s.now.pc.toNat + 2 * off

/-- The target lies in the routine store. -/
abbrev inStore (t : Int) : Prop := 0 ≤ t ∧ t < 65536

/-- The state after a unit has done no more than pop its sources. -/
def popped (s : State) (ss : List Nat) : State := M.after (popAll { ss := ss }) s

end Sys2Proof.Claims

/-- R75: a conditional branch of two sources goes to PC + 2 * off where its condition holds, raises ILLEGAL where that
lies outside the store, and otherwise falls through. -/
def Obligations.ConditionalBranches : Prop :=
  (∀ (s : State) (a b : Sc) (off : BitVec 10) (x y : DWord), ∀ p ∈ Claims.branchTwo a b off,
    s.issues p.1 → s.gives a.val x → s.gives b.val y →
    (p.2 x y = false → exec p.1 s = .next (s.finish p.1 .seq (Claims.popped s [a.val, b.val]))) ∧
    (p.2 x y = true → Claims.inStore (Claims.relTarget s off.toInt) →
      exec p.1 s = .next (s.finish p.1 (.jump (BitVec.ofInt 64 (Claims.relTarget s off.toInt)))
        (Claims.popped s [a.val, b.val]))) ∧
    (p.2 x y = true → ¬ Claims.inStore (Claims.relTarget s off.toInt) →
      exec p.1 s = .next (s.takeTrap cILLEGAL 0 none none))) ∧
  (∀ (s : State) (a : Sc) (c : R5) (off : BitVec 10) (imm : BitVec 6) (x : DWord),
    ∀ p ∈ Claims.branchOne a c off imm, s.issues p.1 → s.gives p.2.1 x →
    (p.2.2.2 x = false → exec p.1 s = .next (s.finish p.1 .seq (Claims.popped s [p.2.1]))) ∧
    (p.2.2.2 x = true → Claims.inStore (Claims.relTarget s p.2.2.1) →
      exec p.1 s = .next (s.finish p.1 (.jump (BitVec.ofInt 64 (Claims.relTarget s p.2.2.1)))
        (Claims.popped s [p.2.1]))) ∧
    (p.2.2.2 x = true → ¬ Claims.inStore (Claims.relTarget s p.2.2.1) →
      exec p.1 s = .next (s.takeTrap cILLEGAL 0 none none)))

/-- R76: B and its compact form go to PC + 2 * offset, J to twice its target, JR and its compact form to a register's
value; ILLEGAL outside the store, and ALIGN, with the target in TRAPVAL, of an odd one. -/
def Sys2Proof.Claims.Jumps : Prop :=
  (∀ (s : State) (i : Instr) (off : Int),
    (∃ t : BitVec 24, i = .b t ∧ off = t.toInt) ∨ (∃ t : BitVec 11, i = .bCompact t ∧ off = t.toInt) →
    s.issues i →
    (Claims.inStore (Claims.relTarget s off) →
      exec i s = .next (s.finish i (.jump (BitVec.ofInt 64 (Claims.relTarget s off))) s)) ∧
    (¬ Claims.inStore (Claims.relTarget s off) → exec i s = .next (s.takeTrap cILLEGAL 0 none none))) ∧
  (∀ (s : State) (t : BitVec 24), s.issues (.j t) →
    exec (.j t) s = .next (s.finish (.j t) (.jump (BitVec.ofNat 64 (2 * t.toNat))) s)) ∧
  (∀ (s : State) (a : Sc) (t : DWord), ∀ i ∈ [Instr.jr a, Instr.jrCompact a], s.issues i → s.gives a.val t →
    (t.toNat < 65536 → t.toNat % 2 = 0 → exec i s = .next (s.finish i (.jump t) (Claims.popped s [a.val]))) ∧
    (t.toNat % 2 = 1 → exec i s = .next (s.takeTrap cALIGN t.toNat none none)) ∧
    (65536 ≤ t.toNat → t.toNat % 2 = 0 → exec i s = .next (s.takeTrap cILLEGAL 0 none none)))

namespace Sys2Proof.Claims

/-- The state in which the callee's window, with its return address, is entered (R55). -/
def entered (s : State) (ret : DWord) : State := s.updCtx s.core s.ctx (·.enter ret)

/-- Spill unit n of the issuing context lies in a core or die pad, and can be written, or read (R57). -/
abbrev unitAt (s : State) (n : Nat) (write : Bool) : Prop :=
  spillOk s s.now.spill n write = true ∧ isHeap (s.now.spillPlace n) = false ∧ levelOf (s.now.spillPlace n) ≠ 1

/-- A call finds fewer than 16 registers free, and the spill object has room for a unit (R56). -/
abbrev spills (s : State) : Prop :=
  s.nowCore.freeTo s.ctx < 16 ∧ s.now.spilltop.toNat + 1 ≤ s.now.spillcap.toNat ∧ unitAt s s.now.spilltop.toNat true

/-- The oldest frame can be spilled, where a call must spill one (R56, R57). -/
abbrev callFits (s : State) : Prop :=
  s.nowCore.freeTo s.ctx < 16 → s.now.spilltop.toNat + 1 ≤ s.now.spillcap.toNat ∧
    spillOk s s.now.spill s.now.spilltop.toNat true = true

/-- No granule of n bytes at place k is poisoned, and no error of R235 waits in the stores of the issuing core. -/
abbrev clean (s : State) (k n : Nat) : Prop :=
  (∀ g ∈ granules k n, s.mem.isPoisoned g = false) ∧ s.nowCore.flips = []

/-- The caller's frame is not resident, and can be reloaded without an error (R56). -/
abbrev reloads (s : State) : Prop :=
  s.now.below = [] ∧ unitAt s (s.now.spilltop.toNat - 1) false ∧ clean s (s.now.spillPlace (s.now.spilltop.toNat - 1)) 128

/-- The calls, with their target and their size: what they read, and the address that they give. -/
def calls (s : State) (tgt : BitVec 24) (a : Sc) (v : DWord) : List (Instr × Nat × DWord × List Nat × Prop) :=
  [(.call tgt, 4, BitVec.ofNat 64 (2 * tgt.toNat), [], True),
   (.callr a, 4, v, [a.val], s.gives a.val v ∧ v.toNat % 2 = 0 ∧ v.toNat < 65536),
   (.callrCompact a, 2, v, [a.val], s.gives a.val v ∧ v.toNat % 2 = 0 ∧ v.toNat < 65536)]

end Sys2Proof.Claims

/-- R77, R78: where 16 registers are free, CALL and CALLR enter the callee's window and go to their target; where the
caller's frame is resident, RET leaves the window and goes to w7. The compact forms are as these. -/
def Sys2Proof.Claims.CallsAndReturns : Prop :=
  (∀ (s : State) (tgt : BitVec 24) (a : Sc) (v : DWord), ∀ p ∈ Claims.calls s tgt a v,
    s.issues p.1 → p.2.2.2.2 → s.now.awaits 23 = false → 16 ≤ s.nowCore.freeTo s.ctx →
    exec p.1 s = .next (s.finish p.1 (.jump p.2.2.1)
      (Claims.popped (Claims.entered s (s.now.pc + BitVec.ofNat 64 p.2.1)) p.2.2.2.1))) ∧
  (∀ (s : State), ∀ i ∈ [Instr.ret, Instr.retCompact], s.issues i →
    (∀ r, 7 ≤ r → r < 24 → s.now.awaits r = false) →
    s.now.depth ≠ 0 → (s.now.w[7]).toNat % 2 = 0 → (s.now.w[7]).toNat < 65536 → s.now.below ≠ [] →
    exec i s = .next (s.finish i (.jump s.now.w[7]) (s.updCtx s.core s.ctx Ctx.leave)))

/-- R56: a call that finds fewer than 16 registers free sends the oldest frame to the spill object; a return whose
caller's frame is not resident reloads it first. -/
def Sys2Proof.Claims.SpillingCalls : Prop :=
  (∀ (s : State) (tgt : BitVec 24) (a : Sc) (v : DWord), ∀ p ∈ Claims.calls s tgt a v,
    s.issues p.1 → p.2.2.2.2 → s.now.awaits 23 = false → Claims.spills s →
    exec p.1 s = .next (s.finish p.1 (.jump p.2.2.1)
      (Claims.popped (M.after spillOldest (Claims.entered s (s.now.pc + BitVec.ofNat 64 p.2.1))) p.2.2.2.1))) ∧
  (∀ (s : State), ∀ i ∈ [Instr.ret, Instr.retCompact], s.issues i →
    (∀ r, 7 ≤ r → r < 24 → s.now.awaits r = false) →
    s.now.depth ≠ 0 → (s.now.w[7]).toNat % 2 = 0 → (s.now.w[7]).toNat < 65536 → Claims.reloads s →
    exec i s = .next (s.finish i (.jump s.now.w[7]) ((M.after reloadOne s).updCtx s.core s.ctx Ctx.leave)))

/-- R77, R78, R57: an odd target of a call or return raises ALIGN, one beyond the store ILLEGAL; RET at depth zero
raises ILLEGAL; a frame that cannot be spilled or reloaded raises WINDOW, which stands before ALIGN (R229). -/
def Sys2Proof.Claims.CallTraps : Prop :=
  (∀ (s : State) (a : Sc) (v : DWord), ∀ i ∈ [Instr.callr a, Instr.callrCompact a], s.issues i → s.gives a.val v →
    (v.toNat % 2 = 1 → s.now.awaits 23 = false → Claims.callFits s →
      exec i s = .next (s.takeTrap cALIGN v.toNat none none)) ∧
    (v.toNat % 2 = 1 ∨ v.toNat < 65536 → s.now.awaits 23 = false → ¬ Claims.callFits s →
      exec i s = .next (s.takeTrap cWINDOW 0 none none)) ∧
    (v.toNat % 2 = 0 → 65536 ≤ v.toNat → exec i s = .next (s.takeTrap cILLEGAL 0 none none))) ∧
  (∀ (s : State) (tgt : BitVec 24), s.issues (.call tgt) → s.now.awaits 23 = false → ¬ Claims.callFits s →
    exec (.call tgt) s = .next (s.takeTrap cWINDOW 0 none none)) ∧
  (∀ (s : State), ∀ i ∈ [Instr.ret, Instr.retCompact], s.issues i →
    (∀ r, 7 ≤ r → r < 24 → s.now.awaits r = false) →
    (s.now.depth = 0 → exec i s = .next (s.takeTrap cILLEGAL 0 none none)) ∧
    (s.now.depth ≠ 0 → (s.now.w[7]).toNat % 2 = 1 →
      (s.now.below = [] → spillOk s s.now.spill (s.now.spilltop.toNat - 1) false = true) →
      exec i s = .next (s.takeTrap cALIGN (s.now.w[7]).toNat none none)) ∧
    (s.now.depth ≠ 0 → (s.now.w[7]).toNat % 2 = 1 ∨ (s.now.w[7]).toNat < 65536 → s.now.below = [] →
      spillOk s s.now.spill (s.now.spilltop.toNat - 1) false = false →
      exec i s = .next (s.takeTrap cWINDOW 0 none none)) ∧
    (s.now.depth ≠ 0 → (s.now.w[7]).toNat % 2 = 0 → 65536 ≤ (s.now.w[7]).toNat →
      exec i s = .next (s.takeTrap cILLEGAL 0 none none)))

/-- R55: the callee's w0-w6 are the caller's w16-w22, its w7 is the return address and the rest reads zero; a return
gives the caller its w0-w15 back, and its w16-w23 are the callee's w0-w7. -/
def Sys2Proof.Claims.RegisterWindow : Prop :=
  (∀ (q : Ctx) (ret : DWord) (j : Fin 24),
    (q.enter ret).w[j] = (if j.val = 7 then ret else if j.val < 8 then q.w[Fin.ofNat 24 (16 + j.val)] else 0)) ∧
  (∀ (q : Ctx) (ret : DWord), (q.enter ret).depth = q.depth + 1 ∧ (q.enter ret).g = q.g ∧ (q.enter ret).p = q.p ∧
    (q.enter ret).v = q.v ∧ (q.enter ret).below.length = q.below.length + 1) ∧
  (∀ (q : Ctx) (ret : DWord) (j : Fin 24),
    (q.enter ret).leave.w[j] = (if j.val = 23 then ret else q.w[j])) ∧
  (∀ (q : Ctx) (ret : DWord), (q.enter ret).leave.depth = q.depth ∧ (q.enter ret).leave.below = q.below)

/-- Calls, returns and the register window: CallsAndReturns, SpillingCalls, CallTraps and RegisterWindow. -/
def Obligations.CallsAndWindows : Prop :=
  Claims.CallsAndReturns ∧ Claims.SpillingCalls ∧ Claims.CallTraps ∧ Claims.RegisterWindow

/-- R80: LOOP and LOOPI set LSTART, LEND and LCOUNT, and skip the body where the count is zero. -/
def Sys2Proof.Claims.LoopStarts : Prop :=
  (∀ (s : State) (n : BitVec 8) (len : BitVec 16), s.issues (.loopi n len) →
    s.now.pc.toNat + 4 + 2 * len.toNat ≤ 65536 →
    exec (.loopi n len) s = .next (s.finish (.loopi n len)
      (.jump (if n = 0 then BitVec.ofNat 64 (s.now.pc.toNat + 4 + 2 * len.toNat) else s.now.pc + 4))
      (s.updCtx s.core s.ctx fun q => { q with
        lstart := s.now.pc + 4, lend := BitVec.ofNat 64 (s.now.pc.toNat + 4 + 2 * len.toNat)
        lcount := BitVec.ofNat 32 n.toNat }))) ∧
  (∀ (s : State) (a : Sc) (len : BitVec 16) (x : DWord), s.issues (.loop a len) → s.gives a.val x →
    s.now.pc.toNat + 4 + 2 * len.toNat ≤ 65536 →
    exec (.loop a len) s = .next (s.finish (.loop a len)
      (.jump (if x.toNat = 0 then BitVec.ofNat 64 (s.now.pc.toNat + 4 + 2 * len.toNat) else s.now.pc + 4))
      (Claims.popped (s.updCtx s.core s.ctx fun q => { q with
        lstart := s.now.pc + 4, lend := BitVec.ofNat 64 (s.now.pc.toNat + 4 + 2 * len.toNat)
        lcount := BitVec.ofNat 32 (min x.toNat (2 ^ 32 - 1)) }) [a.val]))) ∧
  (∀ (s : State) (n : BitVec 8) (a : Sc) (len : BitVec 16) (x : DWord), s.gives a.val x →
    ∀ i ∈ [Instr.loopi n len, Instr.loop a len], s.issues i → 65536 < s.now.pc.toNat + 4 + 2 * len.toNat →
    exec i s = .next (s.takeTrap cILLEGAL 0 none none))

/-- B, J, JR, LOOP and LOOPI: Jumps and LoopStarts. -/
def Obligations.JumpsAndLoops : Prop :=
  Claims.Jumps ∧ Claims.LoopStarts

/-- R81, R100, R230: what completion of a unit does to its context: PC goes on by the unit's size, or back to LSTART
at the loop's end while the count lasts; a transfer goes to its target; S takes the unit in; the round-robin pointer
moves to the context; every other context but for its YIELD list is as the unit's work left it. -/
def Obligations.UnitCompletion : Prop :=
  ∀ (s t : State) (i : Instr), t.core = s.core →
    (let q := (s.finish i .seq t).ctxAt s.core s.ctx
     let p := t.ctxAt s.core s.ctx
     let next := s.now.pc + BitVec.ofNat 64 i.size
     (p.lcount = 0 ∨ next ≠ p.lend → q.pc = next ∧ q.lcount = p.lcount) ∧
     (p.lcount ≠ 0 → next = p.lend → q.lcount = p.lcount - 1 ∧
       q.pc = (if p.lcount = 1 then p.lend else p.lstart)) ∧
     q.sig = sigAfter i s.now.pc.toNat p.sig ∧ q.w = p.w ∧ q.g = p.g ∧ q.p = p.p ∧ q.v = p.v ∧ q.m = p.m) ∧
    (∀ a, ((s.finish i (.jump a) t).ctxAt s.core s.ctx).pc = a) ∧
    (∀ f, ((s.finish i f t).coreAt s.core).last = s.ctx ∧ (s.finish i f t).mem = t.mem ∧
      (s.finish i f t).pkg = t.pkg ∧
      ∀ x, x ≠ s.ctx → ((s.finish i f t).ctxAt s.core x) =
        { t.ctxAt s.core x with yieldTo := (t.ctxAt s.core x).yieldTo.filter (· != s.ctx.val) })

/-- R84-R86, R385, R386: YIELD, WFE and SEV with their compact forms; SEV is a release, which waits for the atomics and
the trace records of its context, and WFE an acquire, which waits for its releases. -/
def Sys2Proof.Claims.YieldAndEvents : Prop :=
  (∀ (s : State), ∀ i ∈ [Instr.yield, Instr.yieldCompact], s.issues i →
    exec i s = .next (s.finish i .seq (s.updCtx s.core s.ctx fun q => { q with
      yieldTo := (allCtx.filter fun x => x != s.ctx && s.nowCore.ctxs[x].isReady).map Fin.val
      yieldCk := s.ck + 8 }))) ∧
  (∀ (s : State), ∀ i ∈ [Instr.wfe, Instr.wfeCompact], s.issues i →
    (s.ctx ≠ 7 → s.now.evt = true → s.released →
      exec i s = .next (s.finish i .seq (s.updCtx s.core s.ctx fun q => { q with evt := false }))) ∧
    (s.ctx ≠ 7 → s.now.evt = false → ∃ t, exec i s = .next t ∧ t.now.run = .asleep ∧ t.now.pc = s.now.pc) ∧
    (s.ctx = 7 → exec i s = .next (s.takeTrap cILLEGAL 0 none none))) ∧
  (∀ (s : State), ∀ i ∈ [Instr.sev, Instr.sevCompact], s.issues i → s.performed →
    ∃ t, exec i s = .next (s.finish i .seq t) ∧ t.now = s.now ∧ t.mem = s.mem ∧
      ∀ x, x ≠ s.ctx → t.ctxAt s.core x = (s.ctxAt s.core x).event)

/-- R83, R285, R332: DONE waits for the replies of atomics, completes the activation, and begins the seal of a saving
one. -/
def Sys2Proof.Claims.DoneEndsActivation : Prop :=
  ∀ (s : State), ∀ i ∈ [Instr.done, Instr.doneCompact], s.issues i →
    (s.now.replies = [] → s.now.saving = false → exec i s = .next (s.finish i .gone (s.complete s.core s.ctx))) ∧
    (s.now.replies = [] → s.now.saving = true → ∃ t, exec i s = .next t ∧ t.now.run = .sealing) ∧
    (s.now.replies ≠ [] → exec i s = .next (s.stall sREMOTE))

/-- YIELD, WFE, SEV and DONE: YieldAndEvents and DoneEndsActivation. -/
def Obligations.EventsAndEndings : Prop :=
  Claims.YieldAndEvents ∧ Claims.DoneEndsActivation

/-- R62, R65, R88, R93: BRK and SYSC raise BREAK and SYSCALL with their immediate in TRAPVAL; ERET returns to TRAPPC
with the saved mode; outside a trap routine, and while saving, it raises ILLEGAL. -/
def Sys2Proof.Claims.TrapInstructions : Prop :=
  (∀ (s : State) (imm : BitVec 12), s.issues (.brk imm) →
    exec (.brk imm) s = .next (s.takeTrap cBREAK imm.toNat none none)) ∧
  (∀ (s : State) (imm : BitVec 12), s.issues (.sysc imm) →
    exec (.sysc imm) s = .next (s.takeTrap cSYSCALL imm.toNat none none)) ∧
  (∀ (s : State), s.issues .eret →
    (s.now.ts = true → s.now.saving = false →
      exec .eret s = .next (s.finish .eret (.jump s.now.trappc) (s.updCtx s.core s.ctx Ctx.trapReturn))) ∧
    (s.now.ts = false ∨ s.now.saving = true → exec .eret s = .next (s.takeTrap cILLEGAL 0 none none)))

/-- R62, R92, R231: taking a trap writes TRAPCAUSE, TRAPPC, TRAPINST, TRAPVAL and TRAPPTR, sets TS and MODE, clears S
and SV, and continues at TRAPVEC; registers, masks and memory are as before the unit. -/
def Sys2Proof.Claims.TrapEntry : Prop :=
  ∀ (s : State) (cause val : Nat) (ptr : Option (Fin 16)), s.vectors →
    let t := s.takeTrap cause val ptr none
    let q := t.now
    t.mem = s.mem ∧ t.core = s.core ∧ t.ctx = s.ctx ∧
    q.trapcause = BitVec.ofNat 8 cause ∧ q.trappc = s.now.pc ∧ q.trapinst = s.trapInst s.core s.now.pc.toNat ∧
    q.trapval = BitVec.ofNat 64 val ∧ q.trapptr = (match ptr with
      | some r => BitVec.ofNat 5 (16 + r.val)
      | none => 0) ∧
    q.savedMode = s.now.mode ∧ q.mode = true ∧ q.ts = true ∧ q.sig = 0 ∧ q.sv = false ∧
    q.pc = BitVec.ofNat 64 s.now.trapvec.toNat ∧ q.run = .live ∧
    q.w = s.now.w ∧ q.g = s.now.g ∧ q.p = s.now.p ∧ q.v = s.now.v ∧ q.m = s.now.m ∧ q.fexc = s.now.fexc ∧
    q.rangeflag = s.now.rangeflag ∧ q.tm = s.now.tm ∧ q.outbox = s.now.outbox

/-- R92, R231: SIG compares while SV = 1, and leaves S zero and SV one; a mismatch rolls the activation back. -/
def Sys2Proof.Claims.Signatures : Prop :=
  ∀ (s : State) (v : BitVec 24), s.issues (.sig v) →
    (s.now.sv = false ∨ s.now.sig = v → exec (.sig v) s = .next (s.finish (.sig v) .seq
      (s.updCtx s.core s.ctx fun q => { q with sig := 0, sv := true }))) ∧
    (s.now.sv = true → s.now.sig ≠ v → exec (.sig v) s =
      .next ((s.keepLogs s.core s).rollback s.core s.ctx cSIGNATURE s.now.pc.toNat s.now.sig.toNat))

/-- Trap entry, BRK, SYSC, ERET and SIG: TrapInstructions, TrapEntry and Signatures. -/
def Obligations.TrapsAndSignatures : Prop :=
  Claims.TrapInstructions ∧ Claims.TrapEntry ∧ Claims.Signatures

/-! ## Control registers, classes and contexts -/

namespace Sys2Proof.Claims

/-- Context registers of R58 that a program may write, by CSRW or CTXWR, with the bits that they hold. -/
def csrBits : List (Nat × DWord) :=
  [(0x020, 0x1F), (0x021, 0xFFFFFFFFFFFFFFFF), (0x022, 0xFFFFFFFFFF7FFFFF), (0x023, 1), (0x024, 0x0000FFFFFFFF0FFF),
   (0x025, 0xFF3F), (0x026, 0xFFFFFFFFFFFFFFFF), (0x027, 0xFFFFFFFF), (0x028, 0xFFFFFFFFFFFFFFFF),
   (0x029, 0xFFFFFFFFFFFFFFFF), (0x02A, 0xFFFF0FFFFFFFFFFF), (0x02B, 0x00000001FF03FF1F), (0x031, 0xFFFFFFFFFFFFFFFF), (0x041, 0xFFFFFFFFFFFFFFFF), (0x044, 0xFFFF),
   (0x100, 0x00000FFFFFF17F0F), (0x107, 0x00000FFFFFF17F0F)]

/-- The three writes of a control register: the new value from the old one and the operand (R89). -/
def csrWrites (d : Sc) (csr : BitVec 12) : List (Instr × (DWord → DWord → DWord)) :=
  [(.csrw d csr, fun _ x => x), (.csrset d csr, fun o x => o ||| x), (.csrclr d csr, fun o x => o &&& ~~~x)]

/-- The issuing activation may change class n (R91). -/
abbrev mayClass (s : State) (n : Nat) : Prop :=
  s.now.privileged = true ∨ (bit (s.nowCore.cls n).toNat 27 = false ∧ bit (s.nowCore.cls n).toNat 28 = false ∧
    fld (s.nowCore.cls n).toNat 32 32 = fld (s.nowCore.cls s.now.classno.toNat).toNat 32 32)

end Sys2Proof.Claims

/-- R58, R89: a control register reads back what was written to it, in the bits that it holds. -/
def Sys2Proof.Claims.CsrWriteThenRead : Prop :=
  ∀ (s : State) (v : DWord), ∀ p ∈ Claims.csrBits,
    ∃ t u, M.answers (csrWrite s.ctx p.1 v) s () t ∧ M.answers (csrRead s.ctx p.1) t (v &&& p.2) u

/-- R89, R90, R101: CSRR, CSRW, CSRSET and CSRCLR; a privileged register written by an unprivileged routine raises PRIV,
and a read or a write of FEXC waits for the replies of AMOFADD. -/
def Sys2Proof.Claims.CsrInstructions : Prop :=
  (∀ (s : State) (d : Sc) (csr : BitVec 12), s.issues (.csrr d csr) → s.takes d.val →
    (csr = 0x020 → s.now.fadds = 0) → ∃ v t, M.answers (csrRead s.ctx csr.toNat) s v t ∧
      exec (.csrr d csr) s = .next (s.finish (.csrr d csr) .seq (t.putS { ds := [d.val] } d.val v))) ∧
  (∀ (s : State) (d : Sc), s.issues (.csrr d 0x020) → s.takes d.val → s.now.fadds ≠ 0 →
    exec (.csrr d 0x020) s = .next (s.stall sREMOTE)) ∧
  (∀ (s : State) (d : Sc) (csr : BitVec 12) (x : DWord), ∀ p ∈ Claims.csrWrites d csr,
    s.issues p.1 → s.gives d.val x → (csrPrivWrite csr = true → s.now.privileged = true) →
    (csr = 0x020 → s.now.fadds = 0) →
    ∃ old t, M.answers (csrRead s.ctx csr.toNat) s old t ∧
      exec p.1 s = .next (s.finish p.1 .seq
        (Claims.popped (M.after (csrWrite s.ctx csr.toNat (p.2 old x)) t) [d.val]))) ∧
  (∀ (s : State) (d : Sc) (x : DWord), ∀ p ∈ Claims.csrWrites d 0x020, s.issues p.1 → s.gives d.val x →
    s.now.fadds ≠ 0 → exec p.1 s = .next (s.stall sREMOTE)) ∧
  (∀ (s : State) (d : Sc) (csr : BitVec 12) (x : DWord), ∀ p ∈ Claims.csrWrites d csr,
    s.issues p.1 → s.gives d.val x → csrPrivWrite csr = true → s.now.privileged = false →
    exec p.1 s = .next (s.takeTrap cPRIV 0 none none))

/-- Control registers and the CSR instructions: CsrWriteThenRead and CsrInstructions. The ck that an access of FEXC
waits are the model's own (log 3), and the 32 bits that LCOUNT keeps of a write are log 13. -/
def Obligations.ControlRegisters : Prop :=
  Claims.CsrWriteThenRead ∧ Claims.CsrInstructions

/-- R91: CLEN, CLDIS and CLPEND; ILLEGAL above class 255, and PRIV of a class that the activation may not change. -/
def Obligations.ClassControl : Prop :=
  (∀ (s : State) (a : Sc) (v : DWord), ∀ p ∈ [(Instr.clen a, 1), (Instr.cldis a, 0)],
    s.issues p.1 → s.gives a.val v →
    (v.toNat ≤ 255 → Claims.mayClass s v.toNat → exec p.1 s = .next (s.finish p.1 .seq (Claims.popped
      (s.writeClass s.core v.toNat (setFld (s.nowCore.cls v.toNat).toNat 24 1 p.2)) [a.val]))) ∧
    (v.toNat ≤ 255 → ¬ Claims.mayClass s v.toNat → exec p.1 s = .next (s.takeTrap cPRIV 0 none none)) ∧
    (255 < v.toNat → exec p.1 s = .next (s.takeTrap cILLEGAL 0 none none))) ∧
  (∀ (s : State) (b a : Sc) (v : DWord), s.issues (.clpend b a) → s.gives a.val v → s.takes b.val →
    (v.toNat ≤ 255 → Claims.mayClass s v.toNat →
      exec (.clpend b a) s = .next (s.finish (.clpend b a) .seq (s.putS { ss := [a.val], ds := [b.val] } b.val
        (BitVec.ofNat 64 (fld (s.nowCore.cls v.toNat).toNat 24 1 * 2 + fld (s.nowCore.cls v.toNat).toNat 25 1))))) ∧
    (v.toNat ≤ 255 → ¬ Claims.mayClass s v.toNat →
      exec (.clpend b a) s = .next (s.takeTrap cPRIV 0 none none)) ∧
    (255 < v.toNat → exec (.clpend b a) s = .next (s.takeTrap cILLEGAL 0 none none)))

namespace Sys2Proof.Claims

/-- What a selector's item reads, but for a CSR (R96): of the issuing context's core k, of context x there. -/
def itemValue (k : Core) (x : Fin 8) (item idx : Nat) : DWord :=
  let q := k.ctxs[x]
  match item with
  | 0x00 => q.w[Fin.ofNat 24 idx]
  | 0x01 => if idx = 0 then 0 else q.g[Fin.ofNat 8 idx]
  | 0x02 => q.p[Fin.ofNat 16 idx].bits.setWidth 64
  | 0x03 => (q.p[Fin.ofNat 16 idx].bits >>> 64).setWidth 64
  | 0x04 => (q.v[Fin.ofNat 32 (idx / 8)] >>> (64 * (idx % 8))).setWidth 64
  | 0x05 => if idx = 0 then 0xFFFF else (q.m[Fin.ofNat 8 idx]).setWidth 64
  | 0x07 => q.pc
  | 0x08 => k.cls idx
  | 0x09 => q.spill.bits.setWidth 64
  | 0x0A => (q.spill.bits >>> 64).setWidth 64
  | 0x0B => q.depth
  | 0x0C => if q.evt then 1 else 0
  | 0x0D => BitVec.ofNat 64 (if idx < 4 then k.qs[Fin.ofNat 4 idx].occ else k.qv[Fin.ofNat 4 idx].occ)
  | _ => BitVec.ofNat 64 (q.stateCode k.stopped)

/-- No reply is to come to what a selector names of the issuing context (R90, R101). -/
abbrev itemSettled (s : State) (v : Nat) : Prop :=
  fld v 0 3 = s.ctx.val →
    (fld v 16 8 ≤ 1 → s.now.awaits (24 * fld v 16 8 + fld v 8 8) = false) ∧
    (fld v 16 8 = 6 → fld v 24 12 = 0x020 → s.now.fadds = 0)

/-- The selector names an item that CTXWR may write (R96). -/
abbrev itemWritable (v : Nat) : Prop :=
  fld v 16 8 < 0x0D ∧ (fld v 16 8 = 0x06 → fld v 24 12 ≠ 0x010 ∧ fld v 24 12 < 0x110)

/-- The upper half of a pointer has no reserved bit, where the item is one (R96). -/
abbrev itemTakes (v : Nat) (y : DWord) : Prop :=
  fld v 16 8 = 0x03 ∨ fld v 16 8 = 0x0A → fld y.toNat 48 16 = 0

end Sys2Proof.Claims

/-- R94, R95: SAVEW spills the oldest frames below the window until k of them are left, and LOADW reloads up to k,
where their units can be written or read; PRIV in an unprivileged routine. -/
def Sys2Proof.Claims.WindowSaves : Prop :=
  (∀ (s : State) (a : Sc) (k : DWord), s.issues (.savew a) → s.gives a.val k → s.now.privileged = true →
    (∀ j, j < s.now.below.length - k.toNat → s.now.spilltop.toNat + j + 1 ≤ s.now.spillcap.toNat ∧
      Claims.unitAt s (s.now.spilltop.toNat + j) true) →
    let t := M.after (spillTo k.toNat s.now.below.length) s
    exec (.savew a) s = .next (s.finish (.savew a) .seq (Claims.popped t [a.val])) ∧
      t.now.below = s.now.below.drop (s.now.below.length - k.toNat) ∧ t.now.w = s.now.w ∧
      t.now.spilltop = s.now.spilltop + BitVec.ofNat 64 (s.now.below.length - k.toNat)) ∧
  (∀ (s : State) (a : Sc) (k : DWord), s.issues (.loadw a) → s.gives a.val k → s.now.privileged = true →
    (∀ j, j < min k.toNat s.now.spilltop.toNat → Claims.unitAt s (s.now.spilltop.toNat - 1 - j) false ∧
      Claims.clean s (s.now.spillPlace (s.now.spilltop.toNat - 1 - j)) 128) →
    let t := M.after (reloadUpTo (min k.toNat 64)) s
    exec (.loadw a) s = .next (s.finish (.loadw a) .seq (Claims.popped t [a.val])) ∧
      t.now.w = s.now.w ∧ t.now.spilltop.toNat ≤ s.now.spilltop.toNat ∧
      t.now.below.length + t.now.spilltop.toNat = s.now.below.length + s.now.spilltop.toNat) ∧
  (∀ (s : State) (a : Sc), ∀ i ∈ [Instr.savew a, Instr.loadw a], s.issues i → (∃ k, s.gives a.val k) →
    s.now.privileged = false → exec i s = .next (s.takeTrap cPRIV 0 none none))

/-- R96, R97: CTXRD reads the item that its selector names, and CTXWR writes it; ILLEGAL where the selector names no item
or a context that runs, or CTXWR one that is only read; PRIV in an unprivileged routine; PERM of a pointer's upper half
with reserved bits. -/
def Sys2Proof.Claims.ContextInspection : Prop :=
  (∀ (s : State) (b a : Sc) (v : DWord), s.issues (.ctxrd b a) → s.gives a.val v → s.takes b.val →
    selectorOk v.toNat = true → targetOk97 (some s.ctx) s.nowCore v.toNat = true → s.now.privileged = true →
    Claims.itemSettled s v.toNat →
    (fld v.toNat 16 8 ≠ 0x06 →
      exec (.ctxrd b a) s = .next (s.finish (.ctxrd b a) .seq (s.putS { ss := [a.val], ds := [b.val] } b.val
        (Claims.itemValue s.nowCore (Fin.ofNat 8 (fld v.toNat 0 3)) (fld v.toNat 16 8) (fld v.toNat 8 8))))) ∧
    (fld v.toNat 16 8 = 0x06 →
      ∃ y t, M.answers (csrRead (Fin.ofNat 8 (fld v.toNat 0 3)) (fld v.toNat 24 12)) s y t ∧
        exec (.ctxrd b a) s = .next (s.finish (.ctxrd b a) .seq (t.putS { ss := [a.val], ds := [b.val] } b.val y)))) ∧
  (∀ (s : State) (a b : Sc) (v y : DWord), s.issues (.ctxwr a b) → s.gives a.val v → s.gives b.val y →
    selectorOk v.toNat = true → targetOk97 (some s.ctx) s.nowCore v.toNat = true → s.now.privileged = true →
    Claims.itemSettled s v.toNat → Claims.itemWritable v.toNat →
    (Claims.itemTakes v.toNat y → exec (.ctxwr a b) s = .next (s.finish (.ctxwr a b)
      (if fld v.toNat 16 8 = 0x07 ∧ fld v.toNat 0 3 = s.ctx.val then .jump y else .seq)
      (Claims.popped (M.after (writeItem v.toNat y) s) [a.val, b.val]))) ∧
    (¬ Claims.itemTakes v.toNat y → exec (.ctxwr a b) s = .next (s.takeTrap cPERM 0 none none))) ∧
  (∀ (s : State) (b a : Sc) (v y : DWord), s.gives a.val v →
    let named := selectorOk v.toNat = true ∧ targetOk97 (some s.ctx) s.nowCore v.toNat = true
    (s.issues (.ctxrd b a) → s.takes b.val →
      (¬ named → exec (.ctxrd b a) s = .next (s.takeTrap cILLEGAL 0 none none)) ∧
      (named → s.now.privileged = false → exec (.ctxrd b a) s = .next (s.takeTrap cPRIV 0 none none))) ∧
    (s.issues (.ctxwr a b) → s.gives b.val y →
      (¬ named ∨ ¬ Claims.itemWritable v.toNat →
        exec (.ctxwr a b) s = .next (s.takeTrap cILLEGAL 0 none none)) ∧
      (named → Claims.itemWritable v.toNat → s.now.privileged = false →
        exec (.ctxwr a b) s = .next (s.takeTrap cPRIV 0 none none))))

/-- R96: what CTXWR writes is what CTXRD of the same item reads next, in the bits that the item holds: the registers,
the halves of a pointer with its tag, the PC and the call depth. -/
def Sys2Proof.Claims.ItemWriteThenRead : Prop :=
  ∀ (s : State) (x : Fin 8) (idx : Nat) (y : DWord), s.codesClean s.core = true →
    (x = s.ctx → ∀ r, s.now.awaits r = false) →
    let sel := fun item => x.val + idx * 2 ^ 8 + item * 2 ^ 16
    let t := fun item => M.after (writeItem (sel item) y) s
    let held := fun item => Claims.itemValue (t item).nowCore x item idx
    (idx < 24 → held 0x00 = y) ∧ (0 < idx → idx < 8 → held 0x01 = y) ∧
    (idx < 16 → held 0x02 = y ∧ (((t 0x02).ctxAt s.core x).p[Fin.ofNat 16 idx]).tag = false) ∧
    (idx < 16 → fld y.toNat 48 16 = 0 → held 0x03 = y ∧ (((t 0x03).ctxAt s.core x).p[Fin.ofNat 16 idx]).tag = true) ∧
    (idx < 256 → held 0x04 = y) ∧ (0 < idx → idx < 8 → held 0x05 = y &&& 0xFFFF) ∧
    (idx = 0 → held 0x07 = y ∧ held 0x09 = y ∧ held 0x0B = y ∧ held 0x0C = y &&& 1)

/-- SAVEW, LOADW, CTXRD and CTXWR: WindowSaves, ContextInspection and ItemWriteThenRead. -/
def Obligations.ContextsInspected : Prop :=
  Claims.WindowSaves ∧ Claims.ContextInspection ∧ Claims.ItemWriteThenRead

/-- R195, R257, R380: FENCE completes once the accesses of its predecessor set are performed, of which TRACE is a write; LINKC claims a direction that
is free or held already, waits for one that another context holds, and raises ILLEGAL where there is no neighbour;
LINKF ends the context's own claim. -/
def Sys2Proof.Claims.FencesAndLinks : Prop :=
  (∀ (s : State) (pred succ : BitVec 3) (scope : Fin 8), s.issues (.fence pred succ scope) →
    let amos := (pred.getLsbD 0 || pred.getLsbD 1) && s.amosOut s.now.actId
    let traces := pred.getLsbD 1 && !(s.tracesOut s.now.actId).isEmpty
    let engines := pred.getLsbD 2 && s.enginesOut s.core s.ctx s.now.actId
    exec (.fence pred succ scope) s = .next
      (if amos || traces || engines then s.stall sFENCE else s.finish (.fence pred succ scope) .seq s)) ∧
  (∀ (s : State) (d : Fin 4), s.issues (.linkc d) →
    (neighbour s.core d.val = none →
      exec (.linkc d) s = .next (s.takeTrap cILLEGAL (36 + d.val) none none)) ∧
    (neighbour s.core d.val ≠ none → (s.nowCore.link d.val).claim = none →
      exec (.linkc d) s = .next (s.finish (.linkc d) .seq
        (s.updCore s.core fun k => k.setLink d.val { k.link d.val with claim := some s.ctx }))) ∧
    (neighbour s.core d.val ≠ none → (s.nowCore.link d.val).claim = some s.ctx →
      exec (.linkc d) s = .next (s.finish (.linkc d) .seq s)) ∧
    (∀ x, neighbour s.core d.val ≠ none → (s.nowCore.link d.val).claim = some x → x ≠ s.ctx →
      exec (.linkc d) s = .next (s.stall sLINK))) ∧
  (∀ (s : State) (d : Fin 4), s.issues (.linkf d) →
    ∃ t, exec (.linkf d) s = .next (s.finish (.linkf d) .seq t) ∧
      (t.nowCore.link d.val).claim ≠ some s.ctx ∧ (t.nowCore.link d.val).buf = (s.nowCore.link d.val).buf ∧
      (∀ e : Fin 4, e ≠ d → t.nowCore.link e.val = s.nowCore.link e.val) ∧ t.now = s.now ∧ t.mem = s.mem)

/-- R334, R385: GBAR sends its arrival to the group's home; GWAIT, once its context's releases are performed, completes
when the generation has passed. Reserved bits raise ILLEGAL. -/
def Sys2Proof.Claims.GroupInstructions : Prop :=
  (∀ (s : State) (a : Sc) (v : DWord), s.issues (.gbar a) → s.gives a.val v →
    (fld v.toNat 8 24 = 0 → ∃ t r, exec (.gbar a) s = .next (s.finish (.gbar a) .seq (Claims.popped t [a.val])) ∧
      t.reqs = s.reqs ++ [r] ∧ r.dst = s.groupHome (fld v.toNat 0 8) ∧
      r.load = .handler (.arrive s.now.launch (BitVec.ofNat 8 v.toNat) (BitVec.ofNat 32 (v.toNat / 2 ^ 32)) s.now.wuid)) ∧
    (fld v.toNat 8 24 ≠ 0 → exec (.gbar a) s = .next (s.takeTrap cILLEGAL 0 none none))) ∧
  (∀ (s : State) (a : Sc) (v : DWord), s.issues (.gwait a) → s.gives a.val v → s.released →
    let g := SMap.get {} s.pkg.groups (groupKey s.now.launch (fld v.toNat 0 8))
    (fld v.toNat 8 24 = 0 → (s.now.latch ≠ none ∨ genPassed g.gen.toNat (v.toNat / 2 ^ 32) = true) →
      exec (.gwait a) s = .next (s.finish (.gwait a) .seq (Claims.popped s [a.val]))) ∧
    (fld v.toNat 8 24 ≠ 0 → exec (.gwait a) s = .next (s.takeTrap cILLEGAL 0 none none)))

/-- FENCE, LINKC, LINKF, GBAR and GWAIT: FencesAndLinks and GroupInstructions. -/
def Obligations.FencesLinksAndGroups : Prop :=
  Claims.FencesAndLinks ∧ Claims.GroupInstructions

namespace Sys2Proof.Claims

/-- The object of p(r) lies in the issuing core's own pad at its first place: k is where the pointer reaches, f its
footprint, h its live header, which has no error. What the context has issued is performed. -/
abbrev ownObject (s : State) (r : Pr) (k f : Nat) (h : Header) : Prop :=
  s.core < 1024 ∧ s.now.p[r].tag = true ∧ s.malformed s.now.p[r] = false ∧ s.now.p[r].lvl = 0 ∧
    k = s.now.p[r].key s.now.part.toNat ∧ spaceOf k = s.core ∧ s.mem.footOf k = some f ∧
    h = Header.ofNat (natOf (s.mem.read f 16)) ∧ h.state = stLive ∧ clean s f 16 ∧
    bit (s.dieAt (dieOf k)).dbg.toNat 1 = false ∧ s.performed ∧ s.released

/-- Place k stands beyond the header, of another kind than 4, of the object in footprint f: a store from there on changes no
header (R166). -/
abbrev bodyAt (h : Header) (f k : Nat) : Prop := h.kind ≠ 4 ∧ f + 16 ≤ k

/-- n bytes of the object in footprint f at offset o, which is place k + o, can be reached: aligned, in range and in
that footprint. -/
abbrev reaches (s : State) (r : Pr) (k f o n : Nat) : Prop :=
  o % n = 0 ∧ o + n ≤ s.now.p[r].len ∧ s.mem.footOf (k + o) = some f

/-- The object in footprint f holds all that p(r) reaches, from place k. -/
abbrev holdsAll (s : State) (r : Pr) (k f : Nat) : Prop :=
  ∀ o, o < s.now.p[r].len → s.mem.footOf (k + o) = some f

/-- The n bytes at off of p's object lie in a die pad, in a live object whose header has no error, on a die that is not
halted: an engine or a unit finds them there. -/
abbrev inDiePad (s : State) (p : PReg) (part off n : Nat) : Prop :=
  off + n ≤ p.len ∧ levelOf (p.key part + off) = 2 ∧ s.halted (dieOf (p.key part + off)) = false ∧
    ∃ f, s.mem.footOf (p.key part + off) = some f ∧ s.mem.isPoisoned f = false ∧
      (Header.ofNat (natOf (s.mem.read f 16))).state = stLive

/-- What an instruction reads of a launch queue is in a die pad, or is not there. -/
abbrev queueReadable (s : State) (x : PReg × Nat × Nat × Nat) : Prop :=
  x.1.tag = true → s.malformed x.1 = false → inDiePad s x.1 x.2.1 x.2.2.1 x.2.2.2

end Sys2Proof.Claims

/-- R377, R386: LAUNCH of a block of 192 bytes to a queue of its own partition with room, once what the context has
issued is performed: a START packet with its pointer enters the ring and tail goes on (putStart), and the identifier is
stored, full, at byte 144 of the block. What a re-check of a full ring does is log 24. -/
def Sys2Proof.Claims.LaunchPlaced : Prop :=
  ∀ (s s1 s2 s3 s4 s5 : State) (p : Pr) (r : PReg) (k n : Nat) (table : List Byte),
    s.issues (.launch p) → M.answers (checkPerm p true true) s r s → 192 ≤ r.len →
    M.answers (access p 136 8 1 true false) s (some k) s1 → M.answers (readNat k 8) s1 n s2 →
    let q := fld n 0 10
    s2.pkg.qtbase.tag = true → M.answers (fetchObj s2.pkg.qtbase 0 (64 * q) 64) s2 table s3 →
    bit (s3.queueCtl q) 24 = true → fld (s3.queueCtl q) 16 4 = s3.now.part.toNat → s3.queueRoom q = true →
    s3.performed →
    let tail := s3.queueField q 36 4
    M.answers (do putStart q tail (← preg p)) s3 () s4 →
    M.answers (storeBytes p 144 (k + 8) (bytesOf 8 (q + tail * 1024)) (some true)) s4 () s5 →
    exec (.launch p) s = .next (s.finish (.launch p) .seq (s5.queueChanged q).settled)

/-- R377: LAUNCH of a block in the core's own pad completes, where the queue's descriptor and ring lie in die pads and the
ring has room; the identifier stands in the block. -/
def Sys2Proof.Claims.LaunchCompletes : Prop :=
  ∀ (s : State) (p : Pr) (k f : Nat) (h : Header), s.issues (.launch p) → Claims.ownObject s p k f h →
    s.now.p[p].r = true → s.now.p[p].w = true → 192 ≤ s.now.p[p].len → s.mem.footOf (k + 144) = some f →
    f + 16 ≤ k → Claims.clean s (k + 136) 8 → s.mem.wf → s.armed s.core 0 = none →
    let q := fld (natOf (s.mem.read (k + 136) 8)) 0 10
    let tail := s.queueField q 36 4
    let ring := s.queueRing q
    let at_ := 32 * (tail % max 1 ring.2.2)
    s.pkg.qtbase.tag = true → Claims.inDiePad s s.pkg.qtbase 0 (64 * q) 64 →
    s.mem.footOf (s.pkg.qtbase.key 0 + 64 * q + 36) = s.mem.footOf (s.pkg.qtbase.key 0 + 64 * q) →
    Claims.inDiePad s ring.1 ring.2.1 at_ 32 →
    (∀ g, s.mem.footOf (s.pkg.qtbase.key 0 + 64 * q) = some g →
      g + 16 ≤ ring.1.key ring.2.1 + at_ ∨ ring.1.key ring.2.1 + at_ + 32 ≤ g) →
    bit (s.queueCtl q) 24 = true → fld (s.queueCtl q) 16 4 = s.now.part.toNat → s.queueRoom q = true →
    ∃ t : State, exec (.launch p) s = .next (s.finish (.launch p) .seq (t.queueChanged q).settled) ∧
      t.mem.read (k + 144) 8 = bytesOf 8 (q + tail * 1024) ∧
      (∀ w ∈ wordsOf (k + 144) 8, t.mem.isFull w = true) ∧ t.now.w = s.now.w ∧ t.now.p = s.now.p

/-- LAUNCH: LaunchPlaced and LaunchCompletes. -/
def Obligations.LaunchPlacesPacket : Prop :=
  Claims.LaunchPlaced ∧ Claims.LaunchCompletes

/-- R378, R379, R347, R348: CANCEL returns its result in the register that named the launch, once it has read its queue;
XINV drops translations; TRACE makes a record where its kind is enabled; CTRSNAP stores 20 dwords, of which the counters are
free values (log 3). -/
def Obligations.CancelXinvTrace : Prop :=
  (∀ (s t : State) (a : Sc) (id : DWord), s.issues (.cancel a) → a.val < 32 → s.gives a.val id → s.takes a.val →
    M.answers (do readPlace (s.descriptor (fld id.toNat 0 10)); ((← get).cancelReads id.toNat).forM readPlace) s () t →
    exec (.cancel a) s = .next (s.finish (.cancel a) .seq
      ((t.cancel id.toNat (some t.now.part.toNat)).2.putS { ss := [a.val], ds := [a.val] } a.val
        (BitVec.ofNat 64 (t.cancel id.toNat (some t.now.part.toNat)).1)))) ∧
  (∀ (s : State) (a : Sc) (id : DWord), s.issues (.cancel a) → a.val < 32 → s.gives a.val id → s.takes a.val →
    (∀ x ∈ s.cancelReads id.toNat, Claims.queueReadable s x) →
    exec (.cancel a) s = .next (s.finish (.cancel a) .seq
      ((s.cancel id.toNat (some s.now.part.toNat)).2.putS { ss := [a.val], ds := [a.val] } a.val
        (BitVec.ofNat 64 (s.cancel id.toNat (some s.now.part.toNat)).1)))) ∧
  (∀ (s : State) (a : Sc), s.attempts → 32 ≤ a.val →
    exec (.cancel a) s = .next (s.takeTrap cILLEGAL 0 none none)) ∧
  (∀ (s t : State) (p : Pr) (ws : List Nat), s.issues (.xinv p) → s.now.privileged = true →
    M.answers (loadWords p 6) s ws t →
    let d := fun i => ws.getD (2 * i) 0 + ws.getD (2 * i + 1) 0 * 2 ^ 32
    d 0 < 32 → d 1 % 65536 = 0 → d 2 % 65536 = 0 → d 1 < 2 ^ 45 →
    exec (.xinv p) s = .next (s.finish (.xinv p) .seq
      (if bit (d 0) 4 then t.dropTranslations (fld (d 0) 0 4) 0 (2 ^ 29)
       else t.dropTranslations (fld (d 0) 0 4) (d 1 / 65536) ((d 1 + d 2) / 65536)))) ∧
  (∀ (s : State) (p : Pr) (k f : Nat) (h : Header), s.issues (.xinv p) → s.now.privileged = true →
    Claims.ownObject s p k f h → s.now.p[p].r = true → 24 ≤ s.now.p[p].len → Claims.clean s k 24 →
    let d := fun i => natOf (s.mem.read (k + 8 * i) 8)
    let legal := d 0 < 32 ∧ d 1 % 65536 = 0 ∧ d 2 % 65536 = 0 ∧ d 1 < 2 ^ 45
    (legal → exec (.xinv p) s = .next (s.finish (.xinv p) .seq
      (if bit (d 0) 4 then s.dropTranslations (fld (d 0) 0 4) 0 (2 ^ 29)
       else s.dropTranslations (fld (d 0) 0 4) (d 1 / 65536) ((d 1 + d 2) / 65536)))) ∧
    (¬ legal → exec (.xinv p) s = .next (s.takeTrap cILLEGAL 0 none none))) ∧
  (∀ (s : State) (p : Pr), s.issues (.xinv p) → s.now.privileged = false →
    exec (.xinv p) s = .next (s.takeTrap cPRIV 0 none none)) ∧
  (∀ (s : State) (a : Sc) (v : DWord), s.issues (.trace a) → s.gives a.val v →
    (s.traces s.core 3 = false →
      exec (.trace a) s = .next (s.finish (.trace a) .seq (Claims.popped s [a.val]))) ∧
    (s.traces s.core 3 = true → (s.trFull s.core = true ∨ s.nowCore.tbuf.length < 8) →
      exec (.trace a) s = .next (s.finish (.trace a) .seq (Claims.popped
        (s.trPut s.core (s.traceCtx s.core s.ctx 3 s.pkg.time.toNat v.toNat) (some (s.now.actId, s.reqNext)))
        [a.val]))) ∧
    (s.traces s.core 3 = true → s.trFull s.core = false → 8 ≤ s.nowCore.tbuf.length →
      exec (.trace a) s = .next (s.stall sNOREADY))) ∧
  (∀ (s t u : State) (p : Pr) (k : Nat) (ok : List Nat), s.issues (.ctrsnap p) →
    let now := (s.tallyCtx s.core s.ctx).tallyCore s.core
    let c := now.nowCore
    let vals := now.pkg.time :: ((List.range 16).map (SMap.get 0 now.now.stalls) ++ [c.runck, c.searchck, c.idleck])
    M.answers (accessEach p 8 8 ((List.range 20).map (8 * ·)) false true) now (k, ok) t →
    M.answers (ok.forM fun o => storeBytes p o (k + o) (bytesOf 8 (vals.getD (o / 8) 0).toNat)) t () u →
    exec (.ctrsnap p) s = .next (s.finish (.ctrsnap p) .seq u)) ∧
  (∀ (s : State) (p : Pr) (k f : Nat) (h : Header), s.issues (.ctrsnap p) → Claims.ownObject s p k f h →
    s.now.p[p].w = true → 160 ≤ s.now.p[p].len → Claims.holdsAll s p k f → Claims.bodyAt h f k → s.mem.wf →
    s.armed s.core 0 = none →
    let now := (s.tallyCtx s.core s.ctx).tallyCore s.core
    let c := now.nowCore
    let vals := now.pkg.time :: ((List.range 16).map (SMap.get 0 now.now.stalls) ++ [c.runck, c.searchck, c.idleck])
    ∃ t, exec (.ctrsnap p) s = .next (s.finish (.ctrsnap p) .seq t) ∧
      (∀ i, i < 20 → t.mem.read (k + 8 * i) 8 = bytesOf 8 (vals.getD i 0).toNat) ∧
      (∀ a, a < k ∨ k + 160 ≤ a → t.mem.byte a = s.mem.byte a) ∧ t.now.w = s.now.w ∧ t.now.p = s.now.p)

/-! ## Memory and pointers -/

namespace Sys2Proof.Claims

/-- p(r) becomes q. -/
def withPtr (s : State) (r : Pr) (q : PReg) : State :=
  s.updCtx s.core s.ctx fun c => { c with p := c.p.set r.val q r.isLt }

/-- The byte offset that a memory operand names (R187): a constant number of units, or a scalar register. -/
def offsetIs (s : State) (x : Bool) (off : Fin 32) (n o : Nat) : Prop :=
  if x then ∃ v, s.gives off.val v ∧ o = v.toNat else o = off.val * n

/-- The scalar loads and their compact forms: destination, X, sign code, size, pointer, offset (R187, R25). -/
def scalarLoads (d : Sc) (c : R5) (x sgn : Bool) (sz : Fin 4) (os : Fin 16) (p : Pr) (off : Fin 32) (cp ck : Fin 8) :
    List (Instr × Nat × Bool × Bool × Nat × Pr × Fin 32) :=
  [(.ld d x sgn sz os p off, d.val, x, sgn, sz.val, p, off),
   (.ldS64Compact c cp ck, c.val, false, false, 3, Fin.ofNat 16 cp.val, Fin.ofNat 32 ck.val),
   (.ldS32Compact c cp ck, c.val, false, false, 2, Fin.ofNat 16 cp.val, Fin.ofNat 32 ck.val)]

/-- The scalar stores and their compact forms. -/
def scalarStores (d : Sc) (c : R5) (x sgn : Bool) (sz : Fin 4) (os : Fin 16) (p : Pr) (off : Fin 32)
    (cp ck : Fin 8) : List (Instr × Nat × Bool × Nat × Pr × Fin 32) :=
  [(.st d x sgn sz os p off, d.val, x, sz.val, p, off),
   (.stS64Compact c cp ck, c.val, false, 3, Fin.ofNat 16 cp.val, Fin.ofNat 32 ck.val),
   (.stS32Compact c cp ck, c.val, false, 2, Fin.ofNat 16 cp.val, Fin.ofNat 32 ck.val)]

/-- The scalar sources of a memory operand. -/
def offSources (x : Bool) (off : Fin 32) : List Nat := if x then [off.val] else []

/-- A value of n bytes extended to 64 bits: sign-extended, or zero-extended for the n types (R187). -/
def extended (n v : Nat) (zero : Bool) : DWord :=
  if zero then BitVec.ofNat 64 v else (BitVec.ofNat (8 * n) v).signExtend 64

end Sys2Proof.Claims

/-- R187, R25: a scalar load of an object in the core's own pad reads its little-endian bytes, extended; out of range
it reads zero where RANGECTL does not trap, and RANGEFLAG records it (R167, R168). -/
def Sys2Proof.Claims.ScalarLoadResults : Prop :=
  ∀ (s : State) (d : Sc) (c : R5) (x sgn : Bool) (sz : Fin 4) (os : Fin 16) (p : Pr) (off : Fin 32) (cp ck : Fin 8),
    ∀ e ∈ Claims.scalarLoads d c x sgn sz os p off cp ck,
    let dst := e.2.1
    let n := 2 ^ e.2.2.2.2.1
    let r := e.2.2.2.2.2.1
    let ss := Claims.offSources e.2.2.1 e.2.2.2.2.2.2
    ∀ (o k f : Nat) (h : Header), s.issues e.1 → s.now.latch = none →
      Claims.offsetIs s e.2.2.1 e.2.2.2.2.2.2 n o → s.takes dst → s.now.p[r].r = true →
      Claims.ownObject s r k f h → o % n = 0 →
      (o + n ≤ s.now.p[r].len → Claims.clean s (k + o) n →
        exec e.1 s = .next (s.finish e.1 .seq (s.putS { ss := ss, ds := [dst] } dst
          (Claims.extended n (natOf (s.mem.read (k + o) n)) e.2.2.2.1)))) ∧
      (s.now.p[r].len < o + n → s.now.rangectl = false →
        ∃ t : State, exec e.1 s = .next (s.finish e.1 .seq (t.putS { ss := ss, ds := [dst] } dst 0)) ∧
          t.mem = s.mem ∧ t.now.w = s.now.w ∧ t.now.rangeflag.toNat % 2 = 1)

/-- R187, R25, R165: a scalar store to an object in the core's own pad writes its little-endian bytes at the offset and
clears the tags there; every other byte of memory, and every full/empty bit, is unchanged. -/
def Sys2Proof.Claims.ScalarStoreResults : Prop :=
  ∀ (s : State) (d : Sc) (c : R5) (x sgn : Bool) (sz : Fin 4) (os : Fin 16) (p : Pr) (off : Fin 32) (cp ck : Fin 8),
    ∀ e ∈ Claims.scalarStores d c x sgn sz os p off cp ck,
    let src := e.2.1
    let n := 2 ^ e.2.2.2.1
    let r := e.2.2.2.2.1
    ∀ (o k f : Nat) (h : Header) (v : DWord), s.issues e.1 → s.now.latch = none → s.mem.wf →
      Claims.offsetIs s e.2.2.1 e.2.2.2.2.2 n o → s.gives src v → s.now.p[r].w = true →
      Claims.ownObject s r k f h → Claims.bodyAt h f k → Claims.reaches s r k f o n →
      s.armed s.core 0 = none →
      ∃ t, exec e.1 s = .next t ∧
        t.mem.read (k + o) n = bytesOf n (v.toNat % 2 ^ (8 * n)) ∧
        (∀ a, a < k + o ∨ k + o + n ≤ a → t.mem.byte a = s.mem.byte a) ∧
        (∀ g ∈ granules (k + o) n, t.mem.isTagged g = false) ∧
        (∀ a, a / 16 * 16 ∉ granules (k + o) n → t.mem.isTagged a = s.mem.isTagged a) ∧ t.mem.full = s.mem.full ∧
        t.now.w = s.now.w ∧ t.now.p = s.now.p

/-- The pointer lets no load, or no store, through it (R164, R167). -/
def Sys2Proof.Claims.forbids (s : State) (r : Pr) (write : Bool) : Prop :=
  s.now.p[r].tag = false ∨ s.malformed s.now.p[r] = true ∨ (if write then s.now.p[r].w else s.now.p[r].r) = false

/-- R167, R168: a scalar load or store raises PERM where its pointer does not permit it, ALIGN at an offset that is no
multiple of its size, and, where RANGECTL asks, RANGE beyond the pointer's length, with the offset in TRAPVAL and the
pointer in TRAPPTR; a store beyond the length is otherwise dropped, and RANGEFLAG records it. -/
def Sys2Proof.Claims.ScalarAccessTraps : Prop :=
  (∀ (s : State) (d : Sc) (c : R5) (x sgn : Bool) (sz : Fin 4) (os : Fin 16) (p : Pr) (off : Fin 32) (cp ck : Fin 8),
    ∀ e ∈ Claims.scalarLoads d c x sgn sz os p off cp ck,
    let n := 2 ^ e.2.2.2.2.1
    let r := e.2.2.2.2.2.1
    ∀ o : Nat, s.issues e.1 → s.now.latch = none → Claims.offsetIs s e.2.2.1 e.2.2.2.2.2.2 n o → s.takes e.2.1 →
      (isAcq os = true → s.released) →
      (Claims.forbids s r false → exec e.1 s = .next (s.takeTrap cPERM 0 (some r) none)) ∧
      (¬ Claims.forbids s r false → o % n ≠ 0 → exec e.1 s = .next (s.takeTrap cALIGN o (some r) none)) ∧
      (¬ Claims.forbids s r false → o % n = 0 → s.now.p[r].len < o + n → s.now.rangectl = true →
        exec e.1 s = .next (s.takeTrap cRANGE o (some r) (some (s.now.rangeNoted r o false))))) ∧
  (∀ (s : State) (d : Sc) (c : R5) (x sgn : Bool) (sz : Fin 4) (os : Fin 16) (p : Pr) (off : Fin 32) (cp ck : Fin 8),
    ∀ e ∈ Claims.scalarStores d c x sgn sz os p off cp ck,
    let n := 2 ^ e.2.2.2.1
    let r := e.2.2.2.2.1
    ∀ (o : Nat) (v : DWord), s.issues e.1 → s.now.latch = none → Claims.offsetIs s e.2.2.1 e.2.2.2.2.2 n o →
      s.gives e.2.1 v → (isRel os = true → s.performed) →
      (Claims.forbids s r true → exec e.1 s = .next (s.takeTrap cPERM 0 (some r) none)) ∧
      (¬ Claims.forbids s r true → o % n ≠ 0 → exec e.1 s = .next (s.takeTrap cALIGN o (some r) none)) ∧
      (¬ Claims.forbids s r true → o % n = 0 → s.now.p[r].len < o + n →
        (s.now.rangectl = true →
          exec e.1 s = .next (s.takeTrap cRANGE o (some r) (some (s.now.rangeNoted r o true)))) ∧
        (s.now.rangectl = false → exec e.1 s = .next (s.finish e.1 .seq (Claims.popped
          (s.updCtx s.core s.ctx fun q => { q with rangeflag := s.now.rangeNoted r o true })
          (e.2.1 :: Claims.offSources e.2.2.1 e.2.2.2.2.2))))))

/-- Scalar loads and stores, with their frame and their traps: ScalarLoadResults, ScalarStoreResults and
ScalarAccessTraps. -/
def Obligations.ScalarLoadsAndStores : Prop :=
  Claims.ScalarLoadResults ∧ Claims.ScalarStoreResults ∧ Claims.ScalarAccessTraps

/-- R182, R187: the waiting loads and the filling store: where the home grants what the access needs, it completes with
what was read, or with its word filled, and the lists of waiters are scanned. No reply is in error (R295). -/
def Sys2Proof.Claims.WaitingAccesses : Prop :=
  (∀ (s s1 s2 : State) (d : Sc) (x sgn : Bool) (sz : Fin 4) (os : Fin 16) (p : Pr) (off : Fin 32) (o k v : Nat)
    (vs : List Nat),
    ∀ e ∈ [(Instr.ldw d x sgn sz os p off, FeKind.load), (Instr.ldc d x sgn sz os p off, FeKind.consume)],
    s.issues e.1 → s.now.latch = none → Claims.offsetIs s x off (2 ^ sz.val) o → s.takes d.val →
    (isAcq os = true → s.released) →
    M.answers (access p o (2 ^ sz.val) (2 ^ sz.val) true false) s (some k) s1 →
    M.answers (tryNeed s1.core s1.ctx (.words e.2 p (2 ^ sz.val) [o] [])) s1 (.ok (v :: vs)) s2 →
    s2.settled.upsets = [] →
    exec e.1 s = .next (s.finish e.1 .seq (s2.settled.putS { ss := Claims.offSources x off, ds := [d.val] } d.val
      (Claims.extended (2 ^ sz.val) v sgn)))) ∧
  (∀ (s s1 s2 : State) (d : Sc) (x sgn : Bool) (sz : Fin 4) (os : Fin 16) (p : Pr) (off : Fin 32) (o k : Nat)
    (v : DWord) (vs : List Nat),
    s.issues (.stf d x sgn sz os p off) → s.now.latch = none → Claims.offsetIs s x off (2 ^ sz.val) o →
    (isRel os = true → s.performed) →
    s.gives d.val v → M.answers (access p o (2 ^ sz.val) (2 ^ sz.val) false true) s (some k) s1 → s1.gives d.val v →
    M.answers (tryNeed s1.core s1.ctx (.words .fill p (2 ^ sz.val) [o] [v.toNat % 2 ^ (8 * 2 ^ sz.val)])) s1
      (.ok vs) s2 →
    exec (.stf d x sgn sz os p off) s = .next (s.finish (.stf d x sgn sz os p off) .seq
      (Claims.popped s2.settled (d.val :: Claims.offSources x off)))) ∧
  (∀ (s s1 s2 : State) (d : Sc) (x sgn : Bool) (sz : Fin 4) (os : Fin 16) (p : Pr) (off : Fin 32) (o k w : Nat),
    s.issues (.ldw d x sgn sz os p off) → s.now.latch = none → Claims.offsetIs s x off (2 ^ sz.val) o →
    s.takes d.val → (isAcq os = true → s.released) → M.answers (access p o (2 ^ sz.val) (2 ^ sz.val) true false) s (some k) s1 →
    M.answers (tryNeed s1.core s1.ctx (.words .load p (2 ^ sz.val) [o] [])) s1 (.error w) s2 →
    ∃ t : State, exec (.ldw d x sgn sz os p off) s =
      .next (t.startWait s.core s.ctx (.words .load p (2 ^ sz.val) [o] []) w))

/-- R182, R187: on an object in the core's own pad whose words are all full, LDW completes with what it reads, and LDC
with that, leaving them empty; where they are all empty, STF completes and fills them, and every other byte, tag and
full/empty bit is as before. -/
def Sys2Proof.Claims.WaitingAccessesComplete : Prop :=
  ∀ (s : State) (d : Sc) (x sgn : Bool) (sz : Fin 4) (os : Fin 16) (p : Pr) (off : Fin 32) (o k f : Nat) (h : Header),
    let n := 2 ^ sz.val
    let ss := Claims.offSources x off
    let ws := wordsOf (k + o) n
    s.now.latch = none → Claims.offsetIs s x off n o → Claims.ownObject s p k f h → o % n = 0 →
    o + n ≤ s.now.p[p].len → Claims.clean s (k + o) n →
    (s.issues (.ldw d x sgn sz os p off) → s.takes d.val → s.now.p[p].r = true → (∀ w ∈ ws, s.mem.isFull w = true) →
      exec (.ldw d x sgn sz os p off) s = .next (s.finish (.ldw d x sgn sz os p off) .seq
        (s.settled.putS { ss := ss, ds := [d.val] } d.val
          (Claims.extended n (natOf (s.mem.read (k + o) n)) sgn)))) ∧
    (s.issues (.ldc d x sgn sz os p off) → s.takes d.val → s.now.p[p].r = true → (∀ w ∈ ws, s.mem.isFull w = true) →
      exec (.ldc d x sgn sz os p off) s = .next (s.finish (.ldc d x sgn sz os p off) .seq
        ((s.updMem fun m => ws.foldl (fun m w => m.setFull w false) m).settled.putS { ss := ss, ds := [d.val] } d.val
          (Claims.extended n (natOf (s.mem.read (k + o) n)) sgn)))) ∧
    (∀ v, s.issues (.stf d x sgn sz os p off) → s.gives d.val v → s.now.p[p].w = true →
      (∀ w ∈ ws, s.mem.isFull w = false) → s.mem.wf → Claims.bodyAt h f k → s.mem.footOf (k + o) = some f →
      s.armed s.core 0 = none →
      ∃ t : State, exec (.stf d x sgn sz os p off) s = .next (s.finish (.stf d x sgn sz os p off) .seq
          (Claims.popped t.settled (d.val :: ss))) ∧
        t.mem.read (k + o) n = bytesOf n (v.toNat % 2 ^ (8 * n)) ∧ (∀ w ∈ ws, t.mem.isFull w = true) ∧
        (∀ a, a < k + o ∨ k + o + n ≤ a → t.mem.byte a = s.mem.byte a) ∧
        (∀ a, a / 4 * 4 ∉ ws → t.mem.isFull a = s.mem.isFull a) ∧
        (∀ g ∈ granules (k + o) n, t.mem.isTagged g = false) ∧
        (∀ a, a / 16 * 16 ∉ granules (k + o) n → t.mem.isTagged a = s.mem.isTagged a) ∧
        t.now.w = s.now.w ∧ t.now.g = s.now.g ∧ t.now.p = s.now.p ∧ t.now.v = s.now.v ∧ t.now.m = s.now.m)

/-- R182: a waiting load of a word reads it where it is full and leaves it so; a consuming load leaves it empty; a
filling store wants it empty and leaves it full. Each is refused at its lowest word that is not so. -/
def Sys2Proof.Claims.FullEmptyConditions : Prop :=
  ∀ (s : State) (r : Pr) (o k f : Nat) (h : Header) (v : Nat),
    Claims.ownObject s r k f h → Claims.clean s (k + o) 4 → (k + o) % 4 = 0 → o + 4 ≤ s.now.p[r].len →
    (s.mem.isFull (k + o) = true →
      M.answers (tryNeed s.core s.ctx (.words .load r 4 [o] [])) s (.ok [natOf (s.mem.read (k + o) 4)]) s ∧
      M.answers (tryNeed s.core s.ctx (.words .fill r 4 [o] [v])) s (.error o) s ∧
      ∃ t, M.answers (tryNeed s.core s.ctx (.words .consume r 4 [o] [])) s
        (.ok [natOf (s.mem.read (k + o) 4)]) t ∧ t.mem = s.mem.setFull (k + o) false) ∧
    (s.mem.isFull (k + o) = false →
      M.answers (tryNeed s.core s.ctx (.words .load r 4 [o] [])) s (.error o) s ∧
      M.answers (tryNeed s.core s.ctx (.words .consume r 4 [o] [])) s (.error o) s ∧
      (s.mem.wf → Claims.bodyAt h f k → s.mem.footOf (k + o) = some f → s.armed s.core 0 = none →
        ∃ t, M.answers (tryNeed s.core s.ctx (.words .fill r 4 [o] [v])) s (.ok []) t ∧
          t.mem.isFull (k + o) = true ∧ t.mem.read (k + o) 4 = bytesOf 4 v))

/-- Waiting loads, filling stores and the full/empty bits: WaitingAccesses, WaitingAccessesComplete and
FullEmptyConditions. -/
def Obligations.WaitingAndFullEmpty : Prop :=
  Claims.WaitingAccesses ∧ Claims.WaitingAccessesComplete ∧ Claims.FullEmptyConditions

/-- R190, R191: FEGET, FESET, PLD and PST, through any object, and on one in the core's own pad. No reply is in error
(R295). -/
def Obligations.FullEmptyAndPointerAccess : Prop :=
  (∀ (s s1 s2 : State) (d : Sc) (x : Bool) (os : Fin 16) (p : Pr) (off : Fin 32) (o k : Nat) (ok : List Nat)
    (bs : List Bool), s.issues (.feget d x os p off) → Claims.offsetIs s x off 4 o → s.takes d.val →
    M.answers (accessEach p 4 4 ((List.range 32).map fun i => o + 4 * i) true false) s (k, ok) s1 →
    M.answers (((List.range 32).map fun i => o + 4 * i).mapM fun o =>
      if ok.contains o then allFull (k + o) 4 true aR else pure false) s1 bs s2 → s2.upsets = [] →
    exec (.feget d x os p off) s = .next (s.finish (.feget d x os p off) .seq
      (s2.putS { ss := Claims.offSources x off, ds := [d.val] } d.val (BitVec.ofNat 64 (packBits bs))))) ∧
  (∀ (s s0 s1 s2 : State) (d : Sc) (x full : Bool) (os : Fin 16) (p : Pr) (off : Fin 32) (o k : Nat) (q : PReg)
    (c : DWord), s.issues (.feset d x full os p off) → Claims.offsetIs s x off 4 o → s.gives d.val c →
    M.answers (checkPerm p false true) s q s → o % 4 = 0 → o + 4 * c.toNat ≤ q.len → c.toNat ≠ 0 →
    M.answers (deadObject p) s false s0 → M.answers (access p o (4 * c.toNat) 4 false true) s0 (some k) s1 →
    M.answers (setFE k (4 * c.toNat) full aW) s1 () s2 →
    exec (.feset d x full os p off) s = .next (s.finish (.feset d x full os p off) .seq
      (Claims.popped s2.settled (d.val :: Claims.offSources x off)))) ∧
  (∀ (s s1 s2 : State) (q p : Pr) (x : Bool) (os : Fin 16) (off : Fin 32) (o k : Nat) (g : PReg),
    s.issues (.pld q x os p off) → Claims.offsetIs s x off 16 o → (isAcq os = true → s.released) →
    M.answers (access p o 16 16 true false) s (some k) s1 → M.answers (readGranule k) s1 g s2 → s2.upsets = [] →
    (g.tag = false ∨ g.pn = true ∨ s2.malformed g = true ∨ g.lvl = 3 ∨
      s2.escapeTo (g.key s2.now.part.toNat) (localBase s2.core) s2.now.part.toNat = none) →
    exec (.pld q x os p off) s = .next (s.finish (.pld q x os p off) .seq (Claims.popped
      (M.after (setPreg q g) s2) (Claims.offSources x off)))) ∧
  (∀ (s s1 s2 : State) (q p : Pr) (x : Bool) (os : Fin 16) (off : Fin 32) (o k : Nat),
    s.issues (.pst q x os p off) → Claims.offsetIs s x off 16 o → (isRel os = true → s.performed) →
    M.answers (pstPlace q p o 4) s (some k) s1 →
    M.answers (do writeGranule k (← preg q); bumpVersion k) s1 () s2 →
    exec (.pst q x os p off) s = .next (s.finish (.pst q x os p off) .seq
      (Claims.popped s2 (Claims.offSources x off)))) ∧
  (∀ (s : State) (d : Sc) (x full : Bool) (os : Fin 16) (p : Pr) (off : Fin 32) (o k f : Nat) (h : Header),
    Claims.offsetIs s x off 4 o → Claims.ownObject s p k f h → o % 4 = 0 →
    (s.issues (.feget d x os p off) → s.takes d.val → s.now.p[p].r = true → o + 128 ≤ s.now.p[p].len →
      exec (.feget d x os p off) s = .next (s.finish (.feget d x os p off) .seq
        (s.putS { ss := Claims.offSources x off, ds := [d.val] } d.val (BitVec.ofNat 64 (packBits
          ((List.range 32).map fun i => (wordsOf (k + (o + 4 * i)) 4).all fun w => s.mem.isFull w)))))) ∧
    (∀ c : DWord, s.issues (.feset d x full os p off) → s.gives d.val c → s.now.p[p].w = true →
      o + 4 * c.toNat ≤ s.now.p[p].len →
      let t := s.updMem fun m => (wordsOf (k + o) (4 * c.toNat)).foldl (fun m w => m.setFull w full) m
      exec (.feset d x full os p off) s = .next (s.finish (.feset d x full os p off) .seq
        (Claims.popped (if c.toNat = 0 then s else t.settled) (d.val :: Claims.offSources x off))))) ∧
  (∀ (s : State) (q p : Pr) (x : Bool) (os : Fin 16) (off : Fin 32) (o k f : Nat) (h : Header),
    Claims.offsetIs s x off 16 o → Claims.ownObject s p k f h → Claims.reaches s p k f o 16 →
    Claims.clean s (k + o) 16 →
    (s.issues (.pld q x os p off) → s.now.p[p].r = true → s.mem.isTagged (k + o) = false →
      exec (.pld q x os p off) s = .next (s.finish (.pld q x os p off) .seq (Claims.popped
        (Claims.withPtr s q { bits := BitVec.ofNat 128 (natOf (s.mem.read (k + o) 16)), tag := false })
        (Claims.offSources x off)))) ∧
    (s.issues (.pst q x os p off) → s.now.p[p].w = true → s.now.p[q].tag = false → s.mem.wf → Claims.bodyAt h f k →
      s.armed s.core 0 = none →
      ∃ t, exec (.pst q x os p off) s = .next (s.finish (.pst q x os p off) .seq
          (Claims.popped t (Claims.offSources x off))) ∧
        t.mem.read (k + o) 16 = bytesOf 16 s.now.p[q].bits.toNat ∧ t.mem.isTagged (k + o) = false ∧
        ∀ a, a < k + o ∨ k + o + 16 ≤ a → t.mem.byte a = s.mem.byte a))

/-- R188, R189: the vector loads and stores: what the lanes in range loaded stands in the active lanes, with zero in
those out of range; the stores write the active lanes. -/
def Sys2Proof.Claims.VectorAccesses : Prop :=
  (∀ (s s1 : State) (v : Vc) (x : Bool) (m : Mk) (os : Fin 16) (p : Pr) (off : Fin 32) (o : Nat)
    (got : List (Nat × Nat)), ∀ e ∈ [(Instr.vld v x m os p off, (none : Option FeKind)),
      (Instr.vldw v x m os p off, some .load), (Instr.vldc v x m os p off, some .consume)],
    s.issues e.1 → Claims.offsetIs s x off 64 o → s.takesV v.val → (isAcq os = true → s.released) →
    let mask : BitVec 16 := if m = 0 then 0xFFFF else s.now.m[m]
    M.answers (loadLanes e.2 p o (strided mask o)) s got s1 →
    let old := if v.val < 32 then s1.now.v[Fin.ofNat 32 v.val] else 0
    exec e.1 s = .next (s.finish e.1 .seq (s1.putV { ss := Claims.offSources x off, dv := [v.val] } v.val
      (mergeLoaded old (activeLanes mask 16) got)))) ∧
  (∀ (s s1 : State) (v : Vc) (x : Bool) (m : Mk) (os : Fin 16) (p : Pr) (off : Fin 32) (o : Nat) (y : V512),
    s.issues (.vst v x m os p off) → Claims.offsetIs s x off 64 o → s.givesV v.val y →
    (isRel os = true → s.performed) →
    let mask : BitVec 16 := if m = 0 then 0xFFFF else s.now.m[m]
    M.answers (storeLanes p o (strided mask o) v.val) s () s1 →
    exec (.vst v x m os p off) s = .next (s.finish (.vst v x m os p off) .seq
      (M.after (popAll { ss := Claims.offSources x off, sv := [v.val] }) s1))) ∧
  (∀ (s s1 s2 : State) (v : Vc) (x : Bool) (m : Mk) (os : Fin 16) (p : Pr) (off : Fin 32) (o k : Nat) (y : V512)
    (l : Nat × Nat) (ok : List (Nat × Nat)) (vs : List Nat),
    s.issues (.vstf v x m os p off) → s.now.latch = none → Claims.offsetIs s x off 64 o → s.givesV v.val y →
    (isRel os = true → s.performed) →
    let mask : BitVec 16 := if m = 0 then 0xFFFF else s.now.m[m]
    M.answers (vectorLanes p o (strided mask o) true) s (k, l :: ok) s1 → s1.givesV v.val y →
    M.answers (tryNeed s1.core s1.ctx (.words .fill p 4 ((l :: ok).map Prod.snd)
      ((l :: ok).map fun l => laneOf y 32 l.1))) s1 (.ok vs) s2 →
    exec (.vstf v x m os p off) s = .next (s.finish (.vstf v x m os p off) .seq
      (M.after (popAll { ss := Claims.offSources x off, sv := [v.val] }) s2.settled))) ∧
  (∀ (s s1 : State) (v : Vc) (m : Mk) (os : Fin 16) (p : Pr) (vi : Fin 32) (y : V512) (got : List (Nat × Nat)),
    s.issues (.vgath v m os p vi) → s.givesV vi.val y → s.takesV v.val → (isAcq os = true → s.released) →
    let mask : BitVec 16 := if m = 0 then 0xFFFF else s.now.m[m]
    M.answers (loadLanes none p 0 (indexed mask y)) s got s1 →
    let old := if v.val < 32 then s1.now.v[Fin.ofNat 32 v.val] else 0
    exec (.vgath v m os p vi) s = .next (s.finish (.vgath v m os p vi) .seq
      (s1.putV { sv := [vi.val], dv := [v.val] } v.val (mergeLoaded old (activeLanes mask 16) got)))) ∧
  (∀ (s s1 : State) (v : Vc) (m : Mk) (os : Fin 16) (p : Pr) (vi : Fin 32) (y z : V512),
    s.issues (.vscat v m os p vi) → s.givesV vi.val y → s.givesV v.val z →
    (isRel os = true → s.performed) →
    let mask : BitVec 16 := if m = 0 then 0xFFFF else s.now.m[m]
    M.answers (storeLanes p 0 (indexed mask y) v.val) s () s1 →
    exec (.vscat v m os p vi) s = .next (s.finish (.vscat v m os p vi) .seq
      (M.after (popAll { sv := [v.val, vi.val] }) s1)))

namespace Sys2Proof.Claims

/-- Lane mask m of the issuing context; m0 reads all ones. -/
def maskOf (s : State) (m : Mk) : BitVec 16 := if m = 0 then 0xFFFF else s.now.m[m]

/-- What stands in the lanes of vector destination d that are not written (R133). -/
def oldOf (s : State) (d : Nat) : V512 := if d < 32 then s.now.v[Fin.ofNat 32 d] else 0

/-- Every lane of a vector access is in range and aligned in an object of the core's own pad, without errors. -/
abbrev lanesOk (s : State) (p : Pr) (k f : Nat) (h : Header) (base : Nat) (lanes : List (Nat × Nat)) : Prop :=
  ownObject s p k f h ∧ base % 4 = 0 ∧
    ∀ l ∈ lanes, l.2 % 4 = 0 ∧ l.2 + 4 ≤ s.now.p[p].len ∧ s.mem.footOf (k + l.2) = some f ∧ clean s (k + l.2) 4

/-- What stands in the words of some lanes. -/
def lanesAt (s : State) (k : Nat) (lanes : List (Nat × Nat)) : List (Nat × Nat) :=
  lanes.map fun l => (l.1, natOf (s.mem.read (k + l.2) 4))

/-- The full/empty bits of the words of some lanes become b. -/
def lanesFull (s : State) (k : Nat) (lanes : List (Nat × Nat)) (b : Bool) : State :=
  s.updMem fun m => lanes.foldl (fun m l => (wordsOf (k + l.2) 4).foldl (fun m w => m.setFull w b) m) m

end Sys2Proof.Claims

/-- R188, R189: on an object in the core's own pad, the vector loads complete with the words of the active lanes, in
the waiting forms where those are full. -/
def Sys2Proof.Claims.VectorLoadsComplete : Prop :=
  (∀ (s : State) (v : Vc) (x : Bool) (m : Mk) (os : Fin 16) (p : Pr) (off : Fin 32) (o k f : Nat) (h : Header),
    let lanes := strided (Claims.maskOf s m) o
    let got := mergeLoaded (Claims.oldOf s v.val) (lanes.map Prod.fst) (Claims.lanesAt s k lanes)
    let u : Uses := { ss := Claims.offSources x off, dv := [v.val] }
    s.now.latch = none → Claims.offsetIs s x off 64 o → s.takesV v.val → s.now.p[p].r = true →
    Claims.lanesOk s p k f h o lanes →
    (s.issues (.vld v x m os p off) →
      exec (.vld v x m os p off) s = .next (s.finish (.vld v x m os p off) .seq (s.putV u v.val got))) ∧
    (s.issues (.vldw v x m os p off) → lanes ≠ [] → (∀ l ∈ lanes, ∀ w ∈ wordsOf (k + l.2) 4, s.mem.isFull w = true) →
      exec (.vldw v x m os p off) s = .next (s.finish (.vldw v x m os p off) .seq (s.settled.putV u v.val got))) ∧
    (s.issues (.vldc v x m os p off) → lanes ≠ [] → (∀ l ∈ lanes, ∀ w ∈ wordsOf (k + l.2) 4, s.mem.isFull w = true) →
      exec (.vldc v x m os p off) s = .next (s.finish (.vldc v x m os p off) .seq
        ((Claims.lanesFull s k lanes false).settled.putV u v.val got)))) ∧
  (∀ (s : State) (v : Vc) (m : Mk) (os : Fin 16) (p : Pr) (vi : Fin 32) (y : V512) (k f : Nat) (h : Header),
    let lanes := indexed (Claims.maskOf s m) y
    s.issues (.vgath v m os p vi) → s.now.latch = none → s.givesV vi.val y → s.takesV v.val →
    s.now.p[p].r = true → Claims.lanesOk s p k f h 0 lanes →
    exec (.vgath v m os p vi) s = .next (s.finish (.vgath v m os p vi) .seq
      (s.putV { sv := [vi.val], dv := [v.val] } v.val
        (mergeLoaded (Claims.oldOf s v.val) (lanes.map Prod.fst) (Claims.lanesAt s k lanes)))))

/-- R188, R189: on an object in the core's own pad, the vector stores complete, and write no byte but those of the
active lanes; VST and VSTF leave each lane's word there, VSTF only where all are empty. -/
def Sys2Proof.Claims.VectorStoresComplete : Prop :=
  (∀ (s : State) (v : Vc) (x : Bool) (m : Mk) (os : Fin 16) (p : Pr) (off : Fin 32) (o k f : Nat) (h : Header)
    (y : V512),
    let lanes := strided (Claims.maskOf s m) o
    ∀ i ∈ [Instr.vst v x m os p off, Instr.vstf v x m os p off],
    s.issues i → s.now.latch = none → Claims.offsetIs s x off 64 o → s.givesV v.val y → s.now.p[p].w = true →
    Claims.lanesOk s p k f h o lanes → s.mem.wf → Claims.bodyAt h f k → s.armed s.core 0 = none →
    (i = .vstf v x m os p off → lanes ≠ [] ∧ ∀ l ∈ lanes, ∀ w ∈ wordsOf (k + l.2) 4, s.mem.isFull w = false) →
    ∃ t : State, exec i s = .next (s.finish i .seq
        (M.after (popAll { ss := Claims.offSources x off, sv := [v.val] })
          (if i = .vst v x m os p off then t else t.settled))) ∧
      (∀ l ∈ lanes, t.mem.read (k + l.2) 4 = bytesOf 4 (laneOf y 32 l.1)) ∧
      ∀ a, (∀ l ∈ lanes, a < k + l.2 ∨ k + l.2 + 4 ≤ a) → t.mem.byte a = s.mem.byte a) ∧
  (∀ (s : State) (v : Vc) (m : Mk) (os : Fin 16) (p : Pr) (vi : Fin 32) (y z : V512) (k f : Nat) (h : Header),
    let lanes := indexed (Claims.maskOf s m) y
    s.issues (.vscat v m os p vi) → s.givesV vi.val y → s.givesV v.val z → s.now.p[p].w = true →
    Claims.lanesOk s p k f h 0 lanes → s.mem.wf → Claims.bodyAt h f k → s.armed s.core 0 = none →
    ∃ t : State, exec (.vscat v m os p vi) s = .next (s.finish (.vscat v m os p vi) .seq
        (M.after (popAll { sv := [v.val, vi.val] }) t)) ∧
      (∀ l ∈ lanes, (∀ l' ∈ lanes, l.1 < l'.1 → l'.2 ≠ l.2) → t.mem.read (k + l.2) 4 = bytesOf 4 (laneOf z 32 l.1)) ∧
      ∀ a, (∀ l ∈ lanes, a < k + l.2 ∨ k + l.2 + 4 ≤ a) → t.mem.byte a = s.mem.byte a)

/-- The vector loads and stores: VectorAccesses, VectorLoadsComplete and VectorStoresComplete. -/
def Obligations.VectorMemoryAccess : Prop :=
  Claims.VectorAccesses ∧ Claims.VectorLoadsComplete ∧ Claims.VectorStoresComplete

/-- R196: PADD, PNARROW, PVIEW, PPERM, PLEN, PCMP and PMOV. -/
def Obligations.PointerArithmetic : Prop :=
  (∀ (s : State) (a b : Pr) (c : Sc) (k : DWord), s.issues (.padd a b c) → s.gives c.val k →
    s.now.p[b].tag = true → k.toNat ≤ s.now.p[b].len →
    exec (.padd a b c) s = .next (s.finish (.padd a b c) .seq (Claims.popped
      (Claims.withPtr s a ((s.now.p[b].setF 0 48 (s.now.p[b].addr + k.toNat)).setF 64 40 (s.now.p[b].len - k.toNat)))
      [c.val]))) ∧
  (∀ (s : State) (a b : Pr) (c d : Sc) (k m : DWord), s.issues (.pnarrow a b c d) → s.gives c.val k →
    s.gives d.val m → s.now.p[b].tag = true → k.toNat + m.toNat ≤ s.now.p[b].len →
    exec (.pnarrow a b c d) s = .next (s.finish (.pnarrow a b c d) .seq (Claims.popped
      (Claims.withPtr s a ((s.now.p[b].setF 0 48 (s.now.p[b].addr + k.toNat)).setF 64 40 m.toNat)) [c.val, d.val]))) ∧
  (∀ (s : State) (a b : Pr) (view : Fin 8), s.issues (.pview a b view) → s.now.p[b].tag = true →
    exec (.pview a b view) s = .next (s.finish (.pview a b view) .seq
      (Claims.withPtr s a (s.now.p[b].setF 50 3 view.val)))) ∧
  (∀ (s : State) (a b : Pr) (mask : BitVec 4), s.issues (.pperm a b mask) → s.now.p[b].tag = true →
    (mask.getLsbD 1 && mask.getLsbD 3) = false →
    exec (.pperm a b mask) s = .next (s.finish (.pperm a b mask) .seq
      (Claims.withPtr s a (s.now.p[b].setF 53 4 (fld s.now.p[b].bits.toNat 53 4 &&& mask.toNat))))) ∧
  (∀ (s : State) (d : Sc) (b : Pr), s.issues (.plen d b) → s.takes d.val →
    exec (.plen d b) s = .next (s.finish (.plen d b) .seq (s.putS { ds := [d.val] } d.val
      (if s.now.p[b].tag then BitVec.ofNat 64 s.now.p[b].len else 0)))) ∧
  (∀ (s : State) (d : Sc) (a b : Pr), s.issues (.pcmp d a b) → s.takes d.val →
    let p := s.now.p[a]
    let q := s.now.p[b]
    let eq : Bool := p.tag && q.tag && p.bits == q.bits
    let same : Bool := p.tag && q.tag && p.lvl == q.lvl && p.home == q.home && p.addr == q.addr
    exec (.pcmp d a b) s = .next (s.finish (.pcmp d a b) .seq (s.putS { ds := [d.val] } d.val
      (BitVec.ofNat 64 (eq.toNat + 2 * same.toNat + 4 * p.tag.toNat + 8 * q.tag.toNat))))) ∧
  (∀ (s : State) (a b : Pr), s.issues (.pmov a b) →
    exec (.pmov a b) s = .next (s.finish (.pmov a b) .seq (Claims.withPtr s a s.now.p[b]))) ∧
  (∀ (s : State) (a b : Pr), ∀ i ∈ [Instr.pview a b 0, Instr.pperm a b 0],
    s.issues i → s.now.p[b].tag = false → exec i s = .next (s.takeTrap cPERM 0 (some b) none))

namespace Sys2Proof.Claims

/-- What a unit that allocated an object of len bytes at place g leaves of the state in which that place is taken. -/
def allocated (s : State) (pd : Pr) (kind : Fin 16) (perm : BitVec 5) (pin : Bool) (len g : Nat) : State :=
  let t := M.after (initObject g (footprint len) (Header.fresh kind.val len)) s
  let l := placeFields (g + 16)
  (withPtr t pd (mkPtr l.2.1 l.1 0 (perm.toNat + 32 * pin.toNat) kind.val len l.2.2)).updCtx s.core s.ctx fun q =>
    { q with news := q.news ++ [g] }

/-- NEW and NEWP may allocate (R192). -/
abbrev mayAllocate (s : State) (kind : Fin 16) (perm : BitVec 5) (len : Nat) : Prop :=
  (kind.val = 8 → s.now.privileged = true) ∧ (perm.getLsbD 1 && perm.getLsbD 3) = false ∧ len < 2 ^ 40

end Sys2Proof.Claims

/-- R170-R172, R192: NEW of an object whose level's pad, a core pad or a die region, has room takes it at the pad's bump
pointer, NEWP at the pinned one; the pointer names its body with the length and permissions asked for. -/
def Sys2Proof.Claims.AllocationComplete : Prop :=
  ∀ (s : State) (pd : Pr) (kind : Fin 16) (a : Sc) (perm : BitVec 5) (len : DWord) (i : Nat),
    let n := footprint len.toNat
    let p := s.pad i
    s.gives a.val len → Claims.mayAllocate s kind perm len.toNat → (s.dieAt (coreDie s.core)).st ≠ 1 →
    s.chooseLevel s.core s.now.part.toNat n (perm.getLsbD 4) = .pad i →
    (s.issues (.new pd kind a perm) → p.bump + n ≤ p.hi →
      levelOf (padBase i + p.bump) = 0 ∨ levelOf (padBase i + p.bump) = 2 →
      let t := (s.setPad i { p with bump := p.bump + n }).allocated i
      exec (.new pd kind a perm) s = .next (s.finish (.new pd kind a perm) .seq (Claims.popped
        (Claims.allocated (if p.hwm < p.bump + n then t.later 0 (siftDue i) else t) pd kind perm false len.toNat
          (padBase i + p.bump)) [a.val]))) ∧
    (s.issues (.newp pd kind a perm) → p.pinBump + n ≤ p.pinHi →
      levelOf (padBase i + p.pinBump) = 0 ∨ levelOf (padBase i + p.pinBump) = 2 →
      exec (.newp pd kind a perm) s = .next (s.finish (.newp pd kind a perm) .seq (Claims.popped
        (Claims.allocated (s.setPad i { p with pinBump := p.pinBump + n }) pd kind perm true len.toNat
          (padBase i + p.pinBump)) [a.val])))

/-- R166, R172: a new object's footprint in a core pad or a die region is empty and untagged, its body is zero and its
header new. -/
def Sys2Proof.Claims.NewObjectIsEmpty : Prop :=
  ∀ (s : State) (g len : Nat) (kind : Fin 16), s.mem.wf → levelOf g = 0 ∨ levelOf g = 2 → g % 32 = 0 →
    len < 2 ^ 40 → s.armed (spaceOf g) 0 = none →
    let m := (M.after (initObject g (footprint len) (Header.fresh kind.val len)) s).mem
    (∀ a, g + 16 ≤ a → a < g + footprint len → m.byte a = 0) ∧
    (∀ a, g ≤ a → a < g + footprint len → m.isFull a = false ∧ m.isTagged a = false ∧ m.isPoisoned a = false) ∧
    Header.ofNat (natOf (m.read g 16)) = Header.fresh kind.val len ∧ m.footOf (g + 16) = some g

/-- R170-R172, R192: NEW and NEWP of an object that finds a place at any level. -/
def Sys2Proof.Claims.Allocation : Prop :=
  ∀ (s s1 s2 : State) (pd : Pr) (kind : Fin 16) (a : Sc) (perm : BitVec 5) (len : DWord) (g : Nat),
    ∀ e ∈ [(Instr.new pd kind a perm, false), (Instr.newp pd kind a perm, true)],
    s.issues e.1 → s.gives a.val len → Claims.mayAllocate s kind perm len.toNat →
    M.answers (placeObject (footprint len.toNat) len.toNat (perm.getLsbD 4) e.2) s g s1 →
    M.answers (initObject g (footprint len.toNat) (Header.fresh kind.val len.toNat)) s1 () s2 →
    let l := placeFields (g + 16)
    exec e.1 s = .next (s.finish e.1 .seq (Claims.popped
      ((M.after (setPreg pd (mkPtr l.2.1 l.1 0 (perm.toNat + 32 * e.2.toNat) kind.val len.toNat l.2.2)) s2).updCtx
        s2.core s2.ctx fun q => { q with news := q.news ++ [g] }) [a.val]))

/-- R192: a footprint is 32 times the least number of 32-byte units that hold the header and the body. -/
def Sys2Proof.Claims.FootprintHoldsObject : Prop :=
  ∀ len, footprint len % 32 = 0 ∧ 16 + len ≤ footprint len ∧ footprint len < 16 + len + 32

/-- NEW, NEWP and footprints: AllocationComplete, NewObjectIsEmpty, Allocation and FootprintHoldsObject. -/
def Obligations.AllocationAndFootprints : Prop :=
  Claims.AllocationComplete ∧ Claims.NewObjectIsEmpty ∧ Claims.Allocation ∧ Claims.FootprintHoldsObject

/-- R193, R194: TOUCH, ACQ and REL. -/
def Sys2Proof.Claims.TouchAcquireRelease : Prop :=
  (∀ (s : State) (p : Pr) (k f : Nat) (h : Header), s.issues (.touch p) → Claims.ownObject s p k f h →
    exec (.touch p) s = .next (s.finish (.touch p) .seq s)) ∧
  (∀ (s s1 : State) (p : Pr) (scope : Fin 8) (q : PReg), s.issues (.acq p scope) → s.now.latch = none → s.released →
    M.answers (checkShared p) s q s → M.answers (tryNeed s.core s.ctx (.acq p)) s (.ok []) s1 →
    exec (.acq p scope) s = .next (s.finish (.acq p scope) .seq s1.settled)) ∧
  (∀ (s : State) (p : Pr) (scope : Fin 8) (k f : Nat) (h : Header), s.issues (.acq p scope) → s.now.latch = none →
    Claims.ownObject s p k f h → s.now.p[p].sh = true → s.now.p[p].len ≠ 0 → h.acq = 0x1FFF → s.mem.wf →
    s.armed s.core 0 = none →
    ∃ t : State, exec (.acq p scope) s = .next (s.finish (.acq p scope) .seq t.settled) ∧
      Header.ofNat (natOf (t.mem.read f 16)) = { h with acq := acqId s.core s.ctx } ∧
      t.now.holds = s.now.holds ++ [s.now.p[p]]) ∧
  (∀ (s : State) (p : Pr) (scope : Fin 8) (k f : Nat) (h : Header), s.issues (.rel p scope) →
    Claims.ownObject s p k f h → s.now.p[p].sh = true → s.now.p[p].len ≠ 0 → h.acq = acqId s.core s.ctx →
    s.now.holds = [s.now.p[p]] → s.mem.wf → s.armed s.core 0 = none →
    ∃ t : State, exec (.rel p scope) s = .next (s.finish (.rel p scope) .seq t.settled) ∧
      Header.ofNat (natOf (t.mem.read f 16)) = { h with acq := 0x1FFF, version := (h.version + 1) % 65536 } ∧
      t.now.holds = []) ∧
  (∀ (s s1 s2 s3 : State) (p : Pr) (scope : Fin 8) (q : PReg) (k f : Nat) (h : Header) (same : List PReg),
    s.issues (.rel p scope) → s.performed → M.answers (checkShared p) s q s1 →
    M.answers (locateUp (q.key s1.now.part.toNat)) s1 (k, some (f, h)) s2 → h.acq = acqId s1.core s1.ctx →
    let s' := M.after (putHeader f { h with acq := 0x1FFF, version := (h.version + 1) % 65536 } aR) s2
    M.answers (putHeader f { h with acq := 0x1FFF, version := (h.version + 1) % 65536 } aR) s2 () s' →
    M.answers (s'.now.holds.filterM fun (q : PReg) => do
      let (_, o) ← locateUp (q.key (← me).part.toNat)
      match o with
      | some (g, _) => pure (g != f)
      | none => pure false) s' same s3 →
    exec (.rel p scope) s = .next (s.finish (.rel p scope) .seq
      ((s3.updCtx s3.core s3.ctx fun c => { c with holds := same }).settled)))

/-- R335: SIFT sifts the pad that its operand names, and starts none where it has met a sift that ran; ILLEGAL above 2,
and PRIV of a cluster pad of another partition. On the core's own pad, where no object is in it, no sift runs and nothing
is to drain, it completes with the pad's region emptied and its census written (R177). -/
def Sys2Proof.Claims.SiftRequests : Prop :=
  (∀ (s s1 : State) (a : Sc) (v : DWord), s.issues (.sift a) → s.gives a.val v →
    (v.toNat = 0 → s.siftRuns s.core = false → s.now.metSift = false → M.answers (siftPad s.core) s () s1 →
      exec (.sift a) s = .next (s.finish (.sift a) .seq (Claims.popped s1.settled [a.val]))) ∧
    (v.toNat = 1 →
      (bit (s.pad (1024 + coreClu s.core)).owner.toNat 4 = false ∨
        fld (s.pad (1024 + coreClu s.core)).owner.toNat 0 4 = s.now.part.toNat) →
      s.siftRuns (1024 + coreClu s.core) = false → s.now.metSift = false → M.answers (siftPad (1024 + coreClu s.core)) s () s1 →
      exec (.sift a) s = .next (s.finish (.sift a) .seq (Claims.popped s1.settled [a.val]))) ∧
    (∀ r, v.toNat = 2 → s.region (coreDie s.core) s.now.part.toNat = some r → s.siftRuns r = false →
      s.now.metSift = false → M.answers (siftPad r) s () s1 →
      exec (.sift a) s = .next (s.finish (.sift a) .seq (Claims.popped s1.settled [a.val]))) ∧
    (v.toNat = 1 → bit (s.pad (1024 + coreClu s.core)).owner.toNat 4 = true →
      fld (s.pad (1024 + coreClu s.core)).owner.toNat 0 4 ≠ s.now.part.toNat →
      exec (.sift a) s = .next (s.takeTrap cPRIV 0 none none)) ∧
    (v.toNat = 2 → s.region (coreDie s.core) s.now.part.toNat = none →
      exec (.sift a) s = .next (s.finish (.sift a) .seq (Claims.popped s [a.val]))) ∧
    (v.toNat = 0 → s.siftRuns s.core = false → s.now.metSift = true →
      exec (.sift a) s = .next (s.finish (.sift a) .seq (Claims.popped s [a.val]))) ∧
    (v.toNat = 0 → s.core < 1024 → s.siftRuns s.core = false → s.now.metSift = false → s.draining s.core = false →
      s.objectsIn (padBase s.core + (s.pad s.core).lo) (padBase s.core + (s.pad s.core).hi) = [] →
      s.liveIn s.core = [] →
      exec (.sift a) s = .next (s.finish (.sift a) .seq (Claims.popped (s.endSift s.core).settled [a.val]))) ∧
    (v.toNat = 0 → s.siftRuns s.core = true → exec (.sift a) s = .next (s.stall sSIFT)) ∧
    (3 ≤ v.toNat → exec (.sift a) s = .next (s.takeTrap cILLEGAL 0 none none)))

/-- TOUCH, ACQ, REL and SIFT: TouchAcquireRelease and SiftRequests. When SIFT of a cluster pad raises PRIV is log
23. -/
def Obligations.TouchAcquireReleaseSift : Prop :=
  Claims.TouchAcquireRelease ∧ Claims.SiftRequests

/-! ## Vectors -/

namespace Sys2Proof.Claims

/-- What one active lane becomes: from its number and the generator's state, its code, the flags it raises, and the
generator's next state (R123, R124). -/
abbrev LaneFn := Nat → DWord → Nat × Flags × DWord

/-- Lanes that are moved, or computed without rounding. -/
def exactly (g : Nat → Nat) : LaneFn := fun i seed => (g i, 0, seed)

/-- Lanes rounded once to their type under a mode (R126). -/
def rounded (ty : Nat) (mode : Mode) (g : Nat → FVal × Flags) : LaneFn := fun i seed =>
  let r := roundStep ty mode seed (g i).1
  (r.1, (g i).2 ||| r.2.1, r.2.2)

/-- The functions of R136, which flush a subnormal FP16 or BF16 result to a zero of its sign with UF and NX. -/
def flushing (ty : Nat) (mode : Mode) (g : Nat → FVal × Flags) : LaneFn := fun i seed =>
  let r := rounded ty mode g i seed
  let f := r.1 % 2 ^ fracBits ty
  if (ty = 10 ∨ ty = 11) ∧ r.1 / 2 ^ fracBits ty % 2 ^ expBits ty = 0 ∧ f ≠ 0 then
    (r.1 - f, r.2.1 ||| flagUF ||| flagNX, r.2.2)
  else r

/-- Lanes in ascending order: active ones by f, inactive ones as they were (R123, R133). -/
def fill (f : LaneFn) (m : BitVec 16) (old : Nat → Nat) : List Nat → DWord → List Nat × Flags × DWord
  | [], seed => ([], 0, seed)
  | i :: is, seed =>
    if m.getLsbD i then
      let x := f i seed
      let r := fill f m old is x.2.2
      (x.1 :: r.1, x.2.1 ||| r.2.1, r.2.2)
    else
      let r := fill f m old is seed
      (old i :: r.1, r.2)

/-- Flags f are ORed into FEXC, and the generator stands at seed. -/
def raised (s : State) (f : Flags) (seed : DWord) (t : State) : Prop :=
  (t = s ∧ f = 0 ∧ seed = s.now.srseed) ∨
    t = s.updCtx s.core s.ctx fun q => { q with fexc := q.fexc ||| f, srseed := seed }

/-- The instruction completes with the lanes of d filled by f. -/
def fills (s : State) (i : Instr) (vx : Vx) (u : Uses) (d : Nat) (f : LaneFn) : Prop :=
  let w := laneWidth vx.type
  let r := fill f (maskOf s vx.mask) (laneOf (oldOf s d) w) (List.range (lanesOf vx.type)) s.now.srseed
  ∃ t, raised s r.2.1 r.2.2 t ∧ exec i s = .next (s.finish i .seq (t.putV u d (ofLanes w r.1)))

/-- Integer lanes wrap (R134); floating lanes round once. -/
def arith (vx : Vx) (real : FVal → FVal → FVal × Flags) (int : Int → Int → Int) (x y : V512) : LaneFn :=
  let ty := vx.type
  if intType ty then exactly fun i => intLane ty (int (intOf ty (elemOf ty x i)) (intOf ty (elemOf ty y i)))
  else rounded ty (Mode.ofCode vx.mode) fun i => real (decodeVal ty (elemOf ty x i)) (decodeVal ty (elemOf ty y i))

/-- The lesser or greater of two lanes; a floating one is rounded as any lane is (R126). -/
def choose (vx : Vx) (real : FVal → FVal → FVal × Flags) (int : Int → Int → Int) (x y : V512) : LaneFn :=
  let ty := vx.type
  if intType ty then exactly fun i => intLane ty (int (intOf ty (elemOf ty x i)) (intOf ty (elemOf ty y i)))
  else rounded ty (Mode.ofCode vx.mode) fun i => real (decodeVal ty (elemOf ty x i)) (decodeVal ty (elemOf ty y i))

/-- Bits of the n-bit elements. -/
def bitwise (vx : Vx) (f : (n : Nat) → BitVec n → BitVec n → BitVec n) (x y : V512) : LaneFn :=
  let n := elemBits vx.type
  exactly fun i =>
    placeElem vx.type (f n (BitVec.ofNat n (elemOf vx.type x i)) (BitVec.ofNat n (elemOf vx.type y i))).toNat

/-- Three sources, rounded once. -/
def arith3 (vx : Vx) (real : FVal → FVal → FVal → FVal × Flags) (int : Int → Int → Int → Int) (x y z : V512) :
    LaneFn :=
  let ty := vx.type
  if intType ty then exactly fun i =>
    intLane ty (int (intOf ty (elemOf ty x i)) (intOf ty (elemOf ty y i)) (intOf ty (elemOf ty z i)))
  else rounded ty (Mode.ofCode vx.mode) fun i =>
    real (decodeVal ty (elemOf ty x i)) (decodeVal ty (elemOf ty y i)) (decodeVal ty (elemOf ty z i))

/-- The rounding mode is RDN, which gives an exact zero sum its sign (R121). -/
def down (vx : Vx) : Bool := vx.mode == 2

/-- The instructions of two vector sources (R135, R138). -/
def vectorTwo (vx : Vx) (d a b : Vc) : List (Instr × (V512 → V512 → LaneFn)) :=
  [(.vadd vx d a b, arith vx (fun x y => x.add (down vx) y) fun x y => x + y),
   (.vsub vx d a b, arith vx (fun x y => x.add (down vx) y.neg) fun x y => x - y),
   (.vmul vx d a b, arith vx FVal.mul fun x y => x * y),
   (.vmin vx d a b, choose vx FVal.min2 min),
   (.vmax vx d a b, choose vx FVal.max2 max),
   (.vand vx d a b, bitwise vx fun _ x y => x &&& y),
   (.vor vx d a b, bitwise vx fun _ x y => x ||| y),
   (.vxor vx d a b, bitwise vx fun _ x y => x ^^^ y),
   (.vshl vx d a b, bitwise vx fun n x y => x <<< (y.toNat % n)),
   (.vshr vx d a b, bitwise vx fun n x y => x >>> (y.toNat % n)),
   (.vsar vx d a b, bitwise vx fun n x y => x.sshiftRight (y.toNat % n)),
   (.vperm vx d a b, fun x y => exactly fun i =>
     laneOf x (laneWidth vx.type) (laneOf y (laneWidth vx.type) i % lanesOf vx.type))]

/-- The compact forms of R25: FP32, RNE, m0. -/
def vectorCompact (d a : Fin 32) : List (Instr × (V512 → V512 → LaneFn)) :=
  [(.vaddF32Compact d a, arith ⟨0, none⟩ (fun x y => x.add false y) fun x y => x + y),
   (.vmulF32Compact d a, arith ⟨0, none⟩ FVal.mul fun x y => x * y)]

/-- The instructions of three vector sources; z is the old destination (R135). -/
def vectorThree (vx : Vx) (d a b : Vc) : List (Instr × (V512 → V512 → V512 → LaneFn)) :=
  [(.vfma vx d a b, arith3 vx (fun x y z =>
      (((x.mul y).1.add (down vx) z).1, (x.mul y).2 ||| ((x.mul y).1.add (down vx) z).2))
      fun x y z => x * y + z),
   (.vfms vx d a b, arith3 vx (fun x y z =>
      ((z.add (down vx) (x.mul y).1.neg).1, (x.mul y).2 ||| (z.add (down vx) (x.mul y).1.neg).2))
      fun x y z => z - x * y),
   (.vclamp vx d a b, fun lo hi c =>
      let ty := vx.type
      if intType ty then exactly fun i => intLane ty
        (min (max (intOf ty (elemOf ty c i)) (intOf ty (elemOf ty lo i))) (intOf ty (elemOf ty hi i)))
      else rounded ty (Mode.ofCode vx.mode) fun i =>
        let v := (decodeVal ty (elemOf ty c i)).max2 (decodeVal ty (elemOf ty lo i))
        let u := v.1.min2 (decodeVal ty (elemOf ty hi i))
        (u.1, v.2 ||| u.2))]

/-- One floating source whose signalling NaN raises NV (R125). -/
def signOf (vx : Vx) (real : FVal → FVal) (int : Int → Int) (x : V512) : LaneFn :=
  let ty := vx.type
  if intType ty then exactly fun i => intLane ty (int (intOf ty (elemOf ty x i)))
  else rounded ty (Mode.ofCode vx.mode) fun i =>
    (real (decodeVal ty (elemOf ty x i)), flagIf (decodeVal ty (elemOf ty x i)).isSig flagNV)

/-- The instructions of one vector source (R136, R137). -/
def vectorOne (vx : Vx) (d a : Vc) : List (Instr × (V512 → LaneFn)) :=
  let fn := fun (f : FVal → FVal × Flags) (x : V512) =>
    flushing vx.type (Mode.ofCode vx.mode) fun i => f (decodeVal vx.type (elemOf vx.type x i))
  [(.vabs vx d a, signOf vx FVal.abs fun x => if vx.type < 4 then x.natAbs else x),
   (.vneg vx d a, signOf vx FVal.neg fun x => -x),
   (.vrcp vx d a, fn rcpVal), (.vrsq vx d a, fn rsqVal), (.vexp2 vx d a, fn exp2Val), (.vlog2 vx d a, fn log2Val),
   (.vmov vx d a, fun x => exactly (laneOf x (laneWidth vx.type)))]

end Sys2Proof.Claims

/-- R126, R133-R138: the lane-wise vector instructions, each active lane computed exactly and rounded once under the
instruction's mode, with the flags of R124; inactive lanes keep their values. -/
def Sys2Proof.Claims.VectorLaneResults : Prop :=
  (∀ (s : State) (vx : Vx) (d a b : Vc) (x y : V512), ∀ e ∈ Claims.vectorTwo vx d a b,
    s.issues e.1 → s.givesV a.val x → s.givesV b.val y → s.takesV d.val →
    Claims.fills s e.1 vx { sv := [a.val, b.val], dv := [d.val] } d.val (e.2 x y)) ∧
  (∀ (s : State) (d a : Fin 32) (x y : V512), ∀ e ∈ Claims.vectorCompact d a,
    s.issues e.1 → s.givesV d.val x → s.givesV a.val y → s.takesV d.val →
    Claims.fills s e.1 ⟨0, none⟩ { sv := [d.val, a.val], dv := [d.val] } d.val (e.2 x y)) ∧
  (∀ (s : State) (vx : Vx) (d a b : Vc) (x y z : V512), ∀ e ∈ Claims.vectorThree vx d a b,
    s.issues e.1 → s.givesV a.val x → s.givesV b.val y → s.givesV d.val z → s.takesV d.val →
    Claims.fills s e.1 vx { sv := [a.val, b.val, d.val], dv := [d.val] } d.val (e.2 x y z)) ∧
  (∀ (s : State) (vx : Vx) (d a : Vc) (x : V512), ∀ e ∈ Claims.vectorOne vx d a,
    s.issues e.1 → s.givesV a.val x → s.takesV d.val →
    Claims.fills s e.1 vx { sv := [a.val], dv := [d.val] } d.val (e.2 x))

/-- R137, R139: VIOTA, VBCAST, VINS, VEXT, VCMP and VSEL. -/
def Sys2Proof.Claims.VectorMoveResults : Prop :=
  (∀ (s : State) (vx : Vx) (d : Vc), s.issues (.viota vx d) → s.takesV d.val →
    Claims.fills s (.viota vx d) vx { dv := [d.val] } d.val (Claims.exactly fun i =>
      if intType vx.type then i else (roundVal vx.type .rne 0 (.fin false i 0)).1)) ∧
  (∀ (s : State) (vx : Vx) (d : Vc) (a : Sc) (x : DWord), s.issues (.vbcast vx d a) → s.gives a.val x →
    s.takesV d.val →
    Claims.fills s (.vbcast vx d a) vx { ss := [a.val], dv := [d.val] } d.val
      (Claims.exactly fun _ => placeElem vx.type x.toNat)) ∧
  (∀ (s : State) (vx : Vx) (d : Vc) (a : Sc) (lane : Fin 64) (x : DWord), s.issues (.vins vx d a lane) →
    s.gives a.val x → s.takesV d.val →
    exec (.vins vx d a lane) s = .next (s.finish (.vins vx d a lane) .seq
      (s.putV { ss := [a.val], dv := [d.val] } d.val
        (setLane (Claims.oldOf s d.val) (laneWidth vx.type) lane.val (placeElem vx.type x.toNat))))) ∧
  (∀ (s : State) (vx : Vx) (d : Sc) (a : Vc) (lane : Fin 64) (x : V512), s.issues (.vext vx d a lane) →
    s.givesV a.val x → s.takes d.val →
    let v := laneOf x (laneWidth vx.type) lane.val
    exec (.vext vx d a lane) s = .next (s.finish (.vext vx d a lane) .seq
      (s.putS { sv := [a.val], ds := [d.val] } d.val
        (if vx.type < 4 then (BitVec.ofNat (laneWidth vx.type) v).signExtend 64 else BitVec.ofNat 64 v)))) ∧
  (∀ (s : State) (vx : Vx) (md : Mk) (a b : Vc) (cond : Fin 8) (x y : V512), s.issues (.vcmp vx md a b cond) →
    s.givesV a.val x → s.givesV b.val y →
    let ty := vx.type
    let on := fun i => i < lanesOf ty && (Claims.maskOf s vx.mask).getLsbD i
    ∃ t, exec (.vcmp vx md a b cond) s = .next (s.finish (.vcmp vx md a b cond) .seq
        (M.after (popAll { sv := [a.val, b.val] }) t)) ∧
      (∀ i : Fin 16, md ≠ 0 → t.now.m[md].getLsbD i.val =
        (on i.val && (compareLane ty cond.val (elemOf ty x i.val) (elemOf ty y i.val)).1)) ∧
      (∀ k : Mk, k ≠ md ∨ md = 0 → t.now.m[k] = s.now.m[k]) ∧
      (∀ i, on i = true → (compareLane ty cond.val (elemOf ty x i) (elemOf ty y i)).2 &&& ~~~t.now.fexc = 0) ∧
      t.now.v = s.now.v ∧ t.mem = s.mem) ∧
  (∀ (s : State) (vx : Vx) (d a b : Vc) (x y : V512), s.issues (.vsel vx d a b) → s.givesV a.val x →
    s.givesV b.val y → s.takesV d.val →
    let w := laneWidth vx.type
    exec (.vsel vx d a b) s = .next (s.finish (.vsel vx d a b) .seq
      (s.putV { sv := [a.val, b.val], dv := [d.val] } d.val (ofLanes w ((List.range (lanesOf vx.type)).map fun i =>
        if (Claims.maskOf s vx.mask).getLsbD i then laneOf x w i else laneOf y w i)))))

/-- Lane-wise vector instructions: VectorLaneResults and VectorMoveResults. That VEXT of a narrow type gives the whole
32-bit lane is log 17, and the functions of VRCP, VRSQ, VEXP2 and VLOG2 are log 7. -/
def Obligations.LaneResults : Prop :=
  Claims.VectorLaneResults ∧ Claims.VectorMoveResults

namespace Sys2Proof.Claims

/-- The elements of a vector, inactive ones replaced by the identity of op (R127). -/
def identityFilled (s : State) (vx : Vx) (op : Fin 64) (x : V512) : List Nat :=
  (List.range (lanesOf vx.type)).map fun i =>
    if (maskOf s vx.mask).getLsbD i then elemOf vx.type x i else identityOf vx.type op.val

end Sys2Proof.Claims

/-- R127-R129, R140: VDOT rounds the exact sum of its active products once into lane 0; VRED and VSCAN follow the
fixed tree and the fixed steps. A NaN in VSCAN's first lane, which no step combines, becomes canonical, and a signalling
one raises NV (R125). -/
def Sys2Proof.Claims.VectorReductions : Prop :=
  (∀ (s : State) (vx : Vx) (d a b : Vc) (x y : V512), s.issues (.vdot vx d a b) → s.givesV a.val x →
    s.givesV b.val y → s.takesV d.val →
    let ty := vx.type
    let acts := (List.range (lanesOf ty)).filter (Claims.maskOf s vx.mask).getLsbD
    let sum := acts.foldl (fun t i => t + intOf ty (elemOf ty x i) * intOf ty (elemOf ty y i)) 0
    let e := dotVals (acts.map fun i => decodeVal ty (elemOf ty x i)) (acts.map fun i => decodeVal ty (elemOf ty y i))
    let r := if intType ty then (intLane ty sum, (0 : Flags), s.now.srseed)
      else Claims.rounded ty (Mode.ofCode vx.mode) (fun _ => e) 0 s.now.srseed
    ∃ t, Claims.raised s r.2.1 r.2.2 t ∧ exec (.vdot vx d a b) s = .next (s.finish (.vdot vx d a b) .seq
      (t.putV { sv := [a.val, b.val], dv := [d.val] } d.val (setLane (Claims.oldOf s d.val) (laneWidth ty) 0 r.1)))) ∧
  (∀ (s : State) (vx : Vx) (d a : Vc) (op : Fin 64) (x : V512), s.issues (.vred vx d a op) → s.givesV a.val x →
    s.takesV d.val →
    ∃ r t, M.answers (treeOf vx op.val (treeDepth vx) (Claims.identityFilled s vx op x)) s [r] t ∧
      exec (.vred vx d a op) s = .next (s.finish (.vred vx d a op) .seq
        (t.putV { sv := [a.val], dv := [d.val] } d.val
          (setLane (Claims.oldOf s d.val) (laneWidth vx.type) 0 (placeElem vx.type r))))) ∧
  (∀ (s : State) (vx : Vx) (d a : Vc) (op : Fin 64) (x : V512), s.issues (.vscan vx d a op) → s.givesV a.val x →
    s.takesV d.val →
    let w := laneWidth vx.type
    ∃ rs t u, M.answers (scanOf vx op.val (Claims.maskOf s vx.mask) (treeDepth vx) 1 (Claims.identityFilled s vx op x))
        s rs t ∧
      let first := decodeVal vx.type (rs.getD 0 0)
      let real := (Claims.maskOf s vx.mask).getLsbD 0 && !intType vx.type
      Claims.raised t (if real && first.isSig then flagNV else 0) t.now.srseed u ∧
      exec (.vscan vx d a op) s = .next (s.finish (.vscan vx d a op) .seq
        (u.putV { sv := [a.val], dv := [d.val] } d.val (ofLanes w ((List.range (lanesOf vx.type)).map fun i =>
          if (Claims.maskOf s vx.mask).getLsbD i then
            placeElem vx.type (if i == 0 && real && first.isNaN then canonNaN vx.type else rs.getD i 0)
          else laneOf (Claims.oldOf s d.val) w i)))))

namespace Sys2Proof.Claims

/-- One element of VCVT, from type src to ty (R141): the same code where the types agree, but for a NaN of an IEEE
format or BF16, which becomes canonical; rounded otherwise, and placed in its lane (R132). -/
def converted (vx : Vx) (src : Nat) (c : Nat) : DWord → Nat × Flags × DWord := fun seed =>
  let ty := vx.type
  let v := decodeVal src c
  if ty = src then (placeElem ty (if v.isNaN && 8 ≤ ty && ty ≤ 11 then canonNaN ty else c), 0, seed)
  else
    let r := roundStep ty (Mode.ofCode vx.mode) seed v
    (placeElem ty r.1, flagIf v.isSig flagNV ||| r.2.1, r.2.2)

/-- The pair of masks of VQNT and VDQ: element j is active (R142). -/
def pairActive (s : State) (m : Mk) (j : Nat) : Bool :=
  if j < 16 then (maskOf s m).getLsbD j else (maskOf s (if m = 0 then 0 else m + 1)).getLsbD (j - 16)

end Sys2Proof.Claims

/-- R141-R144: VCVT converts the lanes that both types have and zeroes the others; VQNT packs a block of 32 elements
with its scale code, or the NaN block; VDQ unpacks one. -/
def Sys2Proof.Claims.VectorConversions : Prop :=
  (∀ (s : State) (vx : Vx) (d a : Vc) (src : Fin 64) (x : V512), s.issues (.vcvt vx d a src) → s.givesV a.val x →
    s.takesV d.val →
    let n := lanesOf vx.type
    let w := laneWidth vx.type
    let c := min (lanesOf src.val) n
    let r := Claims.fill (fun i => Claims.converted vx src.val (elemOf src.val x i)) (Claims.maskOf s vx.mask)
      (laneOf (Claims.oldOf s d.val) w) (List.range c) s.now.srseed
    ∃ t, Claims.raised s r.2.1 r.2.2 t ∧ exec (.vcvt vx d a src) s = .next (s.finish (.vcvt vx d a src) .seq
      (t.putV { sv := [a.val], dv := [d.val] } d.val (ofLanes w (r.1 ++ List.replicate (n - c) 0))))) ∧
  (∀ (s : State) (vx : Vx) (d a : Vc) (x y : V512), s.issues (.vqnt vx d a) → s.givesV a.val x →
    s.givesV (a.val + 1) y → s.takesV d.val →
    let on := Claims.pairActive s vx.mask
    let e := fun j => decodeVal 9 (if j < 16 then laneOf x 32 j else laneOf y 32 (j - 16))
    let vs := ((List.range 32).filter on).map e
    let u : Uses := { sv := [a.val, a.val + 1], dv := [d.val] }
    if vs.any (fun v => !v.isFin) then
      ∃ t, Claims.raised s flagNV s.now.srseed t ∧ exec (.vqnt vx d a) s =
        .next (s.finish (.vqnt vx d a) .seq (t.putV u d.val (packBlock [] 255)))
    else
      let r := (List.range 32).foldl (fun (acc : List Nat × Flags × DWord) j =>
        if on j then
          let c := roundStep 14 (Mode.ofCode vx.mode) acc.2.2 ((e j).scale (127 - (scaleCode vs : Int)))
          (acc.1 ++ [c.1], acc.2.1 ||| c.2.1, c.2.2)
        else (acc.1 ++ [0], acc.2)) ([], 0, s.now.srseed)
      ∃ t, Claims.raised s r.2.1 r.2.2 t ∧ exec (.vqnt vx d a) s =
        .next (s.finish (.vqnt vx d a) .seq (t.putV u d.val (packBlock r.1 (scaleCode vs))))) ∧
  (∀ (s : State) (vx : Vx) (d a : Vc) (x : V512), s.issues (.vdq vx d a) →
    s.givesV a.val x → s.takesV d.val → s.takesV (d.val + 1) →
    let one : Nat → Claims.LaneFn := fun base i seed =>
      if fld x.toNat 128 8 = 255 then (canonNaN vx.type, 0, seed)
      else roundStep vx.type (Mode.ofCode vx.mode) seed
        ((decodeQ4 (fld x.toNat (4 * (base + i)) 4)).scale ((fld x.toNat 128 8 : Int) - 127))
    let lo := Claims.fill (one 0) (Claims.maskOf s vx.mask) (laneOf (Claims.oldOf s d.val) 32) (List.range 16)
      s.now.srseed
    let hi := Claims.fill (one 16) (Claims.maskOf s (if vx.mask = 0 then 0 else vx.mask + 1))
      (laneOf (Claims.oldOf s (d.val + 1)) 32) (List.range 16) lo.2.2
    ∃ t, Claims.raised s (lo.2.1 ||| hi.2.1) hi.2.2 t ∧
      exec (.vdq vx d a) s = .next (s.finish (.vdq vx d a) .seq (M.after (do
          writeV d.val (ofLanes 32 lo.1)
          writeV (d.val + 1) (ofLanes 32 hi.1)
          popAll { sv := [a.val], dv := [d.val, d.val + 1] }) t)))

/-- VDOT, VRED, VSCAN, VCVT, VQNT and VDQ: VectorReductions and VectorConversions. The flags of a signalling NaN
that VCVT meets are log 17; what a masked-off lane of VSCAN rounds to under RS is a free value (log 39); that VDOT with no
active lane, and a node of VRED over inactive lanes only, step the generator is log 44. -/
def Obligations.ReductionsAndConversions : Prop :=
  Claims.VectorReductions ∧ Claims.VectorConversions

/-! ## Masks, matrices and weights -/

namespace Sys2Proof.Claims

/-- Mask md becomes v; no mask instruction names m0 (R30). -/
def withMask (s : State) (md : Mk) (v : BitVec 16) : State :=
  s.updCtx s.core s.ctx fun q => if md = 0 then q else { q with m := q.m.set md.val v md.isLt }

/-- The instructions of two masks (R145). -/
def maskTwo (md ma mb : Mk) : List (Instr × (BitVec 16 → BitVec 16 → BitVec 16)) :=
  [(.mand md ma mb, fun x y => x &&& y), (.mor md ma mb, fun x y => x ||| y), (.mxor md ma mb, fun x y => x ^^^ y)]

/-- The instructions that write a scalar from a mask (R145). -/
def maskScalars (d : Sc) (ma : Mk) : List (Instr × (BitVec 16 → Nat)) :=
  [(.many d ma, fun x => if x = 0 then 0 else 1), (.mall d ma, fun x => if x = 0xFFFF then 1 else 0),
   (.mpop d ma, fun x => ((List.range 16).filter x.getLsbD).length),
   (.mfirst d ma, fun x => ((List.range 16).find? x.getLsbD).getD 16), (.mto d ma, BitVec.toNat)]

/-- The tiles are free, or the issuing context's own (R147). -/
abbrev tilesFree (s : State) (ns : List Nat) : Prop :=
  ∀ n ∈ ns, (s.nowCore.tile n).owner = none ∨ (s.nowCore.tile n).owner = some s.ctx

/-- The issuing context owns the tiles. -/
def owning (s : State) (ns : List Nat) : State := M.after (takeTiles ns) s

/-- The pane through which p is read (R113). -/
def paneFor (s : State) (p : Pr) : Nat := (s.nowCore.panes[Fin.ofNat 8 (s.now.p[p]).view]).toNat

/-- A multiply is of FP64: the format of an operand, as the instruction or its pane gives it, is f64 (R131, R151). -/
def double (s : State) (pa pb : Pr) (ty : Nat) : Bool :=
  paneFmt (paneFor s pa) ty == 8 || paneFmt (paneFor s pb) ty == 8

/-- A matrix operand fits (R152): its map is valid, its element size is that of the format that its pane or the
instruction gives, and its pointer can be read. -/
abbrev fits (s : State) (p : Pr) (tm : Tm) (ty : Nat) : Prop :=
  s.now.tm[tm] ≠ 0 ∧ tmEsz s.now.tm[tm] = fmtEsz (paneFmt (paneFor s p) ty) ∧
  s.now.p[p].tag = true ∧ s.malformed s.now.p[p] = false ∧ s.now.p[p].r = true

/-- The operand buffer that holds B is not filling, and its parity finds no error (R154, R233). -/
abbrev bufferReady (s : State) (p : Pr) (tm : Tm) : Prop :=
  (∀ b ∈ s.nowCore.opbuf, b.ptr = s.now.p[p] → b.map = s.now.tm[tm] → b.rows ≤ b.filled) ∧
  ∀ f ∈ s.nowCore.flips, f.1 ≠ 9

/-- The bits of B that stand wrong in the operand buffer, where it holds B (R235). -/
def bufferBits (s : State) (p : Pr) (tm : Tm) : List Nat :=
  match s.nowCore.opbuf with
  | some b => if b.ptr = s.now.p[p] ∧ b.map = s.now.tm[tm] then b.wrong else []
  | none => []

/-- Nothing in the issuing core's stores is in error or is to be, and what is out of range does not trap. -/
abbrev quiet (s : State) : Prop :=
  (∀ a, spaceOf a = s.core → s.mem.isPoisoned a = false) ∧ s.nowCore.flips = [] ∧ s.armed s.core 0 = none ∧
    s.armed s.core 7 = none ∧ s.now.rangectl = false

/-- An element of an accumulator: of a tile, or of an FP64 pair (R146). -/
def accOf (k : Core) (f64 : Bool) (n i j : Nat) : Nat :=
  packWords ((accCells f64 n i j).map fun e => (k.tile e.1).cell e.2)

/-- The bytes that an operand of a map takes in the operand buffer (R154). -/
def bufferSize (map : V512) : Nat := (16 * tmExt map 1 * max 1 (2 * eszBytes (tmEsz map)) + 1) / 2

/-- The elements of a tile. -/
def cells (k : Core) (n : Nat) : List Nat := (List.range 256).map (k.tile n).cell

/-- Tile n of the issuing core becomes f of itself. -/
def withTile (s : State) (n : Nat) (f : Tile → Tile) : State := s.updCore s.core fun k => k.setTile n (f (k.tile n))

end Sys2Proof.Claims

/-- R145, R30: the mask instructions; a destination m0 raises ILLEGAL. -/
def Obligations.MaskResults : Prop :=
  (∀ (s : State) (md ma mb : Mk), ∀ e ∈ Claims.maskTwo md ma mb, s.issues e.1 →
    exec e.1 s = .next (s.finish e.1 .seq
      (Claims.withMask s md (e.2 (Claims.maskOf s ma) (Claims.maskOf s mb))))) ∧
  (∀ (s : State) (md ma : Mk), s.issues (.mnot md ma) →
    exec (.mnot md ma) s = .next (s.finish (.mnot md ma) .seq (Claims.withMask s md (~~~Claims.maskOf s ma)))) ∧
  (∀ (s : State) (d : Sc) (ma : Mk), ∀ e ∈ Claims.maskScalars d ma, s.issues e.1 → s.takes d.val →
    exec e.1 s = .next (s.finish e.1 .seq
      (s.putS { ds := [d.val] } d.val (BitVec.ofNat 64 (e.2 (Claims.maskOf s ma)))))) ∧
  (∀ (s : State) (md : Mk) (a : Sc) (x : DWord), s.issues (.mfrom md a) → s.gives a.val x →
    exec (.mfrom md a) s = .next (s.finish (.mfrom md a) .seq
      (Claims.popped (Claims.withMask s md (x.setWidth 16)) [a.val]))) ∧
  (∀ (s : State) (md : Mk) (imm : BitVec 16), s.issues (.mset md imm) →
    exec (.mset md imm) s = .next (s.finish (.mset md imm) .seq (Claims.withMask s md imm))) ∧
  (∀ (s : State) (ma mb : Mk) (a : Sc) (imm : BitVec 16),
    ∀ i ∈ [Instr.mand 0 ma mb, .mor 0 ma mb, .mxor 0 ma mb, .mnot 0 ma, .mfrom 0 a, .mset 0 imm],
    s.attempts → exec i s = .next (s.takeTrap cILLEGAL 0 none none))

namespace Sys2Proof.Claims

/-- MMA, MMAZ and MCKS, and whether they form checksums and begin from zero. -/
def multiplies (c : Tl) (pa : Pr) (tma : Tm) (pb : Pr) (tmb : Tm) (ty : Fin 16) : List (Instr × Bool × Bool) :=
  [(.mma c pa tma pb tmb ty, false, false), (.mmaz c pa tma pb tmb ty, false, true),
   (.mcks c pa tma pb tmb ty, true, false)]

/-- The tiles of an accumulator (R146). -/
def accTiles (f64 : Bool) (c : Tl) : List Nat := if f64 then [c.val, c.val + 1] else [c.val]

/-- The tiles of a multiply are free, and it may take them: a pair begins at an even tile and has no checksums
(R152). No element of a tile has an error. -/
abbrev mayMultiply (s : State) (c : Tl) (f64 cks : Bool) : Prop :=
  (f64 = true → c.val % 2 = 0 ∧ cks = false) ∧ tilesFree s (accTiles f64 c) ∧ ∀ f ∈ s.nowCore.flips, f.1 ≠ 7

/-- Both operands of a multiply fit. -/
abbrev operandsFit (s : State) (pa : Pr) (tma : Tm) (pb : Pr) (tmb : Tm) (ty : Nat) : Prop :=
  fits s pa tma ty ∧ tmExt s.now.tm[tma] 0 ≤ 4096 ∧ fits s pb tmb ty ∧ bufferReady s pb tmb

/-- What a multiply reads, and what it leaves. -/
def multiplied (s : State) (c : Tl) (f64 : Bool) (pa : Pr) (tma : Tm) (pb : Pr) (tmb : Tm) (ty : Nat) (cks zero : Bool)
    (t u : State) : Prop :=
  ∃ as bs k, M.answers (readOperands pa s.now.tm[tma] pb s.now.tm[tmb] ty (bufferBits s pb tmb))
      (owning s (accTiles f64 c)) (as, bs, k) t ∧
    M.answers (multiply c.val f64 cks zero as bs k) t () u

end Sys2Proof.Claims

/-- R151-R154: MMA, MMAZ and MCKS take their tiles, read their operands and multiply, wherever these lie; both in the
core's own pad, they complete. A tile of another context makes them wait, and an invalid map raises ILLEGAL with 0 for A
or 1 for B in TRAPVAL. That waits precede ILLEGAL and PERM is log 18; that a pane makes a multiply one of FP64 is log
17. -/
def Obligations.MatrixMultiplies : Prop :=
  ∀ (s : State) (c : Tl) (pa : Pr) (tma : Tm) (pb : Pr) (tmb : Tm) (ty : Fin 16),
    ∀ e ∈ Claims.multiplies c pa tma pb tmb ty,
    let f64 := Claims.double s pa pb ty.val
    s.issues e.1 →
    (∀ (ka fa kb fb : Nat) (ha hb : Header), Claims.mayMultiply s c f64 e.2.1 →
      Claims.operandsFit s pa tma pb tmb ty.val → Claims.ownObject s pa ka fa ha → Claims.ownObject s pb kb fb hb →
      Claims.quiet s →
      ∃ t u, Claims.multiplied s c f64 pa tma pb tmb ty.val e.2.1 e.2.2 t u ∧ exec e.1 s = .next (s.finish e.1 .seq u)) ∧
    (∀ (t u : State), Claims.mayMultiply s c f64 e.2.1 → Claims.operandsFit s pa tma pb tmb ty.val →
      Claims.multiplied s c f64 pa tma pb tmb ty.val e.2.1 e.2.2 t u → exec e.1 s = .next (s.finish e.1 .seq u)) ∧
    ((f64 = true → c.val % 2 = 0 ∧ e.2.1 = false) → ¬ Claims.tilesFree s (Claims.accTiles f64 c) →
      exec e.1 s = .next (s.stall sMATRIX)) ∧
    (Claims.mayMultiply s c f64 e.2.1 → s.now.tm[tma] = 0 → exec e.1 s = .next (s.takeTrap cILLEGAL 0 none none)) ∧
    (Claims.mayMultiply s c f64 e.2.1 → Claims.fits s pa tma ty.val → tmExt s.now.tm[tma] 0 ≤ 4096 →
      s.now.tm[tmb] = 0 → exec e.1 s = .next (s.takeTrap cILLEGAL 1 none none))

/-- R130, R151: each element of the accumulator gets its K-groups in ascending order, each rounded and each sum
rounded, from zero for MMAZ. -/
def Obligations.MatrixProduct : Prop :=
  ∀ (t : State) (n : Nat) (f64 cks zero : Bool) (as bs : List (List FVal)) (k : Nat),
    t.nowCore.flips = [] → t.armed t.core 7 = none → (if f64 then n + 1 else n) < 4 →
    ∃ u, M.answers (multiply n f64 cks zero as bs k) t () u ∧ u.mem = t.mem ∧
      ∀ i j, i < 16 → j < 16 → Claims.accOf u.nowCore f64 n i j =
        ((lineGroups as i).zip (lineGroups bs j)).foldl
          (fun c g => (addGroup f64 c g.1 g.2).1 % 2 ^ (if f64 then 64 else 32))
          (if zero then 0 else Claims.accOf t.nowCore f64 n i j)

/-- R156-R158: MCHK compares row and column sums with the references, MFIX mends the element found or forms the
references anew, MZERO clears a tile and MTR transposes one. -/
def Sys2Proof.Claims.TileInstructions : Prop :=
  (∀ (s : State) (d : Sc) (c : Tl), s.issues (.mchk d c) → s.takes d.val → Claims.tilesFree s [c.val] →
    s.nowCore.flips = [] →
    let k := s.nowCore.tile c.val
    let ws := Claims.cells s.nowCore c.val
    let rows := (List.range 16).filter fun i => lineFails s.now.abfttol.toNat (rowOf ws i) (laneOf k.cr 32 i)
    let cols := (List.range 16).filter fun j => lineFails s.now.abfttol.toNat (colOf ws j) (laneOf k.cc 32 j)
    exec (.mchk d c) s = .next (s.finish (.mchk d c) .seq ((Claims.owning s [c.val]).putS { ds := [d.val] } d.val
      (if k.cv then BitVec.ofNat 64 (findings rows cols) else 2)))) ∧
  (∀ (s : State) (c : Tl) (a : Sc) (v : DWord), s.issues (.mfix c a) → s.gives a.val v →
    Claims.tilesFree s [c.val] → s.nowCore.flips = [] →
    let k := s.nowCore.tile c.val
    let i := fld v.toNat 4 4
    let j := fld v.toNat 8 4
    let rest := ((List.range 16).filter (· != j)).map fun l => (decodeVal 9 (k.cell (16 * i + l))).neg
    let t := Claims.owning s [c.val]
    (bit v.toNat 0 = true → bit v.toNat 2 = true → exec (.mfix c a) s = .next (s.finish (.mfix c a) .seq
      (Claims.popped (Claims.withTile t c.val fun x => x.setCell (16 * i + j)
        (round32 (sumVals (decodeVal 9 (laneOf k.cr 32 i) :: rest)).1).1) [a.val]))) ∧
    (bit v.toNat 0 = true → bit v.toNat 2 = false → bit v.toNat 3 = true →
      exec (.mfix c a) s = .next (s.finish (.mfix c a) .seq
        (Claims.popped (M.after (formChecks c.val (Claims.cells s.nowCore c.val)) t) [a.val]))) ∧
    (bit v.toNat 0 = false ∨ (bit v.toNat 2 = false ∧ bit v.toNat 3 = false) →
      exec (.mfix c a) s = .next (s.finish (.mfix c a) .seq (Claims.popped t [a.val])))) ∧
  (∀ (s : State) (c : Tl), s.issues (.mzero c) → Claims.tilesFree s [c.val] →
    ∃ t, exec (.mzero c) s = .next (s.finish (.mzero c) .seq t) ∧ t.mem = s.mem ∧ t.now = s.now ∧
      t.nowCore.tile c.val = { acc := 0, owner := some s.ctx, cr := 0, cc := 0, cv := true }) ∧
  (∀ (s : State) (c : Tl), s.issues (.mtr c) → Claims.tilesFree s [c.val] → s.nowCore.flips = [] →
    ∃ t, exec (.mtr c) s = .next (s.finish (.mtr c) .seq t) ∧ t.mem = s.mem ∧ t.now = s.now ∧
      let k := s.nowCore.tile c.val
      let k' := t.nowCore.tile c.val
      k'.cr = k.cc ∧ k'.cc = k.cr ∧ k'.cv = k.cv ∧
        ∀ i j, i < 16 → j < 16 → k'.cell (16 * i + j) = k.cell (16 * j + i))

/-- R150, R154, R158: MACCLD and MACCST move a tile, TMSET and TMGET a descriptor, and MLD begins to fill the operand
buffer from an object of the core's own pad, and does nothing for another. -/
def Sys2Proof.Claims.TileAndMapMoves : Prop :=
  (∀ (s t : State) (c : Tl) (p : Pr) (ws : List Nat), s.issues (.maccld c p) → Claims.tilesFree s [c.val] →
    M.answers (loadWords p 256) (Claims.owning s [c.val]) ws t →
    exec (.maccld c p) s = .next (s.finish (.maccld c p) .seq
      (M.after (do writeTile c.val ws; formChecks c.val ws) t))) ∧
  (∀ (s t : State) (p : Pr) (c : Tl), s.issues (.maccst p c) → Claims.tilesFree s [c.val] → s.nowCore.flips = [] →
    M.answers (storeWords p (Claims.cells s.nowCore c.val)) (Claims.owning s [c.val]) () t →
    exec (.maccst p c) s = .next (s.finish (.maccst p c) .seq t)) ∧
  (∀ (s t : State) (tm : Tm) (p : Pr) (ws : List Nat), s.issues (.tmset tm p) → M.answers (loadWords p 16) s ws t →
    let d : V512 := BitVec.ofNat 512 (packWords ws)
    (d = 0 ∨ tmBad d = none → t.codesClean t.core = true → exec (.tmset tm p) s = .next (s.finish (.tmset tm p) .seq
      (t.updCtx t.core t.ctx fun x => { x with tm := x.tm.set tm.val d tm.isLt }))) ∧
    (∀ o, d ≠ 0 → tmBad d = some o →
      exec (.tmset tm p) s = .next ((s.keepMet t).takeTrap cILLEGAL o none none))) ∧
  (∀ (s t : State) (p : Pr) (tm : Tm), s.issues (.tmget p tm) →
    M.answers (storeWords p ((List.range 16).map fun i => fld s.now.tm[tm].toNat (32 * i) 32)) s () t →
    exec (.tmget p tm) s = .next (s.finish (.tmget p tm) .seq t)) ∧
  (∀ (s t : State) (p : Pr) (tm : Tm) (k : Nat) (dead : Bool), s.issues (.mld p tm) → s.now.tm[tm] ≠ 0 →
    Claims.bufferSize s.now.tm[tm] ≤ 32768 → s.now.p[p].tag = true → s.malformed s.now.p[p] = false →
    s.now.p[p].r = true → M.answers (inPlaceOf p) s (k, dead) t → spaceOf k ≠ t.core → t.codesClean t.core = true →
    exec (.mld p tm) s = .next (s.finish (.mld p tm) .seq t))

/-- R150, R154, R158: on an object in the core's own pad, MACCLD, MACCST, TMSET, TMGET and MLD complete. -/
def Sys2Proof.Claims.TileMovesComplete : Prop :=
  ∀ (s : State) (c : Tl) (tm : Tm) (p : Pr) (k f : Nat) (h : Header), Claims.ownObject s p k f h → Claims.quiet s →
    (s.issues (.maccld c p) → Claims.tilesFree s [c.val] → s.now.p[p].r = true →
      ∃ ws t, M.answers (loadWords p 256) (Claims.owning s [c.val]) ws t ∧
        exec (.maccld c p) s = .next (s.finish (.maccld c p) .seq
          (M.after (do writeTile c.val ws; formChecks c.val ws) t))) ∧
    (s.issues (.maccst p c) → Claims.tilesFree s [c.val] → s.now.p[p].w = true → Claims.holdsAll s p k f → f + 16 ≤ k →
      ∃ t, M.answers (storeWords p (Claims.cells s.nowCore c.val)) (Claims.owning s [c.val]) () t ∧
        exec (.maccst p c) s = .next (s.finish (.maccst p c) .seq t)) ∧
    (s.issues (.tmset tm p) → s.now.p[p].r = true → 64 ≤ s.now.p[p].len →
      let d : V512 := BitVec.ofNat 512 (natOf (s.mem.read k 64))
      (d = 0 ∨ tmBad d = none → exec (.tmset tm p) s = .next (s.finish (.tmset tm p) .seq
        (s.updCtx s.core s.ctx fun x => { x with tm := x.tm.set tm.val d tm.isLt }))) ∧
      (∀ o, d ≠ 0 → tmBad d = some o → exec (.tmset tm p) s = .next (s.takeTrap cILLEGAL o none none))) ∧
    (s.issues (.tmget p tm) → s.now.p[p].w = true → Claims.holdsAll s p k f → f + 16 ≤ k →
      ∃ t, M.answers (storeWords p ((List.range 16).map fun i => fld s.now.tm[tm].toNat (32 * i) 32)) s () t ∧
        exec (.tmget p tm) s = .next (s.finish (.tmget p tm) .seq t)) ∧
    (s.issues (.mld p tm) → s.now.tm[tm] ≠ 0 → Claims.bufferSize s.now.tm[tm] ≤ 32768 → s.now.p[p].r = true →
      exec (.mld p tm) s = .next (s.finish (.mld p tm) .seq ((s.updCore s.core fun q => { q with
        opbuf := some { ptr := s.now.p[p], place := k, map := s.now.tm[tm]
                        rows := (Claims.bufferSize s.now.tm[tm] + 511) / 512 }
        flips := q.flips.filter fun f => f.1 != 9 }).later 1 (.mldFill s.core))))

/-- Tile, map and operand-buffer instructions: TileInstructions, TileAndMapMoves and TileMovesComplete. -/
def Obligations.TilesAndMaps : Prop :=
  Claims.TileInstructions ∧ Claims.TileAndMapMoves ∧ Claims.TileMovesComplete

namespace Sys2Proof.Claims

/-- The command that MCMD sends with target v (R160), and where it goes. -/
def command (s : State) (v : DWord) (blk : List Byte) (pa pb done : PReg) (r : Nat) : MCmd × Nat :=
  let away := fld v.toNat 13 9 != s.pkg.pkgid.toNat || fld v.toNat 7 6 != coreClu s.core
  ({ blk, pa, pb, repeats := r, done, key := BitVec.ofNat 32 (leAt blk 4 4), core := s.core, ctx := s.ctx
     actId := s.now.actId, part := s.now.part, away }, if away then s.core else fld v.toNat 3 10)

/-- The command is sent. -/
def commanded (s : State) (c : MCmd × Nat) : State :=
  s.request s.core s.ctx s.now.actId c.2 s.now.prio (.matrix c.1) (.mcmdAccept c.2) 6

/-- The granule at place k as a pointer. -/
def granuleAt (s : State) (k : Nat) : PReg :=
  { bits := BitVec.ofNat 128 (natOf (s.mem.read k 16)), tag := s.mem.isTagged k }

end Sys2Proof.Claims

/-- R160: MCMD waits for the repeat count of its block; a count of zero completes the command at once, and any
other sends it to its core: the block wherever it lies, and in the core's own pad. Refused blocks are log 25. -/
def Obligations.RemoteCommands : Prop :=
  (∀ (s s1 s2 s3 s4 s5 : State) (a : Sc) (p : Pr) (k r : Nat) (vs ws : List Nat) (pa pb : PReg) (v : DWord),
    s.issues (.mcmd a p) → s.now.latch = none → s.gives a.val v → s5.gives a.val v → s5.codesClean s5.core = true →
    s.now.p[p].tag = true → s.malformed s.now.p[p] = false → s.now.p[p].r = true → s.now.p[p].w = true →
    M.answers (access p 12 4 4 true false) s (some k) s1 →
    M.answers (tryNeed s1.core s1.ctx (.words .load p 4 [12] [])) s1 (.ok (r :: vs)) s2 →
    M.answers (loadWords p 48) s2.settled ws s3 → M.answers (blockPtr p 16) s3 pa s4 →
    M.answers (blockPtr p 32) s4 pb s5 →
    (∀ (k8 : Nat) (s6 s7 : State), r = 0 → M.answers (access p 8 4 4 false true) s5 (some k8) s6 →
      M.answers (storeBytes p 8 k8 (bytesOf 4 1) (some true)) s6 () s7 →
      exec (.mcmd a p) s = .next (s.finish (.mcmd a p) .seq (Claims.popped s7.settled [a.val]))) ∧
    (r ≠ 0 → exec (.mcmd a p) s = .next (s.finish (.mcmd a p) .seq (Claims.popped
      (Claims.commanded s5 (Claims.command s5 v (bytesOf 192 (packWords ws)) pa pb s5.now.p[p] r)) [a.val])))) ∧
  (∀ (s : State) (a : Sc) (p : Pr) (k f : Nat) (h : Header) (v : DWord),
    s.issues (.mcmd a p) → s.now.latch = none → s.gives a.val v → Claims.ownObject s p k f h → Claims.quiet s →
    s.now.p[p].r = true → s.now.p[p].w = true → 192 ≤ s.now.p[p].len → s.settled = s →
    (∀ w ∈ wordsOf (k + 12) 4, s.mem.isFull w = true) →
    let r := natOf (s.mem.read (k + 12) 4)
    (r ≠ 0 → exec (.mcmd a p) s = .next (s.finish (.mcmd a p) .seq (Claims.popped
      (Claims.commanded s (Claims.command s v (s.mem.read k 192) (Claims.granuleAt s (k + 16))
        (Claims.granuleAt s (k + 32)) s.now.p[p] r)) [a.val]))) ∧
    (r = 0 → s.mem.wf → Claims.bodyAt h f k → s.mem.footOf (k + 8) = some f →
      ∃ t : State, exec (.mcmd a p) s = .next (s.finish (.mcmd a p) .seq (Claims.popped t.settled [a.val])) ∧
        t.mem.read (k + 8) 4 = bytesOf 4 1 ∧ ∀ w ∈ wordsOf (k + 8) 4, t.mem.isFull w = true))

namespace Sys2Proof.Claims

/-- The state in which WDRUN has entered the mode at entry e (R209, R220). -/
def inMode (t : State) (p : Pr) (slot : Fin 16) (e : Nat) : State :=
  let u := t.updCtx t.core t.ctx fun x => { x with
    wb := BitVec.ofNat 64 (16 * e + p.val * 2 ^ 40 + x.pc.toNat / 2 * 2 ^ 48 + 2 ^ 63), wp := 0, wdNblk := 0
    run := .weights none none, blocked := none, latch := none
    sig := sigAfter (.wdrun p slot) x.pc.toNat x.sig }
  u.updCore u.core fun k => { k with last := u.ctx }

/-- The weight buffer is free, or the issuing context's own (R218). -/
abbrev bufferFree (s : State) : Prop := s.nowCore.wbuf = none ∨ s.nowCore.wbuf = some s.ctx

end Sys2Proof.Claims

/-- R219-R222: WDRUN enters the mode at the entry that its slot names, of a tensor in the core's own pad or wherever it
lies, once what its context has issued is performed; WDRES goes back to a suspended run, and WDQ reads what became of one. -/
def Obligations.WeightInstructions : Prop :=
  (∀ (s : State) (p : Pr) (slot : Fin 16) (k f : Nat) (h : Header), s.issues (.wdrun p slot) → s.ctx ≠ 7 →
    s.now.p[p].runs s = true → Claims.bufferFree s → Claims.ownObject s p k f h → Claims.clean s k 80 →
    let head := s.mem.read k 80
    let n := fldAt head 0 9
    let e := leAt head (16 + 4 * slot.val) 4
    leAt head 0 16 / 2 ^ 9 = 0 → n ≤ 256 → 80 + 16 * n ≤ s.now.p[p].len → e ≠ 0 → inRegion s.now.p[p] n (16 * e) = true →
    exec (.wdrun p slot) s = .next (s.finish (.wdrun p slot) .gone (Claims.inMode (M.after takeBuffer s) p slot e))) ∧
  (∀ (s u t : State) (p : Pr) (slot : Fin 16) (n : Nat) (es : List Nat) (q : PReg), s.issues (.wdrun p slot) →
    s.ctx ≠ 7 → s.now.p[p].runs s = true → Claims.bufferFree s →
    M.answers (do takeBuffer; afterAmos; tensorPtr p) s q u → M.answers (tensorHead q) u (some (n, es)) t →
    let e := es.getD slot.val 0
    e ≠ 0 → inRegion q n (16 * e) = true →
    exec (.wdrun p slot) s = .next (s.finish (.wdrun p slot) .gone (Claims.inMode t p slot e))) ∧
  (∀ (s : State) (p : Pr) (slot : Fin 16), s.issues (.wdrun p slot) → s.vectors → s.now.p[p].runs s = false →
    ∃ t, exec (.wdrun p slot) s = .next t ∧ t.now.trapcause = BitVec.ofNat 8 cPERM ∧ t.now.wdEnd = 2 ∧
      t.now.wdReason = 0) ∧
  (∀ (s : State), s.issues .wdres → s.now.wdRV = true → s.now.saving = false →
    (s.now.p[s.now.wdPreg]).runs s = true → Claims.bufferFree s →
    ∃ t, exec .wdres s = .next t ∧ t.now.run = .weights none none ∧ t.nowCore.wbuf = some s.ctx ∧
      t.now.pc = BitVec.ofNat 64 (2 * s.now.wdOrg) ∧ t.now.wb = s.now.wb ∧ t.now.wp = s.now.wp ∧
      t.now.ts = false ∧ t.now.mode = (if s.now.ts then s.now.savedMode else s.now.mode) ∧ t.mem = s.mem) ∧
  (∀ (s : State), s.issues .wdres → (s.now.wdRV = false ∨ s.now.saving = true) →
    exec .wdres s = .next (s.takeTrap cILLEGAL 0 none none)) ∧
  (∀ (s : State) (d : Sc), s.issues (.wdq d) → s.takes d.val →
    exec (.wdq d) s = .next (s.finish (.wdq d) .seq (s.putS { ds := [d.val] } d.val
      (BitVec.ofNat 64 (s.now.wdRV.toNat + s.now.wdEnd.toNat * 2 + s.now.wdBop.toNat * 2 ^ 8 +
        s.now.wdReason.toNat * 2 ^ 16 + s.now.wdNblk.toNat * 2 ^ 32)))))

/-! ## Messages, copies, streams, sheets and atomics -/

namespace Sys2Proof.Claims

/-- The message of a header value and a payload, from the issuing context (R254, R255). -/
def messageOf (t : State) (dst tag hdr : Nat) (body : List Byte) (handler : Bool) : OutMsg :=
  { dst := BitVec.ofNat 22 dst, handler
    msg := { cls := BitVec.ofNat 8 (fld hdr 0 8), tag := BitVec.ofNat 32 tag, wuid := t.now.wuid
             prio := BitVec.ofNat 6 (fld hdr 8 6), sender := BitVec.ofNat 22 (t.ctxId t.core t.ctx)
             cap := BitVec.ofNat 32 (fld hdr 32 32), xf := BitVec.ofNat 4 (fld hdr 14 4), body
             slot := t.now.slot, part := t.now.part, launch := t.now.launch } }

/-- A message enters the outbox; where it would not fit, what is held is released first and OC is set (R60). -/
def held (t : State) (o : OutMsg) : State :=
  if t.now.outbox.length < 32 ∧ t.now.outBytes + o.msg.body.length ≤ 8192 then
    t.updCtx t.core t.ctx fun q => { q with outbox := q.outbox ++ [o] }
  else
    let r := t.releaseOutbox t.core t.ctx
    let u := r.updCtx r.core r.ctx fun q => { q with oc := true }
    u.updCtx u.core u.ctx fun q => { q with outbox := q.outbox ++ [o] }

/-- An atomic's request, on place k, is on its way to the owner of its word (R330). -/
def requested (t : State) (op : AmoOp) (d : R5) (p : Pr) (os : Fin 16) (ty : Fin 4) (x e : DWord) (k : Nat) : State :=
  let n := amoWidth op ty
  let reply := if d.val = 24 then none else some (t.now.replySlot d.val)
  let h : HOp := .amo op ty t.now.p[p] (BitVec.ofNat 64 (x.toNat % 2 ^ n))
    (BitVec.ofNat 64 (if op = .cas then e.toNat % 2 ^ n else 0)) reply t.now.part.toNat t.now.launch
  let t3 := t.request t.core t.ctx t.now.actId (t.ownerOf k) t.now.prio (.handler h) (.refusal t.reqNext) 5 (isRel os)
  t3.updCtx t3.core t3.ctx fun c =>
    { c with
      replies := c.replies ++ reply.toList
      acq := if isAcq os then some t.reqNext else c.acq
      fadds := if op = .fadd ∧ reply.isSome then c.fadds + 1 else c.fadds }

/-- The atomics of R330 and R331, with their operations. -/
def atomics (d : R5) (p : Pr) (b : Sc) (os : Fin 16) (ty : Fin 4) : List (Instr × AmoOp) :=
  [(.amoadd d p b os ty, .add), (.amofadd d p b os ty, .fadd), (.amomin d p b os ty, .min),
   (.amomax d p b os ty, .max), (.amoswp d p b os ty, .swp), (.amocas d p b os ty, .cas),
   (.amologAnd d p b os ty, .and), (.amologOr d p b os ty, .or), (.amologXor d p b os ty, .xor)]

end Sys2Proof.Claims

/-- R60, R254, R255, R328: SEND, SENDV, SENDH and REPLY hold their message in the outbox until the activation
releases it; reserved bits raise ILLEGAL. Counting the outbox by payload bytes is log 24. -/
def Obligations.MessagesAreHeld : Prop :=
  (∀ (s t : State) (a b : Sc) (p : Pr) (dst hdr : DWord) (body : List Byte),
    ∀ e ∈ [(Instr.send a b p, 0xFFC00007, false), (Instr.sendh a b p, 0xFFC00787, true)],
    s.issues e.1 → s.gives a.val dst → s.gives b.val hdr →
    (dst.toNat &&& e.2.1 = 0 → fld hdr.toNat 18 14 = 0 → M.answers (payload p) s body t →
      exec e.1 s = .next (s.finish e.1 .seq (Claims.popped (Claims.held t
        (Claims.messageOf t (fld dst.toNat 0 22) (fld dst.toNat 32 32) hdr.toNat body e.2.2)) [a.val, b.val]))) ∧
    (dst.toNat &&& e.2.1 ≠ 0 ∨ fld hdr.toNat 18 14 ≠ 0 → exec e.1 s = .next (s.takeTrap cILLEGAL 0 none none))) ∧
  (∀ (s : State) (a b : Sc) (v : Vc) (dst hdr : DWord) (x : V512), s.issues (.sendv a b v) → s.gives a.val dst →
    s.gives b.val hdr → s.givesV v.val x → dst.toNat &&& 0xFFC00007 = 0 → fld hdr.toNat 18 14 = 0 →
    exec (.sendv a b v) s = .next (s.finish (.sendv a b v) .seq
      (M.after (popAll { ss := [a.val, b.val], sv := [v.val] }) (Claims.held s
        (Claims.messageOf s (fld dst.toNat 0 22) (fld dst.toNat 32 32) hdr.toNat (bytesOf 64 x.toNat) false))))) ∧
  (∀ (s t : State) (b : Sc) (p : Pr) (hdr : DWord) (body : List Byte), s.issues (.reply b p) → s.gives b.val hdr →
    fld hdr.toNat 18 14 = 0 → M.answers (payload p) s body t →
    exec (.reply b p) s = .next (s.finish (.reply b p) .seq (Claims.popped (Claims.held t
      (Claims.messageOf t (fld t.now.sender.toNat 3 19 * 8) t.now.routetag.toNat hdr.toNat body false)) [b.val]))) ∧
  (∀ (s : State) (p : Pr) (k f : Nat) (h : Header) (b : Sc) (hdr : DWord), Claims.ownObject s p k f h →
    s.now.p[p].r = true → s.now.p[p].len ≤ 256 → Claims.clean s k s.now.p[p].len → s.gives b.val hdr →
    fld hdr.toNat 18 14 = 0 →
    let body := s.mem.read k s.now.p[p].len
    (∀ (a : Sc) (dst : DWord), ∀ e ∈ [(Instr.send a b p, 0xFFC00007, false), (Instr.sendh a b p, 0xFFC00787, true)],
      s.issues e.1 → s.gives a.val dst → dst.toNat &&& e.2.1 = 0 →
      exec e.1 s = .next (s.finish e.1 .seq (Claims.popped (Claims.held s
        (Claims.messageOf s (fld dst.toNat 0 22) (fld dst.toNat 32 32) hdr.toNat body e.2.2)) [a.val, b.val]))) ∧
    (s.issues (.reply b p) → exec (.reply b p) s = .next (s.finish (.reply b p) .seq (Claims.popped (Claims.held s
      (Claims.messageOf s (fld s.now.sender.toNat 3 19 * 8) s.now.routetag.toNat hdr.toNat body false)) [b.val]))))

/-- A COPY with a guard of zero completes with the next job of its unit, and its context has an event (R261). -/
def Sys2Proof.Claims.copied (t : State) (u : Nat) : State :=
  let t1 := t.addReport u 2
  t1.updCtx t1.core t1.ctx fun q => { q with evt := true }

/-- R261: COPY with a guard of zero is complete at once with a job that has completed; with any other guard its request
goes to the copy unit of its half, and it completes with the job's identifier when the unit has accepted it. -/
def Sys2Proof.Claims.CopyRequests : Prop :=
  (∀ (s t : State) (d : Sc) (p pg : Pr) (r : Nat), s.issues (.copy d p pg) → s.takes d.val → s.now.latch = none →
    s.now.p[pg].tag = true → s.malformed s.now.p[pg] = false → s.now.p[pg].r = true →
    M.answers (guardCount pg) s r t →
    let u := unitOf t.core
    let num := (t.unitAt u).num
    (r = 0 →
      exec (.copy d p pg) s = .next (s.finish (.copy d p pg) .seq ((Claims.copied t u).putS { ds := [d.val] } d.val
        (BitVec.ofNat 64 (num % 65536 + u % 2 * 65536))))) ∧
    (r ≠ 0 → t.core = s.core → t.ctx = s.ctx → t.now.p[p].tag = true → t.malformed t.now.p[p] = false →
      t.now.p[p].r = true → t.now.p[p].kind = 4 →
      ∃ t', exec (.copy d p pg) s = .next t' ∧ t'.now.run = .copying ∧ t'.now.pc = t.now.pc ∧
        (t'.unitAt u).reqs = (t.unitAt u).reqs ++
          [{ core := s.core, ctx := s.ctx, actId := s.now.actId, p, guard := BitVec.ofNat 32 r }])) ∧
  (∀ (s : State) (d : Sc) (p pg : Pr) (k f : Nat) (h : Header), s.issues (.copy d p pg) → s.takes d.val →
    s.now.latch = none → Claims.ownObject s pg k f h → Claims.clean s k 4 → s.now.p[pg].r = true → k % 4 = 0 →
    4 ≤ s.now.p[pg].len → s.mem.isFull k = true → s.settled = s →
    let r := natOf (s.mem.read k 4)
    let u := unitOf s.core
    let num := (s.unitAt u).num
    (r = 0 → exec (.copy d p pg) s = .next (s.finish (.copy d p pg) .seq
      ((Claims.copied s u).putS { ds := [d.val] } d.val (BitVec.ofNat 64 (num % 65536 + u % 2 * 65536))))) ∧
    (r ≠ 0 → s.now.p[p].tag = true → s.malformed s.now.p[p] = false → s.now.p[p].r = true → s.now.p[p].kind = 4 →
      ∃ t', exec (.copy d p pg) s = .next t' ∧ t'.now.run = .copying ∧ t'.now.pc = s.now.pc ∧
        (t'.unitAt u).reqs = (s.unitAt u).reqs ++
          [{ core := s.core, ctx := s.ctx, actId := s.now.actId, p, guard := BitVec.ofNat 32 r }])) ∧
  (∀ (s : State) (d : Sc) (p pg : Pr) (r id : Nat), s.issues (.copy d p pg) → s.takes d.val →
    s.now.latch = some [r, id] →
    exec (.copy d p pg) s = .next (s.finish (.copy d p pg) .seq
      (s.putS { ds := [d.val] } d.val (BitVec.ofNat 64 id))))

/-- R265, R273, R274, R385: COPYQ reads a job's status, COPYW completes once its job has ended, QUIESCE once the activation
has no job, and HATCH sets a permit count. To learn that a job has ended is an acquire, which waits for what its context
has released. -/
def Sys2Proof.Claims.CopyControl : Prop :=
  (∀ (s : State) (d a : Sc) (id : DWord), s.issues (.copyq d a) → s.gives a.val id → s.takes d.val → s.released →
    exec (.copyq d a) s = .next (s.finish (.copyq d a) .seq (s.putS { ss := [a.val], ds := [d.val] } d.val
      ((s.unitAt (unitOf s.core)).status id.toNat (unitOf s.core % 2))))) ∧
  (∀ (s : State) (a : Sc) (id : DWord), s.issues (.copyw a) → s.gives a.val id → s.released →
    (s.now.latch ≠ none ∨ 2 ≤ fld ((s.unitAt (unitOf s.core)).status id.toNat (unitOf s.core % 2)).toNat 0 3) →
    exec (.copyw a) s = .next (s.finish (.copyw a) .seq (Claims.popped s [a.val]))) ∧
  (∀ (s : State), s.issues .quiesce → s.jobsOf s.core s.now.actId = [] →
    exec .quiesce s = .next (s.finish .quiesce .seq s)) ∧
  (∀ (s : State), s.issues .quiesce → s.jobsOf s.core s.now.actId ≠ [] →
    (∀ j ∈ s.jobsOf s.core s.now.actId, j.stopAt ≠ none ∨ j.finished = true) →
    exec .quiesce s = .next (s.stall sCOPYSLOT)) ∧
  (∀ (s : State) (a : Sc) (v : DWord), s.issues (.hatch a) → s.gives a.val v →
    (v.toNat < 256 → v.toNat % 128 ≤ 64 →
      let i : Fin 2 := if bit v.toNat 7 then 1 else 0
      let u := unitOf s.core
      let t := s.updCore s.core fun k => { k with hatch := k.hatch.set i.val (BitVec.ofNat 7 v.toNat) i.isLt }
      exec (.hatch a) s = .next (s.finish (.hatch a) .seq (Claims.popped
        (t.soon 1 (.copyBeat (if bit v.toNat 7 then u / 2 * 2 + (1 - u % 2) else u))) [a.val]))) ∧
    (256 ≤ v.toNat ∨ 64 < v.toNat % 128 → exec (.hatch a) s = .next (s.takeTrap cILLEGAL 0 none none)))

/-- COPY, COPYQ, COPYW, QUIESCE and HATCH: CopyRequests and CopyControl. -/
def Obligations.CopyInstructions : Prop :=
  Claims.CopyRequests ∧ Claims.CopyControl

/-- R267, R268, R270, R271: RISE writes a rise word's target, RISEW completes once its generation has come, STRM binds
a vector register to a pattern, and STRMX ends the binding. -/
def Sys2Proof.Claims.RisesAndStreams : Prop :=
  (∀ (s s1 t : State) (p : Pr) (a : Sc) (v : DWord) (q : PReg), s.issues (.rise p a) → s.gives a.val v →
    M.answers (checkRise p false true) s q s1 → s1.gives a.val v → s1.codesClean s1.core = true →
    M.answers (updateRise q s1.now.part.toNat (some (v.toNat % 2 ^ 32)) 0 0) s1 true t →
    exec (.rise p a) s = .next (s.finish (.rise p a) .seq (Claims.popped t [a.val]))) ∧
  (∀ (s : State) (p : Pr) (a : Sc) (v : DWord) (k f : Nat) (h : Header), s.issues (.rise p a) → s.gives a.val v →
    Claims.ownObject s p k f h → Claims.clean s k 16 → s.now.p[p].w = true → s.now.p[p].kind = 5 →
    16 ≤ s.now.p[p].len → f + 16 ≤ k →
    ∃ t, M.answers (updateRise s.now.p[p] s.now.part.toNat (some (v.toNat % 2 ^ 32)) 0 0) s true t ∧
      exec (.rise p a) s = .next (s.finish (.rise p a) .seq (Claims.popped t [a.val]))) ∧
  (∀ (s s1 t : State) (p : Pr) (a : Sc) (v : DWord) (q : PReg) (vs : List Nat), s.issues (.risew p a) →
    s.gives a.val v → M.answers (checkRise p true false) s q s1 → s1.gives a.val v → s1.codesClean s1.core = true →
    s1.released → s1.now.latch = none →
    M.answers (tryNeed s1.core s1.ctx (.gen p (v.setWidth 32))) s1 (.ok vs) t →
    exec (.risew p a) s = .next (s.finish (.risew p a) .seq (Claims.popped t.settled [a.val]))) ∧
  (∀ (s : State) (p : Pr) (a : Sc) (v : DWord) (k f : Nat) (h : Header), s.issues (.risew p a) → s.gives a.val v →
    s.now.latch = none → Claims.ownObject s p k f h → Claims.clean s k 16 → s.now.p[p].r = true →
    s.now.p[p].kind = 5 → 16 ≤ s.now.p[p].len →
    (natOf (s.mem.read (k + 8) 4) + 2 ^ 32 - v.toNat % 2 ^ 32) % 2 ^ 32 < 2 ^ 31 →
    exec (.risew p a) s = .next (s.finish (.risew p a) .seq (Claims.popped s.settled [a.val]))) ∧
  (∀ (s : State) (p : Pr) (k f : Nat) (h : Header) (e : Word), Claims.ownObject s p k f h → Claims.clean s k 16 →
    16 ≤ s.now.p[p].len →
    let gen := natOf (s.mem.read (k + 8) 4)
    M.answers (tryNeed s.core s.ctx (.gen p e)) s
      (if (gen + 2 ^ 32 - e.toNat) % 2 ^ 32 < 2 ^ 31 then .ok [] else .error 8) s) ∧
  (∀ (s : State) (x : Fin 8) (p : Pr) (tm : Tm), s.issues (.strm x p tm) → s.now.p[p].tag = true →
    s.malformed s.now.p[p] = false → s.now.p[p].r = true → s.now.tm[tm] ≠ 0 →
    let pane := (s.nowCore.panes[Fin.ofNat 8 (s.now.p[p]).view]).toNat
    (paneFmt pane 15 = 15 ∨ tmEsz s.now.tm[tm] = fmtEsz (paneFmt pane 15)) →
    exec (.strm x p tm) s = .next (s.finish (.strm x p tm) .seq
      ((s.updCtx s.core s.ctx fun c => c.setStream x.val
        (some { ptr := s.now.p[p], map := s.now.tm[tm], pane := BitVec.ofNat 64 pane })).soon 4
          (.strmRefill s.core s.ctx.val x.val)))) ∧
  (∀ (s : State) (x : Fin 8), s.issues (.strmx x) →
    exec (.strmx x) s = .next (s.finish (.strmx x) .seq
      (s.updCtx s.core s.ctx fun c => (c.setStream x.val none).setV (24 + x.val) 0)))

/-- R275, R276: SHJOIN joins the sheet of its descriptor and takes its tile, SHLEAVE leaves it, and the last partner's
SHMMA performs the collective and completes. -/
def Sys2Proof.Claims.Sheets : Prop :=
  (∀ (s : State) (a : Sc) (d : DWord), s.issues (.shjoin a) → s.gives a.val d →
    fld d.toNat 11 5 = 0 → fld d.toNat 48 16 = 0 → shX d + shW d ≤ 4 → shY d + shH d ≤ 4 →
    shInside d s.core = true → s.now.sheet = none →
    (fld d.toNat 16 32 = fld (s.nowCore.cls s.now.classno.toNat).toNat 32 32 → s.nowCore.member = none →
      Claims.tilesFree s [shC d] →
      let t := Claims.owning s [shC d]
      exec (.shjoin a) s = .next (s.finish (.shjoin a) .seq (Claims.popped
        (t.updCtx t.core t.ctx fun q => { q with sheet := some d, sheetN := 0 }) [a.val]))) ∧
    (fld d.toNat 16 32 ≠ fld (s.nowCore.cls s.now.classno.toNat).toNat 32 32 →
      exec (.shjoin a) s = .next (s.takeTrap cPERM 0 none none))) ∧
  (∀ (s : State), s.issues .shleave →
    exec .shleave s = .next (s.finish .shleave .seq
      (s.updCtx s.core s.ctx fun q => { q with sheet := none, sheetN := 0 }))) ∧
  (∀ (s t u : State) (c : Tl) (pa : Pr) (tma : Tm) (pb : Pr) (tmb : Tm) (ty : Fin 16) (d : DWord)
    (ms : List Member), let i := Instr.shmma c pa tma pb tmb ty
    s.issues i → s.now.latch = none → s.now.sheet = some d → shC d = c.val → ty.val ≠ 8 →
    Claims.tilesFree s [c.val] →
    let m : Member := ⟨s.core, s.ctx, pa, tma, pb, tmb, ty.val, (Claims.paneFor s pa, Claims.paneFor s pb)⟩
    M.answers (sheetChecks d m) (Claims.owning s [c.val]) () t → t.core = s.core →
    t.sheetMembers d s.now.sheetN (some m) s.core = some ms → t.collective d ms ms = .ok u →
    (shKs d = false ∨ (shPos d s.core).2 ≠ 0) →
    let v := ms.foldl (fun t e => if e.core = s.core then t else t.memberDone d e) u
    exec i s = .next (s.finish i .seq (v.updCtx v.core v.ctx fun q => { q with sheetN := q.sheetN + 1 }))) ∧
  (∀ (s : State) (c : Tl) (pa : Pr) (tma : Tm) (pb : Pr) (tmb : Tm) (ty : Fin 16) (d : DWord) (ka fa kb fb : Nat)
    (ha hb : Header), let i := Instr.shmma c pa tma pb tmb ty
    s.issues i → s.now.latch = none → s.now.sheet = some d → shC d = c.val → ty.val ≠ 8 →
    shW d = 1 → shH d = 1 → shKs d = false → shInside d s.core = true → Claims.tilesFree s [c.val] →
    (Claims.double s pa pb ty.val = true → c.val % 2 = 1 → exec i s = .next (s.takeTrap cILLEGAL 0 none none)) ∧
    ((Claims.double s pa pb ty.val = true → c.val % 2 = 0) →
      Claims.fits s pa tma ty.val → tmExt s.now.tm[tma] 0 ≤ 4096 → Claims.fits s pb tmb ty.val →
      Claims.ownObject s pa ka fa ha → Claims.ownObject s pb kb fb hb → Claims.quiet s →
      ∃ u, exec i s = .next (s.finish i .seq u) ∧ u.mem = s.mem ∧ u.now.sheetN = s.now.sheetN + 1 ∧
        (u.nowCore.tile c.val).cv = false ∧ (u.nowCore.tile c.val).owner = some s.ctx)) ∧
  (∀ (s : State) (c : Tl) (pa : Pr) (tma : Tm) (pb : Pr) (tmb : Tm) (ty : Fin 16) (vs : List Nat),
    let i := Instr.shmma c pa tma pb tmb ty
    s.issues i → s.now.latch = some vs → exec i s = .next (s.finish i .seq s))

/-- RISE, RISEW, STRM, STRMX and the sheet instructions: RisesAndStreams and Sheets. A second joined context of a
core waits by log 20; a multiply of FP64 operands in a sheet goes to one tile of FP32, which is even, by log 44. -/
def Obligations.RisesStreamsAndSheets : Prop :=
  Claims.RisesAndStreams ∧ Claims.Sheets

/-- R330-R332: an atomic completes when its request is on its way to the owner of its word; its destination then waits
for the reply. One that is out of range gets zero, and a misaligned one raises ALIGN. One on an object in the core's own
pad does so. -/
def Sys2Proof.Claims.AtomicRequests : Prop :=
  ∀ (s : State) (d : R5) (p : Pr) (b : Sc) (os : Fin 16) (ty : Fin 4) (x e : DWord),
    ∀ i ∈ Claims.atomics d p b os ty, s.issues i.1 → s.gives b.val x → (i.2 = .cas → s.gives d.val e) →
    s.takes d.val → s.now.p[p].tag = true → s.malformed s.now.p[p] = false → s.now.p[p].r = true →
    s.now.p[p].w = true → (isRel os = true → s.performed) → (isAcq os = true → s.released) →
    let n := amoWidth i.2 ty
    let u : Uses := { ss := b.val :: (if i.2 = .cas then [d.val] else []), ds := [d.val] }
    (∀ (t t2 : State) (k g : Nat), s.now.p[p].addr % (n / 8) = 0 →
      M.answers (access p 0 (n / 8) 1 true true false) s (some k) t → M.answers (phys k aW) t g t2 →
      t2.now.p[p] = s.now.p[p] →
      exec i.1 s = .next (s.finish i.1 .seq (M.after (popAll u) (Claims.requested t2 i.2 d p os ty x e k)))) ∧
    (∀ (k f : Nat) (h : Header), s.now.p[p].addr % (n / 8) = 0 → Claims.ownObject s p k f h →
      (n / 8 ≤ s.now.p[p].len →
        exec i.1 s = .next (s.finish i.1 .seq (M.after (popAll u) (Claims.requested s i.2 d p os ty x e k)))) ∧
      (s.now.p[p].len < n / 8 → s.now.rangectl = false →
        ∃ t : State, exec i.1 s = .next (s.finish i.1 .seq (t.putS u d.val 0)) ∧ t.mem = s.mem ∧
          t.now.w = s.now.w)) ∧
    (∀ t, s.now.p[p].addr % (n / 8) = 0 → M.answers (access p 0 (n / 8) 1 true true false) s none t →
      exec i.1 s = .next (s.finish i.1 .seq (t.putS u d.val 0))) ∧
    (s.now.p[p].addr % (n / 8) ≠ 0 → exec i.1 s = .next (s.takeTrap cALIGN (s.now.p[p].addr % 8) (some p) none))

/-- R329-R332: what an atomic does at its owner: the old value is answered, and the word becomes what its operation leaves;
the answer stands in the destination register when it comes. -/
def Sys2Proof.Claims.AtomicOperations : Prop :=
  (∀ (n : Nat) (ty : Fin 4) (x y e : Nat), ∀ op ∈ [AmoOp.add, .min, .max, .swp, .cas, .and, .or, .xor],
    n = (if ty.val % 2 = 0 then 32 else 64) → x < 2 ^ n → y < 2 ^ n → e < 2 ^ n →
    let a : Int := if ty.val < 2 then (BitVec.ofNat n x).toInt else x
    let b : Int := if ty.val < 2 then (BitVec.ofNat n y).toInt else y
    (amoApply op ty x y e).1 = (match op with
      | .add => (x + y) % 2 ^ n
      | .min => if b < a then y else x
      | .max => if b > a then y else x
      | .swp => y
      | .cas => if x = e then y else x
      | .and => x &&& y
      | .or => x ||| y
      | .xor => x ^^^ y
      | .fadd => x)) ∧
  (∀ (ty : Fin 4) (x y e : Nat),
    let f := if ty = 0 then 9 else 8
    let sum := (decodeVal f x).add false (decodeVal f y)
    amoApply .fadd ty x y e = ((roundVal f .rne 0 sum.1).1, sum.2 ||| (roundVal f .rne 0 sum.1).2)) ∧
  (∀ (s : State) (op : AmoOp) (ty : Fin 4) (p : PReg) (part x e f : Nat),
    let k := p.key part
    let n := amoWidth op ty / 8
    let h := Header.ofNat (natOf (s.mem.read f 16))
    let old := natOf (s.mem.read k n)
    levelOf k = 0 ∨ levelOf k = 2 → s.mem.footOf k = some f → h.state = stLive → Claims.bodyAt h f k →
    s.halted (dieOf k) = false → (∀ g ∈ granules f 16 ++ granules k n, s.mem.isPoisoned g = false) →
    (s.coreAt (spaceOf k)).flips = [] → s.armed (spaceOf k) 0 = none → s.mem.wf →
    ∃ t, M.answers (performAmo op ty p part x e) s (old, (amoApply op ty old x e).2, false) t ∧
      t.mem.read k n = bytesOf n (amoApply op ty old x e).1 ∧
      ∀ a, a < k ∨ k + n ≤ a → t.mem.byte a = s.mem.byte a) ∧
  (∀ (s t : State) (core : Fin 1024) (e : HEntry) (hs : List HEntry) (op : AmoOp) (ty : Fin 4) (p : PReg)
    (x y : DWord) (slot part launch old : Nat) (f : Flags), (s.coreAt core.val).handler = e :: hs →
    e.op = .amo op ty p x y (some slot) part launch →
    M.answers (M.as e.core e.ctx (performAmo op ty p part x.toNat y.toNat)) s (old, f, false) t →
    let a : Answered := { ctx := e.ctx, actId := e.actId, slot, value := amoReply op ty old, flags := f
                          fadd := op == .fadd, bad := false }
    exec (.atomicService core) s = .next (((t.serveHead core.val e).updCore e.core fun k =>
      { k with answers := k.answers ++ [a] }).later 5 (.atomicReply e.core e.ctx.val))) ∧
  (∀ (s : State) (core : Fin 1024) (e : HEntry) (hs : List HEntry) (op : AmoOp) (ty : Fin 4) (p : PReg) (x y : DWord)
    (reply : Option Nat) (part launch f : Nat), (s.coreAt core.val).handler = e :: hs →
    e.op = .amo op ty p x y reply part launch →
    let k := p.key part
    let n := amoWidth op ty / 8
    let h := Header.ofNat (natOf (s.mem.read f 16))
    levelOf k = 0 ∨ levelOf k = 2 → s.mem.footOf k = some f → h.state = stLive → Claims.bodyAt h f k →
    s.halted (dieOf k) = false → (∀ g ∈ granules f 16 ++ granules k n, s.mem.isPoisoned g = false) →
    (s.coreAt (spaceOf k)).flips = [] → s.armed (spaceOf k) 0 = none → s.mem.wf →
    ∃ t, exec (.atomicService core) s = .next t ∧
      t.mem.read k n = bytesOf n (amoApply op ty (natOf (s.mem.read k n)) x.toNat y.toNat).1 ∧
      ∀ a, a < k ∨ k + n ≤ a → t.mem.byte a = s.mem.byte a) ∧
  (∀ (s : State) (core : Fin 1024) (ctx : Fin 8) (a : Answered),
    (s.coreAt core.val).answers.find? (·.ctx == ctx) = some a → (s.ctxAt core.val ctx).actId = a.actId →
    (s.ctxAt core.val ctx).run ≠ .free → a.bad = false →
    ∃ t, exec (.atomicReply core ctx) s = .next t ∧
      (∀ r : R5, r ≠ 24 → a.slot = (s.ctxAt core.val ctx).replySlot r.val → s.codesClean core.val = true →
        (s.ctxAt core.val ctx).below.length + (s.ctxAt core.val ctx).spilltop.toNat < 2 ^ 35 →
        (t.ctxAt core.val ctx).reg r.val = a.value) ∧
      (t.ctxAt core.val ctx).replies = (s.ctxAt core.val ctx).replies.erase a.slot ∧
      (t.ctxAt core.val ctx).fexc = (s.ctxAt core.val ctx).fexc ||| a.flags)

/-- Atomics at their issuer and their owner: AtomicRequests and AtomicOperations. -/
def Obligations.Atomics : Prop :=
  Claims.AtomicRequests ∧ Claims.AtomicOperations

/-! ## Events: requests at their receivers, dispatch, stealing and pre-emption -/

namespace Sys2Proof.Claims

/-- The receiver takes a request now (R327): none of its context waits before it, there is room, and nothing is
reserved. -/
abbrev hasRoom (s : State) (r : Req) : Prop :=
  s.behind r = false ∧ s.roomFor r = true ∧ (s.resv r.res).queue = []

/-- Contexts 0-6. -/
def lowCtx : List (Fin 8) := [0, 1, 2, 3, 4, 5, 6]

/-- a is asked to leave before b (R318): the lower priority, then the later start, then the higher number. -/
abbrev leavesBefore (s : State) (c : Nat) (a b : Fin 8) : Prop :=
  let p := s.ctxAt c a
  let q := s.ctxAt c b
  p.prio < q.prio ∨ (p.prio = q.prio ∧ (q.actstart < p.actstart ∨ (p.actstart = q.actstart ∧ b < a)))

end Sys2Proof.Claims

/-- R51, R327: a message that its receiver takes leaves the requests in flight and, past the checks of R51, joins the
run queue at its effective priority, behind those of that priority; one of a class that is not enabled is held; one
whose capability is not the class entry's changes neither, nor does one that is lost in a beat (R295). -/
def Sys2Proof.Claims.MessageArrival : Prop :=
  ∀ (s : State) (core : Fin 1024) (upset : Upset) (r : Req) (o : OutMsg), s.upsets.headD .none = upset →
    (s.firstSent fun q => s.goal q == core.val && q.res == .input q.dst) = some r → r.dst = core.val →
    Claims.hasRoom s r → (r.load = .message o ∨ r.load = .initial o) → o.msg.xf = 0 → o.handler = false →
    (s.coreAt core.val).flips = [] →
    let e := ((s.coreAt core.val).cls o.msg.cls.toNat).toNat
    let m := { o.msg with holes := 0, xf := 0 }
    ∃ t, exec (.messageArrival core) s = .next t ∧ (∀ q ∈ t.reqs, q.id ≠ r.id) ∧
      (upset = .lost → (t.coreAt core.val).runq = (s.coreAt core.val).runq ∧
        (t.coreAt core.val).heldMsgs = (s.coreAt core.val).heldMsgs) ∧
      (upset ≠ .lost → o.msg.cap.toNat = fld e 32 32 → bit e 24 = true →
        (t.coreAt core.val).runq = joinAt false
          { prio := BitVec.ofNat 6 (min o.msg.prio.toNat (fld e 16 6)), hnd := bit e 27, work := .message m
            stamp := s.pkg.time, stealable := o.msg.steal } (s.coreAt core.val).runq ∧
        (t.coreAt core.val).heldMsgs = (s.coreAt core.val).heldMsgs) ∧
      (upset ≠ .lost → o.msg.cap.toNat = fld e 32 32 → bit e 24 = false →
        (t.coreAt core.val).runq = (s.coreAt core.val).runq ∧
        (t.coreAt core.val).heldMsgs = (s.coreAt core.val).heldMsgs ++ [m]) ∧
      (upset ≠ .lost → o.msg.cap.toNat ≠ fld e 32 32 →
        (t.coreAt core.val).runq = (s.coreAt core.val).runq ∧
        (t.coreAt core.val).heldMsgs = (s.coreAt core.val).heldMsgs)

/-- R327, R355, R369, R415: a request that finds no room is refused and comes again 16 ck later; a second refusal reserves
a slot, or gives a ticket where 16 are reserved; a ticket holder enters the reservation queue in its turn; a message for
a host queue is written at its tail, which moves on, and its vector is raised, or is pending where it is masked. The place
of a vector's words in BAR0 is log 50. -/
def Sys2Proof.Claims.RequestEvents : Prop :=
  (∀ (s : State) (core : Fin 1024) (r : Req),
    (s.firstSent fun q => s.goal q == core.val && q.res == .input q.dst) = some r → r.dst = core.val →
    s.roomFor r = false → r.fromFabric = false → r.dieHalted s = false → s.upsets = [] →
    exec (.messageArrival core) s = .next
      (((s.updCore core.val fun k => { k with port := r.source }).setStanding r.id (.refused 1)).later 16
        (.refusal r.id))) ∧
  (∀ (s : State) (id n : Nat) (r : Req), (s.reqs.find? fun q => q.id == id) = some r → r.standing = .refused n →
    s.arrivalWaits r = false → s.behind r = false →
    (Claims.hasRoom s r → exec (.refusalRetry id) s = .next (s.acceptReq r)) ∧
    (s.roomFor r = false → r.dieHalted s = false → n ≠ 0 →
      let v := s.resv r.res
      exec (.refusalRetry id) s = .next (if v.queue.length < 16 then
          (s.setResv { v with queue := v.queue ++ [id] } r.res).setStanding id .reserved
        else ((s.setResv { v with ticket := v.ticket + 1 } r.res).setStanding id (.ticket v.ticket)).later 256
          (.ticket id)))) ∧
  (∀ (s : State) (id n : Nat) (r : Req), (s.reqs.find? fun q => q.id == id) = some r → r.standing = .held n →
    s.arrivalWaits r = false → s.behind r = false →
    (Claims.hasRoom s r → exec (.heldRetry id) s = .next (s.acceptReq r)) ∧
    (s.roomFor r = false → r.fromFabric = false → r.dieHalted s = true →
      exec (.heldRetry id) s = .next ((s.setStanding id (.held n)).later 256 (.heldAgain id)))) ∧
  (∀ (s : State) (id : Nat) (r : Req) (k : BitVec 32), (s.reqs.find? fun q => q.id == id) = some r →
    r.standing = .ticket k →
    let v := s.resv r.res
    (k = v.serving → v.queue.length < 16 → exec (.ticketPresent id) s = .next
      (((s.setResv { v with queue := v.queue ++ [id], serving := v.serving + 1 } r.res).setStanding id .reserved).freed
        r.res)) ∧
    (k ≠ v.serving ∨ 16 ≤ v.queue.length → exec (.ticketPresent id) s = .next (s.later 256 (.ticket id)))) ∧
  (∀ (s : State) (h : Fin 256) (r : Req) (o : OutMsg),
    (s.firstSent fun q => q.res == .ring h.val) = some r → Claims.hasRoom s r → r.load = .hostQueue h.val o →
    r.fromFabric = false →
    let q := s.hostAt h.val
    o.msg.cap.toNat = q.key.toNat % 2 ^ 32 → q.tail.toNat % q.size.toNat + ringBytes o ≤ q.size.toNat →
    let masked := bit (s.pkg.msixWord (4 * h.val + 3)).toNat 0
    ∃ t, exec (.hostQueueWrite h) s = .next t ∧
      (t.hostAt h.val).tail = q.tail + BitVec.ofNat 64 (ringBytes o) ∧
      t.pkg.outward = s.pkg.outward ++
        .hostMem (q.base.toNat + q.tail.toNat % q.size.toNat)
          (headerOf o r.id ++ padTo (32 * ((o.msg.body.length + 31) / 32)) o.msg.body) ::
        (if masked then [] else [.msix h.val ((s.pkg.msixWord (4 * h.val)).toNat +
          (s.pkg.msixWord (4 * h.val + 1)).toNat * 2 ^ 32) (s.pkg.msixWord (4 * h.val + 2))]) ∧
      t.pkg.pba = (if masked then s.pkg.pba.add h.val else s.pkg.pba))

/-- Arrival, refusal and reservation of requests: MessageArrival and RequestEvents. Their spacing in steps is log
3. -/
def Obligations.ArrivalsAndRefusals : Prop :=
  Claims.MessageArrival ∧ Claims.RequestEvents

/-- R53, R54, R272, R291, R351: a dispatch decision takes the first entry that a free context suits: an activation
starts at its class entry, or at its completion routine, with w0-w7 and p15 from the message; a breakpoint stops
the core instead. Entry takes the core's default registers. A resumed activation starts in its restore routine with
TS = 1, its slot in p15, under the number that it was sealed with; a request for a slot whose seal is in progress is
refused (R293). The context's spill object stays, with nothing spilled (R57). Registers that no rule lists start
at zero by log 35. -/
def Obligations.DispatchEvents : Prop :=
  (∀ (s : State) (core : Fin 1024) (x : Fin 8) (e : Entry), s.dispatchHeld core.val = false →
    (s.coreAt core.val).choice = some (e, x) → s.lacks (s.entryReads e) = none →
    let u := ((s.taken (s.entryReads e)).updCore core.val fun k => { k with passBp := none }).takeEntry core.val e
    (s.breakAt core.val e = none → ∀ m, e.work = .message m → (u.coreAt core.val).flips = [] →
      let v := ((u.coreAt core.val).cls m.cls.toNat).toNat
      ∃ t, exec (.dispatchDecision core) s = .next t ∧
        let q := t.ctxAt core.val x
        q.run = .entering ∧ q.msg = m ∧ q.classno = m.cls ∧ q.wuid = m.wuid ∧ q.routetag = m.tag ∧
        q.sender = m.sender ∧ q.prio = e.prio ∧ q.slot = m.slot ∧ q.part = m.part ∧
        q.pc = BitVec.ofNat 64 (4 * fld v 2 14) ∧ q.mode = bit v 28 ∧ q.ts = false ∧ q.actstart = u.pkg.time ∧
        (∀ j : Fin 24, q.w[j] = if j.val < 8 then BitVec.ofNat 64 (leAt m.body (8 * j.val) 8) else 0) ∧
        q.p[(15 : Fin 16)] = messagePtr core.val x m.body.length ∧ q.depth = 0 ∧ q.fexc = 0 ∧ q.outbox = [] ∧
        q.spill = (u.ctxAt core.val x).spill ∧ q.spillcap = (u.ctxAt core.val x).spillcap ∧ q.spilltop = 0) ∧
    (s.breakAt core.val e = none → ∀ d, e.work = .completion d →
      ∃ t, exec (.dispatchDecision core) s = .next t ∧
        let q := t.ctxAt core.val x
        q.run = .entering ∧ q.completion = true ∧ q.jobdone = d.job ∧ q.pc = BitVec.ofNat 64 (2 * d.ent.toNat) ∧
        q.w[(0 : Fin 24)] = d.job) ∧
    (∀ i, s.breakAt core.val e = some i → ∃ t, exec (.dispatchDecision core) s = .next t ∧
      (t.coreAt core.val).stopping = true ∧ (t.coreAt core.val).runq = (s.coreAt core.val).runq ∧
      (t.coreAt core.val).stopCause = { bph := true, bpi := BitVec.ofNat 2 i, entry := some e })) ∧
  (∀ (s : State) (core : Fin 1024) (x : Fin 8), (s.ctxAt core.val x).run = .entering →
    let q := s.ctxAt core.val x
    exec (.activationEntry core x) s = .next (s.updCtx core.val x fun _ => { q with
      run := .live
      waitbudget := BitVec.ofNat 64 (s.coreReg core.val 0x40) &&& 0x0000FFFFFFFF0FFF
      srseed := BitVec.ofNat 64 (s.coreReg core.val 0x41 + (q.wuid.toNat + 1) * 0x9E3779B97F4A7C15)
      abfttol := BitVec.ofNat 64 (s.coreReg core.val 0x42) &&& 0xFF3F
      trapvec := BitVec.ofNat 16 (s.coreReg core.val 0x43) })) ∧
  (∀ (s : State) (core : Fin 1024) (x : Fin 8) (e : Entry) (r : ResumeReq) (f pay heads pays : List Byte),
    s.dispatchHeld core.val = false → (s.coreAt core.val).choice = some (e, x) → e.work = .resume r →
    s.lacks (s.entryReads e) = none → s.breakAt core.val e = none →
    r.slot.tag = true → s.malformed r.slot = false → 32768 ≤ r.slot.len →
    let u := ((s.taken (s.entryReads e)).updCore core.val fun k => { k with passBp := none }).takeEntry core.val e
    let part := (u.sealedAt r.slot).2
    u.fetchObj? r.slot part 0 128 = some f → u.fetchObj? r.slot part 128 256 = some pay →
    u.fetchObj? r.slot part 4864 1024 = some heads → u.fetchObj? r.slot part 5888 8192 = some pays →
    fldAt f 576 8 = 1 →
    ∃ t, exec (.resumeDispatch core) s = .next t ∧
      let q := t.ctxAt core.val x
      q.run = .entering ∧ q.ts = true ∧ q.mode = true ∧ q.savedMode = decide (fldAt f 272 1 = 1) ∧
      q.trapcause = 0x0F ∧ q.trappc = BitVec.ofNat 64 (fldAt f 256 16) ∧
      q.pc = BitVec.ofNat 64 (4 * r.ent.toNat) ∧ q.p[(15 : Fin 16)] = r.slot ∧
      q.classno = BitVec.ofNat 8 (fldAt f 320 8) ∧ q.wuid = BitVec.ofNat 24 (fldAt f 352 24) ∧ q.sv = false ∧
      ((u.sealedAct r.slot).2.2 ≠ 0 → q.actId = (u.sealedAct r.slot).2.2)) ∧
  (∀ (s : State) (core : Fin 1024), s.pkg.recovery = false → (s.coreAt core.val).resumeHeld = none →
    let v := s.coreReg core.val 0x1A
    let r : ResumeReq :=
      { slot := s.coreptr core.val 0x18, ent := BitVec.ofNat 14 (fld v 0 14), prio := BitVec.ofNat 6 (fld v 14 6) }
    (∀ q, s.sealsInto r.slot = some q → exec (.resumeRequestSubmit core) s = .next (s.contain core.val
      { cause := 11, cls := q.classno.toNat, wuid := q.wuid.toNat, at_ := s.coreId core.val
        sender := q.sender.toNat, slot := q.slot.toNat })) ∧
    (s.sealsInto r.slot = none →
    ((s.coreAt core.val).internal < 8 → exec (.resumeRequestSubmit core) s =
      .next (s.join core.val true { prio := r.prio, work := .resume r })) ∧
    (8 ≤ (s.coreAt core.val).internal → exec (.resumeRequestSubmit core) s =
      .next (s.updCore core.val fun k => { k with resumeHeld := some r }))))

/-- R318, R320, R342: with every context taken and the head of the run queue 8 or more above it, the context that
leaves first is asked to; an idle core probes the next of its cluster, takes the message it offers, counts the
probe, and backs off after 15 that failed; the message it takes joins its run queue as stolen. A core that stops asks so
too. When a probe falls
due is log 3. -/
def Obligations.PriorityAndStealing : Prop :=
  (∀ (s : State) (core : Fin 1024) (e : Entry) (x : Fin 8), bit (s.coreReg core.val 0x14) 0 = true →
    ((s.coreAt core.val).runq.find? fun f => !f.hnd) = some e →
    (∀ y ∈ Claims.lowCtx, (s.ctxAt core.val y).busy = true ∧ (s.ctxAt core.val y).request ≠ some true) →
    x ∈ Claims.lowCtx → s.victimOk core.val x = true →
    (∀ y ∈ Claims.lowCtx, s.victimOk core.val y = true → y ≠ x → Claims.leavesBefore s core.val x y) →
    (s.ctxAt core.val x).prio.toNat + 8 ≤ e.prio.toNat →
    exec (.priorityPreempt core) s = .next
      ((s.soon 64 (.priority core.val)).updCtx core.val x fun q => { q with request := some true })) ∧
  (∀ (s : State) (core : Fin 1024), s.idle core.val = true →
    let k := (s.coreAt core.val).thief
    let v := core.val / 16 * 16 + (core.val + k.next) % 16
    let u := (s.setCoreReg core.val 0x21 (bumpCount (s.coreReg core.val 0x21) 0)).updCore core.val fun k =>
      { k with searchck := k.searchck + 8 }
    k.backing = false →
    (∀ e m, u.offer v core.val = some e → e.work = .message m →
      bit ((s.coreAt core.val).cls m.cls.toNat).toNat 24 = true →
      fld ((s.coreAt core.val).cls m.cls.toNat).toNat 32 32 = m.cap.toNat →
      exec (.stealProbe core) s = .next
        ((((u.updCore v fun k => { k with runq := k.runq.erase e }).updCore core.val fun n =>
          { n with thief := { next := if k.next = 15 then 1 else k.next + 1, coming := [e] } }).freed (.input v)).later 4
            (.transfer core.val))) ∧
    (u.offer v core.val = none →
      ∃ t, exec (.stealProbe core) s = .next t ∧
        (t.coreAt core.val).thief.failed = (if k.failed < 14 then k.failed + 1 else 15) ∧
        (t.coreAt core.val).thief.backing = decide (14 ≤ k.failed) ∧
        (t.coreAt core.val).thief.next = (if k.next = 15 then 1 else k.next + 1) ∧
        fld (t.coreReg core.val 0x21) 0 32 = min (fld (s.coreReg core.val 0x21) 0 32 + 1) (2 ^ 32 - 1))) ∧
  (∀ (s : State) (core : Fin 1024) (e : Entry) (es : List Entry), (s.coreAt core.val).thief.coming = e :: es →
    ∃ t, exec (.stealTransfer core) s = .next t ∧
      (t.coreAt core.val).runq = joinAt false { e with stolen := true } (s.coreAt core.val).runq ∧
      (t.coreAt core.val).thief.coming = es ∧ (t.coreAt core.val).thief.failed = 0) ∧
  (∀ (s : State) (core : Fin 1024), (s.coreAt core.val).thief.backing = true →
    ∃ t, exec (.stealBackoffExpiry core) s = .next t ∧ (t.coreAt core.val).thief.backing = false ∧
      (t.coreAt core.val).thief.failed = 0)

/-- The slot of a save lies whole in one live object of a die pad, on a die that is not halted, and no granule of it is
poisoned. -/
abbrev Sys2Proof.Claims.slotIn (s : State) (k f : Nat) : Prop :=
  (∀ o, o < 32768 → s.mem.footOf (k + o) = some f ∧ levelOf (k + o) = 2 ∧ s.halted (dieOf (k + o)) = false) ∧
    f + 16 ≤ k ∧ (Header.ofNat (natOf (s.mem.read f 16))).state = stLive ∧ s.mem.isPoisoned f = false ∧
    (∀ g ∈ granules k 32768, s.mem.isPoisoned g = false)

/-- R280, R283-R285: a request of the supervisor reaches the contexts of its launch; entry to a save sets the trap
state for PREEMPT, gives the routine its slot, and starts it; a save that takes too long is killed; the seal writes
the slot's records, notes the sealed activation, and frees the context. In a slot in a die pad both are done at once.
Which requests a save takes over is log 27. -/
def Obligations.PreemptionEvents : Prop :=
  (∀ (s : State) (slot : Fin 128) (core : Fin 1024), (s.coreAt core.val).stopped = false →
    (∀ p ∈ (s.coreAt core.val).preempts, p.slot ≠ BitVec.ofNat 7 slot.val) →
    ∃ t, exec (.preemptionRequest slot core) s = .next t ∧ ∀ x ∈ Claims.lowCtx,
      let q := s.ctxAt core.val x
      q.busy = true → q.slot = BitVec.ofNat 7 slot.val → q.launch ≠ 0 → q.request = none → q.saving = false →
      (t.ctxAt core.val x).request = some false) ∧
  (∀ (s : State) (slot : Fin 128) (core : Fin 1024), (s.coreAt core.val).stopped = true →
    BitVec.ofNat 7 slot.val ∉ (s.coreAt core.val).heldPreempts →
    exec (.preemptionRequest slot core) s = .next (s.updCore core.val fun k =>
      { k with heldPreempts := k.heldPreempts ++ [BitVec.ofNat 7 slot.val] })) ∧
  (∀ (s t u : State) (core : Fin 1024) (x : Fin 8) (est : Nat), (s.ctxAt core.val x).takesPreempt x = true →
    (s.ctxAt core.val x).run ≠ .entering → saveBaseOk s (s.coreptr core.val 0x10) = true →
    s.giveUp core.val x = (est, t) →
    M.answers (writeFrame (s.saveSlot core.val x) (s.ctxAt core.val x) core.val x est) t () u →
    exec (.preemptEntry core x) s = .next (u.settled.enterSave core.val x est (s.saveSlot core.val x))) ∧
  (∀ (s : State) (core : Fin 1024) (x : Fin 8) (f : Nat),
    let q := s.ctxAt core.val x
    let slot := s.saveSlot core.val x
    let k := slot.key q.part.toNat
    let est := if q.blocked.isSome then 1 else 0
    q.takesPreempt x = true → q.run = .live → q.strm = Vector.replicate 8 none → s.nodes = [] → s.mem.wf →
    saveBaseOk s (s.coreptr core.val 0x10) = true → Claims.slotIn s k f →
    ∃ t : State, exec (.preemptEntry core x) s = .next (t.enterSave core.val x est slot) ∧
      t.cores = (s.updCore core.val fun n => n.release x.val).cores ∧ t.pkg = s.pkg ∧
      t.mem.read (k + 16) 112 = q.frameBytes x est s.pkg.time.toNat ∧
      t.mem.read (k + 128) q.msglen.toNat = s.mem.read (messageSlot core.val x + 16) q.msglen.toNat) ∧
  (∀ (s : State) (c est : Nat) (x : Fin 8) (slot : PReg),
    let p := s.ctxAt c x
    let q := (s.enterSave c x est slot).ctxAt c x
    q.trapcause = 0x0F ∧ q.trappc = p.pc ∧ q.trapval = 0 ∧ q.savedMode = p.mode ∧ q.mode = true ∧ q.ts = true ∧
    q.sv = false ∧ q.p[(15 : Fin 16)] = slot ∧ q.g[(6 : Fin 8)] = 0 ∧ q.g[(7 : Fin 8)] = p.frameWord x est ∧
    q.saving = true ∧ q.run = .live ∧ q.pc = BitVec.ofNat 64 (4 * fld (s.coreReg c 0x12) 2 14)) ∧
  (∀ (s : State) (core : Fin 1024) (x : Fin 8),
    let q := s.ctxAt core.val x
    q.saving = true → 1024 * fld (s.coreReg core.val 0x13) 0 32 < s.ck - q.saveSince →
    exec (.saveTimerExpiry core x) s = .next (s.kill core.val x 10 q.trapcause.toNat q.trappc.toNat)) ∧
  (∀ (s u : State) (core : Fin 1024) (x : Fin 8),
    let q := s.ctxAt core.val x
    let n := unitOf core.val
    let slot := s.saveSlot core.val x
    q.run = .sealing → s.jobsOf core.val q.actId = [] →
    (∀ m ∈ (s.coreAt core.val).cmds.head?, m.finished = 0 ∨ m.owner (s.coreAt core.val) ≠ some x) →
    q.request ≠ some true →
    M.answers (writeSeal slot core.val x) s () u →
    exec (.sealEvent core x) s = .next
      ((((u.updUnit n fun v => { v with stopped := v.stopped.filter fun j => j.actId != q.actId }).updPkg fun g =>
        { g with sealed := (g.sealed.filter fun e => e.1 != slot.key q.part.toNat) ++
          [(slot.key q.part.toNat, q.launch, q.part.toNat, q.actId)] }).countEnd q.launch 3).freeCtx core.val x 3)) ∧
  (∀ (s : State) (core : Fin 1024) (x : Fin 8) (f : Nat),
    let q := s.ctxAt core.val x
    let n := unitOf core.val
    let k := (s.saveSlot core.val x).key q.part.toNat
    q.run = .sealing → s.jobsOf core.val q.actId = [] → (s.unitAt n).records q.actId = [] → q.holds = [] →
    q.outbox = [] → (s.coreAt core.val).cmds = [] → q.request ≠ some true → s.mem.wf → Claims.slotIn s k f →
    ∃ u : State, exec (.sealEvent core x) s = .next
        ((((u.updUnit n fun v => { v with stopped := v.stopped.filter fun j => j.actId != q.actId }).updPkg fun g =>
          { g with sealed := (g.sealed.filter fun e => e.1 != k) ++ [(k, q.launch, q.part.toNat, q.actId)] }).countEnd
            q.launch 3).freeCtx core.val x 3) ∧
      u.mem.read (k + 72) 8 = bytesOf 4 1 ++ bytesOf 4 0 ∧ u.cores = s.cores ∧ u.pkg = s.pkg)

/-! ## Events: waits, groups, the timer, trace, stops -/

/-- R182, R183: a re-check that finds its condition wakes the context with what it read; one that fails leaves one less,
and the last parks the access. When its park limit has passed, a parked access takes FE_BUDGET. Of a word in the core's own
pad, a re-check of a load tests the word's full/empty bit. -/
def Sys2Proof.Claims.WaitEvents : Prop :=
  (∀ (s t : State) (core : Fin 1024) (x : Fin 8) (w : Waiter), (s.ctxAt core.val x).run = .waiting w →
    w.phase ≠ .parked → w.need.rechecked = true →
    (∀ vs, M.answers (M.as core.val x (tryNeed core.val x w.need)) s (.ok vs) t → exec (.feRecheck core x) s = .next
      (t.updCtx core.val x fun q => { q with run := .live, latch := some vs }).settled) ∧
    (∀ o n, M.answers (M.as core.val x (tryNeed core.val x w.need)) s (.error o) t → w.phase = .spin n →
      (1 < n → exec (.feRecheck core x) s = .next ((t.settled.later 8 (.recheck core.val x.val)).updCtx core.val x
        fun q => { q with run := .waiting { w with failed := o, phase := .spin (n - 1) }, blocked := none })) ∧
      (n ≤ 1 → exec (.feRecheck core x) s = .next (t.settled.park core.val x { w with failed := o })))) ∧
  (∀ (s : State) (core : Fin 1024) (x : Fin 8) (w : Waiter) (r : Pr) (o k f n : Nat) (h : Header),
    (s.ctxAt core.val x).run = .waiting w → w.phase = .spin n → w.need = .words .load r 4 [o] [] →
    let me := s.asCtx core.val x
    Claims.ownObject me r k f h → Claims.clean me (k + o) 4 → (k + o) % 4 = 0 → o + 4 ≤ me.now.p[r].len →
    (s.mem.isFull (k + o) = true → exec (.feRecheck core x) s = .next
      (s.updCtx core.val x fun q => { q with run := .live, latch := some [natOf (s.mem.read (k + o) 4)] }).settled) ∧
    (s.mem.isFull (k + o) = false → 1 < n → exec (.feRecheck core x) s = .next
      ((s.settled.later 8 (.recheck core.val x.val)).updCtx core.val x fun q =>
        { q with run := .waiting { w with failed := o, phase := .spin (n - 1) }, blocked := none })) ∧
    (s.mem.isFull (k + o) = false → n ≤ 1 → exec (.feRecheck core x) s = .next
      (s.settled.park core.val x { w with failed := o }))) ∧
  (∀ (s : State) (core : Fin 1024) (x : Fin 8) (w : Waiter) (g : Nat) (e : Word),
    (s.ctxAt core.val x).run = .waiting w → w.need = .group g e →
    let v := SMap.get {} s.pkg.groups (groupKey (s.ctxAt core.val x).launch g)
    (genPassed v.gen.toNat e.toNat = true → w.phase ≠ .parked → exec (.gwaitRecheck core x) s = .next
      (s.updCtx core.val x fun q => { q with run := .live, latch := some [] }).settled) ∧
    (genPassed v.gen.toNat e.toNat = false → ∀ n, 1 < n → w.phase = .spin n →
      exec (.gwaitRecheck core x) s = .next ((s.later 32 (.groupRecheck core.val x.val)).updCtx core.val x fun q =>
        { q with run := .waiting { w with phase := .spin (n - 1) }, blocked := none }))) ∧
  (∀ (s : State) (core : Fin 1024) (x : Fin 8) (w : Waiter), (s.ctxAt core.val x).run = .waiting w →
    (w.phase = .parked ∨ w.phase = .spinner) →
    let q := s.ctxAt core.val x
    w.since + 1024 * fld q.waitbudget.toNat 16 32 ≤ s.ck → q.ts = false → x ≠ 7 →
    ∃ t, exec (.feParkTimeout core x) s = .next t ∧
      let p := t.ctxAt core.val x
      p.run = .live ∧ p.trapcause = 0x06 ∧ p.trappc = q.pc ∧ p.trapval = BitVec.ofNat 64 (w.need.val w.failed) ∧
      p.ts = true ∧ p.mode = true ∧ p.savedMode = q.mode ∧ p.pc = BitVec.ofNat 64 q.trapvec.toNat)

/-- R334: an arrival at a group's record is counted where its WUID is a member's and its generation is the record's,
and is a stray otherwise; the last of a generation moves the generation on. The record is the launch's, and its
waiters are granted: a context that waits for the group no more stays as it is. -/
def Sys2Proof.Claims.GroupArrivals : Prop :=
  (∀ (s : State) (core : Fin 1024) (e : HEntry) (es : List HEntry) (l : Nat) (g : BitVec 8) (gen : Word)
    (wuid : BitVec 24), (s.coreAt core.val).handler = e :: es → e.op = .arrive l g gen wuid →
    let u := s.serveHead core.val e
    let key := groupKey l g.toNat
    (u.launch? l).isSome = true →
    exec (.groupArrival core) s = .next ((u.updPkg fun p =>
      { p with groups := SMap.put p.groups key ((SMap.get {} u.pkg.groups key).arriveAt gen wuid.toNat) }).grantGroup
        key)) ∧
  (∀ (v : Group) (gen : Word) (w : Nat),
    let t := v.arriveAt gen w
    (v.members ≠ 0 → v.isMember w = true → gen = v.gen → v.arrived + 1 = v.members →
      t = { v with gen := v.gen + 1, arrived := 0 }) ∧
    (v.members ≠ 0 → v.isMember w = true → gen = v.gen → v.arrived + 1 ≠ v.members →
      t = { v with arrived := v.arrived + 1 }) ∧
    (v.members = 0 ∨ v.isMember w = false ∨ gen ≠ v.gen →
      t.stray.toNat = min (v.stray.toNat + 1) (2 ^ 32 - 1) ∧ t.gen = v.gen ∧ t.arrived = v.arrived)) ∧
  (∀ (s : State) (key c : Nat) (x : Fin 8), s.waitsFor c x key = false →
    ((s.grantGroup key).ctxAt c x).run = (s.ctxAt c x).run) ∧
  (∀ gen e : Word, genPassed gen.toNat e.toNat = true ↔ 1 ≤ (gen - e).toNat ∧ (gen - e).toNat < 2 ^ 31)

/-- Re-checks, parking, and group arrivals: WaitEvents and GroupArrivals. -/
def Obligations.WaitAndGroupEvents : Prop :=
  Claims.WaitEvents ∧ Claims.GroupArrivals

/-- R350: an expiry makes the timer pending, or is counted lost; its entry is a trap with cause TIMER to the timer's
routine, and the timer is pending no more. -/
def Sys2Proof.Claims.TimerEvents : Prop :=
  (∀ (s : State) (core : Fin 1024), bit (s.coreReg core.val 0x22) 0 = true →
    ∃ t, exec (.timerExpiry core) s = .next t ∧ (t.coreAt core.val).timer = true ∧
      fld (t.coreReg core.val 0x22) 48 16 = (if (s.coreAt core.val).timer then
        min (fld (s.coreReg core.val 0x22) 48 16 + 1) 0xFFFF else fld (s.coreReg core.val 0x22) 48 16) ∧
      fld (t.coreReg core.val 0x22) 0 48 = fld (s.coreReg core.val 0x22) 0 48) ∧
  (∀ (s : State) (core : Fin 1024) (x : Fin 8), s.takesTimer core.val x = true →
    ∃ t, exec (.timerEntry core x) s = .next t ∧ (t.coreAt core.val).timer = false ∧
      let q := s.ctxAt core.val x
      let p := t.ctxAt core.val x
      p.trapcause = 0x10 ∧ p.trappc = q.pc ∧ p.trapval = 0 ∧ p.savedMode = q.mode ∧ p.mode = true ∧ p.ts = true ∧
      p.sv = false ∧ p.pc = BitVec.ofNat 64 (4 * fld (s.coreReg core.val 0x22) 2 14) ∧ p.w = q.w ∧ p.g = q.g)

/-- R107, R346, R352-R354: a flit arrives in its buffer; a trace record is written at its place and TRPOS moves on; a
core stop is asked for, is complete when every context is at rest, and ends with go; a die is halted and runs again. -/
def Sys2Proof.Claims.StopsAndTrace : Prop :=
  (∀ (s : State) (core : Fin 1024) (dir : Fin 4) (f : Flit) (fs : List Flit),
    ((s.coreAt core.val).link dir.val).flying = f :: fs →
    ∃ t, exec (.linkFlitArrival core dir) s = .next t ∧
      let l := (s.coreAt core.val).link dir.val
      (t.coreAt core.val).link dir.val = { l with buf := l.buf ++ [f], flying := fs }) ∧
  (∀ (s : State) (core : Fin 1024) (r : TraceRec) (rs : List TraceRec),
    (s.coreAt core.val).tbuf = r :: rs →
    let n := s.trLen core.val
    let pos := fld (s.coreReg core.val 0x2B) 0 40
    n ≠ 0 → (s.coreptr core.val 0x28).tag = true → s.malformed (s.coreptr core.val 0x28) = false →
    s.trFull core.val = false → (bit (s.coreReg core.val 0x2A) 5 = true ∨ pos < n) →
    let u := s.updCore core.val fun k => { k with tbuf := rs }
    let t := ((if rs = [] then u else u.later 4 (.traceWrite core.val)).enginePut (s.coreptr core.val 0x28) 0
      (32 * (pos % n)) (bytesOf 32 r.bits.toNat) (some true) (1 + core.val) r.own).trStep core.val
    exec (.traceRecordWrite core) s = .next (match r.own with
      | some (act, _) => t.wakeOps act
      | none => t)) ∧
  (∀ (s : State) (c : Nat), rising (s.mgmt.map Prod.fst) = true →
    fld ((s.trStep c).coreReg c 0x2B) 0 40 = (fld (s.coreReg c 0x2B) 0 40 + 1) % 2 ^ 40) ∧
  (∀ (s : State) (core : Fin 1024), s.pkg.recovery = false → (s.coreAt core.val).stopping = false →
    ∃ t, exec (.coreStop core) s = .next t ∧ (t.coreAt core.val).stopping = true ∧
      (t.coreAt core.val).stopped = (s.coreAt core.val).stopped) ∧
  (∀ (s : State) (core : Fin 1024), (s.coreAt core.val).stopping = true → (s.coreAt core.val).stopped = false →
    (∀ x : Fin 8, (s.ctxAt core.val x).atRest = true) →
    ∃ t, exec (.stopComplete core) s = .next t ∧ (t.coreAt core.val).stopped = true) ∧
  (∀ (s : State) (core : Fin 1024), s.pkg.recovery = false → (s.coreAt core.val).stopping = true →
    ∃ t, exec (.coreGo core) s = .next t ∧ (t.coreAt core.val).stopping = false ∧
      (t.coreAt core.val).stopped = false ∧ (t.coreAt core.val).heldPreempts = [] ∧
      ((s.coreAt core.val).stopCause.bph = true →
        (t.coreAt core.val).passBp = some (s.coreAt core.val).stopCause.bpi)) ∧
  (∀ (s : State) (die : Fin 4), s.pkg.recovery = false → bit (s.dieAt die.val).dbg.toNat 1 = false →
    ∃ t, exec (.dieHalt die) s = .next t ∧ t.halted die.val = true ∧ t.mem = s.mem ∧ ∀ c x,
      (t.ctxAt c x).run = (s.ctxAt c x).run ∧ (t.ctxAt c x).pc = (s.ctxAt c x).pc ∧
      (t.ctxAt c x).w = (s.ctxAt c x).w ∧ (t.ctxAt c x).p = (s.ctxAt c x).p) ∧
  (∀ (s : State) (die : Fin 4), s.pkg.recovery = false → bit (s.dieAt die.val).dbg.toNat 1 = true →
    ∃ t, exec (.dieRun die) s = .next t ∧ (t.dieAt die.val).dbg = 0 ∧ t.mem = s.mem ∧ t.reqs = s.reqs)

/-- The timer, link flits, trace records and stops: TimerEvents and StopsAndTrace. -/
def Obligations.TimerStopsAndTrace : Prop :=
  Claims.TimerEvents ∧ Claims.StopsAndTrace

/-! ## Events: sifts, the expander, scrubbing, translation, a die's command -/

namespace Sys2Proof.Claims

/-- The sift of pad i that event e runs, where it is asked for. -/
def siftEvents : List (Instr × Nat) :=
  ((List.range 1024).map fun c => (.coreSift (Fin.ofNat 1024 c), c)) ++
  ((List.range 64).map fun k => (.clusterSift (Fin.ofNat 64 k), 1024 + k)) ++
  ((List.range 32).map fun r => (.dieSift (Fin.ofNat 4 (r / 8)) (Fin.ofNat 8 r), 2048 + r))

/-- The state in which a sift of pad i begins, once its scope has drained: a cluster pad's expander holds nothing that is
not coded (R300). -/
def siftStart (s : State) (i : Nat) : State :=
  if padLevel i = 1 then (s.recode (i - 1024)).updClu (i - 1024) fun c => { c with sifting := true } else s

end Sys2Proof.Claims

/-- R171, R299-R302, R305: a sift that is asked for, with none under way, moves its pad's live objects, and the node
lists are scanned; one that needs a heap page, or whose drain has not ended, waits and has moved nothing; one that finds
no room in the heap loses the partition's activations; the end of a sift empties the region. A pad with no object, and
with nothing in its scope to drain, is sifted at once. -/
def Sys2Proof.Claims.SiftEvents : Prop :=
  (∀ (s t : State), ∀ e ∈ Claims.siftEvents, (s.pad e.2).hwm < (s.pad e.2).bump → s.sifts = [] →
    (M.answers (siftPad e.2) s () t → exec e.1 s = .next t.settled) ∧
    (∀ k pads, siftPad e.2 s = .error (.siftPage k pads) t → exec e.1 s = .next (s.engineSift pads k)) ∧
    (∀ d part p, siftPad e.2 s = .error (.siftFull d part p) t → exec e.1 s = .next (s.lostRegion d part p))) ∧
  (∀ (s : State), ∀ e ∈ Claims.siftEvents, (s.pad e.2).hwm < (s.pad e.2).bump → s.sifts = [] →
    s.draining e.2 = false →
    let u := Claims.siftStart s e.2
    u.objectsIn (padBase e.2 + (u.pad e.2).lo) (padBase e.2 + (u.pad e.2).hi) = [] → u.liveIn e.2 = [] →
    exec e.1 s = .next (u.endSift e.2).settled) ∧
  (∀ (s : State), ∀ e ∈ Claims.siftEvents,
    let u := s.dropEventSifts [e.2]
    u.siftRuns e.2 = true → exec e.1 s = .next u) ∧
  (∀ (s : State), ∀ e ∈ Claims.siftEvents, (s.pad e.2).bump ≤ (s.pad e.2).hwm → s.sifts = [] →
    (∀ k < 64, e.2 = 1024 + k → (s.cluAt k).held = []) → exec e.1 s = .next s) ∧
  (∀ (s : State) (i : Nat), i < 2080 → rising (s.mgmt.map Prod.fst) = true → ((s.endSift i).pad i).bump = (s.pad i).lo)

/-- R233, R245, R249, R406: a block that is not held enters the expander at its front; where chunks of it fail, their
words read zero and its entry is dirty; a scrub of a local-store granule corrects its correctable errors, records them,
and changes no memory; a scrub of the heap records an error that it meets, and poisons a granule that it cannot
correct. -/
def Sys2Proof.Claims.ExpanderAndScrubs : Prop :=
  (∀ (s : State) (clu : Fin 64) (blk : Fin 131072) (upset : Upset), s.upsets.headD .none = upset →
    blk.val ∉ (s.cluAt clu.val).held → s.halted (clu.val / 16) = false → s.nodes = [] →
    ∃ t, exec (.expanderFill clu blk) s = .next t ∧
      ((t.cluAt clu.val).exp.head?.map ExpEntry.blk) = some blk.val ∧
      (∀ e ∈ (t.cluAt clu.val).exp.tail, e.blk ≠ blk.val) ∧ (t.cluAt clu.val).exp.length ≤ 64 ∧
      (upset = .none → s.blockFails clu.val blk.val = false → t.mem = s.mem) ∧
      ((∀ e ∈ (s.cluAt clu.val).exp, e.blk ≠ blk.val) →
        let f := (((s.cluAt clu.val).upset blk.val upset).failures (s.blockData clu.val blk.val) blk.val).2
        (f ≠ 0 → (t.cluAt clu.val).exp.head? = some ⟨blk.val, true⟩) ∧
        ∀ i < 4, f.getLsbD i = true → ∀ a, blockBase clu.val blk.val + 64 * i ≤ a →
          a < blockBase clu.val blk.val + 64 * i + 64 → t.mem.byte a = 0)) ∧
  (∀ (s : State) (core : Fin 1024) (gran : Fin 65536),
    ∃ t, exec (.patrolScrub core gran) s = .next t ∧ t.mem = s.mem ∧
      (t.coreAt core.val).flips = (s.coreAt core.val).flips.filter fun f =>
        !(f.1 == 0 && f.2.1 / 2 == gran.val && !f.2.2)) ∧
  (∀ (s : State) (stk : Fin 12) (gran : Nat),
    let g := stackBase (stk.val / 3) (stk.val % 3) + 16 * (gran % 2 ^ 37)
    let u := { s with upsets := s.upsets.drop 1 }
    (s.upsets = [] → exec (.heapPatrolScrub stk gran) s = .next s) ∧
    (s.upsets.head? = some .corrected →
      exec (.heapPatrolScrub stk gran) s = .next (u.logPkg 16 false gran (stk.val / 3))) ∧
    (s.upsets.head? = some .lost → exec (.heapPatrolScrub stk gran) s = .next
      ((u.updMem fun m => m.setPoison g true).logPkg 16 true gran (stk.val / 3))))

/-- Sifts, the expander and patrol scrubs: SiftEvents and ExpanderAndScrubs. Where PKGERR's record names the granule is
log 40; a sift that waits has moved nothing is log 41; that a scrub corrects what can be corrected, and poisons what
cannot, is log 36; the core's scrubber runs at multiples of 2^24 ck by log 45. -/
def Obligations.SiftAndScrubEvents : Prop :=
  Claims.SiftEvents ∧ Claims.ExpanderAndScrubs

/-- R306, R307, R403, R406: a walk that ends at a leaf fills the cache, with Z cleared; an error in the last entry that it
reads is recorded where it is corrected, and makes the entry not valid where it is not; an answer to a page request releases
the page's waiters in order, or refuses them; a suspended activation resumes where no fault of it is left; a refused
one is killed with cause 9; what found the fault list full is presented again. -/
def Sys2Proof.Claims.TranslationEvents : Prop :=
  (∀ (s : State) (part : Fin 16) (va : BitVec 45), s.cached part.val va.toNat = none → stackOf va.toNat ≠ 3 →
    let u := ({ s with upsets := s.upsets.drop 1 }).upsetWalk part.val va.toNat (s.upsets.headD .none)
    (∀ leaf a big, u.walk part.val va.toNat = some (leaf, a, big) →
      ∃ t, exec (.translationWalk part va) s = .next t ∧
        t.cached part.val va.toNat =
          some ⟨part.val, pageOf va.toNat, big, BitVec.ofNat 64 (setFld leaf 5 1 0)⟩) ∧
    (u.walk part.val va.toNat = none → exec (.translationWalk part va) s = .next u)) ∧
  (∀ (s : State) (part va a : Nat), (s.tablePath part va).getLast? = some a →
    s.upsetWalk part va .none = s ∧ s.upsetWalk part va .corrected = s.logPkg 17 false (a / 8) (fld va 43 2) ∧
    (s.upsetWalk part va .lost).walk part va = none) ∧
  (∀ (s : State) (die : Fin 4) (v : BitVec 64),
    let part := fld v.toNat 0 4
    let va := fld v.toNat 5 36 * 512
    let mine := fun (f : PageFault) => f.part == part && f.page == pageOf va
    let u := s.updDie die.val fun d => { d with pageans := v &&& 0x1FFFFFFFFFF }
    let fs := ((u.dieAt (fld va 43 2)).stks[Fin.ofNat 3 (stackOf va)]).faults
    let r := u.updStack (fld va 43 2) (stackOf va) fun q => { q with faults := q.faults.filter fun f => !mine f }
    s.pkg.recovery = false →
    exec (.pageAnswerMap die v) s = .next ((fs.filter mine).foldl State.releaseFault r) ∧
    exec (.pageAnswerRefuse die v) s = .next ((fs.filter mine).foldl State.refuseFault r)) ∧
  (∀ (s : State) (f : PageFault) (c act va : Nat) (x : Fin 8) (mode : Bool), f.who = .act c x act →
    (s.ctxAt c x).actId = act → (s.ctxAt c x).run = .paged va mode →
    (s.stillFaults act = false → s.releaseFault f = s.updCtx c x fun q =>
      { q with evt := true, sv := false, pc := q.trappc, run := if mode then .weights none none else .live }) ∧
    (s.halted (coreDie c) = false → s.refuseFault f = s.kill c x 9 0) ∧
    (s.halted (coreDie c) = true → s.refuseFault f = s.later 1 (.refuse f))) ∧
  (∀ (s t : State) (stk : Fin 12) (f : PageFault) (c k act va : Nat) (x : Fin 8) (mode : Bool),
    let d := stk.val / 3
    let u := s.updStack d (stk.val % 3) fun q => { q with waiting := [] }
    ((s.dieAt d).stks[Fin.ofNat 3 (stk.val % 3)]).waiting = [f] → f.who = .act c x act →
    (s.ctxAt c x).actId = act → (s.ctxAt c x).run = .paged va mode →
    (u.translate (heapBase f.part + va) f.need = some (k, t) →
      exec (.faultListRepresent stk) s = .next (t.resumePaged c x act)) ∧
    (u.translate (heapBase f.part + va) f.need = none →
      exec (.faultListRepresent stk) s = .next (u.pageFault (heapBase f.part + va) f.need (u.ctxId c x) f.who)))

/-- R311-R313: a shutter of a die with no activation succeeds and closes it, and fails with result 2 where there is one;
a reopened die is online; a die goes offline once its cores have sifted and its objects have moved, and fails with
result 1, shuttered, where the other dies have no room for a partition; one without objects goes offline at once. A
halted die waits until it runs (R354). -/
def Sys2Proof.Claims.DieCommands : Prop :=
  (∀ (s : State) (die : Fin 4), s.pkg.recovery = false →
    (s.dieBusy die.val = false → ∃ t, exec (.dieShutter die) s = .next t ∧ (t.dieAt die.val).cmd = 0x12 ∧
      (t.dieAt die.val).st = 1 ∧ t.mem = s.mem ∧ t.cores = s.cores) ∧
    (s.dieBusy die.val = true → ∃ t, exec (.dieShutter die) s = .next t ∧ fld (t.dieAt die.val).cmd.toNat 0 4 = 0xA ∧
      (t.dieAt die.val).st = (s.dieAt die.val).st)) ∧
  (∀ (s : State) (die : Fin 4), s.pkg.recovery = false → ∃ t, exec (.dieReopen die) s = .next t ∧ (t.dieAt die.val).cmd = 3 ∧
    (t.dieAt die.val).st = 0) ∧
  (∀ (s : State) (die : Fin 4), s.pkg.recovery = false → s.dieBusy die.val = false → s.sifts = [] → s.nodes = [] →
    s.halted die.val = false → s.mem.starts = [] →
    (∀ i ∈ coresOfDie die.val ++ lowerPads die.val, s.draining i = false) →
    (∀ i ∈ lowerPads die.val, (s.pad i).live = 0 ∧ (s.pad i).pin = 0) → rising (s.mgmt.map Prod.fst) = true →
    ∃ t, exec (.dieOffline die) s = .next t ∧ (t.dieAt die.val).cmd = 0x21 ∧ (t.dieAt die.val).st = 2) ∧
  (∀ (s : State) (die : Fin 4), s.pkg.recovery = false → s.dieBusy die.val = false → s.halted die.val = true →
    exec (.dieOffline die) s = .next (s.soon 1 (.offline die.val))) ∧
  (∀ (s t u : State) (die : Fin 4), s.pkg.recovery = false → s.dieBusy die.val = false → s.sifts = [] →
    s.halted die.val = false → M.answers ((coresOfDie die.val).forM siftCore) s () t →
    ((∀ p < 16, (t.needRoom die.val p).1 ≤ (t.needRoom die.val p).2) → M.answers (evacuate die.val) t () u →
      exec (.dieOffline die) s = .next (u.settled.updDie die.val fun v => { v with cmd := 0x21 })) ∧
    ((∃ p < 16, (t.needRoom die.val p).2 < (t.needRoom die.val p).1) →
      exec (.dieOffline die) s = .next (t.updDie die.val fun v => { v with cmd := 0x15 })))

/-- Translation, page answers and die commands: TranslationEvents and DieCommands. Which line a full cache loses is
a free value (log 11); that a shutter or an offline command of a die that is already offline acts as for an online one is
log 29. -/
def Obligations.TranslationAndDieEvents : Prop :=
  Claims.TranslationEvents ∧ Claims.DieCommands

/-! ## Events: launches and the host -/

/-- R370, R371, R376, R378: a doorbell moves a queue's tail; the best queue without a slot takes the first free one;
a slot is released at a boundary; the supervisor's request reaches the cores of PREMASK; the host's cancel leaves its
result in CANCELQ. What is to be read of the queues' table and rings, and cannot be read now, is waited for. -/
def Sys2Proof.Claims.QueueAndSlotEvents : Prop :=
  (∀ (s : State) (v : BitVec 64), s.pkg.recovery = false → exec (.queueDoorbell v) s = .next
    (((s.updPkg fun p => { p with qdoor := v }).enginePut s.pkg.qtbase 0 (64 * fld v.toNat 0 10 + 36)
      (bytesOf 4 (fld v.toNat 10 32)) none).queueChanged (fld v.toNat 0 10))) ∧
  (∀ (s : State) (n q : Nat), s.lacks [(s.pkg.qtbase, 0, 0, 65536)] = none →
    let u := s.taken [(s.pkg.qtbase, 0, 0, 65536)]
    (upTo 128).find? (fun n => (u.slotAt n).queue.isNone) = some n → u.age.bestQueue = some q →
    ∃ t, exec .slotMap s = .next t ∧ t.slotAt n =
      { u.slotAt n with queue := some q, part := BitVec.ofNat 4 (fld (u.queueCtl q) 16 4), eff := u.age.aged q
                        since := u.pkg.time }) ∧
  (∀ (s t : State), s.lacks [(s.pkg.qtbase, 0, 0, 65536)] = some t → exec .slotMap s = .next (t.soon 64 .mapSlot)) ∧
  (∀ (s : State) (q : Nat), s.bestQueue = some q →
    q ∈ s.unmapped ∧ ∀ u ∈ s.unmapped, s.aged u ≤ s.aged q) ∧
  (∀ (s : State) (slot : Fin 128), s.releasable slot.val = true →
    ∃ t, exec (.slotRelease slot) s = .next t ∧ t.slotAt slot.val = { s.slotAt slot.val with queue := none }) ∧
  (∀ (s : State) (v : BitVec 64), s.pkg.recovery = false → bit v.toNat 8 = true →
    ∃ t, exec (.precmd v) s = .next t ∧ t.pkg = { s.pkg with precmd := v } ∧
      t.pending = s.pending ++ ((List.range 1024).filter fun c => s.pkg.premask.getLsbD c).map fun c =>
        (s.ck + 1, Due.preempt (fld v.toNat 0 7) c)) ∧
  (∀ (s : State) (v : BitVec 64), s.pkg.recovery = false →
    let table := [s.descriptor (fld v.toNat 0 10)]
    let u := (s.taken table).taken (s.cancelReads v.toNat)
    (s.lacks table = none → s.lacks (s.cancelReads v.toNat) = none →
      exec (.cancelq v) s = .next ((u.cancel v.toNat none).2.updPkg fun p =>
        { p with cancelq := BitVec.ofNat 64 (u.cancel v.toNat none).1 })) ∧
    (∀ t, s.lacks table = some t → exec (.cancelq v) s = .next (t.later 64 (.cancelq v))) ∧
    (∀ t, s.lacks table = none → s.lacks (s.cancelReads v.toNat) = some t →
      exec (.cancelq v) s = .next (t.later 64 (.cancelq v))))

/-- R373-R375: a START is read from its queue's ring and joins the launches in flight, and begins, with a snapshot of
its block, when its wait is over; each work unit's message is handed to its core, in the order of WUIDs, from the place
table or the mask; a STOP closes the record of the queue's most recent START once its queue has no launch left; a launch
all of whose messages are placed and whose activations and atomics have ended leaves the launches in flight; an abandoned
frame is sealed no more. -/
def Sys2Proof.Claims.LaunchEvents : Prop :=
  (∀ (s : State) (slot : Fin 128) (q : Nat), (s.slotAt slot.val).queue = some q →
    (∀ p, s.unplaced q = none → s.lacks [s.descriptor q] = none →
      let u := s.taken [s.descriptor q]
      let k := u.queueField q 32 4
      let v := u.taken [u.packetPlace q k]
      u.hasWork q = true → u.releasable slot.val = false → u.lacks [u.packetPlace q k] = none →
      v.packetAt q k = (1, p) →
      exec (.start slot) s = .next (((v.setQueue q 32 4 ((k + 1) % 2 ^ 32)).updPkg fun g =>
        { g with launches := g.launches ++ [v.newLaunch slot.val q k p], launchNext := g.launchNext + 1 }).later 1
          (.start slot.val))) ∧
    (∀ t, s.unplaced q = none → s.lacks [s.descriptor q] = some t →
      exec (.start slot) s = .next (t.soon 64 (.start slot.val))) ∧
    (∀ l, s.unplaced q = some l → l.phase = .waits →
      let reads := [(l.blkptr, l.part, 0, 192), (s.waitPtr l, l.part, 0, 4)]
      let u := s.taken reads
      s.lacks reads = none → exec (.start slot) s = .next (if u.waitOver l
        then (u.putLaunch { l with phase := .reads }).later 0 (.start slot.val) else u.later 8 (.start slot.val))) ∧
    (∀ l, s.unplaced q = some l → l.phase = .reads → s.lacks [(l.blkptr, l.part, 0, 192)] = none →
      let u := (s.taken [(l.blkptr, l.part, 0, 192)]).taken (s.reading (s.readBlock l))
      s.lacks (s.reading (s.readBlock l)) = none → exec (.start slot) s = .next (u.beginLaunch (u.snapshot l))) ∧
    (let k := s.queueField q 32 4
      let v := (s.taken [s.descriptor q]).taken [s.packetPlace q k]
      s.lacks [s.descriptor q] = none → s.lacks [s.packetPlace q k] = none →
      v.hasWork q = true → (v.packetAt q k).1 = 2 → (∀ l ∈ v.pkg.launches, l.queue ≠ q) →
      let r := (SMap.get (0, .null) v.pkg.records q).2
      let part := fld (v.queueCtl q) 16 4
      let u := v.enginePut r part 8 (bytesOf 8 v.pkg.time.toNat) none
      exec (.stop slot) s = .next (((u.enginePut r part 256 (u.slotAt slot.val).totalBytes none).setQueue q 32 4
        ((k + 1) % 2 ^ 32)).later 1 (.start slot.val)))) ∧
  (∀ (s : State) (l : Launch), l.read = true → rising (s.pkg.records.map Prod.fst) = true →
    (SMap.get (0, .null) s.pkg.records l.queue).1 ≤ l.uid →
    SMap.get (0, .null) (s.noteRecord l).pkg.records l.queue = (l.uid, l.ptr 6)) ∧
  (∀ (s : State) (slot : Fin 128) (l : Launch) (w : Nat),
    (s.pkg.launches.find? fun l => l.slot.toNat == slot.val && match l.phase with
      | .placing _ => true
      | _ => false) = some l → l.phase = .placing w →
    let place := l.ptr 3
    let e := l.places.getD (w % max 1 l.places.length) 0
    let core := if place.tag then fld e 3 10 else nextOf l.mask.toNat (s.slotAt slot.val).lastCore
    let o := l.message w (if place.tag then fld e 0 22 else s.coreId core) (if place.tag then fld e 32 32 else 0)
      (!place.tag)
    ∃ t, exec (.messagePlacement slot) s = .next t ∧
      t.reqs = s.reqs ++ [{ id := s.reqNext, core := 65536 + 1024 + slot.val, ctx := 0, actId := 0, dst := core
                            load := .initial o, prio := o.msg.prio, due := s.ck + 1 }] ∧
      ∀ m ∈ t.pkg.launches, m.uid = l.uid → ∃ m' ∈ s.pkg.launches,
        m = { m' with active := m'.active + 1, unaccepted := m'.unaccepted + 1
                      phase := if l.count ≤ w + 1 then .placed else .placing (w + 1) }) ∧
  (∀ (s : State) (id : Nat) (l : Launch), s.launch? id = some l → l.active = 0 → l.allPlaced = true →
    s.launchAmos id = false →
    let status := (l.cancelled.getD 0).toNat
    (l.blk ≠ [] → ∃ t, exec (.launchComplete id) s = .next t ∧
      t = (if status = 4 then s.endAtOnce l 4 else s.endLaunch l status) ∧ ∀ m ∈ t.pkg.launches, m.uid ≠ l.uid) ∧
    (l.blk = [] → s.lacks [(l.blkptr, l.part, 0, 192)] = none →
      let u := s.taken [(l.blkptr, l.part, 0, 192)]
      let m := u.usable (u.readBlock l)
      ∃ t, exec (.launchComplete id) s = .next t ∧ t = (u.noteRecord m).endAtOnce m status ∧
        ∀ m ∈ t.pkg.launches, m.uid ≠ l.uid)) ∧
  (∀ (s : State) (q : BitVec 128) (e : Nat × Nat × Nat × Nat),
    let p : PReg := { bits := q, tag := true }
    s.pkg.recovery = false → s.malformed p = false → (s.pkg.sealed.find? fun e => e.1 == p.key e.2.2.1) = some e →
    ∃ t, exec (.abandon q) s = .next t ∧ e ∉ t.pkg.sealed)

/-- Queues, slots and launches: QueueAndSlotEvents and LaunchEvents. Conventions of placement are log 24. -/
def Obligations.QueueAndLaunchEvents : Prop :=
  Claims.QueueAndSlotEvents ∧ Claims.LaunchEvents

/-- R360, R367-R369, R410-R413, R415: a host write enters the ordering point, in BAR2 as one aligned dword or as an
Unsupported Request; it is released in order, lands step by step, and is acknowledged once it has landed whole; a
read waits there for the writes before it. A step that reaches an object in a die pad, with no sift of that pad, lands at
once. A host queue's head and the supervisor queue's free what waits for them. An access to BAR2 that is not one aligned
dword, and a read's place in the queue, are log 31; the layout of BAR0 and its accesses are log 50. -/
def Obligations.HostEvents : Prop :=
  (∀ (s : State) (off : BitVec 32) (data : List Byte) (poisoned : Bool), s.pkg.powered = true →
    (data ≠ [] → off.toNat % 2 ^ 26 + data.length ≤ 2 ^ 26 →
      ∃ t, exec (.hostPostedWrite true off data poisoned) s = .next t ∧
        t.pkg.orderQ = s.pkg.orderQ ++ [s.dataWrite poisoned (off.toNat, data)]) ∧
    (off.toNat % 8 = 0 → data.length = 8 → s.accesses.head? ≠ some .bar0 →
      ∃ t, exec (.hostPostedWrite false off data poisoned) s = .next t ∧ t.pkg.orderQ = s.pkg.orderQ ++
        [{ bar4 := false, off := off.toNat % 2 ^ 27, data, poisoned, route := some 4 }]) ∧
    (off.toNat % 8 ≠ 0 ∨ data.length ≠ 8 → s.accesses.head? ≠ some .bar0 →
      exec (.hostPostedWrite false off data poisoned) s = .next (s.emit .unsupported)) ∧
    (s.accesses.head? = some .bar0 →
      let fits := (data.length = 4 ∨ data.length = 8) ∧ off.toNat % data.length = 0
      (fits → ∃ t, exec (.hostPostedWrite false off data poisoned) s = .next t ∧ t.pkg.orderQ = s.pkg.orderQ ++
        [{ bar4 := false, bar0 := true, off := off.toNat % 2 ^ 14, data, poisoned, route := some 4 }]) ∧
      (¬ fits → exec (.hostPostedWrite false off data poisoned) s = .next
        ({ s with accesses := s.accesses.drop 1 }.emit .unsupported)))) ∧
  (∀ (s : State) (bar4 : Bool) (off : BitVec 32) (n : Nat), s.pkg.powered = true → s.accesses = [] →
    (bar4 = true ∨ off.toNat % 8 = 0 ∧ n = 8 → ∃ t, exec (.hostRead bar4 off n) s = .next t ∧
      t.pkg.orderQ = s.pkg.orderQ ++ [{ bar4, off := off.toNat, read := some n }]) ∧
    (bar4 = false → off.toNat % 8 ≠ 0 ∨ n ≠ 8 →
      exec (.hostRead bar4 off n) s = .next (s.emit .unsupported))) ∧
  (∀ (s : State) (off : BitVec 32) (n : Nat), s.pkg.powered = true → s.accesses = [.bar0] → (n = 4 ∨ n = 8) →
    off.toNat % n = 0 → ∃ t, exec (.hostRead false off n) s = .next t ∧
      t.pkg.orderQ = s.pkg.orderQ ++ [{ bar4 := false, bar0 := true, off := off.toNat, read := some n }]) ∧
  (∀ (s : State) (h : Nat), h ≤ 256 → rising (s.pkg.msixTab.map Prod.fst) = true → s.pkg.pba.has h = true →
    (s.putBar0 (16 * h + 12) 0).pkg.outward = s.pkg.outward ++ [.msix h ((s.pkg.msixWord (4 * h)).toNat +
      (s.pkg.msixWord (4 * h + 1)).toNat * 2 ^ 32) (s.pkg.msixWord (4 * h + 2))]) ∧
  (∀ (s : State) (before rest : List HostWrite) (w : HostWrite), s.pkg.orderQ = before ++ w :: rest →
    (∀ v ∈ before, v.released = true) → w.released = false →
    ((match w.route with
      | some r => ∀ v ∈ before, v.route = some r
      | none => before = []) ∧ (w.read = none → s.pkg.saves = false)) → s.upsets = [] →
    ∃ t, exec .routeRelease s = .next t ∧
      t.pkg.orderQ = (if w.read.isSome || w.emptied s then before ++ rest
        else before ++ { w with released := true, total := w.keep s } :: rest) ∧
      (∀ n, w.read = some n → ∃ bs, t.pkg.outward = s.pkg.outward ++ [.readData bs])) ∧
  (∀ (s t : State) (route : Fin 5) (w : HostWrite), s.landingOn route = some w →
    (w.bar4 = true → M.answers (landStep w) s () t →
      exec (.landingStep route) s = .next (t.stepDone route w w.stepLen)) ∧
    (w.bar4 = false → w.bar0 = false → s.manage w.off (natOf w.data) = some t → exec (.landingStep route) s = .next
      (((t.setLanding w { w with landed := 8 }).later 32 (.ack route.val)).soon 1 (.landing route.val))) ∧
    (w.bar4 = false → w.bar0 = true → exec (.landingStep route) s = .next
      ((((s.writeBar0 w.off w.data).setLanding w { w with landed := 8 }).later 32 (.ack route.val)).soon 1
        (.landing route.val)))) ∧
  (∀ (s : State) (route : Fin 5) (w : HostWrite) (f : Nat), s.landingOn route = some w → w.bar4 = true →
    let n := w.stepLen
    let k := w.ptr.key 0 + w.start + w.landed
    w.landed + n ≤ w.keep s → levelOf k = 2 → levelOf (k + n - 1) = 2 → s.halted (dieOf k) = false →
    s.mem.footOf k = some f → (Header.ofNat (natOf (s.mem.read f 16))).state = stLive →
    Claims.bodyAt (Header.ofNat (natOf (s.mem.read f 16))) f k →
    (∀ g ∈ granules f 16 ++ granules k n, s.mem.isPoisoned g = false) → (∀ i ∈ s.padOf k, s.siftRuns i = false) →
    s.nodes = [] → s.mem.wf →
    ∃ t : State, exec (.landingStep route) s = .next (t.stepDone route w n) ∧
      t.mem.read k n = (w.data.drop w.landed).take n ∧ (∀ a, a < k ∨ k + n ≤ a → t.mem.byte a = s.mem.byte a) ∧
      (bit w.ctl.toNat 1 = true → ∀ g ∈ wordsOf k n, t.mem.isFull g = true) ∧
      (bit w.ctl.toNat 1 = false → ∀ g, t.mem.isFull g = s.mem.isFull g)) ∧
  (∀ (s : State) (route : Fin 5) (w : HostWrite),
    (s.pkg.orderQ.find? fun w => w.released && w.route == some route) = some w →
    w.complete = true →
    ∃ t, exec (.routeAck route) s = .next t ∧ t.pkg.orderQ = s.pkg.orderQ.erase w) ∧
  (∀ (s : State) (h : Fin 256) (v : BitVec 64), s.pkg.recovery = false →
    let u := s.updHost h.val fun q => { q with head := v }
    exec (.hqheadWrite h v) s = .next (u.freed (.ring h.val)) ∧
    ((s.hostAt h.val).resv.queue = [] → exec (.hqheadWrite h v) s = .next u ∧ (u.hostAt h.val).head = v)) ∧
  (∀ (s : State) (die : Fin 4) (v : BitVec 64), s.pkg.recovery = false →
    let u := s.updDie die.val fun d => { d with sqhead := v &&& 0xFFFFFFFF }
    exec (.sqheadWrite die v) s = .next (u.sqJoin die.val []) ∧
    (u.dieAt die.val).sqhead = v &&& 0xFFFFFFFF)

/-! ## Events: the management interface, loading, resets, boot, security, checkpoints, clock and power -/

/-- R169, R281, R296, R343, R353, R360, R398: a core's pad registers are written where no context holds an activation
and no sift of the pad runs, and its dispatch goes on; a write of PADLO or PINLO sets the bump pointer with it; ownership
is its own register; the save registers are written where no context saves; a trace base that breaks R343 clears
TRCTL.en; a default register of a core stores the bits it defines; an item of a core is written where the core is
stopped; in recovery none of them is served. -/
def Sys2Proof.Claims.RegisterWriteEvents : Prop :=
  (∀ (s : State) (reg : MReg) (v : BitVec 64) (i j : Nat), padReg reg.toNat = some (i, j) → s.pkg.recovery = false →
    (i < 1024 → j < 8 → s.padWaits i = false →
      exec (.padRegisterWrite reg v) s = .next ((s.writePad i j v.toNat).later 1 (.dispatch i))) ∧
    (s.siftRuns i = true ∨ i < 1024 ∧ s.coreHolds i = true → exec (.padRegisterWrite reg v) s = .next s) ∧
    (1024 ≤ i → j < 8 → s.padWaits i = false →
      exec (.padRegisterWrite reg v) s = .next (s.writePad i j v.toNat)) ∧
    (1024 ≤ i → j = 8 → s.padWaits i = false → ∃ t, exec (.padRegisterWrite reg v) s = .next t ∧
      (t.pad i).owner = BitVec.ofNat 5 v.toNat)) ∧
  (∀ (s : State) (i v : Nat), i < 2080 → rising (s.mgmt.map Prod.fst) = true →
    let x := v &&& padMask i
    ((s.writePad i 0 v).pad i).lo = x ∧ ((s.writePad i 0 v).pad i).bump = x ∧
    ((s.writePad i 4 v).pad i).pinLo = x ∧ ((s.writePad i 4 v).pad i).pinBump = x ∧
    ((s.writePad i 2 v).pad i).hwm = x ∧ ((s.writePad i 2 v).pad i).bump = (s.pad i).bump) ∧
  (∀ (s : State) (reg : MReg) (v : BitVec 64), regScope reg.toNat = 0 → s.pkg.recovery = false →
    let c := regCore reg.toNat
    s.coreSaves c = false →
    (regIdx reg.toNat = 0x12 → exec (.saveRegisterWrite reg v) s = .next (s.setCoreReg c 0x12 (v &&& 0xFFFC).toNat)) ∧
    (regIdx reg.toNat = 0x13 → exec (.saveRegisterWrite reg v) s = .next (s.setCoreReg c 0x13 (v.toNat % 2 ^ 32))) ∧
    (∀ k : Bool, regIdx reg.toNat = (if k then 0x11 else 0x10) → exec (.saveRegisterWrite reg v) s = .next
      (s.setCoreptr c 0x10 ((s.coreptr c 0x10).setHalf k v.toNat)))) ∧
  (∀ (s : State) (reg : MReg) (v : BitVec 64) (k : Bool), regScope reg.toNat = 0 →
    regIdx reg.toNat = (if k then 0x29 else 0x28) → s.pkg.recovery = false →
    let c := regCore reg.toNat
    let u := s.setCoreptr c 0x28 ((s.coreptr c 0x28).setHalf k v.toNat)
    exec (.trbaseWrite reg v) s = .next (if u.traceBaseOk (u.coreptr c 0x28) then u
      else u.setCoreReg c 0x2A (setFld (u.coreReg c 0x2A) 0 1 0))) ∧
  (∀ (s : State) (reg : MReg) (v : BitVec 64), reg.toNat % 8 = 0 →
    (s.pkg.recovery = true → exec (.mgmtRegisterWrite reg v) s = .next s) ∧
    (s.pkg.recovery = false → regScope reg.toNat = 0 → s.accesses = [] →
      ∀ e ∈ [(0x40, 0x0000FFFFFFFF0FFF), (0x41, 0xFFFFFFFFFFFFFFFF), (0x42, 0xFF3F), (0x43, 0xFFFE)],
      regIdx reg.toNat = e.1 → exec (.mgmtRegisterWrite reg v) s = .next
        (s.setCoreReg (regCore reg.toNat) e.1 (v.toNat &&& e.2))) ∧
    (s.pkg.recovery = false → regScope reg.toNat = 3 → regIdx reg.toNat = 0x27 → s.accesses = [] →
      ∃ t, exec (.mgmtRegisterWrite reg v) s = .next t ∧
        t.pkg.pwrlim.toNat = min 2000 (max 500 (v.toNat % 4096))) ∧
    (s.pkg.recovery = false → regScope reg.toNat = 0 → ∀ sel : BitVec 64, s.accesses = [.item sel] →
      let c := regCore reg.toNat
      let u := { s with accesses := [] }
      let me := u.asCtx c (Fin.ofNat 8 (sel.toNat + 1))
      ((s.coreAt c).stopped = false → exec (.mgmtRegisterWrite reg v) s = .next u) ∧
      ∀ t, (s.coreAt c).stopped = true → selectorOk sel.toNat = true → targetOk97 none (s.coreAt c) sel.toNat = true →
        M.answers (writeItem sel.toNat v) me () t →
        exec (.mgmtRegisterWrite reg v) s = .next (t.asCtx s.core s.ctx)) ∧
    (s.pkg.recovery = false → s.accesses = [.fuses] →
      exec (.mgmtRegisterWrite reg v) s = .next ({ s with accesses := [] }.blowFuses v.toNat))) ∧
  (∀ (s : State) (v : Nat),
    let p := s.pkg
    let t := s.blowFuses v
    (fld p.bootstat.toNat 0 2 < 2 → t = s) ∧
    (2 ≤ fld p.bootstat.toNat 0 2 → t.pkg.revoked = p.revoked ||| BitVec.ofNat 4 v ∧
      t.pkg.antiroll.toNat = min 64 (p.antiroll.toNat + fld v 8 7) ∧
      fld t.pkg.bootstat.toNat 16 8 = t.pkg.antiroll.toNat ∧ fld t.pkg.bootstat.toNat 24 4 = t.pkg.revoked.toNat))

/-- R361, R362: a load builds its objects one after another, fails with the code of what it meets, and writes each core
once it holds no activation; a load that is done says so in LDCMD. -/
def Sys2Proof.Claims.LoadEvents : Prop :=
  (∀ (s t : State) (l : Loading), s.pkg.loading = some l →
    M.answers imgMapped s () t →
    (l.step = .header → t.imgBad 0 64 = false →
      (∀ code, t.imgCheck = some code → exec .loadImage s = .next (t.failLoad code 0)) ∧
      (t.imgCheck = none → exec .loadImage s = .next ((t.loadTo (t.afterObject 0)).later 1 .load))) ∧
    (∀ k p u, l.step = .object k → t.objBad k = false →
      (M.answers (buildObject k) t (some p) u → exec .loadImage s = .next
        (((u.updPkg fun g => { g with loading := g.loading.map fun l => { l with objs := l.objs ++ [p] } }).loadTo
          (u.afterObject (k + 1))).later 1 .load)) ∧
      (M.answers (buildObject k) t none u → exec .loadImage s = .next (t.failLoad 4 k))) ∧
    (∀ k, l.step = .object k → t.objBad k = true → exec .loadImage s = .next (t.failLoad 6 k)) ∧
    (∀ k u, l.step = .reloc k → t.imgBad (t.imgWord 44 + 32 * k) 32 = false →
      (M.answers (relocate k) t true u → exec .loadImage s = .next
        ((u.loadTo (if k + 1 < u.imgWord 48 then .reloc (k + 1) else .cores)).later 1 .load)) ∧
      (M.answers (relocate k) t false u → exec .loadImage s = .next (t.failLoad 5 k))) ∧
    (l.step = .finished → ∃ u, exec .loadImage s = .next u ∧ u.pkg.ldcmd = 4 ∧ u.pkg.loading = none)) ∧
  (∀ (s : State) (code r : Nat), code < 2 ^ 24 → r < 2 ^ 32 →
    (s.failLoad code r).pkg.loading = none ∧ fld (s.failLoad code r).pkg.ldcmd.toNat 1 2 = 3 ∧
    fld (s.failLoad code r).pkg.ldcmd.toNat 8 24 = code ∧ fld (s.failLoad code r).pkg.ldcmd.toNat 32 32 = r) ∧
  (∀ (s t : State) (core : Fin 1024) (l : Loading) (cs : List Nat), s.pkg.loading = some l → l.step = .cores →
    l.cores = core.val :: cs → (∀ x : Fin 8, (s.ctxAt core.val x).busy = false) → M.answers imgMapped s () t →
    let u := (t.loadOne core.val).2
    ((t.loadOne core.val).1 = none → exec (.loadCore core) s = .next (((u.updPkg fun p =>
      { p with loading := p.loading.map fun l => { l with cores := l.cores.drop 1 } }).later 1
        (.dispatch core.val)).later 1 .load)) ∧
    ∀ code i, (t.loadOne core.val).1 = some (code, i) →
      exec (.loadCore core) s = .next ((u.failLoad code i).later 1 (.dispatch core.val)))

/-- R361, R362: with the image in a die pad, the header's step and a core's step of the load engine are done at once. -/
def Sys2Proof.Claims.LoadCompletes : Prop :=
  ∀ (s : State) (l : Loading), s.pkg.loading = some l → s.pkg.ldimg.tag = true → s.malformed s.pkg.ldimg = false →
    Claims.inDiePad s s.pkg.ldimg 0 0 1 →
    (l.step = .header → s.imgBad 0 64 = false → s.imgCheck = none →
      exec .loadImage s = .next ((s.loadTo (s.afterObject 0)).later 1 .load)) ∧
    ∀ (core : Fin 1024) (cs : List Nat), l.step = .cores → l.cores = core.val :: cs →
      (∀ x : Fin 8, (s.ctxAt core.val x).busy = false) → (s.loadOne core.val).1 = none →
      exec (.loadCore core) s = .next ((((s.loadOne core.val).2.updPkg fun p =>
        { p with loading := p.loading.map fun l => { l with cores := l.cores.drop 1 } }).later 1
          (.dispatch core.val)).later 1 .load)

/-- Management registers and image loading: RegisterWriteEvents, LoadEvents and LoadCompletes. The failure codes of the
load engine's own limits are log 34; what a management access of an item, or of the fuses, reaches is log 37. -/
def Obligations.ManagementAndLoadEvents : Prop :=
  Claims.RegisterWriteEvents ∧ Claims.LoadEvents ∧ Claims.LoadCompletes

namespace Sys2Proof.Claims

/-- What a reset of the package leaves (R363, R405): fuses, flash and the alarm log. -/
def keepsFuses (s t : State) : Prop :=
  t.pkg.keys = s.pkg.keys ∧ t.pkg.revoked = s.pkg.revoked ∧ t.pkg.antiroll = s.pkg.antiroll ∧
  t.pkg.seed = s.pkg.seed ∧ t.pkg.flash = s.pkg.flash ∧ t.pkg.certs = s.pkg.certs

/-- Every core, cluster and die is as after reset, but for which upper dies are fused present (R359), and the identity
keys and register values are gone. -/
def asReset (s t : State) : Prop :=
  t.cores = [] ∧ t.clusters = [] ∧ (t.dies = s.dies.map fun v => { upper := v.upper }) ∧ t.mgmt = [] ∧ t.reqs = [] ∧
  t.nodes = [] ∧ t.sifts = [] ∧ t.posts = [] ∧
  t.pkg.identity = none ∧ t.pkg.bootstat = 0 ∧ t.pkg.launches = [] ∧ t.pkg.windows = [] ∧ t.pkg.qtbase.tag = false

/-- BOOTSTAT's antiroll and revoked fields (R398). -/
def fuseBits (p : Package) : Nat := p.antiroll.toNat * 2 ^ 16 + p.revoked.toNat * 2 ^ 24

end Sys2Proof.Claims

/-- R363, R397, R398, R405, R415: PERST# and a loss of power leave every volatile state at its reset value and keep the
fuses; boot leaves stage 3, with the stacks overwritten, or recovery with the failure's code
and stage; a function-level reset
clears the windows' enables. -/
def Sys2Proof.Claims.ResetEvents : Prop :=
  (∀ s : State, ∃ t, exec .perstReset s = .next t ∧ Claims.asReset s t ∧ Claims.keepsFuses s t ∧
    t.pkg.powered = true ∧ t.pending = [(s.ck + 1, .boot)]) ∧
  (∀ s : State, ∃ t, exec .mainPowerLoss s = .next t ∧ Claims.asReset s t ∧ Claims.keepsFuses s t ∧
    t.pkg.powered = false ∧ t.mem = {} ∧ t.pending = []) ∧
  (∀ s : State, s.pkg.bootstat = 0 → s.pkg.powered = true →
    let f := s.pkg.firstFail s.pkg.flash
    ∃ t, exec .boot s = .next t ∧ Claims.keepsFuses s t ∧
      t.pkg.bootstat = BitVec.ofNat 64 ((match f with
        | none => 3
        | some e => e.2 * 4 + e.1 * 32 + 128) + Claims.fuseBits s.pkg) ∧
      (f.isSome = true ∨ (t.pkg.identity = some s.pkg.seed ∧ ∀ k, stackBase 0 0 ≤ k → k < stackBase 3 3 → t.mem.byte k = 0)) ∧
      ∀ code, f = some (1, code) → t.cores = s.cores ∧ t.mem = s.mem) ∧
  (∀ s : State,
    let u := s.updPkg fun p => { p with
      windows := p.windows.map fun e => (e.1, e.2.1, BitVec.ofNat 64 (setFld e.2.2.toNat 0 1 0))
      hostq := p.hostq.map fun e => (e.1, { e.2 with tail := 0 }) }
    exec .functionLevelReset s = .next (u.pkg.hostq.foldl (fun s e => s.freed (.ring e.1)) u) ∧
    (∀ w, bit (windowOf u.pkg.windows w).2.toNat 0 = false) ∧ ∀ h, (u.hostAt h).tail = 0)

/-- R399-R401, R404, R405: the mailbox's image is checked, and runs, with flash replacing the image there; attestation
answers with the report of the host's nonce; an alarm is logged by its level, and at level 2 resets the package. -/
def Sys2Proof.Claims.SecurityEvents : Prop :=
  (∀ (s : State) (img : List Byte),
    let buf := img.take s.pkg.rcvlen.toNat
    let b := buf.take (16672 + leAt buf 12 4)
    let imgs := b :: s.pkg.flash.drop 1
    ∀ e ∈ [(Instr.recoveryVerifyRun img, 1, s.pkg.flash), (Instr.recoveryVerifyFlashRun img, 2, imgs)],
    s.pkg.recovers e.2.1 = true →
    ∃ t, exec e.1 s = .next t ∧
      (s.pkg.verify 1 b ≠ 0 → t.pkg.rcvstat = BitVec.ofNat 64 (3 + s.pkg.verify 1 b * 4) ∧
        t.pkg.flash = s.pkg.flash ∧ t.pkg.bootstat = s.pkg.bootstat) ∧
      ((s.pkg.firstFail imgs).isSome = true ∨ (t.pkg.rcvstat = 2 ∧ t.pkg.flash = e.2.2 ∧
        t.pkg.bootstat = BitVec.ofNat 64 (3 + Claims.fuseBits s.pkg) ∧ t.pkg.identity = some s.pkg.seed))) ∧
  (∀ s : State, s.pkg.recovery = false → exec .attestationRequest s = .next (s.updPkg fun p => { p with attcmd := 1 })) ∧
  (∀ (s : State) (nonce : List Byte) (key : BitVec 384), s.pkg.attcmd = 1 → s.pkg.identity = some key →
    exec (.attestationReportDone nonce) s = .next (s.updPkg fun p => { p with
      attcmd := 2, outward := p.outward ++ [.hostMem p.attaddr.toNat (s.report key nonce)] })) ∧
  (∀ (s : State) (src : Fin 6),
    let level := fld s.pkg.alarmctl.toNat (2 * src.val) 2
    (level = 0 → exec (.securityAlarm src) s = .next s) ∧
    (level = 1 ∨ level = 3 → ∃ t, exec (.securityAlarm src) s = .next t ∧ bit t.pkg.alarmlog.toNat src.val = true ∧
      fld t.pkg.alarmlog.toNat 32 32 = min (fld s.pkg.alarmlog.toNat 32 32 + 1) (2 ^ 32 - 1) ∧ t.cores = s.cores ∧
      t.mem = s.mem) ∧
    (level = 2 → ∃ t, exec (.securityAlarm src) s = .next t ∧ Claims.asReset s t))

/-- Resets, boot, recovery, attestation and alarms: ResetEvents and SecurityEvents. The order of the image checks
and what a reset keeps are logs 32 and 33. -/
def Obligations.ResetAndSecurityEvents : Prop :=
  Claims.ResetEvents ∧ Claims.SecurityEvents

/-- R407, R408, R429: a save sends the image's whole segments, and its completion the rest with the trailer; an image whose
trailer is not the package's own is refused before anything is written; a command is refused while an activation is
held; a path that leads nowhere, or a target that is given up, fails the command; an abort ends it. -/
def Sys2Proof.Claims.CheckpointEvents : Prop :=
  (∀ s : State, s.pkg.recovery = false → s.pkg.ckpt = none → s.anyBusy = false → s.ckptPath = true →
    let bs := s.image
    let n := bs.length / 2 ^ 20
    let u := (s.updPkg fun p => { p with ckpt := some { cmd := 1, since := p.time } }).ckptSt 1
    ∃ t, exec .checkpointSave s = .next t ∧ fld t.pkg.ckptcmd.toNat 3 2 = 1 ∧ t.mem = s.mem ∧
      t.pkg.ckpt = some { cmd := 1, since := s.pkg.time, tail := bs.drop (n * 2 ^ 20), segments := n, digest := trailerDigest bs } ∧
      t.pkg.outward = (u.sendSegments 0 (segments n 0 bs)).pkg.outward) ∧
  (∀ (s : State) (image : List Byte), s.pkg.recovery = false → s.pkg.ckpt = none →
    (s.anyBusy = true ∨ s.ckptPath = false) →
    (∃ t, exec .checkpointSave s = .next t ∧ t.pkg.ckpt = none ∧ fld t.pkg.ckptcmd.toNat 3 2 = 3) ∧
    ∃ t, exec (.checkpointRestore image) s = .next t ∧ t.pkg.ckpt = none ∧ fld t.pkg.ckptcmd.toNat 3 2 = 3 ∧
      t.mem = s.mem) ∧
  (∀ (s u : State) (image : List Byte) (c : Checkpoint), s.pkg.recovery = false →
    ((s.pkg.ckpt = none ∧ s.anyBusy = false ∧ s.ckptPath = true ∧ c = { cmd := 2, since := s.pkg.time } ∧
        u = (s.updPkg fun p => { p with ckpt := some c }).ckptSt 1) ∨
      (s.pkg.ckpt = some c ∧ c.cmd = 2 ∧ u = s)) →
    let r := recordsOf image.length 0 image
    (s.pkg.trusts image r.2 = true → ∃ t, exec (.checkpointRestore image) s = .next t ∧
      t.mem = (r.1.foldl (fun u e => u.putRecord e.1 e.2) u).mem ∧
      t.pkg.ckptcmd = u.pkg.ckptcmd ∧ t.pkg.ckpt = some c) ∧
    (s.pkg.trusts image r.2 = false → ∃ t, exec (.checkpointRestore image) s = .next t ∧ t.mem = s.mem ∧
      t.cores = s.cores ∧ t.pkg.ckpt = none ∧ fld t.pkg.ckptcmd.toNat 3 2 = 3)) ∧
  (∀ s : State, s.pkg.recovery = false → s.pkg.ckpt.isSome = true → ∃ t, exec .checkpointAbort s = .next t ∧ t.pkg.ckpt = none ∧
    fld t.pkg.ckptcmd.toNat 3 2 = 3 ∧ t.pkg.outward = s.pkg.outward) ∧
  (∀ (s : State) (ok : Bool) (us : BitVec 32) (c : Checkpoint), s.pkg.ckpt = some c →
    ∃ t, exec (.checkpointComplete ok us) s = .next t ∧ t.pkg.ckpt = none ∧
      fld t.pkg.ckptcmd.toNat 3 2 = (if ok then 2 else 3) ∧ fld t.pkg.ckptcmd.toNat 32 32 = us.toNat ∧
      (c.cmd ≠ 1 → t.pkg.outward = s.pkg.outward) ∧
      (c.cmd = 1 →
        let rest := c.tail ++ s.pkg.trailer c.digest
        t.pkg.outward = (s.sendSegments c.segments
          (segments ((rest.length + 2 ^ 20 - 1) / 2 ^ 20) c.segments rest)).pkg.outward)) ∧
  (∀ (s : State) (j n : Nat) (seq : BitVec 32) (b : List Byte) (c : Checkpoint), 223 ≤ j → s.pkg.ckpt = some c →
    ((SMap.get {} s.pkg.peers j).sent.find? fun e => e.1 == seq) = some (seq, n, b) → 8 ≤ n →
    fld (s.resent j seq).pkg.ckptcmd.toNat 3 2 = 3 ∧ (s.resent j seq).pkg.ckpt = none)

/-- R364-R366, R409: a request of a step up to 16 that changes the step starts a handshake, and a larger one sets err;
the handshake puts its step in force and is counted; the power controller moves its step by one, up over the limit
and down after ten milliseconds well below it, counts its steps, and joins a handshake that runs. -/
def Sys2Proof.Claims.ClockAndPowerEvents : Prop :=
  (∀ (s : State) (v : BitVec 64), s.pkg.recovery = false →
    let k := fld v.toNat 0 5
    (16 < k → exec (.clockStepRequest v) s = .next (s.updPkg fun p =>
      { p with clkstat := BitVec.ofNat 64 (setFld p.clkstat.toNat 6 1 1) })) ∧
    (k ≤ 16 → s.pkg.clkBusy = false → max k s.pkg.pwrp.toNat ≠ fld s.pkg.clkstat.toNat 0 5 →
      ∃ t, exec (.clockStepRequest v) s = .next t ∧ t.pkg.clkstep.toNat = k ∧ t.pkg.clkBusy = true ∧
        t.pkg.clkgoal.toNat = max k s.pkg.pwrp.toNat ∧ t.pending = s.pending ++ [(s.ck, .handshake)]) ∧
    (k ≤ 16 → s.pkg.clkBusy = false → max k s.pkg.pwrp.toNat = fld s.pkg.clkstat.toNat 0 5 →
      exec (.clockStepRequest v) s = .next (s.updPkg fun p => { p with clkstep := BitVec.ofNat 5 k })) ∧
    (k ≤ 16 → s.pkg.clkBusy = true → exec (.clockStepRequest v) s = .next (s.updPkg fun p =>
      { p with clkstep := BitVec.ofNat 5 k, clkPending := true }))) ∧
  (∀ s : State, s.pkg.clkBusy = true →
    ∃ t, exec .clockHandshake s = .next t ∧ fld t.pkg.clkstat.toNat 0 5 = s.pkg.clkgoal.toNat ∧
      t.pkg.clkBusy = s.pkg.clkPending ∧ t.pkg.clkPending = false ∧
      fld t.pkg.clkstat.toNat 32 32 = (fld s.pkg.clkstat.toNat 32 32 + 1) % 2 ^ 32) ∧
  (∀ (s : State) (v : BitVec 64), s.pkg.recovery = false → exec (.clkstatWrite v) s = .next (s.updPkg fun p =>
    { p with clkstat := p.clkstat &&& ~~~0x40 })) ∧
  (∀ (s : State) (avg : BitVec 12), s.pkg.saves = false →
    let p := s.pkg
    let lim := p.pwrlim.toNat
    let u := s.updPkg fun p => { p with pwravg := avg, pwrlow := 0 }
    (lim < avg.toNat → exec (.powerControlTick avg) s = .next
      (if p.pwrp.toNat < 16 then u.powerStep (p.pwrp + 1) else u)) ∧
    (avg.toNat + 100 < lim → p.pwrlow = 9 → exec (.powerControlTick avg) s = .next
      (if p.pwrp = 0 then u else u.powerStep (p.pwrp - 1))) ∧
    (avg.toNat + 100 < lim → p.pwrlow < 9 → exec (.powerControlTick avg) s = .next
      (u.updPkg fun q => { q with pwrlow := p.pwrlow + 1 })) ∧
    (lim ≤ avg.toNat + 100 → avg.toNat ≤ lim → exec (.powerControlTick avg) s = .next u)) ∧
  (∀ (s : State) (p : BitVec 5),
    let t := s.powerStep p
    t.pkg.pwrp = p ∧ t.pkg.pwrn = s.pkg.pwrn + 1 ∧
    (s.pkg.clkBusy = true → s.pkg.clkPending = false → t.pkg.clkgoal.toNat = max s.pkg.clkstep.toNat p.toNat ∧
      t.pkg.clkPending = false ∧ t.pending = s.pending) ∧
    (s.pkg.clkBusy = false → max s.pkg.clkstep.toNat p.toNat ≠ fld s.pkg.clkstat.toNat 0 5 → t.pkg.clkBusy = true ∧
      t.pkg.clkgoal.toNat = max s.pkg.clkstep.toNat p.toNat ∧ t.pending = s.pending ++ [(s.ck, .handshake)]) ∧
    (s.pkg.clkBusy = false → max s.pkg.clkstep.toNat p.toNat = fld s.pkg.clkstat.toNat 0 5 → t.pkg.clkBusy = false))

/-- Checkpoints, the clock and power: CheckpointEvents and ClockAndPowerEvents. The image's layout is the model's
(log 16), and so are a path that leads nowhere (log 49) and the change of p that joins a handshake (log 48). -/
def Obligations.CheckpointAndPowerEvents : Prop :=
  Claims.CheckpointEvents ∧ Claims.ClockAndPowerEvents

/-! ## Events: the fabric -/

/-- R417-R419, R423-R425: a port that has trained is up and advertises its buffers; an advertisement sets the credits,
after which the replay buffer's flits go out again, and later ones add what the switch has freed; freed credits are
reported; a retrain is counted; a window's margins are recorded, and a trip slows the link by one step, or takes a port
down at the slowest, and discards a faster step that waits; a written step is in force, a faster one from the end of
the window on. -/
def Sys2Proof.Claims.PortEvents : Prop :=
  (∀ (s : State) (port : Fin 36), bit (s.portAt port.val).reg.toNat 3 = true → s.portUp port.val = false →
    ∃ t, exec (.fabricPortUp port) s = .next t ∧ t.portUp port.val = true ∧
      (t.portAt port.val).credit = Vector.replicate 2 0 ∧
      ∃ more, t.pkg.outward = s.pkg.outward ++ .flit port.val (flitBytes s.pkg.pkgid.toNat s.pkg.pkgid.toNat 0 5
        (creditBody 512 64 true)) :: more) ∧
  (∀ (s : State) (port : Fin 36) (c0 c1 : BitVec 16), s.portUp port.val = true →
    let p := s.portAt port.val
    p.waiting = [] →
    (∃ t, exec (.creditFlit port c0 c1 true) s = .next t ∧ (t.portAt port.val).adv = true ∧
      (t.portAt port.val).credit = #v[c0.toNat, c1.toNat] ∧ (t.portAt port.val).seen = #v[0, 0] ∧
      t.pkg.outward = s.pkg.outward ++ p.replay.map (.flit port.val)) ∧
    (p.adv = true → ∃ t, exec (.creditFlit port c0 c1 false) s = .next t ∧
      (t.portAt port.val).credit = #v[p.credit[0] + (c0 - p.seen[0]).toNat, p.credit[1] + (c1 - p.seen[1]).toNat] ∧
      (t.portAt port.val).seen = #v[c0, c1])) ∧
  (∀ (s : State) (port : Fin 36), s.portUp port.val = true →
    let p := s.portAt port.val
    p.freed ≠ p.told →
    ∃ t, exec (.creditReport port) s = .next t ∧ (t.portAt port.val).told = p.freed ∧
      t.pkg.outward = s.pkg.outward ++ [.flit port.val (flitBytes s.pkg.pkgid.toNat s.pkg.pkgid.toNat p.seq.toNat 5
        (creditBody p.freed[0].toNat p.freed[1].toNat false))]) ∧
  (∀ (s : State) (link : Fin 52), ∃ t, exec (.linkRetrain link) s = .next t ∧
    fld (t.linkReg link.val) 48 16 = min (fld (s.linkReg link.val) 48 16 + 1) 0xFFFF ∧
    fld (t.linkReg link.val) 0 2 = fld (s.linkReg link.val) 0 2 ∧
    fld (t.linkReg link.val) 3 45 = fld (s.linkReg link.val) 3 45 ∧
    (link.val < 36 → bit (t.linkReg link.val) 2 = bit (s.linkReg link.val) 2) ∧
    (36 ≤ link.val → bit (t.linkReg link.val) 2 = true)) ∧
  (∀ (s : State) (link : Fin 52) (mgn : BitVec 32) (corr : Bool),
    let l := link.val
    let thr := fld (s.linkReg l) 40 8
    let ok := corr = false ∧ ∀ i < 4, thr ≤ fld mgn.toNat (8 * i) 8
    (ok → SMap.find s.pkg.stepAsk l = none →
      ∃ t, exec (.eyeMonitorWindow link mgn corr) s = .next t ∧ fld (t.linkReg l) 8 32 = mgn.toNat ∧
      fld (t.linkReg l) 0 8 = fld (s.linkReg l) 0 8 ∧ fld (t.linkReg l) 40 24 = fld (s.linkReg l) 40 24) ∧
    (∀ v, ok → SMap.find s.pkg.stepAsk l = some v →
      ∃ t, exec (.eyeMonitorWindow link mgn corr) s = .next t ∧ fld (t.linkReg l) 8 32 = mgn.toNat ∧
      fld (t.linkReg l) 0 2 = v.toNat) ∧
    (¬ ok → 36 ≤ l ∨ bit (s.linkReg l) 2 = true →
      ∃ t, exec (.eyeMonitorWindow link mgn corr) s = .next t ∧ fld (t.linkReg l) 8 32 = mgn.toNat ∧
        fld (t.linkReg l) 0 2 = min 3 (fld (s.linkReg l) 0 2 + 1) ∧ bit (t.linkReg l) 4 = true ∧
        (rising (s.pkg.stepAsk.map Prod.fst) = true → SMap.find t.pkg.stepAsk l = none) ∧
        (fld (s.linkReg l) 0 2 = 3 → l < 36 → t.portUp l = false) ∧
        (fld (s.linkReg l) 0 2 < 3 ∨ 36 ≤ l →
          (bit s.pkg.clkstat.toNat 5 = false →
            fld (t.linkReg l) 48 16 = min (fld (s.linkReg l) 48 16 + 1) 0xFFFF) ∧
          (bit s.pkg.clkstat.toNat 5 = true → t.pending = s.pending ++ [(s.ck + 1, .retrain l)] ∧
            fld (t.linkReg l) 48 16 = fld (s.linkReg l) 48 16)))) ∧
  (∀ (s : State) (link : Fin 52) (v : BitVec 64), s.pkg.recovery = false →
    let l := link.val
    let w := v.toNat
    let old := s.linkReg l
    let waits := fld w 0 2 < fld old 0 2 ∧ (36 ≤ l ∨ (bit old 2 = true ∧ bit w 3 = true))
    ∃ t, exec (.portStepWrite link v) s = .next t ∧ fld (t.linkReg l) 40 8 = fld w 40 8 ∧
      (l < 36 → bit (t.linkReg l) 3 = bit w 3) ∧ (l < 36 → bit w 3 = false → t.portUp l = false) ∧
      (¬ waits → fld (t.linkReg l) 0 2 = fld w 0 2) ∧
      (waits → fld (t.linkReg l) 0 2 = fld old 0 2 ∧ t.pending = s.pending ++ [(s.ck + 12500, .stepApply l)] ∧
        (rising (s.pkg.stepAsk.map Prod.fst) = true →
          SMap.find t.pkg.stepAsk l = some (BitVec.ofNat 2 (fld w 0 2)))))

/-- R418-R421, R426-R428: a flit whose CRC or number does not hold changes nothing; one that holds brings its messages to
their receivers, or an answer to their sender, and its buffer frees; an acknowledged message leaves the sender, and a
refused or held one is sent again; a packet in order is delivered and acknowledged, one on the wrong port, or that is
not plain IPv6 and UDP, is dropped and counted; a packet takes the next number of its connection, and one that is not
acknowledged is resent, and after eight resends its peer is down. -/
def Sys2Proof.Claims.TransportEvents : Prop :=
  (∀ (s : State) (port : Fin 36) (flit : List Byte),
    let p := s.portAt port.val
    let kind := fldAt flit 48 4
    let body := (flit.drop 8).take 240
    let ok := s.portUp port.val = true ∧ flit.length = 256 ∧
      Config.crc64 (flit.take 248) = BitVec.ofNat 64 (leAt flit 248 8) ∧
      (kind = 5 ∨ BitVec.ofNat 16 (leAt flit 4 2) = p.seqIn)
    let u := s.updPort port.val fun p => { p with seqIn := p.seqIn + 1 }
    (¬ ok → exec (.flitReceive port flit) s = .next s) ∧
    (ok → kind = 1 →
      let src := fldAt flit 16 9
      let bs := SMap.get [] p.rest src ++ body
      let ms := takeMessages (bs.length / 32) bs
      exec (.flitReceive port flit) s = .next ((ms.1.foldl (fun s m => s.landRemote m.1 m.2.1 m.2.2)
        (u.updPort port.val fun p => { p with rest := SMap.set [] p.rest src ms.2 })).freeCredit port.val 0)) ∧
    (ok → kind = 2 → ∀ t, exec (.endToEndAck (leAt body 0 4) .ack) u = .next t →
      exec (.flitReceive port flit) s = .next (t.freeCredit port.val 1)) ∧
    (ok → kind = 3 → ∀ t, exec (.endToEndAck (leAt body 0 4) (if leAt body 4 1 = 0 then .refusal else .held)) u = .next t →
      exec (.flitReceive port flit) s = .next (t.freeCredit port.val 1)) ∧
    (ok → kind = 4 → exec (.flitReceive port flit) s = .next (u.freeCredit port.val 0)) ∧
    (ok → kind = 5 → exec (.flitReceive port flit) s = exec (.creditFlit port (BitVec.ofNat 16 (leAt body 0 2))
      (BitVec.ofNat 16 (leAt body 2 2)) (bit (leAt body 4 1) 0)) s)) ∧
  (∀ (s : State) (id : Nat), (s.pkg.remotes.any fun r => r.id == id && r.sent) = true →
    exec (.endToEndAck id .ack) s = .next
      (s.updPkg fun p => { p with remotes := p.remotes.filter fun r => r.id != id }).sendRemotes ∧
    (∃ t, exec (.endToEndAck id .refusal) s = .next t ∧ t.pending = s.pending ++ [(s.ck + 16, .refusal id)] ∧
      ∀ r ∈ t.pkg.remotes, r.id = id →
        ∃ r' ∈ s.pkg.remotes, r = { r' with refusals := r'.refusals + 1, flying := false }) ∧
    exec (.endToEndAck id .held) s = .next ((s.updPkg fun p => { p with
      remotes := p.remotes.map fun r => if r.id == id then { r with flying := false } else r }).later 256 (.heldAgain id))) ∧
  (∀ (s : State) (port : Fin 16) (pkt : Packet), bit s.pkg.eports[port].toNat 0 = true →
    (pkt.plain = false ∨ pkt.udp.toNat ≠ fld s.pkg.soctl.toNat 0 16 ∨ s.peerAt pkt.srcAddr pkt.srcPort = none →
      exec (.scaleoutPacketReceive port pkt) s = .next (s.dropFrame port.val)) ∧
    (∀ j, pkt.plain = true → pkt.udp.toNat = fld s.pkg.soctl.toNat 0 16 → s.peerAt pkt.srcAddr pkt.srcPort = some j →
      let u := s.acknowledge j pkt.cum pkt.sack
      let q := SMap.get {} u.pkg.peers j
      (pkt.kind = 2 → exec (.scaleoutPacketReceive port pkt) s = .next u) ∧
      (pkt.kind ≠ 2 → pkt.seq = q.expect → exec (.scaleoutPacketReceive port pkt) s = .next
        (((u.deliver j pkt).deliverAhead j q.ahead.length).packetOut j 2 0 0 [])))) ∧
  (∀ (s : State) (port : Fin 16),
    let v := s.pkg.eports[port].toNat
    ((s.dropFrame port.val).pkg.eports[port].toNat = setFld v 32 32 (min (fld v 32 32 + 1) (2 ^ 32 - 1)))) ∧
  (∀ (s : State) (j kind count e : Nat) (es : List Nat) (body : List Byte),
    let q := SMap.get {} s.pkg.peers j
    let t := s.packetSend j kind count body
    s.peerPorts (s.endpoint j).2 = e :: es →
    let port := (e :: es).getD (q.turn % (es.length + 1)) 0
    t.pkg.outward = s.pkg.outward ++ [.packet port (s.frame port (s.endpoint j).1 (fld s.pkg.soctl.toNat 0 16)
      (transportHdr kind count q.nextSeq.toNat q.expect.toNat q.sack ++ body))] ∧
    t.pending = s.pending ++ [(s.ck + fld s.pkg.soctl.toNat 32 16 * 1250, .resend j q.nextSeq.toNat)] ∧
    (rising (s.pkg.peers.map Prod.fst) = true → (SMap.get {} t.pkg.peers j).nextSeq = q.nextSeq + 1)) ∧
  (∀ (s : State) (peer : Fin 223) (seq : BitVec 32) (n : Nat) (b : List Byte),
    let q := SMap.get {} s.pkg.peers peer.val
    (q.sent.find? fun e => e.1 == seq) = some (seq, n, b) →
    (8 ≤ n → exec (.retransmitTimeout peer seq) s = .next (s.peerDown peer.val)) ∧
    (n < 8 → exec (.retransmitTimeout peer seq) s = .next
      (((s.updPeer peer.val fun q => { q with sent := q.sent.map fun a =>
        if a.1 == seq then (a.1, a.2.1 + 1, a.2.2) else a }).packetOut peer.val (fldAt b 0 4) (fldAt b 16 16) seq.toNat
          (b.drop 16)).later (fld s.pkg.soctl.toNat 32 16 * 1250) (.resend peer.val seq.toNat))))

/-- Fabric ports, flits and scale-out packets: PortEvents and TransportEvents. Bodies of end-to-end answers are log
30; the CRC is a free value (log 10); flits of kind 5 take no number, and a faster step waits for at most one window (log
47). -/
def Obligations.FabricEvents : Prop :=
  Claims.PortEvents ∧ Claims.TransportEvents

/-! ## Events: copy units, streams, matrix units, sheets, weight-driven mode -/

namespace Sys2Proof.Claims

/-- A COPY request whose context still waits for it (R261). -/
def asks (s : State) (r : CopyReq) : Bool :=
  let q := s.ctxAt r.core r.ctx
  q.actId == r.actId && match q.run with
    | .copying => true
    | _ => false

/-- The unit's requests are those whose contexts still wait; one that finds no entry free waits from then on (R258). -/
def asked (s : State) (n : Nat) : State :=
  s.updUnit n fun v =>
    { v with reqs := (v.reqs.filter (asks s)).map fun r => { r with waits := r.waits || v.noEntry r } }

/-- The unit's request r is taken, and its context issues again. -/
def took (s : State) (n : Nat) (r : CopyReq) : State :=
  let u := (asked s n).updUnit n fun v => { v with reqs := v.reqs.filter (· != r) }
  (if (u.unitAt n).reqs.isEmpty then u else u.soon 1 (.copyAccept n)).updCtx r.core r.ctx fun q =>
    { q with run := .live }

/-- A partial joins tile n (R277). -/
def merged (n : Nat) (p : Partial) : M Unit := do
  mergePartial n ((upTo 256).map fun w => fld p.acc.toNat (32 * w) 32)
  modTile n fun t => { t with cv := false }

/-- No word of core c has an error, and none is to get one (R233, R235). -/
abbrev sound (s : State) (c : Nat) : Prop := (s.coreAt c).flips = [] ∧ bit (s.coreReg c 0x3A) 36 = false

/-- The near link of a block of the tensor in p(r), whose header ends at offset end_, leads to offset t: the tensor lies
in the core's own pad at k, and its head is as R198 has it. -/
abbrev nearLink (s : State) (r : Pr) (k link end_ t : Nat) : Prop :=
  let n := fldAt (s.mem.read k 80) 0 9
  80 ≤ s.now.p[r].len ∧ clean s k 80 ∧ leAt (s.mem.read k 80) 0 16 = n ∧ n ≤ 256 ∧ bit link 31 = false ∧
    (t : Int) = end_ + 16 * signedOf 31 link ∧ 80 + 16 * n ≤ t ∧ t + 16 ≤ s.now.p[r].len

/-- The block events of weight-driven mode: event i does this work, of a slice or of the block, for opcode bop. -/
def blockEvent (core : Fin 1024) (x : Fin 8) (b : List Byte) (i : Instr) (bop : Nat) (work : M Unit) : Prop :=
  (i = .bnop core x ∧ bop = 0 ∧ work = successor b (blkLink b)) ∨
  (i = .bmv core x ∧ bop = 1 ∧ work = slices b [blkX b, blkY b] (bmvSlice b false) (advanceRC b)) ∨
  (i = .bmvz core x ∧ bop = 2 ∧ work = slices b [blkX b, blkY b] (bmvSlice b true) (advanceRC b)) ∨
  (i = .bbias core x ∧ bop = 3 ∧ work = slices b [blkY b] (rowSlice b (FVal.add false)) (pure ())) ∨
  (i = .bscale core x ∧ bop = 4 ∧ work = slices b [blkY b] (rowSlice b FVal.mul) (pure ())) ∨
  (i = .bact core x ∧ bop = 5 ∧ work = slices b (if blkXY b then [blkX b, blkY b] else [blkY b]) (actSlice b) (do
      if blkXY b then ((upTo 256).filter (blkRows b ≤ ·)).forM fun i => writeCell (blkX b) i 0
      modMe fun q => q.setRC 0)) ∨
  (i = .bsend core x ∧ bop = 6 ∧ work = slices b [blkY b] (sendSlice b) (modMe fun q => q.setRC 0)) ∨
  (i = .blink core x ∧ bop = 7 ∧ work = linkBlock b) ∨
  (i = .bend core x ∧ bop = 8 ∧ work = endMode) ∨
  (i = .bwait core x ∧ bop = 9 ∧ work = slices b [blkX b] (waitSlice b) (pure ()))

end Sys2Proof.Claims

/-- R186, R258, R261-R266, R272, R273: a copy unit takes a request, and its COPY completes with the job's identifier, or
takes the trap of its block; a running job moves a beat; a job whose actions are due sets EVT of its activation, raises a
completion activation where INT asks for it, and reports that it has completed; the oldest write of four bits is
performed, and after the last of a tile the job's tile ends. -/
def Sys2Proof.Claims.CopyUnitEvents : Prop :=
  (∀ (s t : State) (n : Fin 128) (r : CopyReq), s.upsets = [] →
    ((Claims.asked s n.val).unitAt n.val).chosen = some r →
    let u := Claims.took s n.val r
    (∀ id, M.answers (acceptJob n.val r false) (u.asCtx r.core r.ctx) id t → exec (.copyAccept n) s = .next
      ((t.updCtx r.core r.ctx fun q => { q with latch := some [r.guard.toNat, id.toNat] }).asCtx s.core s.ctx)) ∧
    (∀ e, (∀ k b, e ≠ .fill k b) → acceptJob n.val r false (u.asCtx r.core r.ctx) = .error e t →
      exec (.copyAccept n) s = .next
      ((((u.asCtx r.core r.ctx).updCore r.core fun k => k.release r.ctx.val).stopped e t).asCtx s.core s.ctx))) ∧
  (∀ (s t : State) (n : Fin 128) (j : Job), s.upsets = [] → (s.unitAt n.val).running = [j] → s.jobStep n.val .none j = some t →
    let u := t.updUnit n.val fun v => { v with turn := j.num }
    exec (.copyBeat n) s = .next (if (u.unitAt n.val).running.isEmpty then u else u.soon 1 (.copyBeat n.val))) ∧
  (∀ (s : State) (n : Fin 128) (j : Job),
    ((s.unitAt n.val).jobs.find? fun j =>
      j.finished && j.doneAt ≤ s.ck && !s.jobPaged n.val j && !(s.unitAt n.val).ordWaits j) = some j →
    j.setf = false →
    let q := s.ctxAt j.core j.ctx
    let u := if q.actId == j.actId && q.run != .free then s.updCtx j.core j.ctx fun q => q.event else s
    let v := if j.int then u.raiseCompletion n.val j else u
    exec (.copyCompletion n) s = .next (v.endJob n.val j 2) ∧
    (∀ e ∈ ((v.endJob n.val j 2).unitAt n.val).report, e.1 = j.num → e.2 = j.status 2) ∧
    ∀ i ∈ ((v.endJob n.val j 2).unitAt n.val).jobs, i.num ≠ j.num) ∧
  (∀ (s t : State) (b : SubByte) (bs : List SubByte) (j : Job), s.subs = b :: bs →
    ((s.unitAt b.unit).jobs.find? fun i => i.num == b.num) = some j → (∀ d, s.halted d = false) → s.sifts = [] →
    s.jobPaged b.unit j = false → M.answers b.work (s.asCtx j.core j.ctx) () t →
    let u := { t.asCtx s.core s.ctx with subs := t.subs.erase b }
    u.jobPaged b.unit j = false →
    exec .subByteWrite s = .next
      ((if u.tileOver b.unit j then (u.forJob b.unit j (tileEnd b.unit j)).getD u else u).soon 1 (.copyBeat b.unit)))

/-- R261-R263: the request of a COPY whose block lies in its core's own pad, and keeps R263, becomes a job. -/
def Sys2Proof.Claims.CopyAccepted : Prop :=
  ∀ (s : State) (n : Fin 128) (r : CopyReq) (k f : Nat) (h : Header), s.upsets = [] →
    ((Claims.asked s n.val).unitAt n.val).chosen = some r → (s.unitAt n.val).cache = [] →
    let u := s.asCtx r.core r.ctx
    Claims.ownObject u r.p k f h → 128 ≤ u.now.p[r.p].len → Claims.clean u k 128 →
    let blk := natOf (s.mem.read k 128)
    let ctl := fld blk 960 64
    let ptr := fun o => ({ bits := BitVec.ofNat 128 (blk / 2 ^ (8 * o)), tag := s.mem.isTagged (k + o) } : PReg)
    fld ctl 3 2 ≠ 3 → fld ctl 5 4 < 13 → fld ctl 13 3 < 6 → (fld ctl 5 4 < 2 ∨ 2 ^ fld ctl 0 3 = 2 * xfIn (fld ctl 5 4)) →
    bit ctl 11 = false → (ptr 0).tag = true → s.malformed (ptr 0) = false → (ptr 0).r = true →
    (ptr 16).tag = true → s.malformed (ptr 16) = false → (ptr 16).w = true →
    let num := (s.unitAt n.val).num
    ∃ t j, exec (.copyAccept n) s = .next t ∧ (t.ctxAt r.core r.ctx).run = .live ∧
      (t.ctxAt r.core r.ctx).latch = some [r.guard.toNat, (jobId n.val num).toNat] ∧ t.mem = s.mem ∧
      (t.unitAt n.val).jobs = (s.unitAt n.val).jobs ++ [j] ∧ j.num = num ∧ j.core = r.core ∧ j.ctx = r.ctx ∧
      j.guard = r.guard ∧ j.blk = BitVec.ofNat 1024 blk

/-- R258, R264: the one job of a unit, with both its objects in die pads, moves a beat: it goes on in its pattern, and only
bytes of its destination, and its header, change. -/
def Sys2Proof.Claims.BeatMoves : Prop :=
  ∀ (s : State) (n : Fin 128) (j : Job) (f : Nat), s.upsets = [] → s.sifts = [] → s.nodes = [] →
    (s.unitAt n.val).jobs = [j] → j.finished = false → j.stopAt = none → j.rises = false → j.xf < 13 →
    j.elem < j.inner → j.startAt ≤ s.ck → s.jobPaged n.val j = false →
    let part := j.part.toNat
    let k := j.dst.key part
    s.malformed j.src = false → Claims.inDiePad s j.src part 0 1 → Claims.inDiePad s j.dst part 0 1 →
    (∀ o, o < j.dst.len → s.mem.footOf (k + o) = some f) → f + 16 ≤ k →
    ∃ t, exec (.copyBeat n) s = .next t ∧ (∃ i ∈ (t.unitAt n.val).jobs, i.num = j.num ∧ j.next < i.next) ∧
      ∀ a, (a < f ∨ f + 16 ≤ a) → (a < k ∨ k + j.dst.len ≤ a) → t.mem.byte a = s.mem.byte a

/-- R186: a write of four bits into a local store changes those bits of its byte, and no other byte but the header's. -/
def Sys2Proof.Claims.NibbleWritten : Prop :=
  ∀ (s : State) (b : SubByte) (bs : List SubByte) (j : Job) (f : Nat), s.subs = b :: bs →
    ((s.unitAt b.unit).jobs.find? fun i => i.num == b.num) = some j → j.rises = false → (∀ d, s.halted d = false) →
    s.sifts = [] → s.nodes = [] → s.jobPaged b.unit j = false → s.mem.wf →
    let k := b.ptr.key b.part + b.off
    spaceOf k < 1024 → s.mem.footOf k = some f → f + 16 ≤ k → s.mem.isPoisoned f = false →
    (Header.ofNat (natOf (s.mem.read f 16))).state = stLive → Claims.sound s (spaceOf k) →
    ∃ t, exec .subByteWrite s = .next t ∧ t.subs = bs ∧
      t.mem.byte k = BitVec.ofNat 8 (setFld (s.mem.byte k).toNat (if b.high then 4 else 0) 4 b.value.toNat) ∧
      ∀ a, a ≠ k → (a < f ∨ f + 16 ≤ a) → t.mem.byte a = s.mem.byte a

/-- Copy units: CopyUnitEvents, CopyAccepted, BeatMoves and NibbleWritten. -/
def Obligations.CopyEvents : Prop :=
  Claims.CopyUnitEvents ∧ Claims.CopyAccepted ∧ Claims.BeatMoves ∧ Claims.NibbleWritten

/-- R154, R160, R161, R271: a refill fetches the next strip of a binding ahead, up to four; the operand buffer fills row
by row; a command that its unit has room for joins its queue, and one repeat of the first is performed on behalf of the
tile's owner, the last of which ends it. -/
def Sys2Proof.Claims.StreamAndCommandEvents : Prop :=
  (∀ (s t : State) (core : Fin 1024) (x i : Fin 8) (b : Stream), (s.ctxAt core.val x).strm[i] = some b →
    b.ahead.length < 4 → b.popped + b.ahead.length < b.strips →
    M.answers (refill i.val b) (s.asCtx core.val x) () t →
    exec (.streamRefill core x i) s = .next ((t.asCtx s.core s.ctx).soon 1 (.strmRefill core.val x.val i.val)) ∧
    ∃ strip, (t.ctxAt t.core t.ctx).strm[i] = some { b with ahead := b.ahead ++ [strip] }) ∧
  (∀ (s : State) (core : Fin 1024) (x i : Fin 8) (b : Stream), (s.ctxAt core.val x).strm[i] = some b →
    b.ahead.length < 4 → b.popped + b.ahead.length < b.strips → (s.asCtx core.val x).performed →
    Claims.inDiePad s b.ptr (s.ctxAt core.val x).part.toNat 0 1 →
    ∃ t strip, exec (.streamRefill core x i) s = .next t ∧ t.mem = s.mem ∧
      (t.ctxAt core.val x).strm[i] = some { b with ahead := b.ahead ++ [strip] }) ∧
  (∀ (s : State) (core : Fin 1024) (b : OpBuf), (s.coreAt core.val).opbuf = some b →
    ∃ t b', exec (.mldFill core) s = .next t ∧ (t.coreAt core.val).opbuf = some b' ∧
      b' = { b with filled := min b.rows (b.filled + 1), wrong := b'.wrong } ∧
      (s.armed core.val 9 = none → b'.wrong = b.wrong) ∧ t.mem = s.mem) ∧
  (∀ (s : State) (core : Fin 1024) (r : Req), (s.firstSent fun q => q.res == .command core.val) = some r →
    Claims.hasRoom s r → exec (.matrixCommandAccept core) s = .next
      ((s.updCore core.val fun k => { k with port := r.source }).acceptReq r)) ∧
  (∀ (s t : State) (core : Fin 1024) (c : MCmd) (cs : List MCmd) (x : Fin 8), (s.coreAt core.val).cmds = c :: cs →
    c.owner (s.coreAt core.val) = some x → c.lost = false → M.answers (cmdWork c) (s.asCtx core.val x) () t →
    let u := t.asCtx s.core s.ctx
    (c.field 0 4 = 3 ∨ c.repeats ≤ c.finished + 1 →
      exec (.matrixCommandRepeat core) s = .next (u.endCmd core.val c 1)) ∧
    (c.field 0 4 ≠ 3 → c.finished + 1 < c.repeats → exec (.matrixCommandRepeat core) s = .next
      ((u.updCore core.val fun k => { k with cmds := { c with finished := c.finished + 1 } :: cs }).later 1
        (.mcmdRepeat core.val)))) ∧
  (∀ (s : State) (core : Fin 1024) (c : MCmd) (cs : List MCmd), (s.coreAt core.val).cmds = c :: cs →
    (c.owner (s.coreAt core.val) = none ∨ c.lost = true) →
    exec (.matrixCommandRepeat core) s = .next (s.endCmd core.val c 3)) ∧
  (∀ (s : State) (core : Fin 1024) (c : MCmd) (cs : List MCmd) (x : Fin 8), (s.coreAt core.val).cmds = c :: cs →
    c.owner (s.coreAt core.val) = some x → c.lost = false → c.field 0 4 = 3 →
    ∃ t : State, exec (.matrixCommandRepeat core) s = .next (t.endCmd core.val c 1) ∧ t.mem = s.mem ∧
      let v := (t.coreAt core.val).tile (c.field 4 2)
      v.acc = 0 ∧ v.cr = 0 ∧ v.cc = 0 ∧ v.cv = true)

/-- R276, R277: members of a sheet that all wait in the same SHMMA perform the collective and go on; the partials of a
row's first member join its tile in the order of their slices, and after the last its SHMMA completes. -/
def Sys2Proof.Claims.SheetEvents : Prop :=
  (∀ (s t : State) (core : Fin 1024) (x : Fin 8) (d : DWord) (ms : List Member),
    (s.coreAt core.val).member = some x → (s.ctxAt core.val x).sheet = some d →
    s.sheetMembers d (s.ctxAt core.val x).sheetN none core.val = some ms → s.collective d ms ms = .ok t →
    exec (.sheetPairing core) s = .next (ms.foldl (fun t e => t.memberDone d e) t)) ∧
  (∀ (s t : State) (core : Fin 1024) (x : Fin 8) (d : DWord) (p : Partial), (s.coreAt core.val).member = some x →
    firstPartial core.val (s.cluAt (coreClu core.val)).partials = some p → (s.ctxAt core.val x).sheet = some d →
    M.answers (Claims.merged (shC d) p) (s.asCtx core.val x) () t →
    let u := (t.asCtx s.core s.ctx).updClu (coreClu core.val) fun k =>
      { k with partials := k.partials.filter (· != p) }
    exec (.sheetPartialMerge core) s = .next
      (if (firstPartial core.val (u.cluAt (coreClu core.val)).partials).isSome then u.later 2 (.sheetMerge core.val)
       else u.updCtx core.val x fun q => { q with run := .live, latch := some [] })) ∧
  (∀ (s : State) (core : Fin 1024) (x : Fin 8) (d : DWord) (m : Member) (n : Nat),
    (s.coreAt core.val).member = some x → (s.ctxAt core.val x).sheet = some d → m.core = core.val →
    s.sheetMembers d (s.ctxAt core.val x).sheetN none core.val = some [m] →
    shW d = 1 → shH d = 1 → shKs d = false → shInside d core.val = true →
    let u := s.asCtx core.val m.ctx
    Claims.sound s core.val → u.performed →
    (∀ p ∈ [u.now.p[m.pa], u.now.p[m.pb]], s.malformed p = false ∧ Claims.inDiePad s p u.now.part.toNat 0 1 ∧
      ∀ g ∈ granules (p.key u.now.part.toNat) p.len, s.mem.isPoisoned g = false) →
    n = shC d →
    ∃ t, s.collective d [m] [m] = .ok t ∧ exec (.sheetPairing core) s = .next (t.memberDone d m) ∧ t.mem = s.mem ∧
      ((t.memberDone d m).ctxAt core.val m.ctx).run = .live ∧ ((t.coreAt core.val).tile n).cv = false) ∧
  (∀ (s : State) (core : Fin 1024) (x : Fin 8) (d : DWord) (p : Partial), (s.coreAt core.val).member = some x →
    firstPartial core.val (s.cluAt (coreClu core.val)).partials = some p → (s.ctxAt core.val x).sheet = some d →
    Claims.sound s core.val →
    let rest := (s.cluAt (coreClu core.val)).partials.filter (· != p)
    ∃ t, exec (.sheetPartialMerge core) s = .next t ∧ t.mem = s.mem ∧
      (t.cluAt (coreClu core.val)).partials = rest ∧
      (firstPartial core.val rest = none → (t.ctxAt core.val x).run = .live ∧ (t.ctxAt core.val x).latch = some [])) ∧
  (∀ (c : Nat) (ps : List Partial) (p : Partial), firstPartial c ps = some p →
    p ∈ ps ∧ p.core = c ∧ ∀ e ∈ ps, e.core = c → p.slice ≤ e.slice)

/-- Stream refills, operand fills, remote commands and sheets: StreamAndCommandEvents and SheetEvents. -/
def Obligations.StreamAndSheetEvents : Prop :=
  Claims.StreamAndCommandEvents ∧ Claims.SheetEvents

/-- R211-R219, R222, R223: a block that has been read into the buffer does its work, a slice at a time, or faults; the
fetch that finds the buffer empty reads the next block into it; the activation function on FP32 codes; BEND ends the
mode after WDRUN; a strip that has waited longer than its budget takes FE_BUDGET. -/
def Sys2Proof.Claims.BlockEvents : Prop :=
  (∀ (s t : State) (core : Fin 1024) (x : Fin 8) (b : List Byte) (since : Option Nat),
    (s.ctxAt core.val x).run = .weights (some b) since → ∀ i bop work, Claims.blockEvent core x b i bop work →
    blkBop b = bop →
    (M.answers work (s.asCtx core.val x) () t → exec i s = .next
      (if bop = 9 then ((t.updCtx core.val x fun q => { q with blocked := none }).settled).stripWaits core.val x
       else (t.updCtx core.val x fun q => { q with blocked := none }).settled)) ∧
    (∀ stop, bop ≠ 9 → (∀ k a, stop ≠ .fill k a) → work (s.asCtx core.val x) = .error stop t →
      exec i s = .next (s.wdStopped core.val x stop t))) ∧
  (∀ (s t : State) (core : Fin 1024) (x : Fin 8) (since : Option Nat),
    (s.ctxAt core.val x).run = .weights none since → M.answers fetchBlock (s.asCtx core.val x) () t →
    exec (.weightBlockFetch core x) s = .next (t.updCtx core.val x fun q => { q with blocked := none }).settled) ∧
  (∀ f c : Nat, c < 2 ^ 32 → f < 4 →
    let nan := fld c 23 8 = 255 ∧ fld c 0 23 ≠ 0
    (nan → activation f c = canonNaN 9) ∧
    (¬ nan → f = 0 → activation f c = c) ∧
    (¬ nan → f = 1 → activation f c = if bit c 31 then 0 else c) ∧
    (¬ nan → f = 2 → activation f c = if bit c 31 then 0 else min c 0x40C00000) ∧
    (¬ nan → f = 3 → fld (activation f c) 31 1 = fld c 31 1 ∧
      fld (activation f c) 0 31 = min (fld c 0 31) 0x3F800000)) ∧
  (∀ (s : State),
    let p := s.ctxAt s.core s.ctx
    let t := M.after endMode s
    let q := t.ctxAt s.core s.ctx
    bit q.wb.toNat 63 = false ∧ q.wdEnd = 1 ∧ q.run = .live ∧ q.pc = BitVec.ofNat 64 (2 * p.wdOrg + 4) ∧
    q.wdNblk.toNat = min (p.wdNblk.toNat + 1) (2 ^ 32 - 1) ∧ (t.coreAt s.core).wbuf ≠ some s.ctx ∧ t.mem = s.mem) ∧
  (∀ (s : State) (core : Fin 1024) (x : Fin 8) (b : List Byte) (since : Nat),
    let q := s.ctxAt core.val x
    q.run = .weights (some b) (some since) → blkBop b = 9 → q.stripBudget < s.ck - since →
    q.ts = false → x ≠ 7 →
    ∃ t, exec (.bwaitBudgetExpiry core x) s = .next t ∧
      let p := t.ctxAt core.val x
      p.run = .live ∧ p.trapcause = 0x06 ∧ p.ts = true ∧ p.wdEnd = 2 ∧ p.pc = BitVec.ofNat 64 q.trapvec.toNat)

/-- R209, R211-R219: with its tensor in the core's own pad and nothing in error, a block is fetched, each of its slices is
done with tiles that are free, a near link is taken, and BEND ends the mode. -/
def Sys2Proof.Claims.BlocksComplete : Prop :=
  (∀ (s : State) (core : Fin 1024) (x : Fin 8) (b : List Byte) (since : Option Nat) (i : Instr) (bop : Nat)
    (work : M Unit), (s.ctxAt core.val x).run = .weights (some b) since → Claims.blockEvent core x b i bop work →
    blkBop b = bop → bop ∈ [1, 2, 3, 4, 5, 6, 9] → s.nodes = [] → Claims.sound s core.val →
    let q := s.ctxAt core.val x
    q.wdSlice < blkSlices b → Claims.tilesFree (s.asCtx core.val x) [blkX b, blkY b] →
    (bop = 6 → blkOut b % 64 < 8) → (bop = 9 → blkIn b % 64 < 8) →
    ∃ t, exec i s = .next t ∧ t.mem = s.mem ∧ (t.ctxAt core.val x).run = .weights (some b) none ∧
      (t.ctxAt core.val x).wdSlice = (q.wdSlice + 1) % 32) ∧
  (∀ (s : State) (core : Fin 1024) (x : Fin 8) (b : List Byte) (since : Option Nat) (k f next : Nat) (h : Header),
    let q := s.ctxAt core.val x
    let lc := if bit q.wp.toNat 17 then fld q.wp.toNat 8 9 else blkRows b
    q.run = .weights (some b) since → s.nodes = [] → Claims.sound s core.val →
    Claims.ownObject (s.asCtx core.val x) q.wdPreg k f h →
    ∀ e ∈ [(Instr.bnop core x, 0, blkLink b), (.blink core x, 7, if lc = 0 then 0 else blkLink b)], blkBop b = e.2.1 →
    Claims.nearLink (s.asCtx core.val x) q.wdPreg k e.2.2 (q.wdBlk + 16 + 16 * blkPlen b) next →
    ∃ t, exec e.1 s = .next t ∧ t.mem = s.mem ∧
      let p := t.ctxAt core.val x
      p.run = .weights none none ∧ p.wdBlk = next ∧ p.wdSlice = 0 ∧
        p.wdNblk.toNat = min (q.wdNblk.toNat + 1) (2 ^ 32 - 1)) ∧
  (∀ (s : State) (core : Fin 1024) (x : Fin 8) (b : List Byte) (since : Option Nat),
    let q := s.ctxAt core.val x
    q.run = .weights (some b) since → blkBop b = 8 → s.nodes = [] →
    ∃ t, exec (.bend core x) s = .next t ∧ t.mem = s.mem ∧
      let p := t.ctxAt core.val x
      p.run = .live ∧ p.pc = BitVec.ofNat 64 (2 * q.wdOrg + 4) ∧ p.wdEnd = 1 ∧ p.wdRV = false) ∧
  (∀ (s : State) (core : Fin 1024) (x : Fin 8) (since : Option Nat) (k f : Nat) (h : Header),
    let u := s.asCtx core.val x
    let q := s.ctxAt core.val x
    let p := q.p[q.wdPreg]
    let at_ := k + q.wdBlk
    let plen := blkPlen (s.mem.read at_ 16)
    let b := s.mem.read at_ (16 + 16 * plen)
    q.run = .weights none since → s.nodes = [] → Claims.sound s core.val → Claims.bufferFree u → p.runs s = true →
    Claims.ownObject u q.wdPreg k f h → q.wdBlk + 16 + 16 * plen ≤ p.len → Claims.clean u at_ (16 + 16 * plen) →
    (crc32c (b.take 12 ++ blkPayload b)).toNat = leAt b 12 4 → blkBop b ≤ 9 → blkOk b = true →
    (blkBop b = 1 ∨ blkBop b = 2 → q.wdSlice = 0 → q.wdRC + blkRows b ≤ 256) →
    (if blkBop b = 9 then blkIn b else blkOut b) % 64 < 36 →
    ∃ t, exec (.weightBlockFetch core x) s = .next t ∧ t.mem = s.mem ∧
      (t.ctxAt core.val x).run = .weights (some b) none ∧ (t.ctxAt core.val x).wdBop.toNat = blkBop b ∧
      (t.coreAt core.val).wbuf = some x)

/-- Weight-driven mode: BlockEvents and BlocksComplete. That BEND's continuation is no sequential advance is log 39. -/
def Obligations.WeightEvents : Prop :=
  Claims.BlockEvents ∧ Claims.BlocksComplete

/-! ## Decoding, the step, reset and the whole machine -/

/-- R21-R45: the decoder reads every well-formed instruction back from its encoding, whatever parcels follow. -/
def Obligations.DecodeOfEncode : Prop :=
  ∀ (i : Instr) (ps rest : List Parcel), i.wf = true → encode i = some ps → decode (ps ++ rest) = .ok i

namespace Sys2Proof.Claims

/-- Bytes of the listings and encoding examples of 02 and 10, with the instruction that the spec says they are. -/
def words : List (List Nat × Instr) :=
  [([0x04, 0xE6, 0x20, 0x07], .pld 4 false 4 14 0),            -- PLD p4, [p14]
   ([0x01, 0xC8, 0x00, 0x01], .movi 1 1024),                   -- MOVI w1, 1024
   ([0x02, 0xE7, 0xC1, 0x00], .new 2 0 1 3),                   -- NEW p2, w1, 0, 3
   ([0x82, 0xF1, 0x00, 0x70], .viota ⟨2, none⟩ 2),             -- VIOTA.s32 v2
   ([0xC1, 0x11], .moviCompact 7 1),                           -- MOVI w7, 1
   ([0x82, 0xF0, 0xC2, 0x00], .vadd ⟨2, none⟩ 2 2 3),          -- VADD.s32 v2, v2, v3
   ([0x16, 0xB8, 0x02, 0xF2, 0x82, 0x00], .vcvt ⟨0, some ⟨0, 0, 11⟩⟩ 2 2 2), -- VCVT.bf16 v2, v2, s32
   ([0x10, 0xD6, 0x0C, 0x00], .loopi 16 12),                   -- LOOPI 16, 12 parcels
   ([0x41, 0xEB, 0x20, 0x31], .vst 1 true 0 4 2 6),            -- VST [p2 + w6], v1
   ([0x06, 0xC3, 0x06, 0x10], .addi false 6 6 64),             -- ADDI w6, w6, 64
   ([0x41, 0xD9, 0x25, 0x00], .csrw 1 0x25),                   -- CSRW ABFTTOL, w1
   ([0x89, 0xF5, 0x18, 0x2C], .mcks 1 2 0 3 0 11),             -- MCKS.bf16 c1, p2, tm0, p3, tm0
   ([0x85, 0x60], .bzCompact 2 5),                             -- BZ w2, 5 parcels
   ([0xE9, 0x80], .stS64Compact 3 5 1),                        -- ST.s64 [p5 + 8], w3
   ([0x03, 0xE1, 0x32, 0x22], .ldw 3 false false 2 6 4 4),     -- LDW.s32 w3, [p4 + 16]
   ([0x46, 0xE4, 0xF2, 0x1A], .stf 6 true false 2 14 5 3),     -- STF.s32 [p5 + w3], w6
   ([0x04, 0xFA, 0xC0, 0x40], .rise 3 4),                      -- RISE p3, w4
   ([0x00, 0x98], .doneCompact)]                               -- DONE

end Sys2Proof.Claims

/-- R25-R44: words that the spec writes out are the instructions that it says they are. -/
def Obligations.DecodeWords : Prop :=
  ∀ e ∈ Claims.words, decodeBytes (e.1.map (BitVec.ofNat 8)) = .ok e.2

namespace Sys2Proof.Claims

/-- The state in which core c, at its turn, looks for the context that issues: the ck has been counted (R341). -/
def turnOf (s : State) (c : Nat) (ts : List Turn) : State :=
  ({ s.tick with sched := ts, coreTurn := c }).updCore c fun k => { k with runck := k.runck + 1 }

/-- It is core c's turn, and its context x is the first that may issue: it is live, no context of the core is in
weight-driven mode, the handler queue is empty, no sift is due or under way, and neither a pre-emption nor a timer is to
be taken. -/
abbrev comesToIssue (s : State) (c : Nat) (ts : List Turn) (x : Fin 8) (pre post : List (Fin 8)) : Prop :=
  let u := turnOf s c ts
  s.sched = .core c :: ts ∧ s.sifts = [] ∧ (s.coreAt c).handler = [] ∧
    (∀ e ∈ s.pending, e.2.isSift = true → s.tick.isDue e = false) ∧ s.tick.coreOn c = true ∧
    circular (s.coreAt c).last = pre ++ x :: post ∧ (∀ y ∈ pre, (u.ctxAt c y).runnable y u.ck = false) ∧
    (∀ y img since, (u.ctxAt c y).run ≠ .weights img since) ∧ (u.ctxAt c x).run = .live ∧
    (u.ctxAt c x).awake u.ck = true ∧ (u.ctxAt c x).takesPreempt x = false ∧ u.takesTimer c x = false

/-- The state in which context x of core c issues i. CTXRD reads what the contexts of its core wait for, as it stands
(R96). -/
def issuer (s : State) (c : Nat) (ts : List Turn) (x : Fin 8) (i : Instr) : State :=
  let u := turnOf s c ts
  let v := match i with
    | .ctxrd _ _ => (u.readied c).updCtx c x fun q => { q with blocked := none }
    | _ => u
  { v with core := c, ctx := x }

end Sys2Proof.Claims

/-- R21, R23, R100, R229: in a core's turn its first ready context issues the instruction that stands at its PC, and
the step is what that instruction does, after which contexts that yielded may go on (R84); a unit that turns out not to be
ready leaves the turn to the contexts after it; a sift that is due comes first (R171). Whose turn it is otherwise, is the
model's choice (log 1). -/
def Obligations.StepRunsDecoded : Prop :=
  (∀ (s t : State) (c : Nat) (ts : List Turn) (x : Fin 8) (pre post : List (Fin 8)) (i : Instr),
    Claims.comesToIssue s c ts x pre post →
    let f := Claims.issuer s c ts x i
    let pc := f.now.pc.toNat
    let ps := f.parcels c pc
    pc % 2 = 0 → pc < 65536 → decode ps = .ok i →
    (∀ g ∈ granules (routineBase c + pc) (fetchSize ps), f.mem.isPoisoned g = false) →
    exec i (f.fetched i.size) = .next t →
    ((t.ctxAt c x).blocked = none → step s = .next (t.afterIssue c x)) ∧
    ((t.ctxAt c x).blocked ≠ none → (t.coreAt c).handler = [] → step s = t.tryCtxs c post)) ∧
  (∀ (s : State) (i : Instr) (is : List Instr) (ts : List Turn), s.sched = .input :: ts → s.inputs = i :: is →
    (∀ e ∈ s.pending, e.2.isSift = true → s.tick.isDue e = false) →
    step s = exec i { s.tick with sched := ts, inputs := is }) ∧
  (∀ (s : State) (t : Turn), s.sched = [] → (∀ e ∈ s.pending, e.2.isSift = true → s.tick.isDue e = false) →
    s.tick.defaultTurn = some t → step s = step { s with sched := [t] }) ∧
  (∀ (s : State) (k : Nat), (s.pending.findIdx? fun e => e.2.isSift && s.tick.isDue e) = some k →
    step s = s.tick.runDue k)

/-- R23, R34, R45, R65, R93, R229, R233: a unit whose encoding or place the spec forbids raises ILLEGAL, with no other
effect; in a handler whose budget is spent it kills the handler instead, and so does any other unit, but one that meets
ECC or SIGNATURE, which come before that. In a core's turn, parcels that the decoder refuses and a PC beyond the store
raise ILLEGAL, an odd PC raises ALIGN, and a line in error ends the activation by ECC. That an odd PC raises ALIGN however it
came about is log 39. -/
def Obligations.IllegalUnits : Prop :=
  (∀ (i : Instr) (s : State), encode i ≠ none → s.attempts → s.now.accepts i = false →
    exec i s = .next (s.takeTrap cILLEGAL 0 none none)) ∧
  (∀ (i : Instr) (s : State), encode i ≠ none → s.ctx = 7 → s.now.hbudget = 0 → s.acqWaits s.core s.ctx = false →
    s.ownsSift s.core s.ctx = false →
    let killed := s.kill s.core 7 3 cHBUDGET s.now.pc.toNat
    (s.now.accepts i = false → exec i s = .next killed) ∧
    (exec i s = .next killed ∨ ∃ cause ∈ [cECC, cSIGNATURE], ∃ val t,
      exec i s = .next ((s.keepLogs s.core t).rollback s.core 7 cause s.now.pc.toNat val))) ∧
  (∀ (s : State) (c : Nat) (ts : List Turn) (x : Fin 8) (pre post : List (Fin 8)),
    Claims.comesToIssue s c ts x pre post →
    let f := Claims.issuer s c ts x .doneCompact
    let pc := f.now.pc.toNat
    let ps := f.parcels c pc
    let lost := ∃ g ∈ granules (routineBase c + pc) (fetchSize ps), f.mem.isPoisoned g = true
    f.nowCore.flips = [] → f.vectors →
    (65536 ≤ pc → step s = .next ((f.takeTrap cILLEGAL 0 none none).afterIssue c x)) ∧
    (pc < 65536 → pc % 2 = 1 → f.now.windowOk = true →
      step s = .next ((f.takeTrap cALIGN pc none none).afterIssue c x)) ∧
    (pc < 65536 → pc % 2 = 0 → ¬ lost → (∀ i, decode ps ≠ .ok i) →
      step s = .next ((f.takeTrap cILLEGAL 0 none none).afterIssue c x)) ∧
    (pc < 65536 → pc % 2 = 0 → lost →
      let t := (f.keepLogs c f).rollback c x cECC pc 1
      (t.ctxAt c x).blocked = none → step s = .next (t.afterIssue c x)))

/-- R9, R30, R49, R100, R113, R265, R296, R364, R404, R405, R409, R416, R426: what reset leaves where the spec gives a
value. The model's own choices are that memory, the stores among it, reads zero, empty, untagged and clean (log 8), and that
contexts are free, and run queues, held messages, launches and requests empty (log 5). -/
def Obligations.ResetValues : Prop :=
  let s := State.reset
  (∀ c, let k := s.coreAt c
    k.last = 7 ∧ (∀ i : Fin 8, k.panes[i] = 15) ∧ (∀ i : Fin 2, k.hatch[i] = 64) ∧ (∀ n, k.cls n = 0) ∧
    k.runq = [] ∧ k.heldMsgs = [] ∧ k.stopped = false ∧ k.stopping = false ∧
    ∀ x : Fin 8, let q := k.ctxs[x]
      q.run = .free ∧ q.fexc = 0 ∧ q.rangeflag = 0 ∧ q.wb = 0 ∧ q.wp = 0) ∧
  (∀ i, s.pad i = {}) ∧ (∀ d, (s.dieAt d).st = 0 ∧ (s.dieAt d).cmd = 0 ∧ (s.dieAt d).dbg = 0) ∧
  s.pkg.clkstat = 0 ∧ s.pkg.clkstep = 0 ∧ s.pkg.bootstat = 0 ∧ s.pkg.pwrlim = 2000 ∧ s.pkg.pkgid = 0 ∧
  s.pkg.launches = [] ∧ s.reqs = [] ∧
  (∀ src : Fin 6, fld s.pkg.alarmctl.toNat (2 * src.val) 2 = if src.val < 3 ∨ src.val = 5 then 1 else 2) ∧
  fld s.pkg.soctl.toNat 0 16 = 0x4C42 ∧ fld s.pkg.soctl.toNat 16 16 = 9000 ∧ fld s.pkg.soctl.toNat 32 16 = 50 ∧
  ∀ a, s.mem.byte a = 0 ∧ s.mem.isFull a = false ∧ s.mem.isTagged a = false ∧ s.mem.isPoisoned a = false

/-- Every instruction and event, and so every step, answers with a next state: nothing ends in a fault or a refusal. -/
def Obligations.NeverStops : Prop :=
  (∀ (i : Instr) (s : State), ∃ t, exec i s = .next t) ∧ ∀ s : State, ∃ t, step s = .next t

/-- Memory keeps its canonical form through every step: keys strictly rising, and no byte listed that reads as an
unlisted one. The canonical form is the model's own (log 8). -/
def Obligations.MemoryStaysCanonical : Prop :=
  ∀ s t : State, s.mem.wf → step s = .next t → t.mem.wf

/-- Reset's memory is in canonical form. The canonical form is the model's own (log 8). -/
def Obligations.ResetMemoryCanonical : Prop := State.reset.mem.wf

namespace Sys2Proof.Claims

/-- Memory reads as before, byte for byte and mark for mark. -/
def sameMemory (s t : State) : Prop :=
  ∀ a, t.mem.byte a = s.mem.byte a ∧ t.mem.isFull a = s.mem.isFull a ∧ t.mem.isTagged a = s.mem.isTagged a ∧
    t.mem.isPoisoned a = s.mem.isPoisoned a

/-- The window's and the global registers, but for code d, are as before. -/
def sameScalars (s t : State) (d : Nat) : Prop :=
  (∀ j : Fin 24, j.val ≠ d → t.now.w[j] = s.now.w[j]) ∧ ∀ j : Fin 8, 24 + j.val ≠ d → t.now.g[j] = s.now.g[j]

/-- The vector registers, but for code d and those bound to a stream, are as before. -/
def sameVectors (s t : State) (d : Nat) : Prop :=
  ∀ j : Fin 32, j.val ≠ d → s.now.stream j.val = none → t.now.v[j] = s.now.v[j]

/-- What no register instruction writes: pointers, masks, maps, tiles, the outbox, the window's frames, JOBDONE,
RANGECTL, WAITBUDGET, TRAPVEC, WB, WP and SPILLCAP; the trap registers and MODE unless the context is in a trap
routine afterwards; every cluster, die, request and node, and the package; and the management registers, unless the core's
registers and queues hold an error, or are to get one (R233, R235). -/
def sameRest (s t : State) : Prop :=
  let p := s.now
  let q := t.now
  t.core = s.core ∧ t.ctx = s.ctx ∧ q.p = p.p ∧ q.tm = p.tm ∧ q.outbox = p.outbox ∧ q.below = p.below ∧
  q.depth = p.depth ∧ q.evt = p.evt ∧ q.rangeflag = p.rangeflag ∧ q.rangectl = p.rangectl ∧
  q.waitbudget = p.waitbudget ∧ q.abfttol = p.abfttol ∧ q.jobdone = p.jobdone ∧ q.lstart = p.lstart ∧
  q.lend = p.lend ∧ q.wb = p.wb ∧ q.wp = p.wp ∧ q.spilltop = p.spilltop ∧ q.spillcap = p.spillcap ∧
  q.trapvec = p.trapvec ∧ q.oc = p.oc ∧ q.hnd = p.hnd ∧
  (q.ts = p.ts → q.mode = p.mode ∧ q.trapcause = p.trapcause ∧ q.trappc = p.trappc ∧ q.trapinst = p.trapinst ∧
    q.trapval = p.trapval ∧ q.trapptr = p.trapptr) ∧
  t.nowCore.tiles = s.nowCore.tiles ∧ t.nowCore.classes = s.nowCore.classes ∧ t.nowCore.panes = s.nowCore.panes ∧
  t.clusters = s.clusters ∧ t.dies = s.dies ∧ t.pkg = s.pkg ∧ t.reqs = s.reqs ∧ t.nodes = s.nodes ∧
  (s.codesClean s.core = true → t.mgmt = s.mgmt)

/-- The scalar register instructions that write d, their immediates and fields free. -/
def scalarRegister (i : Instr) (d : Nat) : Prop :=
  ∃ (wd : Bool) (e a b : Sc) (imm : BitVec 10) (wide : BitVec 18) (half : BitVec 16) (short : BitVec 6) (k l : Fin 64)
    (h : Fin 4) (c : Fin 16) (r q : R5),
    (d = e.val ∧ (i ∈ (twoSource wd e a b).map Prod.fst ∨ i ∈ (oneSource wd e a).map Prod.fst ∨
      i ∈ (immediate wd e a imm k).map Prod.fst ∨
      i ∈ [Instr.movi e wide, .movhi e half h, .sel wd e c a b, .bfx e a k l, .bfi e a k l])) ∨
    (d = r.val ∧ (i ∈ (compactImmediate r short k).map Prod.fst ∨ i ∈ (compactRegister r q).map Prod.fst ∨
      i ∈ [Instr.moviCompact r short, .addMoveCompact r q]))

/-- The vector register instructions that write d. -/
def vectorRegister (i : Instr) (d : Nat) : Prop :=
  ∃ (vx : Vx) (e a b : Vc) (sc : Sc) (lane : Fin 64) (r q : Fin 32),
    (d = e.val ∧ (i ∈ (vectorTwo vx e a b).map Prod.fst ∨ i ∈ (vectorThree vx e a b).map Prod.fst ∨
      i ∈ (vectorOne vx e a).map Prod.fst ∨
      i ∈ [Instr.viota vx e, .vbcast vx e sc, .vins vx e sc lane, .vsel vx e a b, .vdot vx e a b, .vred vx e a lane,
        .vscan vx e a lane, .vcvt vx e a lane, .vqnt vx e a])) ∨
    (d = r.val ∧ i ∈ (vectorCompact r q).map Prod.fst)

/-- The instructions of two masks, and those that write mask md. -/
def maskRegister (i : Instr) (md : Mk) : Prop :=
  ∃ (ma mb : Mk) (a : Sc) (imm : BitVec 16), i ∈ (maskTwo md ma mb).map Prod.fst ∨
    i ∈ [Instr.mnot md ma, .mfrom md a, .mset md imm]

/-- The instructions that write scalar d from a vector or a mask. -/
def scalarFromLanes (i : Instr) (d : Nat) : Prop :=
  ∃ (vx : Vx) (e : Sc) (a : Vc) (lane : Fin 64) (ma : Mk),
    d = e.val ∧ (i = .vext vx e a lane ∨ i ∈ (maskScalars e ma).map Prod.fst)

/-- The conditional branches. -/
def branches (i : Instr) : Prop :=
  ∃ (a b : Sc) (c : R5) (off : BitVec 10) (imm : BitVec 6),
    i ∈ (branchTwo a b off).map Prod.fst ∨ i ∈ (branchOne a c off imm).map Prod.fst

end Sys2Proof.Claims

/-- R7, R66-R75: the frame of the scalar register instructions and the branches, whether the unit completes, is not
ready or takes a trap: no register but the destination, no vector register, mask, flag or special register, and no byte
of memory changes. -/
def Obligations.ScalarFrame : Prop :=
  (∀ (i : Instr) (d : Nat) (s t : State), Claims.scalarRegister i d → s.now.run = .live → exec i s = .next t →
    t.now.run ≠ .free →
    Claims.sameMemory s t ∧ Claims.sameScalars s t d ∧ t.now.v = s.now.v ∧ t.now.m = s.now.m ∧
    t.now.fexc = s.now.fexc ∧ t.now.srseed = s.now.srseed ∧ Claims.sameRest s t) ∧
  (∀ (i : Instr) (s t : State), Claims.branches i → s.now.run = .live → exec i s = .next t →
    t.now.run ≠ .free →
    Claims.sameMemory s t ∧ t.now.w = s.now.w ∧ t.now.g = s.now.g ∧ t.now.v = s.now.v ∧ t.now.m = s.now.m ∧
    t.now.fexc = s.now.fexc ∧ t.now.srseed = s.now.srseed ∧ Claims.sameRest s t)

/-- R7, R123, R124, R133-R145: the frame of the vector and mask register instructions: no other register than the
destination, of VDQ the two, and no byte of memory changes; FEXC only gains flags. -/
def Obligations.VectorFrame : Prop :=
  (∀ (i : Instr) (d : Nat) (s t : State), Claims.vectorRegister i d → s.now.run = .live → exec i s = .next t →
    t.now.run ≠ .free →
    Claims.sameMemory s t ∧ t.now.w = s.now.w ∧ t.now.g = s.now.g ∧ t.now.m = s.now.m ∧ Claims.sameVectors s t d ∧
    s.now.fexc &&& ~~~t.now.fexc = 0 ∧ Claims.sameRest s t) ∧
  (∀ (i : Instr) (md : Mk) (s t : State), Claims.maskRegister i md → s.now.run = .live → exec i s = .next t →
    t.now.run ≠ .free →
    Claims.sameMemory s t ∧ t.now.w = s.now.w ∧ t.now.g = s.now.g ∧ t.now.v = s.now.v ∧
    (∀ k : Mk, k ≠ md → t.now.m[k] = s.now.m[k]) ∧ t.now.fexc = s.now.fexc ∧ t.now.srseed = s.now.srseed ∧
    Claims.sameRest s t) ∧
  (∀ (i : Instr) (d : Nat) (s t : State), Claims.scalarFromLanes i d → s.now.run = .live → exec i s = .next t →
    t.now.run ≠ .free →
    Claims.sameMemory s t ∧ Claims.sameScalars s t d ∧ Claims.sameVectors s t 32 ∧ t.now.m = s.now.m ∧
    t.now.fexc = s.now.fexc ∧ t.now.srseed = s.now.srseed ∧ Claims.sameRest s t) ∧
  (∀ (vx : Vx) (md : Mk) (a b : Vc) (cond : Fin 8) (s t : State), s.now.run = .live →
    exec (.vcmp vx md a b cond) s = .next t → t.now.run ≠ .free →
    Claims.sameMemory s t ∧ t.now.w = s.now.w ∧ t.now.g = s.now.g ∧ Claims.sameVectors s t 32 ∧
    (∀ k : Mk, k ≠ md → t.now.m[k] = s.now.m[k]) ∧ s.now.fexc &&& ~~~t.now.fexc = 0 ∧
    t.now.srseed = s.now.srseed ∧ Claims.sameRest s t) ∧
  (∀ (vx : Vx) (d a : Vc) (s t : State), s.now.run = .live → exec (.vdq vx d a) s = .next t → t.now.run ≠ .free →
    Claims.sameMemory s t ∧ t.now.w = s.now.w ∧ t.now.g = s.now.g ∧ t.now.m = s.now.m ∧
    (∀ j : Fin 32, j.val ≠ d.val → j.val ≠ d.val + 1 → s.now.stream j.val = none → t.now.v[j] = s.now.v[j]) ∧
    s.now.fexc &&& ~~~t.now.fexc = 0 ∧ Claims.sameRest s t)
end

