-- ==== Sys2Proof/Laws/State.lean ====
section
/-! SUPPORT. What an update of the state leaves alone: one lemma for each field of each update; and what is read
after it. -/

namespace Sys2Proof.Machine

variable (s : State)

/-! ## Sparse maps -/

@[simp] theorem SMap.get_put_same {α : Type} (d : α) (m : SMap α) (k : Nat) (x : α) :
    SMap.get d (SMap.put m k x) k = x := by
  induction m with
  | nil => simp [SMap.put, SMap.get]
  | cons e t ih =>
    obtain ⟨j, y⟩ := e
    simp only [SMap.put]
    split
    · simp [SMap.get]
    · split
      · simp [SMap.get]
      · have hk : ¬ k < j := by assumption
        simp_all [SMap.get] <;> omega

theorem SMap.get_put_other {α : Type} (d : α) (m : SMap α) {k l : Nat} (x : α) (h : l ≠ k) :
    SMap.get d (SMap.put m k x) l = SMap.get d m l := by
  induction m with
  | nil =>
    have : (k == l) = false := by simpa using fun h' => h h'.symm
    simp [SMap.put, SMap.get, this]
  | cons e t ih =>
    obtain ⟨j, y⟩ := e
    have hk : (k == l) = false := by simpa using fun h' => h h'.symm
    simp only [SMap.put]
    split
    · rename_i hj
      have hj : j = k := by simpa using hj
      subst hj
      simp [SMap.get, hk]
    · split
      · rename_i hlt
        simp only [SMap.get, hk]
        by_cases hl : l < k
        · have h1 : (j == l) = false := by simp; omega
          have h2 : l < j := by omega
          simp [hl, h1, h2]
        · simp [hl]
      · simp only [SMap.get, ih]

/-! ## What an update of the state leaves alone -/

@[simp] theorem State.setCore_clusters (c : Nat) (v : Core) : (s.setCore c v).clusters = s.clusters := rfl
@[simp] theorem State.setCore_dies (c : Nat) (v : Core) : (s.setCore c v).dies = s.dies := rfl
@[simp] theorem State.setCore_pkg (c : Nat) (v : Core) : (s.setCore c v).pkg = s.pkg := rfl
@[simp] theorem State.setCore_mem (c : Nat) (v : Core) : (s.setCore c v).mem = s.mem := rfl
@[simp] theorem State.setCore_nodes (c : Nat) (v : Core) : (s.setCore c v).nodes = s.nodes := rfl
@[simp] theorem State.setCore_subs (c : Nat) (v : Core) : (s.setCore c v).subs = s.subs := rfl
@[simp] theorem State.setCore_sifts (c : Nat) (v : Core) : (s.setCore c v).sifts = s.sifts := rfl
@[simp] theorem State.setCore_posts (c : Nat) (v : Core) : (s.setCore c v).posts = s.posts := rfl
@[simp] theorem State.setCore_reqs (c : Nat) (v : Core) : (s.setCore c v).reqs = s.reqs := rfl
@[simp] theorem State.setCore_reqNext (c : Nat) (v : Core) : (s.setCore c v).reqNext = s.reqNext := rfl
@[simp] theorem State.setCore_mgmt (c : Nat) (v : Core) : (s.setCore c v).mgmt = s.mgmt := rfl
@[simp] theorem State.setCore_mtags (c : Nat) (v : Core) : (s.setCore c v).mtags = s.mtags := rfl
@[simp] theorem State.setCore_actNext (c : Nat) (v : Core) : (s.setCore c v).actNext = s.actNext := rfl
@[simp] theorem State.setCore_sched (c : Nat) (v : Core) : (s.setCore c v).sched = s.sched := rfl
@[simp] theorem State.setCore_pending (c : Nat) (v : Core) : (s.setCore c v).pending = s.pending := rfl
@[simp] theorem State.setCore_inputs (c : Nat) (v : Core) : (s.setCore c v).inputs = s.inputs := rfl
@[simp] theorem State.setCore_upsets (c : Nat) (v : Core) : (s.setCore c v).upsets = s.upsets := rfl
@[simp] theorem State.setCore_accesses (c : Nat) (v : Core) : (s.setCore c v).accesses = s.accesses := rfl
@[simp] theorem State.setCore_ck (c : Nat) (v : Core) : (s.setCore c v).ck = s.ck := rfl
@[simp] theorem State.setCore_fresh (c : Nat) (v : Core) : (s.setCore c v).fresh = s.fresh := rfl
@[simp] theorem State.setCore_core (c : Nat) (v : Core) : (s.setCore c v).core = s.core := rfl
@[simp] theorem State.setCore_ctx (c : Nat) (v : Core) : (s.setCore c v).ctx = s.ctx := rfl
@[simp] theorem State.setCore_coreTurn (c : Nat) (v : Core) : (s.setCore c v).coreTurn = s.coreTurn := rfl

@[simp] theorem State.updCore_clusters (c : Nat) (f : Core → Core) : (s.updCore c f).clusters = s.clusters := rfl
@[simp] theorem State.updCore_dies (c : Nat) (f : Core → Core) : (s.updCore c f).dies = s.dies := rfl
@[simp] theorem State.updCore_pkg (c : Nat) (f : Core → Core) : (s.updCore c f).pkg = s.pkg := rfl
@[simp] theorem State.updCore_mem (c : Nat) (f : Core → Core) : (s.updCore c f).mem = s.mem := rfl
@[simp] theorem State.updCore_nodes (c : Nat) (f : Core → Core) : (s.updCore c f).nodes = s.nodes := rfl
@[simp] theorem State.updCore_subs (c : Nat) (f : Core → Core) : (s.updCore c f).subs = s.subs := rfl
@[simp] theorem State.updCore_sifts (c : Nat) (f : Core → Core) : (s.updCore c f).sifts = s.sifts := rfl
@[simp] theorem State.updCore_posts (c : Nat) (f : Core → Core) : (s.updCore c f).posts = s.posts := rfl
@[simp] theorem State.updCore_reqs (c : Nat) (f : Core → Core) : (s.updCore c f).reqs = s.reqs := rfl
@[simp] theorem State.updCore_reqNext (c : Nat) (f : Core → Core) : (s.updCore c f).reqNext = s.reqNext := rfl
@[simp] theorem State.updCore_mgmt (c : Nat) (f : Core → Core) : (s.updCore c f).mgmt = s.mgmt := rfl
@[simp] theorem State.updCore_mtags (c : Nat) (f : Core → Core) : (s.updCore c f).mtags = s.mtags := rfl
@[simp] theorem State.updCore_actNext (c : Nat) (f : Core → Core) : (s.updCore c f).actNext = s.actNext := rfl
@[simp] theorem State.updCore_sched (c : Nat) (f : Core → Core) : (s.updCore c f).sched = s.sched := rfl
@[simp] theorem State.updCore_pending (c : Nat) (f : Core → Core) : (s.updCore c f).pending = s.pending := rfl
@[simp] theorem State.updCore_inputs (c : Nat) (f : Core → Core) : (s.updCore c f).inputs = s.inputs := rfl
@[simp] theorem State.updCore_upsets (c : Nat) (f : Core → Core) : (s.updCore c f).upsets = s.upsets := rfl
@[simp] theorem State.updCore_accesses (c : Nat) (f : Core → Core) : (s.updCore c f).accesses = s.accesses := rfl
@[simp] theorem State.updCore_ck (c : Nat) (f : Core → Core) : (s.updCore c f).ck = s.ck := rfl
@[simp] theorem State.updCore_fresh (c : Nat) (f : Core → Core) : (s.updCore c f).fresh = s.fresh := rfl
@[simp] theorem State.updCore_core (c : Nat) (f : Core → Core) : (s.updCore c f).core = s.core := rfl
@[simp] theorem State.updCore_ctx (c : Nat) (f : Core → Core) : (s.updCore c f).ctx = s.ctx := rfl
@[simp] theorem State.updCore_coreTurn (c : Nat) (f : Core → Core) : (s.updCore c f).coreTurn = s.coreTurn := rfl

@[simp] theorem State.setCtx_clusters (c : Nat) (x : Fin 8) (v : Ctx) : (s.setCtx c x v).clusters = s.clusters := rfl
@[simp] theorem State.setCtx_dies (c : Nat) (x : Fin 8) (v : Ctx) : (s.setCtx c x v).dies = s.dies := rfl
@[simp] theorem State.setCtx_pkg (c : Nat) (x : Fin 8) (v : Ctx) : (s.setCtx c x v).pkg = s.pkg := rfl
@[simp] theorem State.setCtx_mem (c : Nat) (x : Fin 8) (v : Ctx) : (s.setCtx c x v).mem = s.mem := rfl
@[simp] theorem State.setCtx_nodes (c : Nat) (x : Fin 8) (v : Ctx) : (s.setCtx c x v).nodes = s.nodes := rfl
@[simp] theorem State.setCtx_subs (c : Nat) (x : Fin 8) (v : Ctx) : (s.setCtx c x v).subs = s.subs := rfl
@[simp] theorem State.setCtx_sifts (c : Nat) (x : Fin 8) (v : Ctx) : (s.setCtx c x v).sifts = s.sifts := rfl
@[simp] theorem State.setCtx_posts (c : Nat) (x : Fin 8) (v : Ctx) : (s.setCtx c x v).posts = s.posts := rfl
@[simp] theorem State.setCtx_reqs (c : Nat) (x : Fin 8) (v : Ctx) : (s.setCtx c x v).reqs = s.reqs := rfl
@[simp] theorem State.setCtx_reqNext (c : Nat) (x : Fin 8) (v : Ctx) : (s.setCtx c x v).reqNext = s.reqNext := rfl
@[simp] theorem State.setCtx_mgmt (c : Nat) (x : Fin 8) (v : Ctx) : (s.setCtx c x v).mgmt = s.mgmt := rfl
@[simp] theorem State.setCtx_mtags (c : Nat) (x : Fin 8) (v : Ctx) : (s.setCtx c x v).mtags = s.mtags := rfl
@[simp] theorem State.setCtx_actNext (c : Nat) (x : Fin 8) (v : Ctx) : (s.setCtx c x v).actNext = s.actNext := rfl
@[simp] theorem State.setCtx_sched (c : Nat) (x : Fin 8) (v : Ctx) : (s.setCtx c x v).sched = s.sched := rfl
@[simp] theorem State.setCtx_pending (c : Nat) (x : Fin 8) (v : Ctx) : (s.setCtx c x v).pending = s.pending := rfl
@[simp] theorem State.setCtx_inputs (c : Nat) (x : Fin 8) (v : Ctx) : (s.setCtx c x v).inputs = s.inputs := rfl
@[simp] theorem State.setCtx_upsets (c : Nat) (x : Fin 8) (v : Ctx) : (s.setCtx c x v).upsets = s.upsets := rfl
@[simp] theorem State.setCtx_accesses (c : Nat) (x : Fin 8) (v : Ctx) : (s.setCtx c x v).accesses = s.accesses := rfl
@[simp] theorem State.setCtx_ck (c : Nat) (x : Fin 8) (v : Ctx) : (s.setCtx c x v).ck = s.ck := rfl
@[simp] theorem State.setCtx_fresh (c : Nat) (x : Fin 8) (v : Ctx) : (s.setCtx c x v).fresh = s.fresh := rfl
@[simp] theorem State.setCtx_core (c : Nat) (x : Fin 8) (v : Ctx) : (s.setCtx c x v).core = s.core := rfl
@[simp] theorem State.setCtx_ctx (c : Nat) (x : Fin 8) (v : Ctx) : (s.setCtx c x v).ctx = s.ctx := rfl
@[simp] theorem State.setCtx_coreTurn (c : Nat) (x : Fin 8) (v : Ctx) : (s.setCtx c x v).coreTurn = s.coreTurn := rfl

@[simp] theorem State.updCtx_clusters (c : Nat) (x : Fin 8) (f : Ctx → Ctx) : (s.updCtx c x f).clusters = s.clusters := rfl
@[simp] theorem State.updCtx_dies (c : Nat) (x : Fin 8) (f : Ctx → Ctx) : (s.updCtx c x f).dies = s.dies := rfl
@[simp] theorem State.updCtx_pkg (c : Nat) (x : Fin 8) (f : Ctx → Ctx) : (s.updCtx c x f).pkg = s.pkg := rfl
@[simp] theorem State.updCtx_mem (c : Nat) (x : Fin 8) (f : Ctx → Ctx) : (s.updCtx c x f).mem = s.mem := rfl
@[simp] theorem State.updCtx_nodes (c : Nat) (x : Fin 8) (f : Ctx → Ctx) : (s.updCtx c x f).nodes = s.nodes := rfl
@[simp] theorem State.updCtx_subs (c : Nat) (x : Fin 8) (f : Ctx → Ctx) : (s.updCtx c x f).subs = s.subs := rfl
@[simp] theorem State.updCtx_sifts (c : Nat) (x : Fin 8) (f : Ctx → Ctx) : (s.updCtx c x f).sifts = s.sifts := rfl
@[simp] theorem State.updCtx_posts (c : Nat) (x : Fin 8) (f : Ctx → Ctx) : (s.updCtx c x f).posts = s.posts := rfl
@[simp] theorem State.updCtx_reqs (c : Nat) (x : Fin 8) (f : Ctx → Ctx) : (s.updCtx c x f).reqs = s.reqs := rfl
@[simp] theorem State.updCtx_reqNext (c : Nat) (x : Fin 8) (f : Ctx → Ctx) : (s.updCtx c x f).reqNext = s.reqNext := rfl
@[simp] theorem State.updCtx_mgmt (c : Nat) (x : Fin 8) (f : Ctx → Ctx) : (s.updCtx c x f).mgmt = s.mgmt := rfl
@[simp] theorem State.updCtx_mtags (c : Nat) (x : Fin 8) (f : Ctx → Ctx) : (s.updCtx c x f).mtags = s.mtags := rfl
@[simp] theorem State.updCtx_actNext (c : Nat) (x : Fin 8) (f : Ctx → Ctx) : (s.updCtx c x f).actNext = s.actNext := rfl
@[simp] theorem State.updCtx_sched (c : Nat) (x : Fin 8) (f : Ctx → Ctx) : (s.updCtx c x f).sched = s.sched := rfl
@[simp] theorem State.updCtx_pending (c : Nat) (x : Fin 8) (f : Ctx → Ctx) : (s.updCtx c x f).pending = s.pending := rfl
@[simp] theorem State.updCtx_inputs (c : Nat) (x : Fin 8) (f : Ctx → Ctx) : (s.updCtx c x f).inputs = s.inputs := rfl
@[simp] theorem State.updCtx_upsets (c : Nat) (x : Fin 8) (f : Ctx → Ctx) : (s.updCtx c x f).upsets = s.upsets := rfl
@[simp] theorem State.updCtx_accesses (c : Nat) (x : Fin 8) (f : Ctx → Ctx) : (s.updCtx c x f).accesses = s.accesses := rfl
@[simp] theorem State.updCtx_ck (c : Nat) (x : Fin 8) (f : Ctx → Ctx) : (s.updCtx c x f).ck = s.ck := rfl
@[simp] theorem State.updCtx_fresh (c : Nat) (x : Fin 8) (f : Ctx → Ctx) : (s.updCtx c x f).fresh = s.fresh := rfl
@[simp] theorem State.updCtx_core (c : Nat) (x : Fin 8) (f : Ctx → Ctx) : (s.updCtx c x f).core = s.core := rfl
@[simp] theorem State.updCtx_ctx (c : Nat) (x : Fin 8) (f : Ctx → Ctx) : (s.updCtx c x f).ctx = s.ctx := rfl
@[simp] theorem State.updCtx_coreTurn (c : Nat) (x : Fin 8) (f : Ctx → Ctx) : (s.updCtx c x f).coreTurn = s.coreTurn := rfl

@[simp] theorem State.updClu_cores (k : Nat) (f : Cluster → Cluster) : (s.updClu k f).cores = s.cores := rfl
@[simp] theorem State.updClu_dies (k : Nat) (f : Cluster → Cluster) : (s.updClu k f).dies = s.dies := rfl
@[simp] theorem State.updClu_pkg (k : Nat) (f : Cluster → Cluster) : (s.updClu k f).pkg = s.pkg := rfl
@[simp] theorem State.updClu_mem (k : Nat) (f : Cluster → Cluster) : (s.updClu k f).mem = s.mem := rfl
@[simp] theorem State.updClu_nodes (k : Nat) (f : Cluster → Cluster) : (s.updClu k f).nodes = s.nodes := rfl
@[simp] theorem State.updClu_subs (k : Nat) (f : Cluster → Cluster) : (s.updClu k f).subs = s.subs := rfl
@[simp] theorem State.updClu_sifts (k : Nat) (f : Cluster → Cluster) : (s.updClu k f).sifts = s.sifts := rfl
@[simp] theorem State.updClu_posts (k : Nat) (f : Cluster → Cluster) : (s.updClu k f).posts = s.posts := rfl
@[simp] theorem State.updClu_reqs (k : Nat) (f : Cluster → Cluster) : (s.updClu k f).reqs = s.reqs := rfl
@[simp] theorem State.updClu_reqNext (k : Nat) (f : Cluster → Cluster) : (s.updClu k f).reqNext = s.reqNext := rfl
@[simp] theorem State.updClu_mgmt (k : Nat) (f : Cluster → Cluster) : (s.updClu k f).mgmt = s.mgmt := rfl
@[simp] theorem State.updClu_mtags (k : Nat) (f : Cluster → Cluster) : (s.updClu k f).mtags = s.mtags := rfl
@[simp] theorem State.updClu_actNext (k : Nat) (f : Cluster → Cluster) : (s.updClu k f).actNext = s.actNext := rfl
@[simp] theorem State.updClu_sched (k : Nat) (f : Cluster → Cluster) : (s.updClu k f).sched = s.sched := rfl
@[simp] theorem State.updClu_pending (k : Nat) (f : Cluster → Cluster) : (s.updClu k f).pending = s.pending := rfl
@[simp] theorem State.updClu_inputs (k : Nat) (f : Cluster → Cluster) : (s.updClu k f).inputs = s.inputs := rfl
@[simp] theorem State.updClu_upsets (k : Nat) (f : Cluster → Cluster) : (s.updClu k f).upsets = s.upsets := rfl
@[simp] theorem State.updClu_accesses (k : Nat) (f : Cluster → Cluster) : (s.updClu k f).accesses = s.accesses := rfl
@[simp] theorem State.updClu_ck (k : Nat) (f : Cluster → Cluster) : (s.updClu k f).ck = s.ck := rfl
@[simp] theorem State.updClu_fresh (k : Nat) (f : Cluster → Cluster) : (s.updClu k f).fresh = s.fresh := rfl
@[simp] theorem State.updClu_core (k : Nat) (f : Cluster → Cluster) : (s.updClu k f).core = s.core := rfl
@[simp] theorem State.updClu_ctx (k : Nat) (f : Cluster → Cluster) : (s.updClu k f).ctx = s.ctx := rfl
@[simp] theorem State.updClu_coreTurn (k : Nat) (f : Cluster → Cluster) : (s.updClu k f).coreTurn = s.coreTurn := rfl

@[simp] theorem State.updDie_cores (d : Nat) (f : Die → Die) : (s.updDie d f).cores = s.cores := rfl
@[simp] theorem State.updDie_clusters (d : Nat) (f : Die → Die) : (s.updDie d f).clusters = s.clusters := rfl
@[simp] theorem State.updDie_pkg (d : Nat) (f : Die → Die) : (s.updDie d f).pkg = s.pkg := rfl
@[simp] theorem State.updDie_mem (d : Nat) (f : Die → Die) : (s.updDie d f).mem = s.mem := rfl
@[simp] theorem State.updDie_nodes (d : Nat) (f : Die → Die) : (s.updDie d f).nodes = s.nodes := rfl
@[simp] theorem State.updDie_subs (d : Nat) (f : Die → Die) : (s.updDie d f).subs = s.subs := rfl
@[simp] theorem State.updDie_sifts (d : Nat) (f : Die → Die) : (s.updDie d f).sifts = s.sifts := rfl
@[simp] theorem State.updDie_posts (d : Nat) (f : Die → Die) : (s.updDie d f).posts = s.posts := rfl
@[simp] theorem State.updDie_reqs (d : Nat) (f : Die → Die) : (s.updDie d f).reqs = s.reqs := rfl
@[simp] theorem State.updDie_reqNext (d : Nat) (f : Die → Die) : (s.updDie d f).reqNext = s.reqNext := rfl
@[simp] theorem State.updDie_mgmt (d : Nat) (f : Die → Die) : (s.updDie d f).mgmt = s.mgmt := rfl
@[simp] theorem State.updDie_mtags (d : Nat) (f : Die → Die) : (s.updDie d f).mtags = s.mtags := rfl
@[simp] theorem State.updDie_actNext (d : Nat) (f : Die → Die) : (s.updDie d f).actNext = s.actNext := rfl
@[simp] theorem State.updDie_sched (d : Nat) (f : Die → Die) : (s.updDie d f).sched = s.sched := rfl
@[simp] theorem State.updDie_pending (d : Nat) (f : Die → Die) : (s.updDie d f).pending = s.pending := rfl
@[simp] theorem State.updDie_inputs (d : Nat) (f : Die → Die) : (s.updDie d f).inputs = s.inputs := rfl
@[simp] theorem State.updDie_upsets (d : Nat) (f : Die → Die) : (s.updDie d f).upsets = s.upsets := rfl
@[simp] theorem State.updDie_accesses (d : Nat) (f : Die → Die) : (s.updDie d f).accesses = s.accesses := rfl
@[simp] theorem State.updDie_ck (d : Nat) (f : Die → Die) : (s.updDie d f).ck = s.ck := rfl
@[simp] theorem State.updDie_fresh (d : Nat) (f : Die → Die) : (s.updDie d f).fresh = s.fresh := rfl
@[simp] theorem State.updDie_core (d : Nat) (f : Die → Die) : (s.updDie d f).core = s.core := rfl
@[simp] theorem State.updDie_ctx (d : Nat) (f : Die → Die) : (s.updDie d f).ctx = s.ctx := rfl
@[simp] theorem State.updDie_coreTurn (d : Nat) (f : Die → Die) : (s.updDie d f).coreTurn = s.coreTurn := rfl

@[simp] theorem State.updPkg_cores (f : Package → Package) : (s.updPkg f).cores = s.cores := rfl
@[simp] theorem State.updPkg_clusters (f : Package → Package) : (s.updPkg f).clusters = s.clusters := rfl
@[simp] theorem State.updPkg_dies (f : Package → Package) : (s.updPkg f).dies = s.dies := rfl
@[simp] theorem State.updPkg_mem (f : Package → Package) : (s.updPkg f).mem = s.mem := rfl
@[simp] theorem State.updPkg_nodes (f : Package → Package) : (s.updPkg f).nodes = s.nodes := rfl
@[simp] theorem State.updPkg_subs (f : Package → Package) : (s.updPkg f).subs = s.subs := rfl
@[simp] theorem State.updPkg_sifts (f : Package → Package) : (s.updPkg f).sifts = s.sifts := rfl
@[simp] theorem State.updPkg_posts (f : Package → Package) : (s.updPkg f).posts = s.posts := rfl
@[simp] theorem State.updPkg_reqs (f : Package → Package) : (s.updPkg f).reqs = s.reqs := rfl
@[simp] theorem State.updPkg_reqNext (f : Package → Package) : (s.updPkg f).reqNext = s.reqNext := rfl
@[simp] theorem State.updPkg_mgmt (f : Package → Package) : (s.updPkg f).mgmt = s.mgmt := rfl
@[simp] theorem State.updPkg_mtags (f : Package → Package) : (s.updPkg f).mtags = s.mtags := rfl
@[simp] theorem State.updPkg_actNext (f : Package → Package) : (s.updPkg f).actNext = s.actNext := rfl
@[simp] theorem State.updPkg_sched (f : Package → Package) : (s.updPkg f).sched = s.sched := rfl
@[simp] theorem State.updPkg_pending (f : Package → Package) : (s.updPkg f).pending = s.pending := rfl
@[simp] theorem State.updPkg_inputs (f : Package → Package) : (s.updPkg f).inputs = s.inputs := rfl
@[simp] theorem State.updPkg_upsets (f : Package → Package) : (s.updPkg f).upsets = s.upsets := rfl
@[simp] theorem State.updPkg_accesses (f : Package → Package) : (s.updPkg f).accesses = s.accesses := rfl
@[simp] theorem State.updPkg_ck (f : Package → Package) : (s.updPkg f).ck = s.ck := rfl
@[simp] theorem State.updPkg_fresh (f : Package → Package) : (s.updPkg f).fresh = s.fresh := rfl
@[simp] theorem State.updPkg_core (f : Package → Package) : (s.updPkg f).core = s.core := rfl
@[simp] theorem State.updPkg_ctx (f : Package → Package) : (s.updPkg f).ctx = s.ctx := rfl
@[simp] theorem State.updPkg_coreTurn (f : Package → Package) : (s.updPkg f).coreTurn = s.coreTurn := rfl

@[simp] theorem State.updMem_cores (f : Memory → Memory) : (s.updMem f).cores = s.cores := rfl
@[simp] theorem State.updMem_clusters (f : Memory → Memory) : (s.updMem f).clusters = s.clusters := rfl
@[simp] theorem State.updMem_dies (f : Memory → Memory) : (s.updMem f).dies = s.dies := rfl
@[simp] theorem State.updMem_pkg (f : Memory → Memory) : (s.updMem f).pkg = s.pkg := rfl
@[simp] theorem State.updMem_nodes (f : Memory → Memory) : (s.updMem f).nodes = s.nodes := rfl
@[simp] theorem State.updMem_subs (f : Memory → Memory) : (s.updMem f).subs = s.subs := rfl
@[simp] theorem State.updMem_sifts (f : Memory → Memory) : (s.updMem f).sifts = s.sifts := rfl
@[simp] theorem State.updMem_posts (f : Memory → Memory) : (s.updMem f).posts = s.posts := rfl
@[simp] theorem State.updMem_reqs (f : Memory → Memory) : (s.updMem f).reqs = s.reqs := rfl
@[simp] theorem State.updMem_reqNext (f : Memory → Memory) : (s.updMem f).reqNext = s.reqNext := rfl
@[simp] theorem State.updMem_mgmt (f : Memory → Memory) : (s.updMem f).mgmt = s.mgmt := rfl
@[simp] theorem State.updMem_mtags (f : Memory → Memory) : (s.updMem f).mtags = s.mtags := rfl
@[simp] theorem State.updMem_actNext (f : Memory → Memory) : (s.updMem f).actNext = s.actNext := rfl
@[simp] theorem State.updMem_sched (f : Memory → Memory) : (s.updMem f).sched = s.sched := rfl
@[simp] theorem State.updMem_pending (f : Memory → Memory) : (s.updMem f).pending = s.pending := rfl
@[simp] theorem State.updMem_inputs (f : Memory → Memory) : (s.updMem f).inputs = s.inputs := rfl
@[simp] theorem State.updMem_upsets (f : Memory → Memory) : (s.updMem f).upsets = s.upsets := rfl
@[simp] theorem State.updMem_accesses (f : Memory → Memory) : (s.updMem f).accesses = s.accesses := rfl
@[simp] theorem State.updMem_ck (f : Memory → Memory) : (s.updMem f).ck = s.ck := rfl
@[simp] theorem State.updMem_fresh (f : Memory → Memory) : (s.updMem f).fresh = s.fresh := rfl
@[simp] theorem State.updMem_core (f : Memory → Memory) : (s.updMem f).core = s.core := rfl
@[simp] theorem State.updMem_ctx (f : Memory → Memory) : (s.updMem f).ctx = s.ctx := rfl
@[simp] theorem State.updMem_coreTurn (f : Memory → Memory) : (s.updMem f).coreTurn = s.coreTurn := rfl

@[simp] theorem State.setCoreReg_cores (c i v : Nat) : (s.setCoreReg c i v).cores = s.cores := rfl
@[simp] theorem State.setCoreReg_clusters (c i v : Nat) : (s.setCoreReg c i v).clusters = s.clusters := rfl
@[simp] theorem State.setCoreReg_dies (c i v : Nat) : (s.setCoreReg c i v).dies = s.dies := rfl
@[simp] theorem State.setCoreReg_pkg (c i v : Nat) : (s.setCoreReg c i v).pkg = s.pkg := rfl
@[simp] theorem State.setCoreReg_mem (c i v : Nat) : (s.setCoreReg c i v).mem = s.mem := rfl
@[simp] theorem State.setCoreReg_nodes (c i v : Nat) : (s.setCoreReg c i v).nodes = s.nodes := rfl
@[simp] theorem State.setCoreReg_subs (c i v : Nat) : (s.setCoreReg c i v).subs = s.subs := rfl
@[simp] theorem State.setCoreReg_sifts (c i v : Nat) : (s.setCoreReg c i v).sifts = s.sifts := rfl
@[simp] theorem State.setCoreReg_posts (c i v : Nat) : (s.setCoreReg c i v).posts = s.posts := rfl
@[simp] theorem State.setCoreReg_reqs (c i v : Nat) : (s.setCoreReg c i v).reqs = s.reqs := rfl
@[simp] theorem State.setCoreReg_reqNext (c i v : Nat) : (s.setCoreReg c i v).reqNext = s.reqNext := rfl
@[simp] theorem State.setCoreReg_mtags (c i v : Nat) : (s.setCoreReg c i v).mtags = s.mtags := rfl
@[simp] theorem State.setCoreReg_actNext (c i v : Nat) : (s.setCoreReg c i v).actNext = s.actNext := rfl
@[simp] theorem State.setCoreReg_sched (c i v : Nat) : (s.setCoreReg c i v).sched = s.sched := rfl
@[simp] theorem State.setCoreReg_pending (c i v : Nat) : (s.setCoreReg c i v).pending = s.pending := rfl
@[simp] theorem State.setCoreReg_inputs (c i v : Nat) : (s.setCoreReg c i v).inputs = s.inputs := rfl
@[simp] theorem State.setCoreReg_upsets (c i v : Nat) : (s.setCoreReg c i v).upsets = s.upsets := rfl
@[simp] theorem State.setCoreReg_accesses (c i v : Nat) : (s.setCoreReg c i v).accesses = s.accesses := rfl
@[simp] theorem State.setCoreReg_ck (c i v : Nat) : (s.setCoreReg c i v).ck = s.ck := rfl
@[simp] theorem State.setCoreReg_fresh (c i v : Nat) : (s.setCoreReg c i v).fresh = s.fresh := rfl
@[simp] theorem State.setCoreReg_core (c i v : Nat) : (s.setCoreReg c i v).core = s.core := rfl
@[simp] theorem State.setCoreReg_ctx (c i v : Nat) : (s.setCoreReg c i v).ctx = s.ctx := rfl
@[simp] theorem State.setCoreReg_coreTurn (c i v : Nat) : (s.setCoreReg c i v).coreTurn = s.coreTurn := rfl

@[simp] theorem State.later_cores (n : Nat) (e : Due) : (s.later n e).cores = s.cores := rfl
@[simp] theorem State.later_clusters (n : Nat) (e : Due) : (s.later n e).clusters = s.clusters := rfl
@[simp] theorem State.later_dies (n : Nat) (e : Due) : (s.later n e).dies = s.dies := rfl
@[simp] theorem State.later_pkg (n : Nat) (e : Due) : (s.later n e).pkg = s.pkg := rfl
@[simp] theorem State.later_mem (n : Nat) (e : Due) : (s.later n e).mem = s.mem := rfl
@[simp] theorem State.later_nodes (n : Nat) (e : Due) : (s.later n e).nodes = s.nodes := rfl
@[simp] theorem State.later_subs (n : Nat) (e : Due) : (s.later n e).subs = s.subs := rfl
@[simp] theorem State.later_sifts (n : Nat) (e : Due) : (s.later n e).sifts = s.sifts := rfl
@[simp] theorem State.later_posts (n : Nat) (e : Due) : (s.later n e).posts = s.posts := rfl
@[simp] theorem State.later_reqs (n : Nat) (e : Due) : (s.later n e).reqs = s.reqs := rfl
@[simp] theorem State.later_reqNext (n : Nat) (e : Due) : (s.later n e).reqNext = s.reqNext := rfl
@[simp] theorem State.later_mgmt (n : Nat) (e : Due) : (s.later n e).mgmt = s.mgmt := rfl
@[simp] theorem State.later_mtags (n : Nat) (e : Due) : (s.later n e).mtags = s.mtags := rfl
@[simp] theorem State.later_actNext (n : Nat) (e : Due) : (s.later n e).actNext = s.actNext := rfl
@[simp] theorem State.later_sched (n : Nat) (e : Due) : (s.later n e).sched = s.sched := rfl
@[simp] theorem State.later_inputs (n : Nat) (e : Due) : (s.later n e).inputs = s.inputs := rfl
@[simp] theorem State.later_upsets (n : Nat) (e : Due) : (s.later n e).upsets = s.upsets := rfl
@[simp] theorem State.later_accesses (n : Nat) (e : Due) : (s.later n e).accesses = s.accesses := rfl
@[simp] theorem State.later_ck (n : Nat) (e : Due) : (s.later n e).ck = s.ck := rfl
@[simp] theorem State.later_fresh (n : Nat) (e : Due) : (s.later n e).fresh = s.fresh := rfl
@[simp] theorem State.later_core (n : Nat) (e : Due) : (s.later n e).core = s.core := rfl
@[simp] theorem State.later_ctx (n : Nat) (e : Due) : (s.later n e).ctx = s.ctx := rfl
@[simp] theorem State.later_coreTurn (n : Nat) (e : Due) : (s.later n e).coreTurn = s.coreTurn := rfl

@[simp] theorem State.addPost_cores (b : Post) : (s.addPost b).cores = s.cores := by
  unfold State.addPost State.soon; split <;> rfl
@[simp] theorem State.addPost_clusters (b : Post) : (s.addPost b).clusters = s.clusters := by
  unfold State.addPost State.soon; split <;> rfl
@[simp] theorem State.addPost_dies (b : Post) : (s.addPost b).dies = s.dies := by
  unfold State.addPost State.soon; split <;> rfl
@[simp] theorem State.addPost_pkg (b : Post) : (s.addPost b).pkg = s.pkg := by
  unfold State.addPost State.soon; split <;> rfl
@[simp] theorem State.addPost_mem (b : Post) : (s.addPost b).mem = s.mem := by
  unfold State.addPost State.soon; split <;> rfl
@[simp] theorem State.addPost_mgmt (b : Post) : (s.addPost b).mgmt = s.mgmt := by
  unfold State.addPost State.soon; split <;> rfl
@[simp] theorem State.addPost_posts (b : Post) : (s.addPost b).posts = s.posts ++ [b] := by
  unfold State.addPost State.soon; split <;> rfl

/-! ## Events that a disturbance or a choice of the surroundings reaches (logs 18, 37) -/

/-- Where upsets lists nothing, an event is what it is undisturbed. -/
theorem struck_calm (f : Upset → State → Out) {s : State} (h : s.upsets = []) : struck f s = f .none s := by
  cases s; subst h; rfl

/-- What an event that disturbances reach does: the next of them, and no event after it meets that one again. -/
theorem struck_cons (f : Upset → State → Out) {s : State} {u : Upset} {l : List Upset} (h : s.upsets = u :: l) :
    struck f s = f u { s with upsets := l } := by
  simp [struck, h]

/-- Where accesses lists nothing, a management access reaches the register at its offset. -/
theorem reaching_register (f : Access → State → Out) {s : State} (h : s.accesses = []) :
    reaching f s = f .register s := by
  cases s; subst h; rfl

theorem reaching_cons (f : Access → State → Out) {s : State} {a : Access} {l : List Access} (h : s.accesses = a :: l) :
    reaching f s = f a { s with accesses := l } := by
  simp [reaching, h]

/-! ## What is read after an update -/

@[simp] theorem State.coreAt_setCore (c : Nat) (v : Core) : (s.setCore c v).coreAt c = v := by
  simp [State.coreAt, State.setCore]

theorem State.coreAt_setCore_other {c c' : Nat} (v : Core) (h : c' ≠ c) :
    (s.setCore c v).coreAt c' = s.coreAt c' := by
  simp [State.coreAt, State.setCore, SMap.get_put_other _ _ _ h]

@[simp] theorem State.coreAt_updCore (c : Nat) (f : Core → Core) : (s.updCore c f).coreAt c = f (s.coreAt c) := by
  simp [State.updCore]

theorem State.coreAt_updCore_other {c c' : Nat} (f : Core → Core) (h : c' ≠ c) :
    (s.updCore c f).coreAt c' = s.coreAt c' := s.coreAt_setCore_other _ h

@[simp] theorem Core.setCtx_same (k : Core) (x : Fin 8) (v : Ctx) : (k.setCtx x v).ctxs[x] = v := by
  simp [Core.setCtx]

theorem Core.setCtx_other (k : Core) {x y : Fin 8} (v : Ctx) (h : y ≠ x) :
    (k.setCtx x v).ctxs[y] = k.ctxs[y] := by
  have : x.val ≠ y.val := fun e => h (Fin.ext e.symm)
  simp [Core.setCtx, this]

@[simp] theorem State.coreAt_setCtx (c : Nat) (x : Fin 8) (v : Ctx) :
    (s.setCtx c x v).coreAt c = (s.coreAt c).setCtx x v := by simp [State.setCtx]

@[simp] theorem State.coreAt_updCtx (c : Nat) (x : Fin 8) (f : Ctx → Ctx) :
    (s.updCtx c x f).coreAt c = (s.coreAt c).setCtx x (f (s.ctxAt c x)) := by simp [State.updCtx]

theorem State.coreAt_updCtx_other {c c' : Nat} (x : Fin 8) (f : Ctx → Ctx) (h : c' ≠ c) :
    (s.updCtx c x f).coreAt c' = s.coreAt c' := s.coreAt_setCore_other _ h

@[simp] theorem State.ctxAt_setCtx (c : Nat) (x : Fin 8) (v : Ctx) : (s.setCtx c x v).ctxAt c x = v := by
  rw [State.ctxAt, State.coreAt_setCtx, Core.setCtx_same]

@[simp] theorem State.ctxAt_updCtx (c : Nat) (x : Fin 8) (f : Ctx → Ctx) :
    (s.updCtx c x f).ctxAt c x = f (s.ctxAt c x) := by simp [State.updCtx]

theorem State.ctxAt_updCtx_other {c c' : Nat} {x x' : Fin 8} (f : Ctx → Ctx) (h : c' ≠ c ∨ x' ≠ x) :
    (s.updCtx c x f).ctxAt c' x' = s.ctxAt c' x' := by
  by_cases hc : c' = c
  · subst hc
    have hx : x' ≠ x := by simpa using h
    simp [State.ctxAt, Core.setCtx_other _ _ hx]
  · simp only [State.ctxAt, s.coreAt_updCtx_other x f hc]

@[simp] theorem State.cluAt_updClu (k : Nat) (f : Cluster → Cluster) : (s.updClu k f).cluAt k = f (s.cluAt k) := by
  simp [State.cluAt, State.updClu]

theorem State.cluAt_updClu_other {k k' : Nat} (f : Cluster → Cluster) (h : k' ≠ k) :
    (s.updClu k f).cluAt k' = s.cluAt k' := by
  simp [State.cluAt, State.updClu, SMap.get_put_other _ _ _ h]

@[simp] theorem State.dieAt_updDie (d : Nat) (f : Die → Die) : (s.updDie d f).dieAt d = f (s.dieAt d) := by
  simp [State.dieAt, State.updDie]

@[simp] theorem State.pkg_updPkg (f : Package → Package) : (s.updPkg f).pkg = f s.pkg := rfl

@[simp] theorem State.mem_updMem (f : Memory → Memory) : (s.updMem f).mem = f s.mem := rfl

@[simp] theorem State.coreAt_updClu (c : Nat) (k : Nat) (f : Cluster → Cluster) : (s.updClu k f).coreAt c = s.coreAt c := rfl
@[simp] theorem State.ctxAt_updClu (c : Nat) (x : Fin 8) (k : Nat) (f : Cluster → Cluster) : (s.updClu k f).ctxAt c x = s.ctxAt c x := rfl
@[simp] theorem State.coreAt_updDie (c : Nat) (d : Nat) (f : Die → Die) : (s.updDie d f).coreAt c = s.coreAt c := rfl
@[simp] theorem State.ctxAt_updDie (c : Nat) (x : Fin 8) (d : Nat) (f : Die → Die) : (s.updDie d f).ctxAt c x = s.ctxAt c x := rfl
@[simp] theorem State.coreAt_updPkg (c : Nat) (f : Package → Package) : (s.updPkg f).coreAt c = s.coreAt c := rfl
@[simp] theorem State.ctxAt_updPkg (c : Nat) (x : Fin 8) (f : Package → Package) : (s.updPkg f).ctxAt c x = s.ctxAt c x := rfl
@[simp] theorem State.coreAt_updMem (c : Nat) (f : Memory → Memory) : (s.updMem f).coreAt c = s.coreAt c := rfl
@[simp] theorem State.ctxAt_updMem (c : Nat) (x : Fin 8) (f : Memory → Memory) : (s.updMem f).ctxAt c x = s.ctxAt c x := rfl
@[simp] theorem State.coreAt_setCoreReg (c : Nat) (c' i v : Nat) : (s.setCoreReg c' i v).coreAt c = s.coreAt c := rfl
@[simp] theorem State.ctxAt_setCoreReg (c : Nat) (x : Fin 8) (c' i v : Nat) : (s.setCoreReg c' i v).ctxAt c x = s.ctxAt c x := rfl
@[simp] theorem State.coreAt_later (c : Nat) (n : Nat) (e : Due) : (s.later n e).coreAt c = s.coreAt c := rfl
@[simp] theorem State.ctxAt_later (c : Nat) (x : Fin 8) (n : Nat) (e : Due) : (s.later n e).ctxAt c x = s.ctxAt c x := rfl

end Sys2Proof.Machine
end

