-- ==== Sys2Proof/Laws/Memory.lean ====
section
/-! SUPPORT. Sparse maps, sets and memory: every operation keeps the canonical form, and a read after a write. -/

namespace Sys2Proof.Machine

/-! ## Rising keys -/

theorem rising_iff (l : List Nat) : rising l = true ↔ l.Pairwise (· < ·) := by
  induction l with
  | nil => simp [rising]
  | cons a t ih =>
    cases t with
    | nil => simp [rising]
    | cons b t =>
      rw [rising, Bool.and_eq_true, ih, decide_eq_true_iff, List.pairwise_cons (a := a)]
      constructor
      · rintro ⟨hab, h⟩
        refine ⟨fun x hx => ?_, h⟩
        rcases List.mem_cons.1 hx with rfl | hx
        · exact hab
        · exact Nat.lt_trans hab ((List.pairwise_cons.1 h).1 x hx)
      · exact fun h => ⟨h.1 b (by simp), h.2⟩

theorem rising_tail {a : Nat} {t : List Nat} (h : rising (a :: t) = true) : rising t = true := by
  rw [rising_iff] at h ⊢
  exact (List.pairwise_cons.1 h).2

theorem rising_head {a x : Nat} {t : List Nat} (h : rising (a :: t) = true) (hx : x ∈ t) : a < x := by
  rw [rising_iff] at h
  exact (List.pairwise_cons.1 h).1 x hx

theorem rising_cons {a : Nat} {t : List Nat} (ht : rising t = true) (h : ∀ x ∈ t, a < x) : rising (a :: t) = true := by
  rw [rising_iff] at ht ⊢
  exact List.pairwise_cons.2 ⟨h, ht⟩

theorem rising_filter {l : List Nat} (p : Nat → Bool) (h : rising l = true) : rising (l.filter p) = true := by
  rw [rising_iff] at h ⊢
  exact h.filter p

/-! ## Maps -/

variable {α : Type}

theorem SMap.mem_put {m : SMap α} {k : Nat} {x : α} {e : Nat × α} (h : e ∈ m.put k x) : e = (k, x) ∨ e ∈ m := by
  induction m with
  | nil => simpa [SMap.put] using h
  | cons a t ih =>
    obtain ⟨j, y⟩ := a
    simp only [SMap.put] at h
    split at h
    · rcases List.mem_cons.1 h with h | h
      · exact .inl h
      · exact .inr (by simp [h])
    · split at h
      · rcases List.mem_cons.1 h with h | h
        · exact .inl h
        · exact .inr h
      · rcases List.mem_cons.1 h with h | h
        · exact .inr (by simp [h])
        · rcases ih h with h | h
          · exact .inl h
          · exact .inr (by simp [h])

theorem SMap.mem_erase {m : SMap α} {k : Nat} {e : Nat × α} (h : e ∈ m.erase k) : e ∈ m := by
  induction m with
  | nil => simp [SMap.erase] at h
  | cons a t ih =>
    obtain ⟨j, y⟩ := a
    simp only [SMap.erase] at h
    split at h
    · simp [h]
    · split at h
      · exact h
      · rcases List.mem_cons.1 h with h | h
        · simp [h]
        · simp [ih h]

theorem SMap.rising_put {m : SMap α} {k : Nat} {x : α} (h : rising (m.map Prod.fst) = true) :
    rising ((m.put k x).map Prod.fst) = true := by
  induction m with
  | nil => rfl
  | cons a t ih =>
    obtain ⟨j, y⟩ := a
    simp only [SMap.put]
    split
    · rename_i hj
      rw [beq_iff_eq] at hj
      subst hj
      exact h
    · rename_i hj
      rw [beq_iff_eq] at hj
      split
      · rename_i hk
        refine rising_cons h fun z hz => ?_
        rcases List.mem_cons.1 hz with rfl | hz
        · exact hk
        · exact Nat.lt_trans hk (rising_head h hz)
      · rename_i hk
        refine rising_cons (ih (rising_tail h)) fun z hz => ?_
        obtain ⟨e, he, rfl⟩ := List.mem_map.1 hz
        rcases SMap.mem_put he with rfl | he
        · simp only []; omega
        · exact rising_head h (List.mem_map_of_mem (f := Prod.fst) he)

theorem SMap.rising_erase {m : SMap α} {k : Nat} (h : rising (m.map Prod.fst) = true) :
    rising ((m.erase k).map Prod.fst) = true := by
  induction m with
  | nil => rfl
  | cons a t ih =>
    obtain ⟨j, y⟩ := a
    simp only [SMap.erase]
    split
    · exact rising_tail h
    · split
      · exact h
      · refine rising_cons (ih (rising_tail h)) fun z hz => ?_
        obtain ⟨e, he, rfl⟩ := List.mem_map.1 hz
        exact rising_head h (List.mem_map_of_mem (f := Prod.fst) (SMap.mem_erase he))

theorem SMap.rising_set [DecidableEq α] {d : α} {m : SMap α} {k : Nat} {x : α} (h : rising (m.map Prod.fst) = true) :
    rising ((SMap.set d m k x).map Prod.fst) = true := by
  unfold SMap.set
  split
  · exact SMap.rising_erase h
  · exact SMap.rising_put h

theorem SMap.rising_filter {m : SMap α} (p : Nat × α → Bool) (h : rising (m.map Prod.fst) = true) :
    rising (List.map Prod.fst (m.filter p)) = true := by
  rw [rising_iff] at h ⊢
  exact h.sublist ((List.filter_sublist (p := p)).map Prod.fst)

theorem SMap.rising_clear {m : SMap α} {lo hi : Nat} (h : rising (m.map Prod.fst) = true) :
    rising ((m.clear lo hi).map Prod.fst) = true := SMap.rising_filter _ h

theorem SMap.rising_overlay {m es : SMap α} (h : rising (m.map Prod.fst) = true) :
    rising ((m.overlay es).map Prod.fst) = true := by
  unfold SMap.overlay
  induction es generalizing m with
  | nil => exact h
  | cons e t ih => exact ih (SMap.rising_put h)

theorem SMap.mem_overlay {m es : SMap α} {e : Nat × α} (h : e ∈ m.overlay es) : e ∈ es ∨ e ∈ m := by
  unfold SMap.overlay at h
  induction es generalizing m with
  | nil => exact .inr h
  | cons a t ih =>
    rcases ih h with h | h
    · exact .inl (by simp [h])
    · rcases SMap.mem_put h with h | h
      · exact .inl (by simp [h])
      · exact .inr h

theorem SMap.rising_copy {m : SMap α} {src dst n : Nat} (h : rising (m.map Prod.fst) = true) :
    rising ((m.copy src dst n).map Prod.fst) = true := SMap.rising_overlay (SMap.rising_clear h)

theorem SMap.get_absent (d : α) {m : SMap α} {k : Nat} (h : ∀ e ∈ m, e.1 ≠ k) : SMap.get d m k = d := by
  induction m with
  | nil => rfl
  | cons a t ih =>
    obtain ⟨j, y⟩ := a
    have hj : (j == k) = false := by simpa using h (j, y) (by simp)
    simp only [SMap.get, hj, Bool.false_eq_true, if_false]
    split
    · rfl
    · exact ih fun e he => h e (by simp [he])

theorem SMap.get_erase_same (d : α) {m : SMap α} {k : Nat} (h : rising (m.map Prod.fst) = true) :
    SMap.get d (m.erase k) k = d := by
  induction m with
  | nil => rfl
  | cons a t ih =>
    obtain ⟨j, y⟩ := a
    simp only [SMap.erase]
    split
    · rename_i hj
      rw [beq_iff_eq] at hj
      subst hj
      refine SMap.get_absent d fun e he => ?_
      have := rising_head h (List.mem_map_of_mem (f := Prod.fst) he)
      omega
    · rename_i hj
      split
      · rename_i hk
        rw [SMap.get, if_neg hj, if_pos hk]
      · rename_i hk
        rw [SMap.get, if_neg hj, if_neg hk]
        exact ih (rising_tail h)

theorem SMap.get_erase_other (d : α) {m : SMap α} {k l : Nat} (hl : l ≠ k) (h : rising (m.map Prod.fst) = true) :
    SMap.get d (m.erase k) l = SMap.get d m l := by
  induction m with
  | nil => rfl
  | cons a t ih =>
    obtain ⟨j, y⟩ := a
    simp only [SMap.erase]
    split
    · rename_i hj
      rw [beq_iff_eq] at hj
      subst hj
      rw [SMap.get, if_neg (by simp; omega)]
      by_cases hlj : l < j
      · rw [if_pos hlj]
        refine SMap.get_absent d fun e he => ?_
        have := rising_head h (List.mem_map_of_mem (f := Prod.fst) he)
        omega
      · rw [if_neg hlj]
    · split
      · rfl
      · simp only [SMap.get, ih (rising_tail h)]

theorem SMap.get_set_same [DecidableEq α] (d : α) {m : SMap α} {k : Nat} (x : α)
    (h : rising (m.map Prod.fst) = true) : SMap.get d (SMap.set d m k x) k = x := by
  unfold SMap.set
  split
  · rename_i hx
    rw [SMap.get_erase_same d h, hx]
  · exact SMap.get_put_same d m k x

theorem SMap.get_set_other [DecidableEq α] (d : α) {m : SMap α} {k l : Nat} (x : α) (hl : l ≠ k)
    (h : rising (m.map Prod.fst) = true) : SMap.get d (SMap.set d m k x) l = SMap.get d m l := by
  unfold SMap.set
  split
  · exact SMap.get_erase_other d hl h
  · exact SMap.get_put_other d m x hl

/-! ## Sets -/

theorem NSet.mem_add {s : NSet} {k x : Nat} (h : x ∈ s.add k) : x = k ∨ x ∈ s := by
  induction s with
  | nil => simpa [NSet.add] using h
  | cons j t ih =>
    simp only [NSet.add] at h
    split at h
    · exact .inr h
    · split at h
      · rcases List.mem_cons.1 h with h | h
        · exact .inl h
        · exact .inr h
      · rcases List.mem_cons.1 h with h | h
        · exact .inr (by simp [h])
        · rcases ih h with h | h
          · exact .inl h
          · exact .inr (by simp [h])

theorem NSet.mem_del {s : NSet} {k x : Nat} (h : x ∈ s.del k) : x ∈ s := by
  induction s with
  | nil => simp [NSet.del] at h
  | cons j t ih =>
    simp only [NSet.del] at h
    split at h
    · simp [h]
    · split at h
      · exact h
      · rcases List.mem_cons.1 h with h | h
        · simp [h]
        · simp [ih h]

theorem NSet.rising_add {s : NSet} {k : Nat} (h : rising s = true) : rising (s.add k) = true := by
  induction s with
  | nil => rfl
  | cons j t ih =>
    simp only [NSet.add]
    split
    · exact h
    · rename_i hj
      rw [beq_iff_eq] at hj
      split
      · rename_i hk
        refine rising_cons h fun z hz => ?_
        rcases List.mem_cons.1 hz with rfl | hz
        · exact hk
        · exact Nat.lt_trans hk (rising_head h hz)
      · refine rising_cons (ih (rising_tail h)) fun z hz => ?_
        rcases NSet.mem_add hz with rfl | hz
        · omega
        · exact rising_head h hz

theorem NSet.rising_del {s : NSet} {k : Nat} (h : rising s = true) : rising (s.del k) = true := by
  induction s with
  | nil => rfl
  | cons j t ih =>
    simp only [NSet.del]
    split
    · exact rising_tail h
    · split
      · exact h
      · exact rising_cons (ih (rising_tail h)) fun z hz => rising_head h (NSet.mem_del hz)

theorem NSet.rising_setTo {s : NSet} {k : Nat} {b : Bool} (h : rising s = true) : rising (s.setTo k b) = true := by
  unfold NSet.setTo
  split
  · exact NSet.rising_add h
  · exact NSet.rising_del h

theorem NSet.rising_clear {s : NSet} {lo hi : Nat} (h : rising s = true) : rising (s.clear lo hi) = true :=
  rising_filter _ h

theorem NSet.rising_copy {s : NSet} {src dst n : Nat} (h : rising s = true) : rising (s.copy src dst n) = true := by
  have go : ∀ (ks : List Nat) (m : NSet), rising m = true → rising (ks.foldl NSet.add m) = true := by
    intro ks
    induction ks with
    | nil => exact fun m h => h
    | cons k t ih => exact fun m h => ih _ (NSet.rising_add h)
  exact go _ _ (NSet.rising_clear h)

theorem NSet.has_iff {s : NSet} {k : Nat} (h : rising s = true) : s.has k = true ↔ k ∈ s := by
  induction s with
  | nil => simp [NSet.has]
  | cons j t ih =>
    simp only [NSet.has, Bool.or_eq_true, beq_iff_eq, Bool.and_eq_true, decide_eq_true_eq, ih (rising_tail h),
      List.mem_cons]
    constructor
    · rintro (h | ⟨-, h⟩)
      · exact .inl h.symm
      · exact .inr h
    · rintro (h' | h')
      · exact .inl h'.symm
      · exact .inr ⟨rising_head h h', h'⟩

theorem NSet.mem_add_iff {s : NSet} {k x : Nat} : x ∈ s.add k ↔ x = k ∨ x ∈ s := by
  refine ⟨NSet.mem_add, fun h => ?_⟩
  induction s with
  | nil => simpa [NSet.add] using h
  | cons j t ih =>
    simp only [NSet.add]
    split
    · rename_i hj
      rw [beq_iff_eq] at hj
      rcases h with rfl | h
      · simp [hj]
      · exact h
    · split
      · simpa using h
      · rcases h with rfl | h
        · exact List.mem_cons_of_mem _ (ih (.inl rfl))
        · rcases List.mem_cons.1 h with rfl | h
          · simp
          · exact List.mem_cons_of_mem _ (ih (.inr h))

theorem NSet.mem_del_iff {s : NSet} {k x : Nat} (h : rising s = true) : x ∈ s.del k ↔ x ≠ k ∧ x ∈ s := by
  induction s with
  | nil => simp [NSet.del]
  | cons j t ih =>
    simp only [NSet.del]
    split
    · rename_i hj
      rw [beq_iff_eq] at hj
      subst hj
      constructor
      · intro hx
        have := rising_head h hx
        exact ⟨by omega, by simp [hx]⟩
      · rintro ⟨hx, hm⟩
        rcases List.mem_cons.1 hm with rfl | hm
        · exact absurd rfl hx
        · exact hm
    · rename_i hj
      rw [beq_iff_eq] at hj
      split
      · rename_i hk
        constructor
        · intro hx
          refine ⟨?_, hx⟩
          rintro rfl
          rcases List.mem_cons.1 hx with rfl | hx
          · exact hj rfl
          · have := rising_head h hx
            omega
        · exact fun h => h.2
      · simp only [List.mem_cons, ih (rising_tail h)]
        constructor
        · rintro (rfl | ⟨h1, h2⟩)
          · exact ⟨hj, .inl rfl⟩
          · exact ⟨h1, .inr h2⟩
        · rintro ⟨h1, rfl | h2⟩
          · exact .inl rfl
          · exact .inr ⟨h1, h2⟩

theorem NSet.has_setTo {s : NSet} {k l : Nat} {b : Bool} (h : rising s = true) :
    (s.setTo k b).has l = if l = k then b else s.has l := by
  rw [Bool.eq_iff_iff, NSet.has_iff (NSet.rising_setTo h)]
  unfold NSet.setTo
  cases b
  · simp only [Bool.false_eq_true, if_false, NSet.mem_del_iff h]
    split <;> simp_all [NSet.has_iff h]
  · simp only [if_true, NSet.mem_add_iff]
    split <;> simp_all [NSet.has_iff h]

/-! ## Memory -/

theorem Memory.wf_reset : (State.reset).mem.wf := by decide

theorem Memory.wf_setByte {m : Memory} {k : Nat} {b : Byte} (h : m.wf) : (m.setByte k b).wf := by
  obtain ⟨h1, h2, h3⟩ := h
  refine ⟨SMap.rising_set h1, ?_, h3⟩
  rw [List.all_eq_true] at h2 ⊢
  intro e he
  unfold Memory.setByte SMap.set at he
  simp only [] at he
  split at he
  · exact h2 e (SMap.mem_erase he)
  · rename_i hb
    rcases SMap.mem_put he with rfl | he
    · simpa using hb
    · exact h2 e he

theorem Memory.wf_write {m : Memory} {k : Nat} {bs : List Byte} (h : m.wf) : (m.write k bs).wf := by
  induction bs generalizing m k with
  | nil => exact h
  | cons b bs ih => exact ih (Memory.wf_setByte h)

theorem Memory.wf_setFull {m : Memory} {k : Nat} {b : Bool} (h : m.wf) : (m.setFull k b).wf :=
  ⟨h.1, h.2.1, NSet.rising_setTo h.2.2.1, h.2.2.2⟩

theorem Memory.wf_setTag {m : Memory} {k : Nat} {b : Bool} (h : m.wf) : (m.setTag k b).wf :=
  ⟨h.1, h.2.1, h.2.2.1, NSet.rising_setTo h.2.2.2.1, h.2.2.2.2⟩

theorem Memory.wf_setPoison {m : Memory} {k : Nat} {b : Bool} (h : m.wf) : (m.setPoison k b).wf :=
  ⟨h.1, h.2.1, h.2.2.1, h.2.2.2.1, NSet.rising_setTo h.2.2.2.2.1, h.2.2.2.2.2⟩

theorem Memory.wf_store {m : Memory} {k : Nat} {bs : List Byte} (h : m.wf) : (m.store k bs).wf := by
  unfold Memory.store
  have hw := Memory.wf_write (k := k) (bs := bs) h
  generalize m.write k bs = w at hw
  generalize granules k bs.length = gs
  induction gs generalizing w with
  | nil => exact hw
  | cons g gs ih =>
    refine ih _ ?_
    simp only []
    split
    · exact Memory.wf_setPoison (Memory.wf_setTag hw)
    · exact Memory.wf_setTag hw

theorem Memory.wf_wipe {m : Memory} {k n : Nat} (h : m.wf) : (m.wipe k n).wf := by
  refine ⟨SMap.rising_clear h.1, ?_, NSet.rising_clear h.2.2.1, NSet.rising_clear h.2.2.2.1,
    NSet.rising_clear h.2.2.2.2.1, h.2.2.2.2.2⟩
  have h2 := h.2.1
  rw [List.all_eq_true] at h2 ⊢
  intro e he
  exact h2 e (List.mem_filter.1 he).1

theorem Memory.wf_move {m : Memory} {src dst n : Nat} (h : m.wf) : (m.move src dst n).wf := by
  refine ⟨SMap.rising_copy h.1, ?_, NSet.rising_copy h.2.2.1, NSet.rising_copy h.2.2.2.1,
    NSet.rising_copy h.2.2.2.2.1, h.2.2.2.2.2⟩
  have h2 := h.2.1
  rw [List.all_eq_true] at h2 ⊢
  intro e he
  rcases SMap.mem_overlay he with he | he
  · obtain ⟨e', he', rfl⟩ := List.mem_map.1 he
    exact h2 e' (List.mem_filter.1 he').1
  · exact h2 e (List.mem_filter.1 he).1

theorem Memory.wf_starts {m : Memory} {ks : NSet} (h : m.wf) (hs : rising ks = true) : { m with starts := ks }.wf :=
  ⟨h.1, h.2.1, h.2.2.1, h.2.2.2.1, h.2.2.2.2.1, hs, h.2.2.2.2.2.2⟩

theorem Memory.wf_fwd {m : Memory} {f : SMap Nat} (h : m.wf) (hf : rising (f.map Prod.fst) = true) :
    { m with fwd := f }.wf :=
  ⟨h.1, h.2.1, h.2.2.1, h.2.2.2.1, h.2.2.2.2.1, h.2.2.2.2.2.1, hf⟩

theorem Memory.byte_setByte {m : Memory} {k l : Nat} {b : Byte} (h : m.wf) :
    (m.setByte k b).byte l = if l = k then b else m.byte l := by
  unfold Memory.byte Memory.setByte
  split
  · rename_i hl
    subst hl
    exact SMap.get_set_same 0 b h.1
  · rename_i hl
    exact SMap.get_set_other 0 b hl h.1

theorem Memory.byte_write {m : Memory} {k l : Nat} {bs : List Byte} (h : m.wf) :
    (m.write k bs).byte l = if k ≤ l ∧ l < k + bs.length then bs.getD (l - k) 0 else m.byte l := by
  induction bs generalizing m k with
  | nil => simp only [Memory.write, List.length_nil]; rw [if_neg (by omega)]
  | cons b bs ih =>
    rw [Memory.write, ih (Memory.wf_setByte h), Memory.byte_setByte h, List.length_cons]
    by_cases h1 : l = k
    · subst h1
      rw [if_neg (by omega), if_pos rfl, if_pos (by omega)]
      simp
    · by_cases h2 : k + 1 ≤ l ∧ l < k + 1 + bs.length
      · rw [if_pos h2, if_pos (by omega), show l - k = (l - (k + 1)) + 1 by omega]
        simp
      · rw [if_neg h2, if_neg h1, if_neg (by omega)]

/-- What a write leaves is what a read of the same bytes finds. -/
theorem Memory.read_write {m : Memory} {k : Nat} {bs : List Byte} (h : m.wf) : (m.write k bs).read k bs.length = bs := by
  induction bs generalizing m k with
  | nil => rfl
  | cons b bs ih =>
    rw [List.length_cons, Memory.read, Memory.byte_write h, if_pos (by simp)]
    congr 1
    · simp
    · exact ih (Memory.wf_setByte h)

theorem Memory.isFull_setFull {m : Memory} {k l : Nat} {b : Bool} (h : m.wf) :
    (m.setFull k b).isFull l = if l / 4 = k / 4 then b else m.isFull l := NSet.has_setTo h.2.2.1

theorem Memory.isTagged_setTag {m : Memory} {k l : Nat} {b : Bool} (h : m.wf) :
    (m.setTag k b).isTagged l = if l / 16 = k / 16 then b else m.isTagged l := NSet.has_setTo h.2.2.2.1

theorem Memory.isPoisoned_setPoison {m : Memory} {k l : Nat} {b : Bool} (h : m.wf) :
    (m.setPoison k b).isPoisoned l = if l / 16 = k / 16 then b else m.isPoisoned l := NSet.has_setTo h.2.2.2.2.1

end Sys2Proof.Machine
end

