-- ==== Sys2Proof/Laws/PerInstr.lean ====
section
/-! SUPPORT. One lemma for each instruction: the family Sized says that an encoded instruction takes one, two
or three parcels (R21, R28), and that an event takes none. -/

namespace Sys2Proof.Laws.Sized

/-- An instruction takes 0, 2, 4 or 6 bytes (R21, R28). -/
def Statement (i : Instr) : Prop := i.size = 0 ∨ i.size = 2 ∨ i.size = 4 ∨ i.size = 6

theorem add (wd : Bool) (d : Sc) (a : Sc) (b : Sc) : Statement (.add wd d a b) :=
  .inr (.inr (.inl rfl))

theorem sub (wd : Bool) (d : Sc) (a : Sc) (b : Sc) : Statement (.sub wd d a b) :=
  .inr (.inr (.inl rfl))

theorem mul (wd : Bool) (d : Sc) (a : Sc) (b : Sc) : Statement (.mul wd d a b) :=
  .inr (.inr (.inl rfl))

theorem mulh (wd : Bool) (d : Sc) (a : Sc) (b : Sc) : Statement (.mulh wd d a b) :=
  .inr (.inr (.inl rfl))

theorem mulhn (wd : Bool) (d : Sc) (a : Sc) (b : Sc) : Statement (.mulhn wd d a b) :=
  .inr (.inr (.inl rfl))

theorem div (wd : Bool) (d : Sc) (a : Sc) (b : Sc) : Statement (.div wd d a b) :=
  .inr (.inr (.inl rfl))

theorem divn (wd : Bool) (d : Sc) (a : Sc) (b : Sc) : Statement (.divn wd d a b) :=
  .inr (.inr (.inl rfl))

theorem rem (wd : Bool) (d : Sc) (a : Sc) (b : Sc) : Statement (.rem wd d a b) :=
  .inr (.inr (.inl rfl))

theorem remn (wd : Bool) (d : Sc) (a : Sc) (b : Sc) : Statement (.remn wd d a b) :=
  .inr (.inr (.inl rfl))

theorem and (wd : Bool) (d : Sc) (a : Sc) (b : Sc) : Statement (.and wd d a b) :=
  .inr (.inr (.inl rfl))

theorem or (wd : Bool) (d : Sc) (a : Sc) (b : Sc) : Statement (.or wd d a b) :=
  .inr (.inr (.inl rfl))

theorem xor (wd : Bool) (d : Sc) (a : Sc) (b : Sc) : Statement (.xor wd d a b) :=
  .inr (.inr (.inl rfl))

theorem shl (wd : Bool) (d : Sc) (a : Sc) (b : Sc) : Statement (.shl wd d a b) :=
  .inr (.inr (.inl rfl))

theorem shr (wd : Bool) (d : Sc) (a : Sc) (b : Sc) : Statement (.shr wd d a b) :=
  .inr (.inr (.inl rfl))

theorem sar (wd : Bool) (d : Sc) (a : Sc) (b : Sc) : Statement (.sar wd d a b) :=
  .inr (.inr (.inl rfl))

theorem rol (wd : Bool) (d : Sc) (a : Sc) (b : Sc) : Statement (.rol wd d a b) :=
  .inr (.inr (.inl rfl))

theorem clz (wd : Bool) (d : Sc) (a : Sc) : Statement (.clz wd d a) :=
  .inr (.inr (.inl rfl))

theorem ctz (wd : Bool) (d : Sc) (a : Sc) : Statement (.ctz wd d a) :=
  .inr (.inr (.inl rfl))

theorem popc (wd : Bool) (d : Sc) (a : Sc) : Statement (.popc wd d a) :=
  .inr (.inr (.inl rfl))

theorem abs (wd : Bool) (d : Sc) (a : Sc) : Statement (.abs wd d a) :=
  .inr (.inr (.inl rfl))

theorem min (wd : Bool) (d : Sc) (a : Sc) (b : Sc) : Statement (.min wd d a b) :=
  .inr (.inr (.inl rfl))

theorem minn (wd : Bool) (d : Sc) (a : Sc) (b : Sc) : Statement (.minn wd d a b) :=
  .inr (.inr (.inl rfl))

theorem max (wd : Bool) (d : Sc) (a : Sc) (b : Sc) : Statement (.max wd d a b) :=
  .inr (.inr (.inl rfl))

theorem maxn (wd : Bool) (d : Sc) (a : Sc) (b : Sc) : Statement (.maxn wd d a b) :=
  .inr (.inr (.inl rfl))

theorem seq (wd : Bool) (d : Sc) (a : Sc) (b : Sc) : Statement (.seq wd d a b) :=
  .inr (.inr (.inl rfl))

theorem sne (wd : Bool) (d : Sc) (a : Sc) (b : Sc) : Statement (.sne wd d a b) :=
  .inr (.inr (.inl rfl))

theorem slt (wd : Bool) (d : Sc) (a : Sc) (b : Sc) : Statement (.slt wd d a b) :=
  .inr (.inr (.inl rfl))

theorem slb (wd : Bool) (d : Sc) (a : Sc) (b : Sc) : Statement (.slb wd d a b) :=
  .inr (.inr (.inl rfl))

theorem sel (wd : Bool) (d : Sc) (c : Fin 16) (a : Sc) (b : Sc) : Statement (.sel wd d c a b) :=
  .inr (.inr (.inl rfl))

theorem addi (wd : Bool) (d : Sc) (a : Sc) (imm : BitVec 10) : Statement (.addi wd d a imm) :=
  .inr (.inr (.inl rfl))

theorem andi (wd : Bool) (d : Sc) (a : Sc) (imm : BitVec 10) : Statement (.andi wd d a imm) :=
  .inr (.inr (.inl rfl))

theorem ori (wd : Bool) (d : Sc) (a : Sc) (imm : BitVec 10) : Statement (.ori wd d a imm) :=
  .inr (.inr (.inl rfl))

theorem xori (wd : Bool) (d : Sc) (a : Sc) (imm : BitVec 10) : Statement (.xori wd d a imm) :=
  .inr (.inr (.inl rfl))

theorem shli (wd : Bool) (d : Sc) (a : Sc) (n : Fin 64) : Statement (.shli wd d a n) :=
  .inr (.inr (.inl rfl))

theorem shri (wd : Bool) (d : Sc) (a : Sc) (n : Fin 64) : Statement (.shri wd d a n) :=
  .inr (.inr (.inl rfl))

theorem sari (wd : Bool) (d : Sc) (a : Sc) (n : Fin 64) : Statement (.sari wd d a n) :=
  .inr (.inr (.inl rfl))

theorem movi (d : Sc) (imm : BitVec 18) : Statement (.movi d imm) :=
  .inr (.inr (.inl rfl))

theorem movhi (d : Sc) (imm : BitVec 16) (k : Fin 4) : Statement (.movhi d imm k) :=
  .inr (.inr (.inl rfl))

theorem bfx (d : Sc) (a : Sc) (pos : Fin 64) (lm : Fin 64) : Statement (.bfx d a pos lm) :=
  .inr (.inr (.inl rfl))

theorem bfi (d : Sc) (a : Sc) (pos : Fin 64) (lm : Fin 64) : Statement (.bfi d a pos lm) :=
  .inr (.inr (.inl rfl))

theorem beq (a : Sc) (b : Sc) (off : BitVec 10) : Statement (.beq a b off) :=
  .inr (.inr (.inl rfl))

theorem bne (a : Sc) (b : Sc) (off : BitVec 10) : Statement (.bne a b off) :=
  .inr (.inr (.inl rfl))

theorem blt (a : Sc) (b : Sc) (off : BitVec 10) : Statement (.blt a b off) :=
  .inr (.inr (.inl rfl))

theorem bge (a : Sc) (b : Sc) (off : BitVec 10) : Statement (.bge a b off) :=
  .inr (.inr (.inl rfl))

theorem blo (a : Sc) (b : Sc) (off : BitVec 10) : Statement (.blo a b off) :=
  .inr (.inr (.inl rfl))

theorem bhs (a : Sc) (b : Sc) (off : BitVec 10) : Statement (.bhs a b off) :=
  .inr (.inr (.inl rfl))

theorem bz (a : Sc) (off : BitVec 10) : Statement (.bz a off) :=
  .inr (.inr (.inl rfl))

theorem bnz (a : Sc) (off : BitVec 10) : Statement (.bnz a off) :=
  .inr (.inr (.inl rfl))

theorem b (t : BitVec 24) : Statement (.b t) :=
  .inr (.inr (.inl rfl))

theorem j (t : BitVec 24) : Statement (.j t) :=
  .inr (.inr (.inl rfl))

theorem call (t : BitVec 24) : Statement (.call t) :=
  .inr (.inr (.inl rfl))

theorem loop (a : Sc) (len : BitVec 16) : Statement (.loop a len) :=
  .inr (.inr (.inl rfl))

theorem loopi (n : BitVec 8) (len : BitVec 16) : Statement (.loopi n len) :=
  .inr (.inr (.inl rfl))

theorem sig (t : BitVec 24) : Statement (.sig t) :=
  .inr (.inr (.inl rfl))

theorem done : Statement (.done) :=
  .inr (.inr (.inl rfl))

theorem yield : Statement (.yield) :=
  .inr (.inr (.inl rfl))

theorem wfe : Statement (.wfe) :=
  .inr (.inr (.inl rfl))

theorem sev : Statement (.sev) :=
  .inr (.inr (.inl rfl))

theorem brk (imm : BitVec 12) : Statement (.brk imm) :=
  .inr (.inr (.inl rfl))

theorem sysc (imm : BitVec 12) : Statement (.sysc imm) :=
  .inr (.inr (.inl rfl))

theorem eret : Statement (.eret) :=
  .inr (.inr (.inl rfl))

theorem jr (a : Sc) : Statement (.jr a) :=
  .inr (.inr (.inl rfl))

theorem callr (a : Sc) : Statement (.callr a) :=
  .inr (.inr (.inl rfl))

theorem ret : Statement (.ret) :=
  .inr (.inr (.inl rfl))

theorem clen (a : Sc) : Statement (.clen a) :=
  .inr (.inr (.inl rfl))

theorem cldis (a : Sc) : Statement (.cldis a) :=
  .inr (.inr (.inl rfl))

theorem clpend (b : Sc) (a : Sc) : Statement (.clpend b a) :=
  .inr (.inr (.inl rfl))

theorem savew (a : Sc) : Statement (.savew a) :=
  .inr (.inr (.inl rfl))

theorem loadw (a : Sc) : Statement (.loadw a) :=
  .inr (.inr (.inl rfl))

theorem ctxrd (b : Sc) (a : Sc) : Statement (.ctxrd b a) :=
  .inr (.inr (.inl rfl))

theorem ctxwr (a : Sc) (b : Sc) : Statement (.ctxwr a b) :=
  .inr (.inr (.inl rfl))

theorem fence (pred : BitVec 3) (succ : BitVec 3) (scope : Fin 8) : Statement (.fence pred succ scope) :=
  .inr (.inr (.inl rfl))

theorem linkc (dir : Fin 4) : Statement (.linkc dir) :=
  .inr (.inr (.inl rfl))

theorem linkf (dir : Fin 4) : Statement (.linkf dir) :=
  .inr (.inr (.inl rfl))

theorem gbar (a : Sc) : Statement (.gbar a) :=
  .inr (.inr (.inl rfl))

theorem gwait (a : Sc) : Statement (.gwait a) :=
  .inr (.inr (.inl rfl))

theorem sift (a : Sc) : Statement (.sift a) :=
  .inr (.inr (.inl rfl))

theorem launch (p : Pr) : Statement (.launch p) :=
  .inr (.inr (.inl rfl))

theorem cancel (a : Sc) : Statement (.cancel a) :=
  .inr (.inr (.inl rfl))

theorem xinv (p : Pr) : Statement (.xinv p) :=
  .inr (.inr (.inl rfl))

theorem trace (a : Sc) : Statement (.trace a) :=
  .inr (.inr (.inl rfl))

theorem ctrsnap (p : Pr) : Statement (.ctrsnap p) :=
  .inr (.inr (.inl rfl))

theorem csrr (d : Sc) (csr : BitVec 12) : Statement (.csrr d csr) :=
  .inr (.inr (.inl rfl))

theorem csrw (d : Sc) (csr : BitVec 12) : Statement (.csrw d csr) :=
  .inr (.inr (.inl rfl))

theorem csrset (d : Sc) (csr : BitVec 12) : Statement (.csrset d csr) :=
  .inr (.inr (.inl rfl))

theorem csrclr (d : Sc) (csr : BitVec 12) : Statement (.csrclr d csr) :=
  .inr (.inr (.inl rfl))

theorem ld (d : Sc) (x : Bool) (sgn : Bool) (sz : Fin 4) (os : Fin 16) (p : Pr) (off : Fin 32) : Statement (.ld d x sgn sz os p off) :=
  .inr (.inr (.inl rfl))

theorem ldw (d : Sc) (x : Bool) (sgn : Bool) (sz : Fin 4) (os : Fin 16) (p : Pr) (off : Fin 32) : Statement (.ldw d x sgn sz os p off) :=
  .inr (.inr (.inl rfl))

theorem ldc (d : Sc) (x : Bool) (sgn : Bool) (sz : Fin 4) (os : Fin 16) (p : Pr) (off : Fin 32) : Statement (.ldc d x sgn sz os p off) :=
  .inr (.inr (.inl rfl))

theorem st (d : Sc) (x : Bool) (sgn : Bool) (sz : Fin 4) (os : Fin 16) (p : Pr) (off : Fin 32) : Statement (.st d x sgn sz os p off) :=
  .inr (.inr (.inl rfl))

theorem stf (d : Sc) (x : Bool) (sgn : Bool) (sz : Fin 4) (os : Fin 16) (p : Pr) (off : Fin 32) : Statement (.stf d x sgn sz os p off) :=
  .inr (.inr (.inl rfl))

theorem feget (d : Sc) (x : Bool) (os : Fin 16) (p : Pr) (off : Fin 32) : Statement (.feget d x os p off) :=
  .inr (.inr (.inl rfl))

theorem feset (d : Sc) (x : Bool) (full : Bool) (os : Fin 16) (p : Pr) (off : Fin 32) : Statement (.feset d x full os p off) :=
  .inr (.inr (.inl rfl))

theorem pld (q : Pr) (x : Bool) (os : Fin 16) (p : Pr) (off : Fin 32) : Statement (.pld q x os p off) :=
  .inr (.inr (.inl rfl))

theorem pst (q : Pr) (x : Bool) (os : Fin 16) (p : Pr) (off : Fin 32) : Statement (.pst q x os p off) :=
  .inr (.inr (.inl rfl))

theorem new (pd : Pr) (kind : Fin 16) (a : Sc) (perm : BitVec 5) : Statement (.new pd kind a perm) :=
  .inr (.inr (.inl rfl))

theorem newp (pd : Pr) (kind : Fin 16) (a : Sc) (perm : BitVec 5) : Statement (.newp pd kind a perm) :=
  .inr (.inr (.inl rfl))

theorem vld (v : Vc) (x : Bool) (m : Mk) (os : Fin 16) (p : Pr) (off : Fin 32) : Statement (.vld v x m os p off) :=
  .inr (.inr (.inl rfl))

theorem vldw (v : Vc) (x : Bool) (m : Mk) (os : Fin 16) (p : Pr) (off : Fin 32) : Statement (.vldw v x m os p off) :=
  .inr (.inr (.inl rfl))

theorem vldc (v : Vc) (x : Bool) (m : Mk) (os : Fin 16) (p : Pr) (off : Fin 32) : Statement (.vldc v x m os p off) :=
  .inr (.inr (.inl rfl))

theorem vst (v : Vc) (x : Bool) (m : Mk) (os : Fin 16) (p : Pr) (off : Fin 32) : Statement (.vst v x m os p off) :=
  .inr (.inr (.inl rfl))

theorem vstf (v : Vc) (x : Bool) (m : Mk) (os : Fin 16) (p : Pr) (off : Fin 32) : Statement (.vstf v x m os p off) :=
  .inr (.inr (.inl rfl))

theorem vgath (v : Vc) (m : Mk) (os : Fin 16) (p : Pr) (vi : Fin 32) : Statement (.vgath v m os p vi) :=
  .inr (.inr (.inl rfl))

theorem vscat (v : Vc) (m : Mk) (os : Fin 16) (p : Pr) (vi : Fin 32) : Statement (.vscat v m os p vi) :=
  .inr (.inr (.inl rfl))

theorem padd (pa : Pr) (pb : Pr) (s : Sc) : Statement (.padd pa pb s) :=
  .inr (.inr (.inl rfl))

theorem pnarrow (pa : Pr) (pb : Pr) (s : Sc) (t : Sc) : Statement (.pnarrow pa pb s t) :=
  .inr (.inr (.inl rfl))

theorem pview (pa : Pr) (pb : Pr) (view : Fin 8) : Statement (.pview pa pb view) :=
  .inr (.inr (.inl rfl))

theorem pperm (pa : Pr) (pb : Pr) (mask : BitVec 4) : Statement (.pperm pa pb mask) :=
  .inr (.inr (.inl rfl))

theorem plen (s : Sc) (pb : Pr) : Statement (.plen s pb) :=
  .inr (.inr (.inl rfl))

theorem pcmp (s : Sc) (pa : Pr) (pb : Pr) : Statement (.pcmp s pa pb) :=
  .inr (.inr (.inl rfl))

theorem pmov (pa : Pr) (pb : Pr) : Statement (.pmov pa pb) :=
  .inr (.inr (.inl rfl))

theorem touch (pa : Pr) : Statement (.touch pa) :=
  .inr (.inr (.inl rfl))

theorem acq (pa : Pr) (scope : Fin 8) : Statement (.acq pa scope) :=
  .inr (.inr (.inl rfl))

theorem rel (pa : Pr) (scope : Fin 8) : Statement (.rel pa scope) :=
  .inr (.inr (.inl rfl))

theorem vadd (vx : Vx) (d : Vc) (a : Vc) (b : Vc) : Statement (.vadd vx d a b) :=
  match vx with
  | ⟨_, none⟩ => .inr (.inr (.inl rfl))
  | ⟨_, some _⟩ => .inr (.inr (.inr rfl))

theorem vsub (vx : Vx) (d : Vc) (a : Vc) (b : Vc) : Statement (.vsub vx d a b) :=
  match vx with
  | ⟨_, none⟩ => .inr (.inr (.inl rfl))
  | ⟨_, some _⟩ => .inr (.inr (.inr rfl))

theorem vmul (vx : Vx) (d : Vc) (a : Vc) (b : Vc) : Statement (.vmul vx d a b) :=
  match vx with
  | ⟨_, none⟩ => .inr (.inr (.inl rfl))
  | ⟨_, some _⟩ => .inr (.inr (.inr rfl))

theorem vfma (vx : Vx) (d : Vc) (a : Vc) (b : Vc) : Statement (.vfma vx d a b) :=
  match vx with
  | ⟨_, none⟩ => .inr (.inr (.inl rfl))
  | ⟨_, some _⟩ => .inr (.inr (.inr rfl))

theorem vfms (vx : Vx) (d : Vc) (a : Vc) (b : Vc) : Statement (.vfms vx d a b) :=
  match vx with
  | ⟨_, none⟩ => .inr (.inr (.inl rfl))
  | ⟨_, some _⟩ => .inr (.inr (.inr rfl))

theorem vmin (vx : Vx) (d : Vc) (a : Vc) (b : Vc) : Statement (.vmin vx d a b) :=
  match vx with
  | ⟨_, none⟩ => .inr (.inr (.inl rfl))
  | ⟨_, some _⟩ => .inr (.inr (.inr rfl))

theorem vmax (vx : Vx) (d : Vc) (a : Vc) (b : Vc) : Statement (.vmax vx d a b) :=
  match vx with
  | ⟨_, none⟩ => .inr (.inr (.inl rfl))
  | ⟨_, some _⟩ => .inr (.inr (.inr rfl))

theorem vclamp (vx : Vx) (d : Vc) (a : Vc) (b : Vc) : Statement (.vclamp vx d a b) :=
  match vx with
  | ⟨_, none⟩ => .inr (.inr (.inl rfl))
  | ⟨_, some _⟩ => .inr (.inr (.inr rfl))

theorem vand (vx : Vx) (d : Vc) (a : Vc) (b : Vc) : Statement (.vand vx d a b) :=
  match vx with
  | ⟨_, none⟩ => .inr (.inr (.inl rfl))
  | ⟨_, some _⟩ => .inr (.inr (.inr rfl))

theorem vor (vx : Vx) (d : Vc) (a : Vc) (b : Vc) : Statement (.vor vx d a b) :=
  match vx with
  | ⟨_, none⟩ => .inr (.inr (.inl rfl))
  | ⟨_, some _⟩ => .inr (.inr (.inr rfl))

theorem vxor (vx : Vx) (d : Vc) (a : Vc) (b : Vc) : Statement (.vxor vx d a b) :=
  match vx with
  | ⟨_, none⟩ => .inr (.inr (.inl rfl))
  | ⟨_, some _⟩ => .inr (.inr (.inr rfl))

theorem vshl (vx : Vx) (d : Vc) (a : Vc) (b : Vc) : Statement (.vshl vx d a b) :=
  match vx with
  | ⟨_, none⟩ => .inr (.inr (.inl rfl))
  | ⟨_, some _⟩ => .inr (.inr (.inr rfl))

theorem vshr (vx : Vx) (d : Vc) (a : Vc) (b : Vc) : Statement (.vshr vx d a b) :=
  match vx with
  | ⟨_, none⟩ => .inr (.inr (.inl rfl))
  | ⟨_, some _⟩ => .inr (.inr (.inr rfl))

theorem vsar (vx : Vx) (d : Vc) (a : Vc) (b : Vc) : Statement (.vsar vx d a b) :=
  match vx with
  | ⟨_, none⟩ => .inr (.inr (.inl rfl))
  | ⟨_, some _⟩ => .inr (.inr (.inr rfl))

theorem vdot (vx : Vx) (d : Vc) (a : Vc) (b : Vc) : Statement (.vdot vx d a b) :=
  match vx with
  | ⟨_, none⟩ => .inr (.inr (.inl rfl))
  | ⟨_, some _⟩ => .inr (.inr (.inr rfl))

theorem vperm (vx : Vx) (d : Vc) (a : Vc) (b : Vc) : Statement (.vperm vx d a b) :=
  match vx with
  | ⟨_, none⟩ => .inr (.inr (.inl rfl))
  | ⟨_, some _⟩ => .inr (.inr (.inr rfl))

theorem vabs (vx : Vx) (d : Vc) (a : Vc) : Statement (.vabs vx d a) :=
  match vx with
  | ⟨_, none⟩ => .inr (.inr (.inl rfl))
  | ⟨_, some _⟩ => .inr (.inr (.inr rfl))

theorem vneg (vx : Vx) (d : Vc) (a : Vc) : Statement (.vneg vx d a) :=
  match vx with
  | ⟨_, none⟩ => .inr (.inr (.inl rfl))
  | ⟨_, some _⟩ => .inr (.inr (.inr rfl))

theorem vrcp (vx : Vx) (d : Vc) (a : Vc) : Statement (.vrcp vx d a) :=
  match vx with
  | ⟨_, none⟩ => .inr (.inr (.inl rfl))
  | ⟨_, some _⟩ => .inr (.inr (.inr rfl))

theorem vrsq (vx : Vx) (d : Vc) (a : Vc) : Statement (.vrsq vx d a) :=
  match vx with
  | ⟨_, none⟩ => .inr (.inr (.inl rfl))
  | ⟨_, some _⟩ => .inr (.inr (.inr rfl))

theorem vexp2 (vx : Vx) (d : Vc) (a : Vc) : Statement (.vexp2 vx d a) :=
  match vx with
  | ⟨_, none⟩ => .inr (.inr (.inl rfl))
  | ⟨_, some _⟩ => .inr (.inr (.inr rfl))

theorem vlog2 (vx : Vx) (d : Vc) (a : Vc) : Statement (.vlog2 vx d a) :=
  match vx with
  | ⟨_, none⟩ => .inr (.inr (.inl rfl))
  | ⟨_, some _⟩ => .inr (.inr (.inr rfl))

theorem vmov (vx : Vx) (d : Vc) (a : Vc) : Statement (.vmov vx d a) :=
  match vx with
  | ⟨_, none⟩ => .inr (.inr (.inl rfl))
  | ⟨_, some _⟩ => .inr (.inr (.inr rfl))

theorem viota (vx : Vx) (d : Vc) : Statement (.viota vx d) :=
  match vx with
  | ⟨_, none⟩ => .inr (.inr (.inl rfl))
  | ⟨_, some _⟩ => .inr (.inr (.inr rfl))

theorem vbcast (vx : Vx) (d : Vc) (a : Sc) : Statement (.vbcast vx d a) :=
  match vx with
  | ⟨_, none⟩ => .inr (.inr (.inl rfl))
  | ⟨_, some _⟩ => .inr (.inr (.inr rfl))

theorem vins (vx : Vx) (d : Vc) (a : Sc) (lane : Fin 64) : Statement (.vins vx d a lane) :=
  match vx with
  | ⟨_, none⟩ => .inr (.inr (.inl rfl))
  | ⟨_, some _⟩ => .inr (.inr (.inr rfl))

theorem vext (vx : Vx) (d : Sc) (a : Vc) (lane : Fin 64) : Statement (.vext vx d a lane) :=
  match vx with
  | ⟨_, none⟩ => .inr (.inr (.inl rfl))
  | ⟨_, some _⟩ => .inr (.inr (.inr rfl))

theorem vcmp (vx : Vx) (md : Mk) (a : Vc) (b : Vc) (cond : Fin 8) : Statement (.vcmp vx md a b cond) :=
  match vx with
  | ⟨_, none⟩ => .inr (.inr (.inl rfl))
  | ⟨_, some _⟩ => .inr (.inr (.inr rfl))

theorem vsel (vx : Vx) (d : Vc) (a : Vc) (b : Vc) : Statement (.vsel vx d a b) :=
  match vx with
  | ⟨_, none⟩ => .inr (.inr (.inl rfl))
  | ⟨_, some _⟩ => .inr (.inr (.inr rfl))

theorem vred (vx : Vx) (d : Vc) (a : Vc) (op : Fin 64) : Statement (.vred vx d a op) :=
  match vx with
  | ⟨_, none⟩ => .inr (.inr (.inl rfl))
  | ⟨_, some _⟩ => .inr (.inr (.inr rfl))

theorem vscan (vx : Vx) (d : Vc) (a : Vc) (op : Fin 64) : Statement (.vscan vx d a op) :=
  match vx with
  | ⟨_, none⟩ => .inr (.inr (.inl rfl))
  | ⟨_, some _⟩ => .inr (.inr (.inr rfl))

theorem vcvt (vx : Vx) (d : Vc) (a : Vc) (src : Fin 64) : Statement (.vcvt vx d a src) :=
  match vx with
  | ⟨_, none⟩ => .inr (.inr (.inl rfl))
  | ⟨_, some _⟩ => .inr (.inr (.inr rfl))

theorem vqnt (vx : Vx) (d : Vc) (a : Vc) : Statement (.vqnt vx d a) :=
  match vx with
  | ⟨_, none⟩ => .inr (.inr (.inl rfl))
  | ⟨_, some _⟩ => .inr (.inr (.inr rfl))

theorem vdq (vx : Vx) (d : Vc) (a : Vc) : Statement (.vdq vx d a) :=
  match vx with
  | ⟨_, none⟩ => .inr (.inr (.inl rfl))
  | ⟨_, some _⟩ => .inr (.inr (.inr rfl))

theorem mand (md : Mk) (ma : Mk) (mb : Mk) : Statement (.mand md ma mb) :=
  .inr (.inr (.inl rfl))

theorem mor (md : Mk) (ma : Mk) (mb : Mk) : Statement (.mor md ma mb) :=
  .inr (.inr (.inl rfl))

theorem mxor (md : Mk) (ma : Mk) (mb : Mk) : Statement (.mxor md ma mb) :=
  .inr (.inr (.inl rfl))

theorem mnot (md : Mk) (ma : Mk) : Statement (.mnot md ma) :=
  .inr (.inr (.inl rfl))

theorem many (d : Sc) (ma : Mk) : Statement (.many d ma) :=
  .inr (.inr (.inl rfl))

theorem mall (d : Sc) (ma : Mk) : Statement (.mall d ma) :=
  .inr (.inr (.inl rfl))

theorem mpop (d : Sc) (ma : Mk) : Statement (.mpop d ma) :=
  .inr (.inr (.inl rfl))

theorem mfirst (d : Sc) (ma : Mk) : Statement (.mfirst d ma) :=
  .inr (.inr (.inl rfl))

theorem mfrom (md : Mk) (a : Sc) : Statement (.mfrom md a) :=
  .inr (.inr (.inl rfl))

theorem mto (d : Sc) (ma : Mk) : Statement (.mto d ma) :=
  .inr (.inr (.inl rfl))

theorem mset (md : Mk) (imm : BitVec 16) : Statement (.mset md imm) :=
  .inr (.inr (.inl rfl))

theorem mma (c : Tl) (pa : Pr) (tma : Tm) (pb : Pr) (tmb : Tm) (ty : Fin 16) : Statement (.mma c pa tma pb tmb ty) :=
  .inr (.inr (.inl rfl))

theorem mmaz (c : Tl) (pa : Pr) (tma : Tm) (pb : Pr) (tmb : Tm) (ty : Fin 16) : Statement (.mmaz c pa tma pb tmb ty) :=
  .inr (.inr (.inl rfl))

theorem mcks (c : Tl) (pa : Pr) (tma : Tm) (pb : Pr) (tmb : Tm) (ty : Fin 16) : Statement (.mcks c pa tma pb tmb ty) :=
  .inr (.inr (.inl rfl))

theorem shmma (c : Tl) (pa : Pr) (tma : Tm) (pb : Pr) (tmb : Tm) (ty : Fin 16) : Statement (.shmma c pa tma pb tmb ty) :=
  .inr (.inr (.inl rfl))

theorem mchk (s : Sc) (c : Tl) : Statement (.mchk s c) :=
  .inr (.inr (.inl rfl))

theorem mfix (c : Tl) (s : Sc) : Statement (.mfix c s) :=
  .inr (.inr (.inl rfl))

theorem mld (p : Pr) (tm : Tm) : Statement (.mld p tm) :=
  .inr (.inr (.inl rfl))

theorem maccld (c : Tl) (p : Pr) : Statement (.maccld c p) :=
  .inr (.inr (.inl rfl))

theorem maccst (p : Pr) (c : Tl) : Statement (.maccst p c) :=
  .inr (.inr (.inl rfl))

theorem mzero (c : Tl) : Statement (.mzero c) :=
  .inr (.inr (.inl rfl))

theorem mtr (c : Tl) : Statement (.mtr c) :=
  .inr (.inr (.inl rfl))

theorem mcmd (s : Sc) (p : Pr) : Statement (.mcmd s p) :=
  .inr (.inr (.inl rfl))

theorem tmset (tm : Tm) (p : Pr) : Statement (.tmset tm p) :=
  .inr (.inr (.inl rfl))

theorem tmget (p : Pr) (tm : Tm) : Statement (.tmget p tm) :=
  .inr (.inr (.inl rfl))

theorem wdrun (p : Pr) (slot : Fin 16) : Statement (.wdrun p slot) :=
  .inr (.inr (.inl rfl))

theorem wdres : Statement (.wdres) :=
  .inr (.inr (.inl rfl))

theorem wdq (s : Sc) : Statement (.wdq s) :=
  .inr (.inr (.inl rfl))

theorem send (a : Sc) (b : Sc) (p : Pr) : Statement (.send a b p) :=
  .inr (.inr (.inl rfl))

theorem sendv (a : Sc) (b : Sc) (v : Vc) : Statement (.sendv a b v) :=
  .inr (.inr (.inl rfl))

theorem reply (b : Sc) (p : Pr) : Statement (.reply b p) :=
  .inr (.inr (.inl rfl))

theorem sendh (a : Sc) (b : Sc) (p : Pr) : Statement (.sendh a b p) :=
  .inr (.inr (.inl rfl))

theorem copy (d : Sc) (p : Pr) (pg : Pr) : Statement (.copy d p pg) :=
  .inr (.inr (.inl rfl))

theorem copyq (d : Sc) (a : Sc) : Statement (.copyq d a) :=
  .inr (.inr (.inl rfl))

theorem copyw (a : Sc) : Statement (.copyw a) :=
  .inr (.inr (.inl rfl))

theorem quiesce : Statement (.quiesce) :=
  .inr (.inr (.inl rfl))

theorem strm (x : Fin 8) (p : Pr) (tm : Tm) : Statement (.strm x p tm) :=
  .inr (.inr (.inl rfl))

theorem strmx (x : Fin 8) : Statement (.strmx x) :=
  .inr (.inr (.inl rfl))

theorem rise (p : Pr) (a : Sc) : Statement (.rise p a) :=
  .inr (.inr (.inl rfl))

theorem risew (p : Pr) (a : Sc) : Statement (.risew p a) :=
  .inr (.inr (.inl rfl))

theorem hatch (a : Sc) : Statement (.hatch a) :=
  .inr (.inr (.inl rfl))

theorem shjoin (a : Sc) : Statement (.shjoin a) :=
  .inr (.inr (.inl rfl))

theorem shleave : Statement (.shleave) :=
  .inr (.inr (.inl rfl))

theorem amoadd (d : R5) (p : Pr) (b : Sc) (os : Fin 16) (ty : Fin 4) : Statement (.amoadd d p b os ty) :=
  .inr (.inr (.inl rfl))

theorem amofadd (d : R5) (p : Pr) (b : Sc) (os : Fin 16) (ty : Fin 4) : Statement (.amofadd d p b os ty) :=
  .inr (.inr (.inl rfl))

theorem amomin (d : R5) (p : Pr) (b : Sc) (os : Fin 16) (ty : Fin 4) : Statement (.amomin d p b os ty) :=
  .inr (.inr (.inl rfl))

theorem amomax (d : R5) (p : Pr) (b : Sc) (os : Fin 16) (ty : Fin 4) : Statement (.amomax d p b os ty) :=
  .inr (.inr (.inl rfl))

theorem amoswp (d : R5) (p : Pr) (b : Sc) (os : Fin 16) (ty : Fin 4) : Statement (.amoswp d p b os ty) :=
  .inr (.inr (.inl rfl))

theorem amocas (d : R5) (p : Pr) (b : Sc) (os : Fin 16) (ty : Fin 4) : Statement (.amocas d p b os ty) :=
  .inr (.inr (.inl rfl))

theorem amologAnd (d : R5) (p : Pr) (b : Sc) (os : Fin 16) (ty : Fin 4) : Statement (.amologAnd d p b os ty) :=
  .inr (.inr (.inl rfl))

theorem amologOr (d : R5) (p : Pr) (b : Sc) (os : Fin 16) (ty : Fin 4) : Statement (.amologOr d p b os ty) :=
  .inr (.inr (.inl rfl))

theorem amologXor (d : R5) (p : Pr) (b : Sc) (os : Fin 16) (ty : Fin 4) : Statement (.amologXor d p b os ty) :=
  .inr (.inr (.inl rfl))

theorem addiCompact (d : R5) (imm : BitVec 6) : Statement (.addiCompact d imm) :=
  .inr (.inl rfl)

theorem moviCompact (d : R5) (imm : BitVec 6) : Statement (.moviCompact d imm) :=
  .inr (.inl rfl)

theorem shliCompact (d : R5) (n : Fin 64) : Statement (.shliCompact d n) :=
  .inr (.inl rfl)

theorem shriCompact (d : R5) (n : Fin 64) : Statement (.shriCompact d n) :=
  .inr (.inl rfl)

theorem sariCompact (d : R5) (n : Fin 64) : Statement (.sariCompact d n) :=
  .inr (.inl rfl)

theorem addCompact (d : R5) (a : R5) : Statement (.addCompact d a) :=
  .inr (.inl rfl)

theorem subCompact (d : R5) (a : R5) : Statement (.subCompact d a) :=
  .inr (.inl rfl)

theorem andCompact (d : R5) (a : R5) : Statement (.andCompact d a) :=
  .inr (.inl rfl)

theorem orCompact (d : R5) (a : R5) : Statement (.orCompact d a) :=
  .inr (.inl rfl)

theorem xorCompact (d : R5) (a : R5) : Statement (.xorCompact d a) :=
  .inr (.inl rfl)

theorem addMoveCompact (d : R5) (a : R5) : Statement (.addMoveCompact d a) :=
  .inr (.inl rfl)

theorem bzCompact (a : R5) (off : BitVec 6) : Statement (.bzCompact a off) :=
  .inr (.inl rfl)

theorem bnzCompact (a : R5) (off : BitVec 6) : Statement (.bnzCompact a off) :=
  .inr (.inl rfl)

theorem bCompact (off : BitVec 11) : Statement (.bCompact off) :=
  .inr (.inl rfl)

theorem ldS64Compact (d : R5) (p : Fin 8) (k : Fin 8) : Statement (.ldS64Compact d p k) :=
  .inr (.inl rfl)

theorem stS64Compact (d : R5) (p : Fin 8) (k : Fin 8) : Statement (.stS64Compact d p k) :=
  .inr (.inl rfl)

theorem ldS32Compact (d : R5) (p : Fin 8) (k : Fin 8) : Statement (.ldS32Compact d p k) :=
  .inr (.inl rfl)

theorem stS32Compact (d : R5) (p : Fin 8) (k : Fin 8) : Statement (.stS32Compact d p k) :=
  .inr (.inl rfl)

theorem doneCompact : Statement (.doneCompact) :=
  .inr (.inl rfl)

theorem yieldCompact : Statement (.yieldCompact) :=
  .inr (.inl rfl)

theorem retCompact : Statement (.retCompact) :=
  .inr (.inl rfl)

theorem jrCompact (a : Sc) : Statement (.jrCompact a) :=
  .inr (.inl rfl)

theorem wfeCompact : Statement (.wfeCompact) :=
  .inr (.inl rfl)

theorem sevCompact : Statement (.sevCompact) :=
  .inr (.inl rfl)

theorem callrCompact (a : Sc) : Statement (.callrCompact a) :=
  .inr (.inl rfl)

theorem vaddF32Compact (d : Fin 32) (a : Fin 32) : Statement (.vaddF32Compact d a) :=
  .inr (.inl rfl)

theorem vmulF32Compact (d : Fin 32) (a : Fin 32) : Statement (.vmulF32Compact d a) :=
  .inr (.inl rfl)

theorem messageArrival (core : Fin 1024) : Statement (.messageArrival core) :=
  .inl rfl

theorem dispatchDecision (core : Fin 1024) : Statement (.dispatchDecision core) :=
  .inl rfl

theorem activationEntry (core : Fin 1024) (ctx : Fin 8) : Statement (.activationEntry core ctx) :=
  .inl rfl

theorem linkFlitArrival (core : Fin 1024) (dir : Fin 4) : Statement (.linkFlitArrival core dir) :=
  .inl rfl

theorem feRecheck (core : Fin 1024) (ctx : Fin 8) : Statement (.feRecheck core ctx) :=
  .inl rfl

theorem feParkTimeout (core : Fin 1024) (ctx : Fin 8) : Statement (.feParkTimeout core ctx) :=
  .inl rfl

theorem subByteWrite : Statement (.subByteWrite) :=
  .inl rfl

theorem coreSift (core : Fin 1024) : Statement (.coreSift core) :=
  .inl rfl

theorem clusterSift (clu : Fin 64) : Statement (.clusterSift clu) :=
  .inl rfl

theorem dieSift (die : Fin 4) (reg : Fin 8) : Statement (.dieSift die reg) :=
  .inl rfl

theorem expanderFill (clu : Fin 64) (blk : Fin 131072) :
    Statement (.expanderFill clu blk) :=
  .inl rfl

theorem patrolScrub (core : Fin 1024) (gran : Fin 65536) : Statement (.patrolScrub core gran) :=
  .inl rfl

theorem heapPatrolScrub (stk : Fin 12) (gran : Nat) : Statement (.heapPatrolScrub stk gran) :=
  .inl rfl

theorem copyAccept (unit : Fin 128) : Statement (.copyAccept unit) :=
  .inl rfl

theorem copyBeat (unit : Fin 128) : Statement (.copyBeat unit) :=
  .inl rfl

theorem copyCompletion (unit : Fin 128) : Statement (.copyCompletion unit) :=
  .inl rfl

theorem streamRefill (core : Fin 1024) (ctx : Fin 8) (x : Fin 8) : Statement (.streamRefill core ctx x) :=
  .inl rfl

theorem mldFill (core : Fin 1024) : Statement (.mldFill core) :=
  .inl rfl

theorem matrixCommandAccept (core : Fin 1024) : Statement (.matrixCommandAccept core) :=
  .inl rfl

theorem matrixCommandRepeat (core : Fin 1024) : Statement (.matrixCommandRepeat core) :=
  .inl rfl

theorem sheetPairing (core : Fin 1024) : Statement (.sheetPairing core) :=
  .inl rfl

theorem sheetPartialMerge (core : Fin 1024) : Statement (.sheetPartialMerge core) :=
  .inl rfl

theorem weightBlockFetch (core : Fin 1024) (ctx : Fin 8) : Statement (.weightBlockFetch core ctx) :=
  .inl rfl

theorem bnop (core : Fin 1024) (ctx : Fin 8) : Statement (.bnop core ctx) :=
  .inl rfl

theorem bmv (core : Fin 1024) (ctx : Fin 8) : Statement (.bmv core ctx) :=
  .inl rfl

theorem bmvz (core : Fin 1024) (ctx : Fin 8) : Statement (.bmvz core ctx) :=
  .inl rfl

theorem bbias (core : Fin 1024) (ctx : Fin 8) : Statement (.bbias core ctx) :=
  .inl rfl

theorem bscale (core : Fin 1024) (ctx : Fin 8) : Statement (.bscale core ctx) :=
  .inl rfl

theorem bact (core : Fin 1024) (ctx : Fin 8) : Statement (.bact core ctx) :=
  .inl rfl

theorem bsend (core : Fin 1024) (ctx : Fin 8) : Statement (.bsend core ctx) :=
  .inl rfl

theorem blink (core : Fin 1024) (ctx : Fin 8) : Statement (.blink core ctx) :=
  .inl rfl

theorem bend (core : Fin 1024) (ctx : Fin 8) : Statement (.bend core ctx) :=
  .inl rfl

theorem bwait (core : Fin 1024) (ctx : Fin 8) : Statement (.bwait core ctx) :=
  .inl rfl

theorem bwaitBudgetExpiry (core : Fin 1024) (ctx : Fin 8) : Statement (.bwaitBudgetExpiry core ctx) :=
  .inl rfl

theorem preemptionRequest (slot : Fin 128) (core : Fin 1024) : Statement (.preemptionRequest slot core) :=
  .inl rfl

theorem preemptEntry (core : Fin 1024) (ctx : Fin 8) : Statement (.preemptEntry core ctx) :=
  .inl rfl

theorem saveTimerExpiry (core : Fin 1024) (ctx : Fin 8) : Statement (.saveTimerExpiry core ctx) :=
  .inl rfl

theorem sealEvent (core : Fin 1024) (ctx : Fin 8) : Statement (.sealEvent core ctx) :=
  .inl rfl

theorem priorityPreempt (core : Fin 1024) : Statement (.priorityPreempt core) :=
  .inl rfl

theorem resumeDispatch (core : Fin 1024) : Statement (.resumeDispatch core) :=
  .inl rfl

theorem resumeRequestSubmit (core : Fin 1024) : Statement (.resumeRequestSubmit core) :=
  .inl rfl

theorem stealProbe (core : Fin 1024) : Statement (.stealProbe core) :=
  .inl rfl

theorem stealTransfer (core : Fin 1024) : Statement (.stealTransfer core) :=
  .inl rfl

theorem stealBackoffExpiry (core : Fin 1024) : Statement (.stealBackoffExpiry core) :=
  .inl rfl

theorem refusalRetry (id : Nat) : Statement (.refusalRetry id) :=
  .inl rfl

theorem ticketPresent (id : Nat) : Statement (.ticketPresent id) :=
  .inl rfl

theorem heldRetry (id : Nat) : Statement (.heldRetry id) :=
  .inl rfl

theorem atomicService (core : Fin 1024) : Statement (.atomicService core) :=
  .inl rfl

theorem atomicReply (core : Fin 1024) (ctx : Fin 8) : Statement (.atomicReply core ctx) :=
  .inl rfl

theorem groupArrival (core : Fin 1024) : Statement (.groupArrival core) :=
  .inl rfl

theorem gwaitRecheck (core : Fin 1024) (ctx : Fin 8) : Statement (.gwaitRecheck core ctx) :=
  .inl rfl

theorem timerExpiry (core : Fin 1024) : Statement (.timerExpiry core) :=
  .inl rfl

theorem timerEntry (core : Fin 1024) (ctx : Fin 8) : Statement (.timerEntry core ctx) :=
  .inl rfl

theorem traceRecordWrite (core : Fin 1024) : Statement (.traceRecordWrite core) :=
  .inl rfl

theorem coreStop (core : Fin 1024) : Statement (.coreStop core) :=
  .inl rfl

theorem coreGo (core : Fin 1024) : Statement (.coreGo core) :=
  .inl rfl

theorem stopComplete (core : Fin 1024) : Statement (.stopComplete core) :=
  .inl rfl

theorem dieHalt (die : Fin 4) : Statement (.dieHalt die) :=
  .inl rfl

theorem dieRun (die : Fin 4) : Statement (.dieRun die) :=
  .inl rfl

theorem dieOffline (die : Fin 4) : Statement (.dieOffline die) :=
  .inl rfl

theorem dieShutter (die : Fin 4) : Statement (.dieShutter die) :=
  .inl rfl

theorem dieReopen (die : Fin 4) : Statement (.dieReopen die) :=
  .inl rfl

theorem translationWalk (part : Fin 16) (va : BitVec 45) : Statement (.translationWalk part va) :=
  .inl rfl

theorem faultListRepresent (stk : Fin 12) : Statement (.faultListRepresent stk) :=
  .inl rfl

theorem pageAnswerMap (die : Fin 4) (v : BitVec 64) : Statement (.pageAnswerMap die v) :=
  .inl rfl

theorem pageAnswerRefuse (die : Fin 4) (v : BitVec 64) : Statement (.pageAnswerRefuse die v) :=
  .inl rfl

theorem padRegisterWrite (reg : MReg) (v : BitVec 64) : Statement (.padRegisterWrite reg v) :=
  .inl rfl

theorem saveRegisterWrite (reg : MReg) (v : BitVec 64) : Statement (.saveRegisterWrite reg v) :=
  .inl rfl

theorem trbaseWrite (reg : MReg) (v : BitVec 64) : Statement (.trbaseWrite reg v) :=
  .inl rfl

theorem mgmtRegisterWrite (reg : MReg) (v : BitVec 64) :
    Statement (.mgmtRegisterWrite reg v) :=
  .inl rfl

theorem loadImage : Statement (.loadImage) :=
  .inl rfl

theorem loadCore (core : Fin 1024) : Statement (.loadCore core) :=
  .inl rfl

theorem clockStepRequest (v : BitVec 64) : Statement (.clockStepRequest v) :=
  .inl rfl

theorem clockHandshake : Statement (.clockHandshake) :=
  .inl rfl

theorem clkstatWrite (v : BitVec 64) : Statement (.clkstatWrite v) :=
  .inl rfl

theorem queueDoorbell (v : BitVec 64) : Statement (.queueDoorbell v) :=
  .inl rfl

theorem slotMap : Statement (.slotMap) :=
  .inl rfl

theorem slotRelease (slot : Fin 128) : Statement (.slotRelease slot) :=
  .inl rfl

theorem start (slot : Fin 128) : Statement (.start slot) :=
  .inl rfl

theorem messagePlacement (slot : Fin 128) : Statement (.messagePlacement slot) :=
  .inl rfl

theorem stop (slot : Fin 128) : Statement (.stop slot) :=
  .inl rfl

theorem launchComplete (id : Nat) : Statement (.launchComplete id) :=
  .inl rfl

theorem abandon (q : BitVec 128) : Statement (.abandon q) :=
  .inl rfl

theorem precmd (v : BitVec 64) : Statement (.precmd v) :=
  .inl rfl

theorem cancelq (v : BitVec 64) : Statement (.cancelq v) :=
  .inl rfl

theorem hostPostedWrite (bar4 : Bool) (off : BitVec 32) (data : List Byte) (poisoned : Bool) : Statement (.hostPostedWrite bar4 off data poisoned) :=
  .inl rfl

theorem routeRelease : Statement (.routeRelease) :=
  .inl rfl

theorem landingStep (route : Fin 5) : Statement (.landingStep route) :=
  .inl rfl

theorem routeAck (route : Fin 5) : Statement (.routeAck route) :=
  .inl rfl

theorem hostRead (bar4 : Bool) (off : BitVec 32) (n : Nat) :
    Statement (.hostRead bar4 off n) :=
  .inl rfl

theorem hostQueueWrite (h : Fin 256) : Statement (.hostQueueWrite h) :=
  .inl rfl

theorem hqheadWrite (h : Fin 256) (v : BitVec 64) : Statement (.hqheadWrite h v) :=
  .inl rfl

theorem functionLevelReset : Statement (.functionLevelReset) :=
  .inl rfl

theorem perstReset : Statement (.perstReset) :=
  .inl rfl

theorem mainPowerLoss : Statement (.mainPowerLoss) :=
  .inl rfl

theorem boot : Statement (.boot) :=
  .inl rfl

theorem recoveryVerifyRun (img : List Byte) : Statement (.recoveryVerifyRun img) :=
  .inl rfl

theorem recoveryVerifyFlashRun (img : List Byte) : Statement (.recoveryVerifyFlashRun img) :=
  .inl rfl

theorem attestationRequest : Statement (.attestationRequest) :=
  .inl rfl

theorem attestationReportDone (nonce : List Byte) : Statement (.attestationReportDone nonce) :=
  .inl rfl

theorem securityAlarm (src : Fin 6) : Statement (.securityAlarm src) :=
  .inl rfl

theorem checkpointSave : Statement (.checkpointSave) :=
  .inl rfl

theorem checkpointRestore (image : List Byte) : Statement (.checkpointRestore image) :=
  .inl rfl

theorem checkpointAbort : Statement (.checkpointAbort) :=
  .inl rfl

theorem checkpointComplete (ok : Bool) (us : BitVec 32) : Statement (.checkpointComplete ok us) :=
  .inl rfl

theorem powerControlTick (avg : BitVec 12) : Statement (.powerControlTick avg) :=
  .inl rfl

theorem fabricPortUp (port : Fin 36) : Statement (.fabricPortUp port) :=
  .inl rfl

theorem flitReceive (port : Fin 36) (flit : List Byte) : Statement (.flitReceive port flit) :=
  .inl rfl

theorem creditFlit (port : Fin 36) (c0 : BitVec 16) (c1 : BitVec 16) (init : Bool) : Statement (.creditFlit port c0 c1 init) :=
  .inl rfl

theorem creditReport (port : Fin 36) : Statement (.creditReport port) :=
  .inl rfl

theorem endToEndAck (id : Nat) (ans : Answer) : Statement (.endToEndAck id ans) :=
  .inl rfl

theorem eyeMonitorWindow (link : Fin 52) (mgn : BitVec 32) (corr : Bool) : Statement (.eyeMonitorWindow link mgn corr) :=
  .inl rfl

theorem linkRetrain (link : Fin 52) : Statement (.linkRetrain link) :=
  .inl rfl

theorem portStepWrite (link : Fin 52) (v : BitVec 64) : Statement (.portStepWrite link v) :=
  .inl rfl

theorem scaleoutPacketReceive (port : Fin 16) (pkt : Packet) : Statement (.scaleoutPacketReceive port pkt) :=
  .inl rfl

theorem retransmitTimeout (peer : Fin 223) (seq : BitVec 32) : Statement (.retransmitTimeout peer seq) :=
  .inl rfl

theorem sqheadWrite (die : Fin 4) (v : BitVec 64) : Statement (.sqheadWrite die v) :=
  .inl rfl

end Sys2Proof.Laws.Sized
end

