-- ==== Sys2Proof/Laws/Unit.lean ====
section
/-! SUPPORT. A unit's work as a function of the state: what its steps answer, and how a unit completes. -/

namespace Sys2Proof.Machine

variable {α β : Type} {s t : State}

/-! ## The monad -/

@[simp] theorem M.pure_run (a : α) : (pure a : M α) s = .ok a s := rfl
@[simp] theorem M.get_run : (get : M State) s = .ok s s := rfl
@[simp] theorem M.set_run (t : State) : (set t : M PUnit) s = .ok ⟨⟩ t := rfl
@[simp] theorem M.modify_run (f : State → State) : (modify f : M PUnit) s = .ok ⟨⟩ (f s) := rfl
@[simp] theorem M.throw_run (e : Stop) : (throw e : M α) s = .error e s := rfl
@[simp] theorem M.bind_run (m : M α) (f : α → M β) :
    (m >>= f) s = match m s with
      | .ok a t => f a t
      | .error e t => .error e t := by
  show EStateM.bind m f s = _
  unfold EStateM.bind
  cases m s <;> rfl
@[simp] theorem M.me_run : me s = .ok s.now s := rfl
@[simp] theorem M.myCore_run : myCore s = .ok s.nowCore s := rfl
@[simp] theorem M.modMe_run (f : Ctx → Ctx) : modMe f s = .ok ⟨⟩ (s.updCtx s.core s.ctx f) := rfl
@[simp] theorem M.modCore_run (f : Core → Core) : modCore f s = .ok ⟨⟩ (s.updCore s.core f) := rfl
@[simp] theorem M.trap_run (c v : Nat) (p : Option (Fin 16)) :
    (trap c v p : M α) s = .error (.trap c v p none) s := rfl
@[simp] theorem M.wait_run (n : Nat) : (wait n : M α) s = .error (.wait n) s := rfl
@[simp] theorem M.require_run (b : Bool) (c v : Nat) (p : Option (Fin 16)) :
    require b c v p s = if b then .ok () s else .error (.trap c v p none) s := by
  cases b <;> rfl

theorem M.after_ok {m : M α} {a : α} (h : m s = .ok a t) : M.after m s = t := by simp [M.after, h]

/-! ## Codes (R233, R235) -/

/-- Where no code word has an error, reading consumes none. -/
theorem consume_clean {arr i n : Nat} (hc : s.codesClean s.core = true) : consume arr i n s = .ok () s := by
  simp [consume, hc]

/-- Where no injection is armed, what is written is what stands there. -/
theorem encoded_clean {w arr i n : Nat} {x : BitVec w} (hc : s.codesClean s.core = true) :
    encoded arr i n x s = .ok x s := by
  simp [encoded, hc]

/-- A write of code words always answers. -/
theorem encoded_answers {w : Nat} (arr i n : Nat) (x : BitVec w) (s : State) :
    ∃ y t, encoded arr i n x s = .ok y t := by
  unfold encoded
  simp only [M.bind_run, M.get_run]
  split
  · exact ⟨_, _, rfl⟩
  · simp only [M.bind_run, M.set_run]
    generalize State.armed _ _ _ = o
    cases o with
    | none => exact ⟨_, _, rfl⟩
    | some v =>
      simp only []
      split
      · exact ⟨_, _, rfl⟩
      · split <;> exact ⟨_, _, rfl⟩

/-- A register is read without a trace. -/
theorem takeReg_clean {c : Nat} (hc : s.codesClean s.core = true) : takeReg c s = .ok (s.now.reg c) s := by
  simp only [takeReg, M.bind_run, M.me_run, M.get_run, consume_clean hc, M.pure_run]

/-- A vector register is read without a trace. -/
theorem takeVec_clean {c : Nat} (hc : s.codesClean s.core = true) :
    takeVec c s = .ok s.now.v[Fin.ofNat 32 c] s := by
  simp only [takeVec, M.bind_run, M.me_run, M.get_run, consume_clean hc, M.pure_run]

/-! ## Completion (R229) -/

/-- No sift of the context's own is there to be dropped. -/
theorem dropSifts_same {c : Nat} {x : Fin 8} (h : s.ownsSift c x = false) : s.dropSifts c x = s := by
  have hk : s.sifts.filter (fun e => e.owner != some (c, x)) = s.sifts := by
    rw [List.filter_eq_self]
    intro e he
    simp only [State.ownsSift, List.any_eq_false] at h
    simpa using h e he
  unfold State.dropSifts
  rw [hk]
  simp

/-- A unit whose checks pass and whose work answers completes. -/
theorem unit_completes {i : Instr} {body : M Flow} {f : Flow} (h : s.issues i) (hb : body s = .ok f t) :
    unit i body s = .next (s.finish i f t) := by
  obtain ⟨⟨h7, hq, ho, -⟩, ha, hw⟩ := h
  have h7' : s.spent = false := by
    unfold State.spent
    by_cases hx : s.ctx = 7
    · have := h7 hx
      simp_all [State.now]
    · simp [hx]
  simp only [State.now] at ha hw
  simp [unit, runUnit, runWork, dropSifts_same ho, hq, h7', ha, hw, hb]

/-! ## Operands -/

/-- The three kinds of an operand code: a register, a queue, a direction. -/
theorem code_cases (c : Nat) : c < 32 ∨ (¬ c < 32 ∧ c < 36) ∨ (¬ c < 32 ∧ ¬ c < 36) := by omega

theorem head_eq {γ : Type} {l : List γ} {a : γ} (h : l.head? = some a) : ∃ r, l = a :: r := by
  cases l with
  | nil => simp at h
  | cons b r => exact ⟨r, by simpa using h⟩

theorem readS_of_gives {c : Nat} {v : DWord} (hc : s.codesClean s.core = true) (h : s.gives c v) : readS c s = .ok v s := by
  unfold State.gives State.now State.nowCore State.ctxAt at h
  unfold readS
  simp only [M.bind_run, M.get_run]
  rcases code_cases c with h1 | ⟨h1, h2⟩ | ⟨h1, h2⟩
  · simp only [if_pos h1] at h ⊢
    rw [takeReg_clean hc]
    exact congrArg (EStateM.Result.ok · s) h.2
  · simp only [if_neg h1, if_pos h2] at h ⊢
    simp only [h, M.bind_run, consume_clean hc, M.pure_run]
  · simp only [if_neg h1, if_neg h2] at h ⊢
    obtain ⟨r, hr⟩ := head_eq h.2
    simp only [hr, M.pure_run]

theorem readyS_of_gives {c : Nat} {v : DWord} (h : s.gives c v) : readyS c s = .ok () s := by
  unfold State.gives State.now State.nowCore State.ctxAt at h
  unfold readyS
  simp only [M.bind_run, M.get_run]
  rcases code_cases c with h1 | ⟨h1, h2⟩ | ⟨h1, h2⟩
  · simp only [if_pos h1] at h ⊢
    simp only [h.1, Bool.false_eq_true, if_false, M.pure_run]
  · simp only [if_neg h1, if_pos h2] at h ⊢
    simp only [h, Option.isNone_some, Bool.false_eq_true, if_false, M.pure_run]
  · simp only [if_neg h1, if_neg h2] at h ⊢
    obtain ⟨r, hr⟩ := head_eq h.2
    simp [hr]

theorem readV_of_givesV {c : Nat} {v : V512} (hc : s.codesClean s.core = true) (h : s.givesV c v) : readV c s = .ok v s := by
  unfold State.givesV State.now State.nowCore State.ctxAt at h
  unfold readV
  simp only [M.bind_run, M.get_run]
  rcases code_cases c with h1 | ⟨h1, h2⟩ | ⟨h1, h2⟩
  · simp only [if_pos h1] at h ⊢
    cases hs : ((s.coreAt s.core).ctxs[s.ctx]).stream c with
    | none =>
      simp only [hs] at h ⊢
      rw [takeVec_clean hc]
      exact congrArg (EStateM.Result.ok · s) (h.1 trivial)
    | some b =>
      simp only [hs] at h ⊢
      rcases h.2 b rfl with h | ⟨he, -, rfl⟩
      · obtain ⟨r, hr⟩ := head_eq h
        simp [hr]
      · simp [he]
  · simp only [if_neg h1, if_pos h2] at h ⊢
    simp only [h, M.bind_run, consume_clean hc, M.pure_run]
  · simp only [if_neg h1, if_neg h2] at h ⊢
    obtain ⟨r, hr⟩ := head_eq h.2
    simp only [hr, M.pure_run]

theorem readyV_of_givesV {c : Nat} {v : V512} (h : s.givesV c v) : readyV c s = .ok () s := by
  unfold State.givesV State.now State.nowCore State.ctxAt at h
  unfold readyV
  simp only [M.bind_run, M.get_run]
  rcases code_cases c with h1 | ⟨h1, h2⟩ | ⟨h1, h2⟩
  · simp only [if_pos h1] at h ⊢
    cases hs : ((s.coreAt s.core).ctxs[s.ctx]).stream c with
    | none => simp
    | some b =>
      simp only [hs] at h ⊢
      have : b.ready = true := by
        unfold Stream.ready
        rcases h.2 b rfl with h | ⟨h, h', -⟩
        · obtain ⟨r, hr⟩ := head_eq h
          simp [hr]
        · simp [h']
      simp [this]
  · simp only [if_neg h1, if_pos h2] at h ⊢
    simp only [h, Option.isNone_some, Bool.false_eq_true, if_false, M.pure_run]
  · simp only [if_neg h1, if_neg h2] at h ⊢
    obtain ⟨r, hr⟩ := head_eq h.2
    simp [hr]

theorem readyOut_of_sends {c : Nat} (h : s.sends c) : readyOut c s = .ok () s := by
  unfold readyOut
  simp only [M.bind_run, M.get_run]
  cases hn : neighbour s.core (c - 36) with
  | none => rfl
  | some n =>
    have := h.2 n hn
    simp [show ¬ 4 ≤ ((s.coreAt n).link (opposite (c - 36))).fill by omega]

theorem roomS_of_takes {c : Nat} (h : s.takes c) : roomS c s = .ok () s := by
  unfold State.takes State.now State.nowCore State.ctxAt at h
  unfold roomS
  simp only [M.bind_run, M.get_run]
  rcases code_cases c with h1 | ⟨h1, h2⟩ | ⟨h1, h2⟩
  · simp only [if_pos h1] at h ⊢
    simp only [h, Bool.false_eq_true, if_false, M.pure_run]
  · simp only [if_neg h1, if_pos h2] at h ⊢
    simp only [h, Bool.not_true, Bool.false_eq_true, if_false, M.pure_run]
  · simp only [if_neg h1, if_neg h2] at h ⊢
    exact readyOut_of_sends h

theorem roomV_of_takesV {c : Nat} (h : s.takesV c) : roomV c s = .ok () s := by
  unfold State.takesV State.nowCore at h
  unfold roomV
  simp only [M.bind_run, M.get_run]
  rcases code_cases c with h1 | ⟨h1, h2⟩ | ⟨h1, h2⟩
  · simp only [if_pos h1] at h ⊢
    rfl
  · simp only [if_neg h1, if_pos h2] at h ⊢
    simp only [h, Bool.not_true, Bool.false_eq_true, if_false, M.pure_run]
  · simp only [if_neg h1, if_neg h2] at h ⊢
    exact readyOut_of_sends h

/-- Work done for each member of a list, where each leaves the state as it was. -/
theorem forM_same {γ : Type} {f : γ → M Unit} {l : List γ} (h : ∀ c ∈ l, f c s = .ok () s) :
    l.forM f s = .ok () s := by
  induction l with
  | nil => rfl
  | cons a r ih =>
    have ha := h a (by simp)
    have hr := ih fun c hc => h c (by simp [hc])
    simp only [List.forM_eq_forM, List.forM_cons, M.bind_run, ha] at hr ⊢
    exact hr

/-- A code that is a direction and ready is held. -/
theorem claimed_of_gives {c : Nat} {v : DWord} (h : s.gives c v) (hc : 36 ≤ c) :
    (s.nowCore.link (c - 36)).claim = some s.ctx := by
  unfold State.gives at h
  rw [if_neg (by omega), if_neg (by omega)] at h
  exact h.1

theorem claimed_of_givesV {c : Nat} {v : V512} (h : s.givesV c v) (hc : 36 ≤ c) :
    (s.nowCore.link (c - 36)).claim = some s.ctx := by
  unfold State.givesV at h
  rw [if_neg (by omega), if_neg (by omega)] at h
  exact h.1

theorem claimed_of_takes {c : Nat} (h : s.takes c) (hc : 36 ≤ c) :
    (s.nowCore.link (c - 36)).claim = some s.ctx := by
  unfold State.takes at h
  rw [if_neg (by omega), if_neg (by omega)] at h
  exact h.1

theorem claimed_of_takesV {c : Nat} (h : s.takesV c) (hc : 36 ≤ c) :
    (s.nowCore.link (c - 36)).claim = some s.ctx := by
  unfold State.takesV at h
  rw [if_neg (by omega), if_neg (by omega)] at h
  exact h.1

/-- No destination that can be written is a bound stream. -/
theorem stream_of_takesV {c : Nat} (h : s.takesV c) : s.now.stream c = none := by
  unfold State.takesV at h
  by_cases h1 : c < 32
  · rwa [if_pos h1] at h
  · unfold Ctx.stream
    simp only [h1, decide_false, Bool.and_false]
    rfl

/-- The code words of what can be read have no error. -/
theorem meetS_clean {c : Nat} (hc : s.codesClean s.core = true) : meetS c s = .ok () s := by
  unfold meetS
  simp only [M.bind_run, M.me_run]
  split
  · split
    · rfl
    · simp only [M.bind_run, M.get_run, consume_clean hc]
  · split
    · exact consume_clean hc
    · rfl

theorem meetV_of_givesV {c : Nat} {v : V512} (hc : s.codesClean s.core = true) (h : s.givesV c v) :
    meetV c s = .ok () s := by
  unfold meetV
  simp only [M.bind_run, M.me_run]
  cases hs : s.now.stream c with
  | none =>
    simp only []
    split
    · simp only [M.bind_run, M.get_run, consume_clean hc]
    · split
      · exact consume_clean hc
      · rfl
  | some b =>
    have h1 : c < 32 := by
      by_cases h1 : c < 32
      · exact h1
      · exfalso
        unfold Ctx.stream at hs
        simp [h1] at hs
    unfold State.givesV at h
    simp only [if_pos h1, hs] at h
    rcases h.2 b rfl with h | ⟨he, -, -⟩
    · obtain ⟨r, hr⟩ := head_eq h
      simp [hr]
    · simp [he]

/-- Operands whose code words have no error meet none (R229). -/
theorem meetAll_of_readyFor {u : Uses} (hc : s.codesClean s.core = true) (h : s.readyFor u) :
    meetAll u s = .ok () s := by
  unfold meetAll
  simp only [M.bind_run]
  rw [forM_same (s := s) fun c _ => meetS_clean hc]
  simp only []
  rw [forM_same (s := s) fun c hm => by obtain ⟨v, hv⟩ := h.2.1 c hm; exact meetV_of_givesV hc hv]
  simp only []
  exact forM_same (s := s) fun r _ => by simp only [M.bind_run, M.get_run, consume_clean hc]

/-- Operands that are ready pass the check of R100, R108 and R271. -/
theorem ready_of_readyFor {u : Uses} (h : s.readyFor u) : ready u s = .ok () s := by
  obtain ⟨hss, hsv, hds, hdv⟩ := h
  have hun : unheld s.nowCore s.ctx (u.ss ++ u.sv ++ u.ds ++ u.dv) = [] := by
    simp only [unheld, List.filter_eq_nil_iff, List.mem_append]
    intro c hc
    by_cases h36 : 36 ≤ c
    · have : (s.nowCore.link (c - 36)).claim = some s.ctx := by
        rcases hc with ((hc | hc) | hc) | hc
        · obtain ⟨v, hv⟩ := hss c hc
          exact claimed_of_gives hv h36
        · obtain ⟨v, hv⟩ := hsv c hc
          exact claimed_of_givesV hv h36
        · exact claimed_of_takes (hds c hc) h36
        · exact claimed_of_takesV (hdv c hc) h36
      simp [this]
    · simp [h36]
  have hst : (!u.dv.any fun c => (((s.coreAt s.core).ctxs[s.ctx]).stream c).isSome) = true := by
    simp only [Bool.not_eq_true', List.any_eq_false]
    intro c hc
    have := stream_of_takesV (hdv c hc)
    unfold State.now State.ctxAt at this
    rw [this]
    simp
  unfold State.nowCore at hun
  simp only [Bool.not_eq_true'] at hst
  unfold ready
  simp only [M.bind_run, M.get_run, hun, hst, Bool.false_eq_true, if_false, M.pure_run]
  rw [forM_same (s := s) fun c hc => by obtain ⟨v, hv⟩ := hss c hc; exact readyS_of_gives hv]
  simp only []
  rw [forM_same (s := s) fun c hc => by obtain ⟨v, hv⟩ := hsv c hc; exact readyV_of_givesV hv]
  simp only []
  rw [forM_same (s := s) fun c hc => roomS_of_takes (hds c hc)]
  simp only []
  rw [forM_same (s := s) fun c hc => roomV_of_takesV (hdv c hc)]

/-! ## Completion of a unit over operands -/

theorem M.answers_of_forM {γ : Type} {f : γ → M Unit} (h : ∀ c s, ∃ t, f c s = .ok () t) (l : List γ) (s : State) :
    ∃ t, l.forM f s = .ok () t := by
  induction l generalizing s with
  | nil => exact ⟨s, rfl⟩
  | cons a r ih =>
    obtain ⟨t, ht⟩ := h a s
    obtain ⟨u, hu⟩ := ih t
    refine ⟨u, ?_⟩
    simp only [List.forM_eq_forM, List.forM_cons, M.bind_run, ht] at hu ⊢
    exact hu

theorem popStream_answers (c : Nat) (s : State) : ∃ t, popStream c s = .ok () t := by
  unfold popStream
  simp only [M.bind_run, M.me_run]
  cases s.now.stream c with
  | none => exact ⟨_, rfl⟩
  | some b => exact ⟨_, rfl⟩

theorem popAll_answers (u : Uses) (s : State) : ∃ t, popAll u s = .ok () t := by
  unfold popAll
  simp only [M.bind_run]
  obtain ⟨t1, h1⟩ := M.answers_of_forM (f := fun c => modCore fun k =>
    k.setLink (c - 36) { k.link (c - 36) with buf := (k.link (c - 36)).buf.drop 1 })
    (fun c s => ⟨_, rfl⟩) (once ((u.ss ++ u.sv).filter (36 ≤ ·))) s
  rw [h1]
  obtain ⟨t2, h2⟩ := M.answers_of_forM (f := fun c => modCore fun k => (k.popCodes (c - 32)).updQ (c - 32) Queue.pop)
    (fun c s => ⟨_, rfl⟩) (once (u.ss.filter fun c => 32 ≤ c && c < 36)) t1
  simp only []
  rw [h2]
  obtain ⟨t3, h3⟩ := M.answers_of_forM (f := fun c => modCore fun k => (k.popCodes (c - 28)).updQV (c - 32) Queue.pop)
    (fun c s => ⟨_, rfl⟩) (once (u.sv.filter fun c => 32 ≤ c && c < 36)) t2
  simp only []
  rw [h3]
  exact M.answers_of_forM popStream_answers _ t3

theorem putReg_answers (d : Nat) (v : DWord) (s : State) : ∃ t, putReg d v s = .ok () t := by
  unfold putReg
  simp only [M.bind_run, M.me_run, M.get_run]
  obtain ⟨y, t, h⟩ := encoded_answers (s.now.codeOf s.ctx d).1 (s.now.codeOf s.ctx d).2 64 v s
  simp [h]

theorem putVec_answers (d : Nat) (v : V512) (s : State) : ∃ t, putVec d v s = .ok () t := by
  unfold putVec
  simp only [M.bind_run, M.get_run]
  obtain ⟨y, t, h⟩ := encoded_answers 5 (vecCode s.ctx.val d) 64 v s
  simp [h]

theorem writeS_answers (d : Nat) (v : DWord) (s : State) : ∃ t, writeS d v s = .ok () t := by
  unfold writeS
  simp only [M.bind_run, M.get_run]
  split
  · exact putReg_answers d v s
  · split
    · simp only [M.bind_run]
      obtain ⟨y, t, h⟩ := encoded_answers 6
        (slotCode (d - 32) (((s.coreAt s.core).qs[Fin.ofNat 4 (d - 32)]).slotFor s.ctx.val)) 64 v s
      rw [h]
      exact ⟨_, rfl⟩
    · exact ⟨_, rfl⟩

theorem writeV_answers (d : Nat) (v : V512) (s : State) : ∃ t, writeV d v s = .ok () t := by
  unfold writeV
  simp only [M.bind_run, M.get_run]
  split
  · exact putVec_answers d v s
  · split
    · simp only [M.bind_run]
      obtain ⟨y, t, h⟩ := encoded_answers 6
        (slotCode (d - 28) (((s.coreAt s.core).qv[Fin.ofNat 4 (d - 32)]).slotFor s.ctx.val)) 64 v s
      rw [h]
      exact ⟨_, rfl⟩
    · exact ⟨_, rfl⟩

theorem putS_run (u : Uses) (d : Nat) (v : DWord) :
    (do writeS d v; popAll u) s = .ok () (s.putS u d v) := by
  obtain ⟨t, ht⟩ := writeS_answers d v s
  obtain ⟨w, hw⟩ := popAll_answers u t
  have : (do writeS d v; popAll u) s = .ok () w := by simp [ht, hw]
  rw [this, State.putS, M.after_ok this]

theorem putV_run (u : Uses) (d : Nat) (v : V512) :
    (do writeV d v; popAll u) s = .ok () (s.putV u d v) := by
  obtain ⟨t, ht⟩ := writeV_answers d v s
  obtain ⟨w, hw⟩ := popAll_answers u t
  have : (do writeV d v; popAll u) s = .ok () w := by simp [ht, hw]
  rw [this, State.putV, M.after_ok this]

theorem tryCatch_ok {m : M α} {h : Stop → M α} {a : α} (hm : m s = .ok a t) : tryCatch m h s = .ok a t := by
  show EStateM.tryCatch m h s = _
  unfold EStateM.tryCatch
  rw [hm]

/-- A unit over operands that are ready answers what its work answers, and its sources are popped. -/
theorem using_run {u : Uses} {body : M α} {a : α} {first : M Unit} (hc : s.codesClean s.core = true)
    (h : s.readyFor u) (hb : body s = .ok a t) :
    using_ u body first s = .ok a (M.after (popAll u) t) := by
  obtain ⟨w, hw⟩ := popAll_answers u t
  unfold using_
  simp only [M.bind_run, ready_of_readyFor h, meetAll_of_readyFor hc h, tryCatch_ok hb, hw, M.pure_run, M.after_ok hw]

/-- A unit that writes one scalar. -/
theorem unitS_run {ss : List Nat} {d : Nat} {body : M DWord} {v : DWord} {first : M Unit}
    (hc : s.codesClean s.core = true) (h : s.readyFor { ss := ss, ds := [d] })
    (hb : body s = .ok v t) : unitS ss d body first s = .ok .seq (t.putS { ss := ss, ds := [d] } d v) := by
  obtain ⟨w, hw⟩ := writeS_answers d v t
  have hbody : (do let v ← body; writeS d v; pure Flow.seq : M Flow) s = .ok .seq w := by
    simp only [M.bind_run, hb, hw, M.pure_run]
  unfold unitS
  rw [using_run hc h hbody]
  have := putS_run (s := t) { ss := ss, ds := [d] } d v
  simp only [M.bind_run, hw] at this
  rw [M.after_ok this]

end Sys2Proof.Machine
end

