-- ==== Sys2Proof/Tests/Slice0.lean ====
section
/-! SUPPORT. Tests: an ill-formed instruction for each check, a word of the opcode table for each instruction, values
that the spec works out, single steps, and a witness for each statement: states and operands that meet its hypotheses. -/

namespace Sys2Proof.Tests

open Sys2Proof.Machine

set_option Elab.async false

/-! ## Small states -/

/-- What work answers. -/
def out? {α : Type} (m : M α) (s : State) : Option α :=
  match m s with
  | .ok a _ => some a
  | .error _ _ => none

theorem answers_out {α : Type} {m : M α} {s : State} {a : α} (h : out? m s = some a) : M.answers m s a (M.after m s) := by
  unfold out? at h
  unfold M.answers M.after
  cases hm : m s with
  | ok b t => rw [hm] at h; simp only [Option.some.injEq] at h; rw [h]
  | error e t => rw [hm] at h; cases h

theorem answers_some {α : Type} {m : M α} {s : State} (h : (out? m s).isSome = true) :
    ∃ a, M.answers m s a (M.after m s) := by
  obtain ⟨a, ha⟩ := Option.isSome_iff_exists.1 h
  exact ⟨a, answers_out ha⟩

/-- Work answers a and leaves t. -/
def leaves {α : Type} [DecidableEq α] (m : M α) (s : State) (a : α) (t : State) : Bool :=
  match m s with
  | .ok b u => decide (b = a) && decide (u = t)
  | .error _ _ => false

theorem answers_at {α : Type} [DecidableEq α] {m : M α} {s t : State} {a : α} (h : leaves m s a t = true) :
    M.answers m s a t := by
  unfold leaves at h
  unfold M.answers
  cases hm : m s with
  | ok b u => rw [hm] at h; simp only [Bool.and_eq_true, decide_eq_true_eq] at h; rw [h.1, h.2]
  | error e u => rw [hm] at h; cases h

/-- What a waiting access is granted, or where it failed. -/
def granted? (m : M (Except Nat (List Nat))) (s : State) : Option (List Nat) :=
  match m s with
  | .ok (.ok vs) _ => some vs
  | _ => none

def failed? (m : M (Except Nat (List Nat))) (s : State) : Option Nat :=
  match m s with
  | .ok (.error o) _ => some o
  | _ => none

theorem answers_granted {m : M (Except Nat (List Nat))} {s : State} {vs : List Nat} (h : granted? m s = some vs) :
    M.answers m s (.ok vs) (M.after m s) := by
  unfold granted? at h
  unfold M.answers M.after
  cases hm : m s with
  | ok b t =>
    rw [hm] at h
    cases b with
    | ok us => simp only [Option.some.injEq] at h; rw [h]
    | error o => cases h
  | error e t => rw [hm] at h; cases h

theorem answers_failed {m : M (Except Nat (List Nat))} {s : State} {o : Nat} (h : failed? m s = some o) :
    M.answers m s (.error o) (M.after m s) := by
  unfold failed? at h
  unfold M.answers M.after
  cases hm : m s with
  | ok b t =>
    rw [hm] at h
    cases b with
    | ok us => cases h
    | error p => simp only [Option.some.injEq] at h; rw [h]
  | error e t => rw [hm] at h; cases h

/-- What work stops at. -/
def stop? {α : Type} (m : M α) (s : State) : Option Stop :=
  match m s with
  | .ok _ _ => none
  | .error e _ => some e

theorem stops_at {α : Type} {m : M α} {s : State} (h : (stop? m s).isSome = true) :
    ∃ e t, m s = .error e t := by
  unfold stop? at h
  cases hm : m s with
  | ok b t => rw [hm] at h; cases h
  | error e t => exact ⟨e, t, rfl⟩

/-- An outcome is a next state that keeps p. -/
def nextWith (p : State → Bool) (o : Host.Outcome State Fault Refusal) : Bool :=
  match o with
  | .next t => p t
  | _ => false

theorem next_of {p : State → Bool} {o : Host.Outcome State Fault Refusal} (h : nextWith p o = true) :
    ∃ t, o = .next t ∧ p t = true := by
  cases o with
  | next t => exact ⟨t, rfl, h⟩
  | fault f => cases h
  | refused r => cases h

/-- A pointer to the n bytes at place k. -/
def ptr (perm kind n k : Nat) : PReg :=
  mkPtr (placeFields k).2.1 (placeFields k).1 0 perm kind n (placeFields k).2.2

/-- Core 0's pad: at 0x1000 an object of 1,024 bytes whose first word is full and holds 7; at 0x2000 a parameter block;
at 0x3000 a rise word; at 0x4000 an object of 192 bytes. -/
def mem : Memory :=
  let m := (({} : Memory).write 0x1000 (bytesOf 16 (Header.fresh 0 1024).toNat)).write 0x2000
    (bytesOf 16 (Header.fresh 4 192).toNat)
  let m := (m.write 0x3000 (bytesOf 16 (Header.fresh 5 16).toNat)).write 0x4000 (bytesOf 16 (Header.fresh 0 192).toNat)
  { m.write 0x1010 [7] with full := [0x1010 / 4], starts := [0x80, 0x100, 0x180, 0x200] }

/-- An activation whose register wj holds j, with pointers to those objects: p1 to p4, p5 to the first read-only, p6 as
p4 and shared, p7 to the first 16 bytes of the first. -/
def ctx : Ctx :=
  { run := .live
    w := Vector.ofFn fun j => BitVec.ofNat 64 j.val
    p := #v[.null, ptr 3 0 1024 0x1010, ptr 3 4 192 0x2010, ptr 3 5 16 0x3010, ptr 3 0 192 0x4010, ptr 1 0 1024 0x1010,
      ptr 19 0 192 0x4010, ptr 3 0 16 0x1010, .null, .null, .null, .null, .null, .null, .null, .null] }

/-- Core 0 with q in its context 0, which issues. -/
def at0 (q : Ctx) : State :=
  { State.reset with mem }.updCore 0 fun k => { k with ctxs := k.ctxs.set 0 q }

/-- The same with a unit at work. -/
def base : State := at0 ctx

/-- A handler activation in context 7, with 5 units left. -/
def handler : State :=
  { State.reset with mem, ctx := 7 }.updCore 0 fun k => { k with ctxs := k.ctxs.set 7 { ctx with hbudget := 5 } }

/-- The same with m1 naming lane 0 alone. -/
def vectors : State := at0 { ctx with m := #v[0, 1, 0, 0, 0, 0, 0, 0] }

/-! ## States that meet the statements' hypotheses -/

theorem witness_IntegerTwoSourceResults : ∀ p ∈ Claims.twoSource true 1 2 3,
    base.issues p.1 ∧ base.gives 2 2 ∧ base.gives 3 3 ∧ base.takes 1 := by decide +kernel

theorem witness_IntegerOneSourceResults : ∀ p ∈ Claims.oneSource true 1 2,
    base.issues p.1 ∧ base.gives 2 2 ∧ base.takes 1 := by decide +kernel

theorem witness_IntegerImmediateResults :
    (∀ p ∈ Claims.immediate false 1 2 511 63, base.issues p.1 ∧ base.gives 2 2 ∧ base.takes 1) ∧
    (∀ p ∈ Claims.compactImmediate 1 31 63, base.issues p.1 ∧ base.gives 1 1 ∧ base.takes 1) ∧
    (∀ p ∈ Claims.compactRegister 1 2, base.issues p.1 ∧ base.gives 1 1 ∧ base.gives 2 2 ∧ base.takes 1) ∧
    base.issues (.addMoveCompact 1 2) ∧ base.gives 2 2 ∧ base.gives 24 0 ∧
      base.takes 1 := by and_intros <;> decide +kernel

theorem witness_MoveAndFieldResults :
    (base.issues (.movi 1 5) ∧ base.issues (.moviCompact 1 5) ∧ base.takes 1) ∧
    (base.issues (.movhi 1 5 3) ∧ base.gives 1 1) ∧
    (base.issues (.sel true 1 7 2 3) ∧ base.gives 7 7 ∧ base.gives 2 2 ∧ base.gives 3 3) ∧
    (base.issues (.bfx 1 2 63 0) ∧ base.issues (.bfi 1 2 0 63)) := by and_intros <;> decide +kernel

theorem witness_ConditionalBranches :
    (∀ p ∈ Claims.branchTwo 2 3 4, base.issues p.1 ∧ base.gives 2 2 ∧ base.gives 3 3) ∧
    (∃ p ∈ Claims.branchTwo 2 3 4, p.2 2 3 = false) ∧
    (∃ p ∈ Claims.branchTwo 2 3 4, p.2 2 3 = true ∧ Claims.inStore (Claims.relTarget base 4)) ∧
    (∃ p ∈ Claims.branchTwo 2 3 (-1), p.2 2 3 = true ∧ ¬ Claims.inStore (Claims.relTarget base (-1))) ∧
    (∀ p ∈ Claims.branchOne 2 2 4 4, base.issues p.1 ∧ base.gives p.2.1 2) ∧
    (∃ p ∈ Claims.branchOne 2 2 4 4, p.2.2.2 2 = false) ∧
    (∃ p ∈ Claims.branchOne 2 2 4 4, p.2.2.2 2 = true ∧ Claims.inStore (Claims.relTarget base p.2.2.1)) ∧
    ∃ p ∈ Claims.branchOne 2 2 (-1) (-1), p.2.2.2 2 = true ∧ ¬ Claims.inStore (Claims.relTarget base p.2.2.1) := by
  and_intros <;> decide +kernel

theorem witness_Jumps :
    (∀ i ∈ [Instr.b 0, .bCompact 0, .b (-1), .bCompact (-1), .j 32767, .jr 2, .jrCompact 3], base.issues i) ∧
    Claims.inStore (Claims.relTarget base 0) ∧ ¬ Claims.inStore (Claims.relTarget base (-1)) ∧
    base.gives 2 2 ∧ base.gives 3 3 ∧ (at0 { ctx with w := .replicate 24 65536 }).gives 2 65536 ∧
    (at0 { ctx with w := .replicate 24 65536 }).issues (.jr 2) := by and_intros <;> decide +kernel

/-- One call deep, with return address a. -/
def called (a : DWord) : State := at0 (ctx.enter a)

theorem witness_CallsAndReturns :
    (∀ p ∈ Claims.calls base 8 2 2, base.issues p.1) ∧ base.gives 2 2 ∧ base.now.awaits 23 = false ∧
    16 ≤ base.nowCore.freeTo base.ctx ∧
    (∀ i ∈ [Instr.ret, .retCompact], (called 8).issues i ∧ (called 8).now.depth ≠ 0 ∧ (called 8).now.w[7] = 8 ∧
      (called 8).now.below ≠ []) ∧
    (∀ r < 24, (called 8).now.awaits r = false) := by and_intros <;> decide +kernel

/-- No register is free, and the spill object, p1's, has room for units up to cap. -/
def deep (cap : DWord) : State :=
  at0 { ctx with spill := ptr 3 0 1024 0x1010, spillcap := cap, depth := 45, below := .replicate 45 (.replicate 16 0) }

/-- One unit is in the spill object, and no other frame. -/
def spilled : State := at0 { ctx with spill := ptr 3 0 1024 0x1010, spillcap := 4, depth := 1, spilltop := 1 }

/-- The same with no spill object, and v in w7. -/
def unspilled (v : DWord) : State := at0 { ctx with depth := 1, spilltop := 1, w := ctx.w.set 7 v }

theorem witness_SpillingCalls :
    (∀ p ∈ Claims.calls (deep 4) 8 2 2, (deep 4).issues p.1) ∧ (deep 4).gives 2 2 ∧ (deep 4).now.awaits 23 = false ∧
    Claims.spills (deep 4) ∧
    (∀ i ∈ [Instr.ret, .retCompact], spilled.issues i) ∧ (∀ r < 24, spilled.now.awaits r = false) ∧
    (let s := at0 { spilled.now with w := spilled.now.w.set 7 8 }
     Claims.reloads s ∧ s.now.w[7] = 8 ∧ ∀ i ∈ [Instr.ret, .retCompact], s.issues i) := by
  and_intros <;> decide +kernel

theorem witness_CallTraps :
    (∀ i ∈ [Instr.callr 3, .callrCompact 3], base.issues i) ∧ base.gives 3 3 ∧ base.now.awaits 23 = false ∧
    16 ≤ base.nowCore.freeTo base.ctx ∧
    ((at0 { ctx with w := .replicate 24 65536 }).gives 2 65536 ∧
      ∀ i ∈ [Instr.callr 2, .callrCompact 2], (at0 { ctx with w := .replicate 24 65536 }).issues i) ∧
    Claims.callFits base ∧ ((deep 4).nowCore.freeTo 0 < 16 ∧ Claims.callFits (deep 4) ∧
      (deep 4).now.awaits 23 = false ∧ (deep 4).gives 3 3 ∧ ∀ i ∈ [Instr.callr 3, .callrCompact 3], (deep 4).issues i) ∧
    ((deep 0).issues (.call 8) ∧ ¬ Claims.callFits (deep 0) ∧ (deep 0).now.awaits 23 = false ∧ (deep 0).gives 2 2 ∧
      (deep 0).gives 3 3 ∧ ∀ i ∈ [Instr.callr 2, .callrCompact 2, .callr 3, .callrCompact 3], (deep 0).issues i) ∧
    (∀ i ∈ [Instr.ret, .retCompact], spilled.issues i ∧ spilled.now.depth ≠ 0 ∧ spilled.now.w[7] = 7 ∧
      spilled.now.below = [] ∧ spillOk spilled spilled.now.spill (spilled.now.spilltop.toNat - 1) false = true) ∧
    (∀ s ∈ [unspilled 7, unspilled 8, unspilled 65536], s.issues .ret ∧ s.issues .retCompact ∧ s.now.depth ≠ 0 ∧
      s.now.below = [] ∧ spillOk s s.now.spill (s.now.spilltop.toNat - 1) false = false) ∧
    (unspilled 8).now.w[7] = 8 ∧
    (∀ i ∈ [Instr.ret, .retCompact], (called 9).issues i ∧ (called 9).now.depth ≠ 0 ∧ (called 9).now.w[7] = 9 ∧
      (called 9).now.below ≠ [] ∧ (called 65536).issues i ∧ (called 65536).now.depth ≠ 0 ∧
      (called 65536).now.w[7] = 65536 ∧ base.issues i ∧ base.now.depth = 0) ∧
    (∀ r < 24, (called 9).now.awaits r = false) := by and_intros <;> decide +kernel

theorem witness_LoopStarts :
    base.issues (.loopi 5 3) ∧ base.issues (.loop 2 3) ∧ base.gives 2 2 ∧ base.now.pc.toNat + 4 + 2 * 3 ≤ 65536 ∧
    base.issues (.loopi 5 65535) ∧ base.issues (.loop 2 65535) ∧ 65536 < base.now.pc.toNat + 4 + 2 * 65535 := by
  and_intros <;> decide +kernel

theorem witness_UnitCompletion :
    let loop := at0 { ctx with lcount := 2, lend := 4 }
    (base.now.lcount = 0) ∧ loop.now.lcount ≠ 0 ∧
      loop.now.pc + BitVec.ofNat 64 (Instr.size (.movi 1 5)) = loop.now.lend := by
  intro loop; and_intros <;> decide +kernel

theorem witness_YieldAndEvents :
    (∀ i ∈ [Instr.yield, .yieldCompact, .wfe, .wfeCompact, .sev, .sevCompact], base.issues i) ∧ base.ctx ≠ 7 ∧
    base.now.evt = false ∧ (at0 { ctx with evt := true }).now.evt = true ∧ (at0 { ctx with evt := true }).issues .wfe ∧
    (at0 { ctx with evt := true }).released ∧ base.performed ∧
    (handler.issues .wfe ∧ handler.ctx = 7) := by and_intros <;> decide +kernel

theorem witness_DoneEndsActivation :
    (∀ i ∈ [Instr.done, .doneCompact], base.issues i ∧ base.now.replies = [] ∧ base.now.saving = false) ∧
    ((at0 { ctx with saving := true }).issues .done ∧ (at0 { ctx with saving := true }).now.saving = true) ∧
    ((at0 { ctx with replies := [1] }).issues .done ∧ (at0 { ctx with replies := [1] }).now.replies ≠ []) := by
  and_intros <;> decide +kernel

theorem witness_TrapInstructions :
    base.issues (.brk 5) ∧ base.issues (.sysc 5) ∧ base.issues .eret ∧ base.now.ts = false ∧
    (at0 { ctx with ts := true }).issues .eret ∧ (at0 { ctx with ts := true }).now.ts = true ∧
    (at0 { ctx with ts := true }).now.saving = false := by and_intros <;> decide +kernel

theorem witness_TrapEntry : base.vectors := by decide +kernel

theorem witness_Signatures :
    base.issues (.sig 5) ∧ (at0 { ctx with sv := false }).now.sv = false ∧
      (at0 { ctx with sv := false }).issues (.sig 5) ∧
    base.now.sv = true ∧ base.now.sig ≠ 5 := by and_intros <;> decide +kernel

theorem witness_CsrInstructions :
    (base.issues (.csrr 1 0x020) ∧ base.takes 1 ∧ base.now.fadds = 0 ∧
      M.answers (csrRead 0 0x020) base 0 (M.after (csrRead 0 0x020) base)) ∧
    ((at0 { ctx with fadds := 1 }).issues (.csrr 1 0x020) ∧ (at0 { ctx with fadds := 1 }).takes 1 ∧
      (at0 { ctx with fadds := 1 }).now.fadds ≠ 0) ∧
    (∀ p ∈ Claims.csrWrites 2 0x020, base.issues p.1 ∧ base.gives 2 2 ∧ csrPrivWrite 0x020 = false ∧
      (at0 { ctx with fadds := 1 }).issues p.1 ∧ (at0 { ctx with fadds := 1 }).gives 2 2) ∧
    (∀ p ∈ Claims.csrWrites 2 0x044, base.issues p.1 ∧ csrPrivWrite 0x044 = true ∧ base.now.privileged = false) ∧
    (at0 { ctx with mode := true }).now.privileged = true := by
  and_intros <;> first | decide +kernel | exact answers_out (by decide +kernel)

/-- The same in a privileged routine. -/
def super : State := at0 { ctx with mode := true }

theorem witness_ClassControl :
    (∀ i ∈ [Instr.clen 2, .cldis 2, .clpend 1 2], super.issues i) ∧ super.gives 2 2 ∧ super.takes 1 ∧
    Claims.mayClass super 2 ∧ Claims.mayClass base 2 ∧
    ¬ Claims.mayClass ((at0 ctx).updCore 0 fun k => k.setCls 2 (2 ^ 32)) 2 ∧
    ((at0 ctx).updCore 0 fun k => k.setCls 2 (2 ^ 32)).issues (.clen 2) ∧
    (at0 { ctx with w := .replicate 24 256 }).gives 2 256 ∧
      (at0 { ctx with w := .replicate 24 256 }).issues (.clen 2) ∧
    (let s := (at0 ctx).updCore 0 fun k => k.setCls 2 (2 ^ 32)
     s.issues (.clpend 1 2) ∧ s.gives 2 2 ∧ s.takes 1) ∧
    (at0 { ctx with w := .replicate 24 256 }).issues (.clpend 1 2) ∧
      (at0 { ctx with w := .replicate 24 256 }).takes 1 := by
  and_intros <;> decide +kernel

/-- Selectors of w2, and of another context's PC. -/
def selecting (v : DWord) (m : Bool) : State := at0 { ctx with mode := m, w := .replicate 24 v }

/-- A privileged routine with n frames below the window and a spill object, p1's, that holds m units. -/
def stacked (n m : Nat) : State :=
  at0 { ctx with
    mode := true, spill := ptr 3 0 1024 0x1010, spillcap := 4, spilltop := BitVec.ofNat 64 m
    depth := BitVec.ofNat 64 (n + m), below := .replicate n (.replicate 16 0) }

theorem witness_WindowSaves :
    ((stacked 3 0).issues (.savew 2) ∧ (stacked 3 0).gives 2 2 ∧ (stacked 3 0).now.privileged = true ∧
      ∀ j < (stacked 3 0).now.below.length - 2,
        (stacked 3 0).now.spilltop.toNat + j + 1 ≤ (stacked 3 0).now.spillcap.toNat ∧
        Claims.unitAt (stacked 3 0) ((stacked 3 0).now.spilltop.toNat + j) true) ∧
    ((stacked 0 1).issues (.loadw 2) ∧ (stacked 0 1).gives 2 2 ∧ (stacked 0 1).now.privileged = true ∧
      ∀ j < min 2 (stacked 0 1).now.spilltop.toNat,
        Claims.unitAt (stacked 0 1) ((stacked 0 1).now.spilltop.toNat - 1 - j) false ∧
        Claims.clean (stacked 0 1) ((stacked 0 1).now.spillPlace ((stacked 0 1).now.spilltop.toNat - 1 - j)) 128) ∧
    (∀ i ∈ [Instr.savew 2, .loadw 2], base.issues i) ∧ base.gives 2 2 ∧ base.now.privileged = false := by
  and_intros <;> decide +kernel

theorem witness_ContextInspection :
    (∀ v ∈ [0x200, 0x20060000], let s := selecting (BitVec.ofNat 64 v) true
      s.issues (.ctxrd 1 2) ∧ s.issues (.ctxwr 2 3) ∧ s.gives 2 (BitVec.ofNat 64 v) ∧ s.takes 1 ∧
      selectorOk v = true ∧ targetOk97 (some 0) s.nowCore v = true ∧ s.now.privileged = true ∧
      s.gives 3 (BitVec.ofNat 64 v)) ∧
    (Claims.itemSettled (selecting 0x200 true) 0x200 ∧ Claims.itemSettled (selecting 0x20060000 true) 0x20060000) ∧
    (Claims.itemWritable 0x200 ∧ Claims.itemWritable 0x20060000 ∧ Claims.itemTakes 0x200 0x200) ∧
    fld 0x200 16 8 ≠ 6 ∧ fld 0x20060000 16 8 = 6 ∧
    (let s := at0 { ctx with mode := true, w := (ctx.w.set 2 0x30000).set 3 (2 ^ 60) }
     s.issues (.ctxwr 2 3) ∧ s.gives 2 0x30000 ∧ s.gives 3 (2 ^ 60) ∧ selectorOk 0x30000 = true ∧
      targetOk97 (some 0) s.nowCore 0x30000 = true ∧ s.now.privileged = true ∧ Claims.itemSettled s 0x30000 ∧
      Claims.itemWritable 0x30000 ∧ ¬ Claims.itemTakes 0x30000 (2 ^ 60)) ∧
    (∀ v ∈ [0xFF0000, 0xD0000], let s := selecting (BitVec.ofNat 64 v) true
      s.issues (.ctxrd 1 2) ∧ s.issues (.ctxwr 2 3) ∧ s.gives 2 (BitVec.ofNat 64 v) ∧
      s.gives 3 (BitVec.ofNat 64 v) ∧ s.takes 1) ∧
    selectorOk 0xFF0000 = false ∧ selectorOk 0xD0000 = true ∧ ¬ Claims.itemWritable 0xD0000 ∧
    (let s := selecting 0x200 false
     s.now.privileged = false ∧ s.issues (.ctxrd 1 2) ∧ s.issues (.ctxwr 2 3) ∧ s.gives 2 0x200 ∧ s.takes 1 ∧
      s.gives 3 0x200 ∧ selectorOk 0x200 = true ∧ targetOk97 (some 0) s.nowCore 0x200 = true ∧
      Claims.itemWritable 0x200) := by
  and_intros <;> decide +kernel

theorem witness_ItemWriteThenRead :
    base.codesClean base.core = true ∧ (∀ r < 32, base.now.awaits r = false) := by and_intros <;> decide +kernel

theorem witness_FencesAndLinks :
    base.issues (.fence 1 1 0) ∧ (∀ d : Fin 4, base.issues (.linkc d) ∧ base.issues (.linkf d)) ∧
    neighbour 0 0 = none ∧ neighbour 0 1 ≠ none ∧ (base.nowCore.link 1).claim = none ∧
    (∀ x ∈ [(0 : Fin 8), 1],
      let s := base.updCore 0 fun k => k.setLink 1 { k.link 1 with claim := some x }
      s.issues (.linkc 1) ∧ (s.nowCore.link 1).claim = some x) := by and_intros <;> decide +kernel

theorem witness_GroupInstructions :
    (base.issues (.gbar 2) ∧ base.issues (.gwait 2) ∧ base.gives 2 2 ∧ fld 2 8 24 = 0) ∧
    ((at0 { ctx with latch := some [] }).issues (.gwait 2) ∧ (at0 { ctx with latch := some [] }).now.latch ≠ none) ∧
    ((selecting 256 false).issues (.gbar 2) ∧ (selecting 256 false).issues (.gwait 2) ∧
      (selecting 256 false).gives 2 256 ∧ (selecting 256 false).released ∧ fld 256 8 24 ≠ 0) ∧
    (let s := selecting 0xFFFFFFFF00000002 false
     s.issues (.gwait 2) ∧ s.gives 2 0xFFFFFFFF00000002 ∧ s.released ∧ fld 0xFFFFFFFF00000002 8 24 = 0 ∧
      genPassed (SMap.get {} s.pkg.groups (groupKey s.now.launch 2)).gen.toNat (0xFFFFFFFF00000002 / 2 ^ 32) = true) ∧
    (at0 { ctx with latch := some [] }).released := by and_intros <;> decide +kernel

/-- Die 0's pad holds the queue table, whose queue 0 of partition 0 is enabled and has a ring of 4 packets. -/
def queues (s : State) : State :=
  let t := dieBase 0
  let m := (s.mem.write t (bytesOf 16 (Header.fresh 0 65536).toNat)).write (t + 0x20000)
    (bytesOf 16 (Header.fresh 0 128).toNat)
  let m := (m.write (t + 16) (bytesOf 16 (ptr 3 0 128 (t + 0x20010)).bits.toNat)).write (t + 16 + 40)
    (bytesOf 8 (2 ^ 24))
  { s with
    mem := { m.setTag (t + 16) true with starts := (m.starts.add (t / 32)).add ((t + 0x20000) / 32) }
    pkg := { s.pkg with qtbase := ptr 3 0 65536 (t + 16) } }

/-- The states that LAUNCH of p4's block passes through: its block's dword checked and read, the queue's descriptor read,
and the packet placed. -/
def launch0 : State := queues base
def launch1 : State := M.after (access 4 136 8 1 true false) launch0
def launch2 : State := M.after (readNat (0x4010 + 136) 8) launch1
def launch3 : State := M.after (fetchObj launch2.pkg.qtbase 0 (64 * fld 0 0 10) 64) launch2
def launchPut : M Unit := do putStart (fld 0 0 10) 0 (← preg 4)
def launch4 : State := M.after launchPut launch3

theorem witness_LaunchPlacesPacket :
    launch0.issues (.launch 4) ∧ M.answers (checkPerm 4 true true) launch0 (ptr 3 0 192 0x4010) launch0 ∧
    192 ≤ (ptr 3 0 192 0x4010).len ∧
    M.answers (access 4 136 8 1 true false) launch0 (some (0x4010 + 136)) launch1 ∧
    M.answers (readNat (0x4010 + 136) 8) launch1 0 launch2 ∧
    launch2.pkg.qtbase.tag = true ∧ (∃ bs, M.answers (fetchObj launch2.pkg.qtbase 0 (64 * fld 0 0 10) 64) launch2 bs
      launch3) ∧
    bit (launch3.queueCtl 0) 24 = true ∧ fld (launch3.queueCtl 0) 16 4 = launch3.now.part.toNat ∧
    launch3.queueRoom 0 = true ∧ launch3.performed ∧
    launch3.queueField 0 36 4 = 0 ∧ M.answers launchPut launch3 () launch4 ∧
    (let id : M Unit := storeBytes 4 144 (0x4010 + 136 + 8) (bytesOf 8 (0 + 0 * 1024)) (some true)
     M.answers id launch4 () (M.after id launch4)) := by
  refine ⟨by decide +kernel, answers_at (by decide +kernel), by decide +kernel, answers_out (by decide +kernel),
    answers_out (by decide +kernel), by decide +kernel, answers_some (by decide +kernel), ?_⟩
  and_intros <;> first | decide +kernel | exact answers_out (by decide +kernel)

theorem witness_LaunchCompletes :
    let s := launch0
    let t := dieBase 0
    s.issues (.launch 4) ∧ Claims.ownObject s 4 0x4010 0x4000 (Header.fresh 0 192) ∧
    s.now.p[(4 : Fin 16)].r = true ∧ s.now.p[(4 : Fin 16)].w = true ∧ 192 ≤ s.now.p[(4 : Fin 16)].len ∧
    0x4000 + 16 ≤ 0x4010 ∧ s.mem.footOf (0x4010 + 144) = some 0x4000 ∧ Claims.clean s (0x4010 + 136) 8 ∧ s.mem.wf ∧ s.armed s.core 0 = none ∧
    fld (natOf (s.mem.read (0x4010 + 136) 8)) 0 10 = 0 ∧ s.queueField 0 36 4 = 0 ∧
    s.pkg.qtbase.tag = true ∧ s.pkg.qtbase.key 0 = t + 16 ∧ Claims.inDiePad s s.pkg.qtbase 0 (64 * 0) 64 ∧
    s.mem.footOf (t + 16 + 64 * 0 + 36) = some t ∧ s.mem.footOf (t + 16 + 64 * 0) = some t ∧
    Claims.inDiePad s (s.queueRing 0).1 (s.queueRing 0).2.1 (32 * (0 % max 1 (s.queueRing 0).2.2)) 32 ∧
    t + 16 ≤ (s.queueRing 0).1.key (s.queueRing 0).2.1 + 32 * (0 % max 1 (s.queueRing 0).2.2) ∧
    bit (s.queueCtl 0) 24 = true ∧ fld (s.queueCtl 0) 16 4 = s.now.part.toNat ∧ s.queueRoom 0 = true := by
  intro s t
  and_intros <;> decide +kernel

/-- XINV's operand: partition 0, from 0, 64 KiB. -/
def invalidation : State := (at0 { ctx with mode := true }).updMem fun m => m.write 0x1010 (bytesOf 24 (2 ^ 144))

/-- Tracing of kind 3 is on, with n records waiting. -/
def tracing (n : Nat) : State :=
  (base.setCoreReg 0 0x2A 9).updCore 0 fun k => { k with tbuf := .replicate n { bits := 0 } }

theorem witness_CancelXinvTrace :
    (∀ s ∈ [base, launch0], s.issues (.cancel 2) ∧ s.gives 2 2 ∧ s.takes 2) ∧ base.ctx ≠ 7 ∧ base.issues (.trace 2) ∧
    (let w : M Unit := do readPlace (launch0.descriptor (fld 2 0 10)); ((← get).cancelReads 2).forM readPlace
     M.answers w launch0 () (M.after w launch0)) ∧
    (base.cancelReads 2 ≠ [] ∧ ∀ x ∈ base.cancelReads 2, x.1.tag = false) ∧
    (launch0.cancelReads 0 = [(launch0.pkg.qtbase, 0, 0, 64), launch0.packetPlace 0 0] ∧ launch0.issues (.cancel 24) ∧
      launch0.gives 24 0 ∧ launch0.takes 24) ∧
    (let s := super
     Claims.ownObject s 1 0x1010 0x1000 (Header.fresh 0 1024) ∧ s.issues (.xinv 1) ∧ s.now.privileged = true ∧
      s.now.p[(1 : Fin 16)].r = true ∧ 24 ≤ s.now.p[(1 : Fin 16)].len ∧ Claims.clean s 0x1010 24 ∧
      (List.range 3).map (fun i => natOf (s.mem.read (0x1010 + 8 * i) 8)) = [7, 0, 0]) ∧
    (let s := super.updMem fun m => m.write 0x1018 [1]
     Claims.ownObject s 1 0x1010 0x1000 (Header.fresh 0 1024) ∧ s.issues (.xinv 1) ∧ s.now.privileged = true ∧
      s.now.p[(1 : Fin 16)].r = true ∧ 24 ≤ s.now.p[(1 : Fin 16)].len ∧ Claims.clean s 0x1010 24 ∧
      (List.range 3).map (fun i => natOf (s.mem.read (0x1010 + 8 * i) 8)) = [7, 1, 0]) ∧
    (Claims.ownObject base 1 0x1010 0x1000 (Header.fresh 0 1024) ∧ base.now.p[(1 : Fin 16)].w = true ∧
      160 ≤ base.now.p[(1 : Fin 16)].len ∧ base.now.p[(1 : Fin 16)].len = 1024 ∧
      (∀ o < 1024, base.mem.footOf (0x1010 + o) = some 0x1000) ∧ Claims.bodyAt (Header.fresh 0 1024) 0x1000 0x1010 ∧
      base.mem.wf ∧ base.armed base.core 0 = none) ∧
    M.answers (loadWords 1 6) invalidation [0, 0, 0, 0, 65536, 0] (M.after (loadWords 1 6) invalidation) ∧
    invalidation.issues (.xinv 1) ∧ invalidation.now.privileged = true ∧
    base.issues (.xinv 1) ∧ base.now.privileged = false ∧
    base.traces 0 3 = false ∧ (tracing 0).issues (.trace 2) ∧ (tracing 0).traces 0 3 = true ∧
    (tracing 0).nowCore.tbuf.length < 8 ∧ (tracing 8).issues (.trace 2) ∧ (tracing 8).traces 0 3 = true ∧
    (tracing 8).trFull 0 = false ∧ 8 ≤ (tracing 8).nowCore.tbuf.length ∧ base.issues (.ctrsnap 1) ∧
    base.attempts ∧
    (let now := (base.tallyCtx 0 0).tallyCore 0
     let offs := (List.range 20).map (8 * ·)
     let work : M (Nat × List Nat) := accessEach 1 8 8 offs false true
     let put : M Unit := offs.forM fun o => storeBytes 1 o (0x1010 + o) (bytesOf 8 0) none
     M.answers work now (0x1010, offs) (M.after work now) ∧ (out? put (M.after work now)).isSome = true) := by
  and_intros <;> first | decide +kernel | exact answers_out (by decide +kernel)

/-- The header of p1's object. -/
def head1 : Header := Header.fresh 0 1024

/-- What is out of range traps, and every register holds 1024. -/
def ranging : State := at0 { ctx with rangectl := true, w := .replicate 24 1024 }

theorem forbids_null : Claims.forbids base 0 false ∧ Claims.forbids base 0 true ∧ Claims.forbids base 5 true :=
  ⟨.inl (by decide +kernel), .inl (by decide +kernel), .inr (.inr (by decide +kernel))⟩

theorem permits_one : ∀ w, (¬ Claims.forbids base 1 w) ∧ (¬ Claims.forbids ranging 1 w) ∧
    ¬ Claims.forbids (selecting 1024 false) 1 w := by
  unfold Claims.forbids
  decide +kernel

theorem witness_ScalarAccessTraps :
    (∀ p ∈ [(0 : Pr), 1], ∀ e ∈ Claims.scalarLoads 2 2 true false 1 0 p 1 1 1, base.issues e.1 ∧ base.takes e.2.1) ∧
    (∀ p ∈ [(0 : Pr), 1, 5], ∀ e ∈ Claims.scalarStores 2 2 true false 1 0 p 1 1 1, base.issues e.1 ∧ base.gives e.2.1 2) ∧
    Claims.offsetIs base true 1 2 1 ∧ base.now.latch = none ∧ base.released ∧ base.performed ∧
    ((1 : Nat) % 2 ^ (1 : Fin 4).val ≠ 0) ∧
    (∀ s ∈ [ranging, selecting 1024 false], Claims.offsetIs s true 4 4 1024 ∧ s.now.latch = none ∧
      s.now.p[(1 : Fin 16)].len < 1024 + 4 ∧ s.issues (.ld 2 true false 2 0 1 4) ∧ s.takes 2 ∧
      s.issues (.st 2 true false 2 0 1 4) ∧ s.gives 2 1024 ∧ s.released ∧ s.performed) ∧
    ranging.now.rangectl = true ∧ (selecting 1024 false).now.rangectl = false := by
  and_intros <;> first | decide +kernel | exact ⟨1, by decide +kernel, rfl⟩ | skip
  intro s hs
  simp only [List.mem_cons, List.not_mem_nil, or_false] at hs
  rcases hs with rfl | rfl <;> exact ⟨⟨1024, by decide +kernel, rfl⟩, by decide +kernel⟩

theorem witness_ScalarLoadResults :
    (∀ e ∈ Claims.scalarLoads 1 2 false false 2 0 1 1 1 1, base.issues e.1 ∧ base.takes e.2.1) ∧
    base.now.latch = none ∧ Claims.offsetIs base false 1 4 4 ∧ Claims.offsetIs base true 4 4 4 ∧
    base.now.p[(1 : Fin 16)].r = true ∧ Claims.ownObject base 1 0x1010 0x1000 head1 ∧
    4 + 4 ≤ (base.now.p[(1 : Fin 16)]).len ∧ Claims.clean base (0x1010 + 4) 4 ∧
    (base.now.p[(1 : Fin 16)]).len < 1024 + 4 ∧ Claims.offsetIs (selecting 1024 false) true 4 4 1024 ∧
    (selecting 1024 false).now.rangectl = false ∧ (selecting 1024 false).issues (.ld 1 true false 2 0 1 4) := by
  and_intros <;> first | decide +kernel | exact ⟨4, by decide +kernel, rfl⟩ | exact ⟨1024, by decide +kernel, rfl⟩ |
    simp [Claims.offsetIs]

theorem witness_ScalarStoreResults :
    (∀ e ∈ Claims.scalarStores 1 2 false false 2 0 1 1 1 1, base.issues e.1) ∧ base.now.latch = none ∧ base.mem.wf ∧
    Claims.offsetIs base false 1 4 4 ∧ base.gives 1 1 ∧ base.gives 2 2 ∧ base.now.p[(1 : Fin 16)].w = true ∧
    Claims.ownObject base 1 0x1010 0x1000 head1 ∧ Claims.bodyAt head1 0x1000 0x1010 ∧
    Claims.reaches base 1 0x1010 0x1000 4 4 ∧ base.armed 0 0 = none := by and_intros <;> first | decide +kernel | simp [Claims.offsetIs]

theorem witness_WaitingAccesses :
    let s1 := M.after (access 1 0 4 4 true false) base
    let s2 := M.after (tryNeed 0 0 (.words .load 1 4 [0] [])) s1
    let s3 := M.after (tryNeed 0 0 (.words .consume 1 4 [0] [])) s1
    let s4 := M.after (access 1 4 4 4 false true) base
    let s5 := M.after (tryNeed 0 0 (.words .fill 1 4 [4] [2])) s4
    let s6 := M.after (access 1 4 4 4 true false) base
    let s7 := M.after (tryNeed 0 0 (.words .load 1 4 [4] [])) s6
    (∀ i ∈ [Instr.ldw 2 false false 2 0 1 0, .ldc 2 false false 2 0 1 0, .stf 2 false false 2 0 1 1], base.issues i) ∧
    base.now.latch = none ∧ base.takes 2 ∧ base.gives 2 2 ∧ base.released ∧ base.performed ∧ s2.settled.upsets = [] ∧
    s3.settled.upsets = [] ∧
    M.answers (access 1 0 4 4 true false) base (some 0x1010) s1 ∧
    M.answers (tryNeed 0 0 (.words .load 1 4 [0] [])) s1 (.ok [7]) s2 ∧
    M.answers (tryNeed 0 0 (.words .consume 1 4 [0] [])) s1 (.ok [7]) s3 ∧
    M.answers (access 1 4 4 4 false true) base (some 0x1014) s4 ∧ s4.gives 2 2 ∧
    M.answers (tryNeed 0 0 (.words .fill 1 4 [4] [2])) s4 (.ok []) s5 ∧
    M.answers (access 1 4 4 4 true false) base (some 0x1014) s6 ∧
    M.answers (tryNeed 0 0 (.words .load 1 4 [4] [])) s6 (.error 4) s7 ∧
    base.issues (.ldw 2 false false 2 0 1 1) := by
  intro s1 s2 s3 s4 s5 s6 s7
  and_intros <;> first | decide +kernel | exact answers_granted (by decide +kernel) |
    exact answers_failed (by decide +kernel) | exact answers_out (by decide +kernel)

theorem witness_WaitingAccessesComplete :
    (∀ i ∈ [Instr.ldw 2 false false 2 0 1 0, .ldc 2 false false 2 0 1 0, .stf 2 false false 2 0 1 1], base.issues i) ∧
    base.now.latch = none ∧ base.takes 2 ∧ base.gives 2 2 ∧ Claims.offsetIs base false 0 4 0 ∧
    Claims.offsetIs base false 1 4 4 ∧ Claims.ownObject base 1 0x1010 0x1000 head1 ∧
    4 + 4 ≤ (base.now.p[(1 : Fin 16)]).len ∧ Claims.clean base 0x1010 4 ∧ Claims.clean base 0x1014 4 ∧
    base.now.p[(1 : Fin 16)].r = true ∧ base.now.p[(1 : Fin 16)].w = true ∧
    (∀ w ∈ wordsOf 0x1010 4, base.mem.isFull w = true) ∧ (∀ w ∈ wordsOf 0x1014 4, base.mem.isFull w = false) ∧
    base.mem.wf ∧ Claims.bodyAt head1 0x1000 0x1010 ∧ base.mem.footOf 0x1014 = some 0x1000 ∧
    base.armed 0 0 = none := by
  and_intros <;> first | decide +kernel | simp [Claims.offsetIs]

theorem witness_FullEmptyConditions :
    Claims.ownObject base 1 0x1010 0x1000 head1 ∧ Claims.clean base 0x1010 4 ∧ Claims.clean base 0x1014 4 ∧
    base.mem.isFull 0x1010 = true ∧ base.mem.isFull 0x1014 = false ∧ base.mem.wf ∧
    base.mem.footOf 0x1014 = some 0x1000 ∧ base.armed 0 0 = none := by and_intros <;> decide +kernel

theorem witness_FullEmptyAndPointerAccess :
    let offs := (List.range 32).map fun i => 4 + 4 * i
    let each : M (Nat × List Nat) := accessEach 1 4 4 offs true false
    let s1 := M.after each base
    let bits : M (List Bool) := offs.mapM fun o => if offs.contains o then allFull (0x1010 + o) 4 true aR else pure false
    let acc := M.after (access 1 4 8 4 false true) (M.after (deadObject 1) base)
    let g := ptr 3 0 1024 0x1010
    let t1 := M.after (access 1 16 16 16 true false) base
    let place : M (Option Nat) := pstPlace 1 1 16 4
    let u2 := M.after place base
    let dead : M Bool := deadObject 1
    let s0 := M.after dead base
    let put : M Unit := do writeGranule 0x1020 (← preg 1); bumpVersion 0x1020
    (∀ i ∈ [Instr.feget 2 false 0 1 1, .feset 2 false true 0 1 1, .pld 7 false 4 1 1, .pst 1 false 4 1 1],
      base.issues i) ∧ base.takes 2 ∧ base.gives 2 2 ∧
    M.answers each base (0x1010, offs) s1 ∧ M.answers bits s1 (.replicate 32 false) (M.after bits s1) ∧
    (M.after bits s1).upsets = [] ∧ base.released ∧ base.performed ∧
    M.answers (checkPerm 1 false true) base g base ∧ M.answers dead base false s0 ∧
      M.answers (access 1 4 8 4 false true) s0 (some 0x1014) acc ∧
    M.answers (setFE 0x1014 8 true aW) acc () (M.after (setFE 0x1014 8 true aW) acc) ∧
    M.answers (access 1 16 16 16 true false) base (some 0x1020) t1 ∧
    M.answers (readGranule 0x1020) t1 .null (M.after (readGranule 0x1020) t1) ∧ PReg.null.tag = false ∧
    (M.after (readGranule 0x1020) t1).upsets = [] ∧
    M.answers place base (some 0x1020) u2 ∧ M.answers put u2 () (M.after put u2) ∧
    (Claims.offsetIs base false 1 4 4 ∧ 4 + 128 ≤ base.now.p[(1 : Fin 16)].len ∧
      4 + 4 * 2 ≤ base.now.p[(1 : Fin 16)].len) ∧
    (Claims.offsetIs base false 1 16 16 ∧ Claims.ownObject base 1 0x1010 0x1000 head1 ∧
      Claims.reaches base 1 0x1010 0x1000 16 16 ∧ Claims.clean base 0x1020 16 ∧
      base.now.p[(1 : Fin 16)].r = true ∧ base.now.p[(1 : Fin 16)].w = true ∧ base.mem.isTagged 0x1020 = false ∧
      base.issues (.pst 8 false 4 1 1) ∧ base.now.p[(8 : Fin 16)].tag = false ∧ base.mem.wf ∧
      Claims.bodyAt head1 0x1000 0x1010 ∧ base.armed 0 0 = none) := by
  intro offs each s1 bits acc g t1 place u2 dead s0 put
  and_intros <;> first | decide +kernel | exact answers_out (by decide +kernel) | simp [Claims.offsetIs]

theorem witness_VectorMemoryAccess :
    let load : M (List (Nat × Nat)) := loadLanes none 1 0 (strided 1 0)
    let loadW : M (List (Nat × Nat)) := loadLanes (some .load) 1 0 (strided 1 0)
    let loadC : M (List (Nat × Nat)) := loadLanes (some .consume) 1 0 (strided 1 0)
    let store : M Unit := storeLanes 1 64 (strided 1 64) 3
    let lanes : M (Nat × List (Nat × Nat)) := vectorLanes 1 64 (strided 1 64) true
    let s1 := M.after lanes vectors
    let fill := tryNeed 0 0 (.words .fill 1 4 [64] [0])
    let gather : M (List (Nat × Nat)) := loadLanes none 1 0 (indexed 1 0)
    let scatter : M Unit := storeLanes 1 0 (indexed 1 0) 3
    (∀ i ∈ [Instr.vld 3 false 1 0 1 0, .vldw 3 false 1 0 1 0, .vldc 3 false 1 0 1 0, .vst 3 false 1 0 1 1,
      .vstf 3 false 1 0 1 1, .vgath 3 1 0 1 4, .vscat 3 1 0 1 4], vectors.issues i) ∧
    vectors.takesV 3 ∧ vectors.givesV 3 0 ∧ vectors.givesV 4 0 ∧ vectors.now.m[(1 : Fin 8)] = 1 ∧ vectors.released ∧
    vectors.performed ∧
    vectors.now.latch = none ∧ M.answers load vectors [(0, 7)] (M.after load vectors) ∧
    M.answers loadW vectors [(0, 7)] (M.after loadW vectors) ∧
      M.answers loadC vectors [(0, 7)] (M.after loadC vectors) ∧
    M.answers store vectors () (M.after store vectors) ∧ M.answers lanes vectors (0x1010, [(0, 64)]) s1 ∧
    s1.givesV 3 0 ∧ M.answers fill s1 (.ok []) (M.after fill s1) ∧
    M.answers gather vectors [(0, 7)] (M.after gather vectors) ∧
    M.answers scatter vectors () (M.after scatter vectors) := by
  intro load loadW loadC store lanes s1 fill gather scatter
  and_intros <;> first | decide +kernel | exact answers_out (by decide +kernel)

theorem witness_VectorLoadsAndStoresComplete :
    let one := strided (Claims.maskOf vectors 1) 0
    let four := strided (Claims.maskOf vectors 1) 64
    vectors.now.latch = none ∧ Claims.offsetIs vectors false 0 64 0 ∧ Claims.offsetIs vectors false 1 64 64 ∧
    vectors.takesV 3 ∧ vectors.givesV 3 0 ∧ vectors.givesV 4 0 ∧ vectors.now.p[(1 : Fin 16)].r = true ∧
    vectors.now.p[(1 : Fin 16)].w = true ∧ Claims.lanesOk vectors 1 0x1010 0x1000 head1 0 one ∧
    Claims.lanesOk vectors 1 0x1010 0x1000 head1 64 four ∧
    Claims.lanesOk vectors 1 0x1010 0x1000 head1 0 (indexed (Claims.maskOf vectors 1) 0) ∧ one ≠ [] ∧ four ≠ [] ∧
    (∀ l ∈ one, ∀ w ∈ wordsOf (0x1010 + l.2) 4, vectors.mem.isFull w = true) ∧
    (∀ l ∈ four, ∀ w ∈ wordsOf (0x1010 + l.2) 4, vectors.mem.isFull w = false) ∧ vectors.mem.wf ∧
    Claims.bodyAt head1 0x1000 0x1010 ∧ vectors.armed 0 0 = none := by
  intro one four
  and_intros <;> first | decide +kernel | simp [Claims.offsetIs]

theorem witness_PointerArithmetic :
    (∀ i ∈ [Instr.padd 7 1 2, .pnarrow 7 1 2 3, .pview 7 1 3, .pperm 7 1 3, .plen 2 1, .pcmp 2 1 4, .pmov 7 1,
      .pview 7 0 0, .pperm 7 0 0], base.issues i) ∧ base.gives 2 2 ∧ base.gives 3 3 ∧ base.takes 2 ∧
    base.now.p[(1 : Fin 16)].tag = true ∧ 2 + 3 ≤ (base.now.p[(1 : Fin 16)]).len ∧
    ((3 : BitVec 4).getLsbD 1 && (3 : BitVec 4).getLsbD 3) = false ∧ base.now.p[(0 : Fin 16)].tag = false := by
  and_intros <;> decide +kernel

/-- Core 0's pad has room from 0x8000 to 0x10000, and its pinned region from 0x10000 to 0x20000. -/
def padded : State :=
  [(0, 0x8000), (1, 0x10000), (2, 0x10000), (3, 0x8000), (4, 0x10000), (5, 0x20000), (6, 0x10000)].foldl
    (fun s e => s.setCoreReg 0 e.1 e.2) base

/-- Pads of partition 0: core 0's cluster pad and region 0 of its die, and cluster pad 0 of partition 1. -/
def owned (part : BitVec 5) : State :=
  (padded.updClu 0 fun c => { c with pad := { c.pad with owner := 16 + part } }).updDie 0 fun d =>
    { d with regs := d.regs.set 0 { d.regs[0] with owner := 16 + part } }

/-- The same with v in every register. -/
def owned' (part : BitVec 5) (v : DWord) : State := (owned part).updCtx 0 0 fun q => { q with w := .replicate 24 v }

theorem witness_Allocation :
    let place (pin : Bool) : M Nat := placeObject (footprint 2) 2 false pin
    let init (pin : Bool) : M Unit := initObject (if pin then 0x10000 else 0x8000) (footprint 2) (Header.fresh 0 2)
    (∀ i ∈ [Instr.new 7 0 2 3, .newp 7 0 2 3], (owned 0).issues i) ∧ (owned 0).gives 2 2 ∧
    ((3 : BitVec 5).getLsbD 1 && (3 : BitVec 5).getLsbD 3) = false ∧ (3 : BitVec 5).getLsbD 4 = false ∧
    M.answers (place false) (owned 0) 0x8000 (M.after (place false) (owned 0)) ∧
    M.answers (place true) (owned 0) 0x10000 (M.after (place true) (owned 0)) ∧
    M.answers (init false) (M.after (place false) (owned 0)) () (M.after (init false) (M.after (place false) (owned 0))) ∧
    M.answers (init true) (M.after (place true) (owned 0)) () (M.after (init true) (M.after (place true) (owned 0))) := by
  intro place init
  and_intros <;> first | decide +kernel | exact answers_out (by decide +kernel)

/-- The header of p6's object, which is free, and held by context 0. -/
def head6 (acq : Nat) : Header := { Header.fresh 0 192 with acq }

/-- p6's object is held by context 0. -/
def acquired : State :=
  (at0 { ctx with holds := [ptr 19 0 192 0x4010] }).updMem fun m => m.write 0x4000 (bytesOf 16 (head6 0).toNat)

theorem witness_AllocationComplete :
    (owned 0).gives 2 2 ∧ Claims.mayAllocate (owned 0) 0 3 2 ∧ ((owned 0).dieAt (coreDie 0)).st ≠ 1 ∧
    (owned 0).chooseLevel 0 0 (footprint 2) ((3 : BitVec 5).getLsbD 4) = .pad 0 ∧ (owned 0).issues (.new 7 0 2 3) ∧
    (owned 0).issues (.newp 7 0 2 3) ∧ ((owned 0).pad 0).bump + footprint 2 ≤ ((owned 0).pad 0).hi ∧
    ((owned 0).pad 0).pinBump + footprint 2 ≤ ((owned 0).pad 0).pinHi ∧
    levelOf (padBase 0 + ((owned 0).pad 0).bump) = 0 ∧ levelOf (padBase 0 + ((owned 0).pad 0).pinBump) = 0 := by
  and_intros <;> decide +kernel

theorem witness_NewObjectIsEmpty :
    base.mem.wf ∧ levelOf 0x8000 = 0 ∧ 0x8000 % 32 = 0 ∧ base.armed (spaceOf 0x8000) 0 = none := by
  and_intros <;> decide +kernel

theorem witness_TouchAcquireRelease :
    let acq := tryNeed 0 0 (.acq 6)
    let shared : M PReg := checkShared 6
    let at_ : M (Nat × Option (Nat × Header)) := locateUp 0x4010
    let put : M Unit := putHeader 0x4000 { head6 0x1FFF with version := 1 } aR
    let same : M (List PReg) := acquired.now.holds.filterM fun (q : PReg) => do
      let (_, o) ← locateUp (q.key (← me).part.toNat)
      match o with
      | some (g, _) => pure (g != 0x4000)
      | none => pure false
    (base.issues (.touch 1) ∧ Claims.ownObject base 1 0x1010 0x1000 head1 ∧ base.released ∧ acquired.performed) ∧
    (base.issues (.acq 6 0) ∧ base.now.latch = none ∧ M.answers shared base (ptr 19 0 192 0x4010) base ∧
      M.answers acq base (.ok []) (M.after acq base)) ∧
    (Claims.ownObject base 6 0x4010 0x4000 (head6 0x1FFF) ∧ (head6 0x1FFF).acq = 0x1FFF ∧ base.mem.wf ∧
      base.now.p[(6 : Fin 16)].sh = true ∧ base.now.p[(6 : Fin 16)].len ≠ 0 ∧ base.armed 0 0 = none) ∧
    (Claims.ownObject acquired 6 0x4010 0x4000 (head6 0) ∧ (head6 0).acq = acqId 0 0 ∧ acquired.mem.wf ∧
      acquired.now.p[(6 : Fin 16)].sh = true ∧ acquired.now.p[(6 : Fin 16)].len ≠ 0 ∧ acquired.armed 0 0 = none ∧
      acquired.now.holds = [acquired.now.p[(6 : Fin 16)]]) ∧
    (acquired.issues (.rel 6 0) ∧ M.answers shared acquired (ptr 19 0 192 0x4010) acquired ∧
      (ptr 19 0 192 0x4010).key 0 = 0x4010 ∧ M.answers at_ acquired (0x4010, some (0x4000, head6 0)) acquired ∧
      (head6 0).acq = acqId 0 0 ∧ M.answers put acquired () (M.after put acquired) ∧
      M.answers same (M.after put acquired) [] (M.after same (M.after put acquired))) := by
  intro acq shared at_ put same
  and_intros <;> first | decide +kernel | exact answers_out (by decide +kernel)

theorem witness_SiftRequests :
    (∀ i, base.siftRuns i = false ∧ (owned' 0 1).siftRuns i = false ∧ (owned' 0 2).siftRuns i = false) ∧
    (∀ n ∈ [0, 1, 2, 3], (owned' 0 (BitVec.ofNat 64 n)).issues (.sift 2) ∧
      (owned' 0 (BitVec.ofNat 64 n)).gives 2 (BitVec.ofNat 64 n)) ∧
    (owned' 1 1).issues (.sift 2) ∧ (owned' 1 1).gives 2 1 ∧
    M.answers (siftPad 0) base () (M.after (siftPad 0) base) ∧ (selecting 0 false).gives 2 0 ∧
    fld ((owned' 0 1).pad (1024 + coreClu 0)).owner.toNat 0 4 = 0 ∧
    M.answers (siftPad (1024 + coreClu 0)) (owned' 0 1) () (M.after (siftPad (1024 + coreClu 0)) (owned' 0 1)) ∧
    (owned' 0 2).region 0 0 = some 2048 ∧
    M.answers (siftPad 2048) (owned' 0 2) () (M.after (siftPad 2048) (owned' 0 2)) ∧
    bit ((owned' 1 1).pad (1024 + coreClu 0)).owner.toNat 4 = true ∧
    fld ((owned' 1 1).pad (1024 + coreClu 0)).owner.toNat 0 4 ≠ 0 ∧
    (base.region 0 0).isNone = true ∧ base.issues (.sift 2) ∧ base.gives 2 2 ∧
    (∀ s ∈ [base, owned' 0 1, owned' 0 2, selecting 0 false], s.now.metSift = false) ∧
    (let s := at0 { ctx with metSift := true, w := .replicate 24 0 }
     s.issues (.sift 2) ∧ s.gives 2 0 ∧ s.siftRuns 0 = false ∧ s.now.metSift = true) ∧
    (let s := selecting 0 false
     s.core < 1024 ∧ s.issues (.sift 2) ∧ s.siftRuns 0 = false ∧ s.draining s.core = false ∧
      s.objectsIn (padBase s.core + (s.pad s.core).lo) (padBase s.core + (s.pad s.core).hi) = [] ∧
      s.liveIn s.core = []) ∧
    (let s := { selecting 0 false with sifts := [{ pads := [0] }] }
     s.issues (.sift 2) ∧ s.gives 2 0 ∧ s.siftRuns s.core = true) := by
  and_intros <;> first | decide +kernel | exact answers_out (by decide +kernel) | exact fun _ => ⟨rfl, rfl, rfl⟩

/-- FP32, RNE, m1. -/
def f32 : Vx := ⟨0, some ⟨1, 0, 9⟩⟩

theorem witness_VectorLaneResults :
    (∀ i ∈ [Instr.vadd f32 3 4 5, .vsub f32 3 4 5, .vmul f32 3 4 5, .vmin f32 3 4 5, .vmax f32 3 4 5, .vperm f32 3 4 5],
      base.issues i) ∧
    (∀ e ∈ Claims.vectorTwo ⟨2, none⟩ 3 4 5, base.issues e.1) ∧
    (∀ e ∈ Claims.vectorCompact 3 4, base.issues e.1) ∧ (∀ e ∈ Claims.vectorThree f32 3 4 5, base.issues e.1) ∧
    (∀ e ∈ Claims.vectorOne f32 3 4, base.issues e.1) ∧ base.givesV 3 0 ∧ base.givesV 4 0 ∧ base.givesV 5 0 ∧
    base.takesV 3 := by and_intros <;> decide +kernel

theorem witness_VectorMoveResults :
    (∀ i ∈ [Instr.viota f32 3, .vbcast f32 3 2, .vins f32 3 2 15, .vext f32 2 4 15, .vcmp f32 1 4 5 2, .vsel f32 3 4 5],
      base.issues i) ∧ base.gives 2 2 ∧ base.takes 2 ∧ base.takesV 3 ∧ base.givesV 4 0 ∧ base.givesV 5 0 := by
  and_intros <;> decide +kernel

theorem witness_VectorReductions :
    let lanes := (List.range (lanesOf f32.type)).map fun i =>
      if (Claims.maskOf base f32.mask).getLsbD i then elemOf f32.type 0 i else identityOf f32.type 0
    let tree : M (List Nat) := treeOf f32 0 (treeDepth f32) lanes
    let scan : M (List Nat) := scanOf f32 0 (Claims.maskOf base f32.mask) (treeDepth f32) 1 lanes
    (∀ i ∈ [Instr.vdot f32 3 4 5, .vred f32 3 4 0, .vscan f32 3 4 0], base.issues i) ∧ base.givesV 4 0 ∧
      base.givesV 5 0 ∧
    base.takesV 3 ∧ (out? tree base).map List.length = some 1 ∧ (out? scan base).isSome = true := by
  intro lanes tree scan; and_intros <;> decide +kernel

theorem witness_VectorConversions :
    (∀ i ∈ [Instr.vcvt f32 3 4 2, .vqnt ⟨0, some ⟨0, 0, 14⟩⟩ 3 4, .vdq ⟨0, some ⟨0, 0, 9⟩⟩ 4 3], base.issues i) ∧
    base.givesV 4 0 ∧ base.givesV 5 0 ∧ base.givesV 3 0 ∧ base.takesV 3 ∧ base.takesV 4 ∧ base.takesV 5 := by
  and_intros <;> decide +kernel

theorem witness_MaskResults :
    (∀ e ∈ Claims.maskTwo 1 2 3, base.issues e.1) ∧ (∀ e ∈ Claims.maskScalars 2 3, base.issues e.1) ∧
    (∀ i ∈ [Instr.mnot 1 2, .mfrom 1 2, .mset 1 5], base.issues i) ∧ base.takes 2 ∧ base.gives 2 2 := by
  and_intros <;> decide +kernel

/-- A map of 2 rows of 2 elements of FP32. -/
def map22 : V512 := BitVec.ofNat 512
  (2 ^ 40 + 3 * 2 ^ 44 + 2 * 2 ^ 64 + 2 * 2 ^ 96 + 1 * 2 ^ 256 + 2 * 2 ^ 288)

/-- tm0 and tm1 hold it; tm2 is invalid. -/
def mapped : State := at0 { ctx with tm := #v[map22, map22, 0, 0, 0, 0, 0, 0] }

/-- Tile 1 is context x's. -/
def tiled (x : Fin 8) : State := mapped.updCore 0 fun k => k.setTile 1 { k.tile 1 with owner := some x }

/-- The header of p4's object. -/
def head4 : Header := Header.fresh 0 192

theorem mapped_quiet : Claims.quiet mapped := ⟨fun _ _ => rfl, by decide +kernel⟩

theorem witness_MatrixMultiplies :
    let own := Claims.owning mapped [1]
    let ops : M (List (List FVal) × List (List FVal) × Nat) := readOperands 1 map22 4 map22 9 []
    let run (e : Bool × Bool) : M Unit := multiply 1 false e.1 e.2 [] [] 2
    (∀ e ∈ Claims.multiplies 1 1 0 4 1 9, mapped.issues e.1 ∧ (tiled 3).issues e.1 ∧
      Claims.mayMultiply mapped 1 false e.2.1) ∧
    Claims.double mapped 1 4 9 = false ∧ Claims.operandsFit mapped 1 0 4 1 9 ∧ Claims.bufferBits mapped 4 1 = [] ∧
    Claims.ownObject mapped 1 0x1010 0x1000 head1 ∧ Claims.ownObject mapped 4 0x4010 0x4000 head4 ∧
    Claims.quiet mapped ∧
    (out? ops own).isSome = true ∧ (∀ e ∈ [(false, false), (false, true), (true, false)],
      (out? (run e) (M.after ops own)).isSome = true) ∧
    ¬ Claims.tilesFree (tiled 3) (Claims.accTiles false 1) ∧ mapped.now.tm[(2 : Fin 8)] = 0 ∧
    mapped.issues (.mma 1 1 2 4 1 9) ∧ mapped.issues (.mma 1 1 0 4 2 9) ∧ tmExt mapped.now.tm[(0 : Fin 8)] 0 ≤ 4096 := by
  intro own ops run
  and_intros <;> first | decide +kernel | exact mapped_quiet.1

theorem witness_MatrixProduct :
    base.nowCore.flips = [] ∧ base.armed 0 7 = none ∧ (if false then 1 + 1 else 1) < 4 := by and_intros <;> decide +kernel

theorem witness_TileInstructions :
    (∀ i ∈ [Instr.mchk 2 1, .mfix 1 2, .mzero 1, .mtr 1], base.issues i) ∧ base.takes 2 ∧
    Claims.tilesFree base [1] ∧ base.nowCore.flips = [] ∧
    (∀ n ∈ [5, 9, 0, 1], (selecting (BitVec.ofNat 64 n) false).issues (.mfix 1 2) ∧
      (selecting (BitVec.ofNat 64 n) false).gives 2 (BitVec.ofNat 64 n)) ∧
    (bit 5 0 = true ∧ bit 5 2 = true) ∧ (bit 9 0 = true ∧ bit 9 2 = false ∧ bit 9 3 = true) ∧ bit 0 0 = false ∧
    (bit 1 2 = false ∧ bit 1 3 = false) := by and_intros <;> decide +kernel

/-- p3 reaches an object of core 1's pad. -/
def afar : State := at0 { mapped.now with p := ctx.p.set 3 (ptr 3 0 192 (2 ^ 20 + 0x1010)) }

theorem witness_TileAndMapMoves :
    let own := Claims.owning base [1]
    let load : M (List Nat) := loadWords 7 256
    let save : M Unit := storeWords 7 (Claims.cells base.nowCore 1)
    let get : M (List Nat) := loadWords 4 16
    let put : M Unit := storeWords 1 ((List.range 16).map fun i => fld map22.toNat (32 * i) 32)
    let good := mapped.updMem fun m => m.write 0x4010 (bytesOf 64 map22.toNat)
    let bad := mapped.updMem fun m => m.write 0x4010 (bytesOf 64 (7 * 2 ^ 40))
    let at_ : M (Nat × Bool) := inPlaceOf 3
    (∀ i ∈ [Instr.maccld 1 7, .maccst 7 1, .tmset 0 4, .tmget 1 0, .mld 1 0], mapped.issues i ∧ base.issues i) ∧
    good.issues (.tmset 0 4) ∧ bad.issues (.tmset 0 4) ∧
    Claims.tilesFree base [1] ∧ base.nowCore.flips = [] ∧ (∃ ws, M.answers load own ws (M.after load own)) ∧
    M.answers save own () (M.after save own) ∧ (∃ ws, M.answers get good ws (M.after get good)) ∧
    (out? get good).map packWords = some map22.toNat ∧ tmBad map22 = none ∧
    (M.after get good).codesClean (M.after get good).core = true ∧
    (∃ ws, M.answers get bad ws (M.after get bad)) ∧ (out? get bad).map packWords = some (7 * 2 ^ 40) ∧
    tmBad (BitVec.ofNat 512 (7 * 2 ^ 40)) = some 5 ∧ M.answers put mapped () (M.after put mapped) ∧
    mapped.now.tm[(0 : Fin 8)] ≠ 0 ∧ Claims.bufferSize map22 ≤ 32768 ∧
    (afar.issues (.mld 3 0) ∧ afar.now.tm[(0 : Fin 8)] = map22 ∧ afar.now.p[(3 : Fin 16)].tag = true ∧
      afar.malformed afar.now.p[(3 : Fin 16)] = false ∧ afar.now.p[(3 : Fin 16)].r = true ∧
      (out? at_ afar).map (fun e => spaceOf e.1) = some 1 ∧
      (M.after at_ afar).core = 0 ∧ (M.after at_ afar).codesClean 0 = true) := by
  intro own load save get put good bad at_
  and_intros <;> first | decide +kernel | exact answers_out (by decide +kernel) | exact answers_some (by decide +kernel)

theorem witness_TileMovesComplete :
    let good := mapped.updMem fun m => m.write 0x4010 (bytesOf 64 map22.toNat)
    Claims.ownObject mapped 1 0x1010 0x1000 head1 ∧ Claims.quiet mapped ∧
    (∀ i ∈ [Instr.maccld 1 1, .maccst 1 1, .tmget 1 0, .mld 1 0], mapped.issues i) ∧ Claims.tilesFree mapped [1] ∧
    mapped.now.p[(1 : Fin 16)].r = true ∧ mapped.now.p[(1 : Fin 16)].w = true ∧
    (∀ o < 1024, mapped.mem.footOf (0x1010 + o) = some 0x1000) ∧ mapped.now.p[(1 : Fin 16)].len = 1024 ∧
    0x1000 + 16 ≤ 0x1010 ∧
    mapped.now.tm[(0 : Fin 8)] ≠ 0 ∧ Claims.bufferSize mapped.now.tm[(0 : Fin 8)] ≤ 32768 ∧
    (Claims.ownObject good 4 0x4010 0x4000 head4 ∧ Claims.quiet good ∧ good.issues (.tmset 0 4) ∧
      good.now.p[(4 : Fin 16)].r = true ∧ 64 ≤ good.now.p[(4 : Fin 16)].len ∧
      tmBad (BitVec.ofNat 512 (natOf (good.mem.read 0x4010 64))) = none) ∧
    (let bad := mapped.updMem fun m => m.write 0x4010 (bytesOf 64 (7 * 2 ^ 40))
     Claims.ownObject bad 4 0x4010 0x4000 head4 ∧ Claims.quiet bad ∧ bad.issues (.tmset 0 4) ∧
      tmBad (BitVec.ofNat 512 (natOf (bad.mem.read 0x4010 64))) = some 5) := by
  intro good
  and_intros <;> first | decide +kernel | exact fun _ _ => rfl

/-- p4's object is a command block whose count, full, is r. -/
def command (r : Byte) : State := { base with mem := (base.mem.write 0x401C [r]).setFull 0x401C true }

/-- What MCMD reads of p4's block. -/
def cmdCount : M (Option Nat) := access 4 12 4 4 true false
def cmdNeed : M (Except Nat (List Nat)) := tryNeed 0 0 (.words .load 4 4 [12] [])
def cmdWords : M (List Nat) := loadWords 4 48
def cmdRead (r : Byte) : State := (M.after cmdNeed (M.after cmdCount (command r))).settled
def cmdPtrs (r : Byte) : State := M.after (blockPtr 4 16) (M.after cmdWords (cmdRead r))
def cmdState (r : Byte) : State := M.after (blockPtr 4 32) (cmdPtrs r)

theorem witness_RemoteCommandBlocks : ∀ n ∈ [0, 1], let r := BitVec.ofNat 8 n
    out? cmdCount (command r) = some (some 0x401C) ∧
    granted? cmdNeed (M.after cmdCount (command r)) = some [n] ∧
    (out? cmdWords (cmdRead r)).isSome = true ∧ out? (blockPtr 4 16) (M.after cmdWords (cmdRead r)) = some .null ∧
    out? (blockPtr 4 32) (cmdPtrs r) = some .null ∧ (cmdState r).gives 2 2 ∧
    (cmdState r).codesClean (cmdState r).core = true ∧
    out? (access 4 8 4 4 false true) (cmdState r) = some (some 0x4018) ∧
    out? (storeBytes 4 8 0x4018 (bytesOf 4 1) (some true)) (M.after (access 4 8 4 4 false true) (cmdState r)) = some () := by
  decide +kernel

theorem command_quiet : Claims.quiet (command 0) ∧ Claims.quiet (command 1) :=
  ⟨⟨fun _ _ => rfl, by decide +kernel⟩, fun _ _ => rfl, by decide +kernel⟩

theorem witness_RemoteCommands :
    base.now.p[(4 : Fin 16)].tag = true ∧ base.malformed base.now.p[(4 : Fin 16)] = false ∧
    base.now.p[(4 : Fin 16)].r = true ∧ base.now.p[(4 : Fin 16)].w = true ∧ 192 ≤ base.now.p[(4 : Fin 16)].len ∧
    (∀ n ∈ [0, 1], let r := BitVec.ofNat 8 n
      (command r).issues (.mcmd 2 4) ∧ (command r).now.latch = none ∧ (command r).gives 2 2 ∧
      Claims.ownObject (command r) 4 0x4010 0x4000 head4 ∧
      (∀ w ∈ wordsOf (0x4010 + 12) 4, (command r).mem.isFull w = true) ∧
      natOf ((command r).mem.read (0x4010 + 12) 4) = n ∧ (command r).mem.wf ∧
      Claims.bodyAt head4 0x4000 0x4010 ∧
      (command r).mem.footOf (0x4010 + 8) = some 0x4000 ∧ (command r).settled = command r) := by decide +kernel

/-- A tensor of no slots whose first entry is a BEND block at 80, at 0x5010; p8 runs it. -/
def tensor : List Byte :=
  bytesOf 16 0 ++ bytesOf 64 5 ++ [8, 0, 0, 0, 0, 0, 0, 0, 0, 0, 0, 0] ++
    bytesOf 4 (crc32c [8, 0, 0, 0, 0, 0, 0, 0, 0, 0, 0, 0]).toNat

/-- A context with it, and q. -/
def weighty (q : Ctx → Ctx) : State :=
  (at0 (q { ctx with p := ctx.p.set 8 (ptr 9 6 256 0x5010) })).updMem fun m =>
    let m := (m.write 0x5000 (bytesOf 16 (Header.fresh 6 256).toNat)).write 0x5010 tensor
    { m with starts := m.starts.add 0x280 }

/-- A suspended run at the tensor's block. -/
def suspended (q : Ctx) : Ctx := { q with wb := 2 ^ 63 + 8 * 2 ^ 40 + 80 }

/-- The header of the tensor's object. -/
def head6t : Header := Header.fresh 6 256

theorem witness_WeightInstructions :
    let s := weighty id
    let take : M PReg := do takeBuffer; afterAmos; tensorPtr 8
    let u := M.after take s
    let q := s.now.p[(8 : Fin 16)]
    let head : M (Option (Nat × List Nat)) := tensorHead q
    (s.issues (.wdrun 8 0) ∧ s.ctx ≠ 7 ∧ s.now.p[(8 : Fin 16)].runs s = true ∧ Claims.bufferFree s ∧
      M.answers take s q u ∧ M.answers head u (some (0, 5 :: .replicate 15 0)) (M.after head u) ∧
      (5 :: List.replicate 15 0).getD 0 0 ≠ 0 ∧ inRegion q 0 (16 * 5) = true) ∧
    (Claims.ownObject s 8 0x5010 0x5000 head6t ∧ Claims.clean s 0x5010 80 ∧ leAt (s.mem.read 0x5010 80) 0 16 / 2 ^ 9 = 0 ∧
      fldAt (s.mem.read 0x5010 80) 0 9 = 0 ∧ leAt (s.mem.read 0x5010 80) (16 + 4 * 0) 4 = 5 ∧
      80 + 16 * 0 ≤ s.now.p[(8 : Fin 16)].len ∧ inRegion s.now.p[(8 : Fin 16)] 0 (16 * 5) = true) ∧
    (base.issues (.wdrun 1 0) ∧ base.vectors ∧ base.now.p[(1 : Fin 16)].runs base = false) ∧
    (let t := weighty suspended
     t.issues .wdres ∧ t.now.wdRV = true ∧ t.now.saving = false ∧ (t.now.p[t.now.wdPreg]).runs t = true ∧
      Claims.bufferFree t) ∧
    (base.issues .wdres ∧ base.now.wdRV = false) ∧ (base.issues (.wdq 2) ∧ base.takes 2) := by
  intro s take u q head
  and_intros <;> first | decide +kernel | exact answers_out (by decide +kernel)

theorem witness_MessagesAreHeld :
    let body : M (List Byte) := payload 7
    let s (v w : Nat) := at0 { ctx with w := ctx.w.set 2 (BitVec.ofNat 64 v) |>.set 3 (BitVec.ofNat 64 w) }
    (∀ e ∈ [(Instr.send 2 3 7, 0xFFC00007, false), (.sendh 2 3 7, 0xFFC00787, true)],
      (s 8192 0).issues e.1 ∧ 8192 &&& e.2.1 = 0 ∧ (s 1 0).issues e.1 ∧ 1 &&& e.2.1 ≠ 0) ∧
    (s 8192 0).gives 2 8192 ∧ (s 8192 0).gives 3 0 ∧ (s 1 0).gives 2 1 ∧ (s 1 0).gives 3 0 ∧ fld 0 18 14 = 0 ∧
    (∃ bs, M.answers body (s 8192 0) bs (M.after body (s 8192 0))) ∧ (s 8192 0).issues (.sendv 2 3 4) ∧
    (s 8192 0).givesV 4 0 ∧ (s 8192 0).issues (.reply 3 7) ∧
    Claims.ownObject (s 8192 0) 7 0x1010 0x1000 head1 ∧ (s 8192 0).now.p[(7 : Fin 16)].r = true ∧
    (s 8192 0).now.p[(7 : Fin 16)].len = 16 ∧ Claims.clean (s 8192 0) 0x1010 16 := by
  intro body s
  and_intros <;> first | decide +kernel | exact answers_some (by decide +kernel)

/-- A rise word of guard 1 in p7's object, full. -/
def guarded (r : Byte) : State :=
  { base with mem := (base.mem.write 0x1010 [r]).setFull 0x1010 true }

theorem witness_CopyRequests :
    let count : M Nat := guardCount 7
    (∀ n ∈ [0, 1], let s := guarded (BitVec.ofNat 8 n)
      s.issues (.copy 1 2 7) ∧ s.takes 1 ∧ s.now.latch = none) ∧
    base.now.p[(7 : Fin 16)].tag = true ∧ base.malformed base.now.p[(7 : Fin 16)] = false ∧
      base.now.p[(7 : Fin 16)].r = true ∧
    M.answers count (guarded 0) 0 (M.after count (guarded 0)) ∧
      M.answers count (guarded 1) 1 (M.after count (guarded 1)) ∧
    (let t := M.after count (guarded 1)
     t.core = 0 ∧ t.ctx = 0 ∧ t.now.p[(2 : Fin 16)].tag = true ∧ t.malformed t.now.p[(2 : Fin 16)] = false ∧
      t.now.p[(2 : Fin 16)].r = true ∧ t.now.p[(2 : Fin 16)].kind = 4) ∧
    (∀ n ∈ [0, 1], let s := guarded (BitVec.ofNat 8 n)
      Claims.ownObject s 7 0x1010 0x1000 head1 ∧ Claims.clean s 0x1010 4 ∧ s.now.p[(7 : Fin 16)].r = true ∧
      4 ≤ s.now.p[(7 : Fin 16)].len ∧ s.mem.isFull 0x1010 = true ∧ s.settled = s ∧
      natOf (s.mem.read 0x1010 4) = n ∧ s.now.p[(2 : Fin 16)].tag = true ∧
      s.malformed s.now.p[(2 : Fin 16)] = false ∧ s.now.p[(2 : Fin 16)].r = true ∧ s.now.p[(2 : Fin 16)].kind = 4) ∧
    ((at0 { ctx with latch := some [1, 5] }).issues (.copy 1 2 7) ∧ (at0 { ctx with latch := some [1, 5] }).takes 1 ∧
      (at0 { ctx with latch := some [1, 5] }).now.latch = some [1, 5]) := by
  intro count
  and_intros <;> first | decide +kernel | exact answers_out (by decide +kernel)

/-- A job of the issuing activation, to be stopped. -/
def jobbed : State := base.updUnit (unitOf 0) fun u => { u with jobs := [{ stopAt := some 0 }] }

theorem witness_CopyControl :
    (∀ i ∈ [Instr.copyq 1 2, .copyw 2, .quiesce, .hatch 2], base.issues i) ∧ base.gives 2 2 ∧ base.takes 1 ∧
    ((at0 { ctx with latch := some [] }).issues (.copyw 2) ∧ (at0 { ctx with latch := some [] }).now.latch ≠ none) ∧
    base.released ∧ (at0 { ctx with latch := some [] }).released ∧
      2 ≤ fld ((base.unitAt (unitOf base.core)).status 2 (unitOf base.core % 2)).toNat 0 3 ∧
    base.jobsOf 0 base.now.actId = [] ∧ jobbed.issues .quiesce ∧ jobbed.jobsOf 0 jobbed.now.actId ≠ [] ∧
    (∀ j ∈ jobbed.jobsOf 0 jobbed.now.actId, j.stopAt ≠ none) ∧
    ((selecting 256 false).issues (.hatch 2) ∧ (selecting 256 false).gives 2 256) ∧
    ((selecting 65 false).issues (.hatch 2) ∧ (selecting 65 false).gives 2 65 ∧ 64 < 65 % 128) := by
  and_intros <;> decide +kernel

theorem witness_RisesAndStreams :
    let rise : M Bool := updateRise (ptr 3 5 16 0x3010) 0 (some 2) 0 0
    let passed := tryNeed 0 0 (.gen 3 0)
    let write : M PReg := checkRise 3 false true
    let read : M PReg := checkRise 3 true false
    (base.issues (.rise 3 2) ∧ base.gives 2 2 ∧ base.now.p[(3 : Fin 16)].tag = true ∧
      base.malformed base.now.p[(3 : Fin 16)] = false ∧ base.now.p[(3 : Fin 16)].w = true ∧
      base.now.p[(3 : Fin 16)].kind = 5 ∧ 16 ≤ base.now.p[(3 : Fin 16)].len ∧
      M.answers write base (ptr 3 5 16 0x3010) base ∧ base.codesClean base.core = true ∧
      M.answers rise base true (M.after rise base)) ∧
    ((selecting 0 false).issues (.risew 3 2) ∧ (selecting 0 false).gives 2 0 ∧ (selecting 0 false).now.latch = none ∧
      (selecting 0 false).now.p[(3 : Fin 16)].r = true ∧ (selecting 0 false).now.p[(3 : Fin 16)].tag = true ∧
      (selecting 0 false).malformed (selecting 0 false).now.p[(3 : Fin 16)] = false ∧
      (selecting 0 false).now.p[(3 : Fin 16)].kind = 5 ∧ 16 ≤ (selecting 0 false).now.p[(3 : Fin 16)].len ∧
      Claims.ownObject (selecting 0 false) 3 0x3010 0x3000 (Header.fresh 5 16) ∧
      Claims.clean (selecting 0 false) 0x3010 16 ∧
      (natOf ((selecting 0 false).mem.read (0x3010 + 8) 4) + 2 ^ 32 - 0) % 2 ^ 32 < 2 ^ 31 ∧
      M.answers read (selecting 0 false) (ptr 3 5 16 0x3010) (selecting 0 false) ∧ (selecting 0 false).released ∧
      (selecting 0 false).codesClean 0 = true ∧
      M.answers passed (selecting 0 false) (.ok []) (M.after passed (selecting 0 false))) ∧
    (Claims.ownObject base 3 0x3010 0x3000 (Header.fresh 5 16) ∧ Claims.clean base 0x3010 16 ∧
      0x3000 + 16 ≤ 0x3010) ∧
    (mapped.issues (.strm 0 1 0) ∧ mapped.now.p[(1 : Fin 16)].tag = true ∧
      mapped.malformed mapped.now.p[(1 : Fin 16)] = false ∧
      mapped.now.p[(1 : Fin 16)].r = true ∧ mapped.now.tm[(0 : Fin 8)] ≠ 0 ∧
      paneFmt (mapped.nowCore.panes[Fin.ofNat 8 (mapped.now.p[(1 : Fin 16)]).view]).toNat 15 = 15) ∧
    mapped.issues (.strmx 0) := by
  intro rise passed write read
  and_intros <;> first | decide +kernel | exact answers_out (by decide +kernel)

/-- A sheet of core 0 alone, of tile 1 and class 0. -/
def joined (q : Ctx → Ctx) : State := at0 (q { ctx with
  tm := #v[map22, map22, 0, 0, 0, 0, 0, 0], sheet := some (BitVec.ofNat 64 256), latch := none })

def sheetS : State := joined id
def sheetM : Member := ⟨0, 0, 1, 0, 4, 1, 9, (15, 15)⟩
def sheetD : DWord := BitVec.ofNat 64 256

/-- After the checks of its SHMMA. -/
def sheetT : State := M.after (sheetChecks sheetD sheetM) (Claims.owning sheetS [1])

theorem sheet_core : sheetT.core = sheetS.core := by decide +kernel

/-- What succeeds has a value. -/
def ok? {α β : Type} (e : Except α β) : Bool :=
  match e with
  | .ok _ => true
  | .error _ => false

theorem ok_some {α β : Type} {e : Except α β} (h : ok? e = true) : ∃ b, e = .ok b := by
  cases e with
  | ok b => exact ⟨b, rfl⟩
  | error a => cases h

theorem witness_Sheets :
    sheetT.core = sheetS.core ∧
    ((selecting 256 false).issues (.shjoin 2) ∧ (selecting 256 false).gives 2 256 ∧ fld 256 11 5 = 0 ∧
      fld 256 48 16 = 0 ∧ shX 256 + shW 256 ≤ 4 ∧ shY 256 + shH 256 ≤ 4 ∧ shInside 256 0 = true ∧
      (selecting 256 false).now.sheet = none ∧ fld 256 16 32 = fld ((selecting 256 false).nowCore.cls 0).toNat 32 32 ∧
      (selecting 256 false).nowCore.member.isNone = true ∧ Claims.tilesFree (selecting 256 false) [1]) ∧
    ((selecting 0x10100 false).issues (.shjoin 2) ∧ (selecting 0x10100 false).gives 2 0x10100 ∧
      shInside 0x10100 0 = true ∧
      fld 0x10100 16 32 ≠ fld ((selecting 0x10100 false).nowCore.cls 0).toNat 32 32) ∧
    base.issues .shleave ∧
    (sheetS.issues (.shmma 1 1 0 4 1 9) ∧ sheetS.now.latch = none ∧ sheetS.now.sheet = some sheetD ∧ shC sheetD = 1 ∧
      Claims.tilesFree sheetS [1] ∧ M.answers (sheetChecks sheetD sheetM) (Claims.owning sheetS [1]) () sheetT ∧
      sheetT.sheetMembers sheetD sheetS.now.sheetN (some sheetM) sheetS.core = some [sheetM] ∧
      (∃ u, sheetT.collective sheetD [sheetM] [sheetM] = .ok u) ∧
      shKs sheetD = false ∧ shW sheetD = 1 ∧ shH sheetD = 1 ∧ shInside sheetD 0 = true ∧
      Claims.fits sheetS 1 0 9 ∧ tmExt sheetS.now.tm[(0 : Fin 8)] 0 ≤ 4096 ∧ Claims.fits sheetS 4 1 9 ∧
      Claims.ownObject sheetS 1 0x1010 0x1000 head1 ∧ Claims.ownObject sheetS 4 0x4010 0x4000 head4 ∧
      Claims.quiet sheetS ∧ Claims.double sheetS 1 4 9 = false) ∧
    (let s := sheetS.updCore 0 fun k => { k with panes := k.panes.set 0 8 }
     s.issues (.shmma 1 1 0 4 1 9) ∧ s.now.latch = none ∧ s.now.sheet = some sheetD ∧ Claims.tilesFree s [1] ∧
      Claims.double s 1 4 9 = true ∧ (1 : Tl).val % 2 = 1) ∧
    ((at0 { ctx with latch := some [] }).issues (.shmma 1 1 0 4 1 9) ∧
      (at0 { ctx with latch := some [] }).now.latch = some []) := by
  refine ⟨sheet_core, ?_⟩
  and_intros <;> first | exact ok_some (by decide +kernel) | exact answers_out (by decide +kernel) | decide +kernel |
    exact fun _ _ => rfl

/-- p1 with another pointer, of n bytes at place k. -/
def pointing (n k : Nat) : State := at0 { ctx with p := ctx.p.set 1 (ptr 3 0 n k) }

theorem witness_AtomicRequests :
    let place : M (Option Nat) := access 1 0 4 1 true true false
    let s1 := M.after place base
    (∀ s ∈ [base, pointing 2 0x1010, pointing 16 0x1012],
      (∀ i ∈ Claims.atomics 2 1 3 0 0, s.issues i.1) ∧ s.gives 3 3 ∧ s.gives 2 2 ∧ s.takes 2 ∧
      s.now.p[(1 : Fin 16)].tag = true ∧ s.malformed s.now.p[(1 : Fin 16)] = false ∧ s.now.p[(1 : Fin 16)].r = true ∧
      s.now.p[(1 : Fin 16)].w = true) ∧
    (base.now.p[(1 : Fin 16)]).addr % 4 = 0 ∧ M.answers place base (some 0x1010) s1 ∧
    M.answers (phys 0x1010 aW) s1 0x1010 (M.after (phys 0x1010 aW) s1) ∧
    (M.after (phys 0x1010 aW) s1).now.p[(1 : Fin 16)] = base.now.p[(1 : Fin 16)] ∧
    ((pointing 2 0x1010).now.p[(1 : Fin 16)]).addr % 4 = 0 ∧
    M.answers place (pointing 2 0x1010) none (M.after place (pointing 2 0x1010)) ∧
    (Claims.ownObject base 1 0x1010 0x1000 head1 ∧ 4 ≤ base.now.p[(1 : Fin 16)].len ∧
      Claims.ownObject (pointing 2 0x1010) 1 0x1010 0x1000 head1 ∧ (pointing 2 0x1010).now.p[(1 : Fin 16)].len < 4 ∧
      (pointing 2 0x1010).now.rangectl = false) ∧
    ((pointing 16 0x1012).now.p[(1 : Fin 16)]).addr % 4 ≠ 0 := by
  intro place s1
  and_intros <;> first | decide +kernel | exact answers_out (by decide +kernel)

/-- An add of 5 to p1's first word at the head of core 0's handler queue, and its answer to w2. -/
def amo5 : HEntry :=
  { prio := 0, core := 0, ctx := 0, actId := 0, op := .amo .add 0 (ptr 3 0 1024 0x1010) 5 0 (some 2) 0 0 }

theorem witness_AtomicOperations :
    let s := base.updCore 0 fun k => { k with handler := [amo5] }
    let a : Answered := { ctx := 0, actId := 0, slot := 2, value := 7 }
    let t := base.updCore 0 fun k => { k with answers := [a] }
    (s.coreAt 0).handler = [amo5] ∧
    M.answers (performAmo .add 0 (ptr 3 0 1024 0x1010) 0 5 0) s (7, 0, false)
      (M.after (performAmo .add 0 (ptr 3 0 1024 0x1010) 0 5 0) s) ∧
    (let work : M (Nat × Flags × Bool) := M.as 0 0 (performAmo .add 0 (ptr 3 0 1024 0x1010) 0 5 0)
     M.answers work s (7, 0, false) (M.after work s)) ∧
    (levelOf 0x1010 = 0 ∧ head1.state = stLive ∧ Claims.bodyAt head1 0x1000 0x1010 ∧ ∀ u ∈ [base, s],
      u.mem.footOf 0x1010 = some 0x1000 ∧ Header.ofNat (natOf (u.mem.read 0x1000 16)) = head1 ∧
      u.halted (dieOf 0x1010) = false ∧
      (∀ g ∈ granules 0x1000 16 ++ granules 0x1010 4, u.mem.isPoisoned g = false) ∧
      (u.coreAt (spaceOf 0x1010)).flips = [] ∧ u.armed (spaceOf 0x1010) 0 = none ∧ u.mem.wf) ∧
    (t.coreAt 0).answers.find? (·.ctx == 0) = some a ∧ (t.ctxAt 0 0).actId = a.actId ∧ (t.ctxAt 0 0).run ≠ .free ∧
    a.bad = false ∧ a.slot = (t.ctxAt 0 0).replySlot 2 ∧ t.codesClean 0 = true ∧
    (t.ctxAt 0 0).below.length + (t.ctxAt 0 0).spilltop.toNat < 2 ^ 35 := by
  intro s a t
  and_intros <;> first | decide +kernel | exact answers_out (by decide +kernel)

/-- A request of core 1 to core 2's input buffer, with a message. -/
def letter (m : Msg) : Req := { id := 0, core := 1, ctx := 0, actId := 0, dst := 2, load := .message { msg := m } }

/-- The machine with one request, and core 2 changed by f. -/
def posted (r : Req) (f : Core → Core) : State := { State.reset with reqs := [r] }.updCore 2 f

/-- Core 2's input buffer is taken: 64 messages are held. -/
def crowd (k : Core) : Core := { k with heldMsgs := .replicate 64 {} }

theorem witness_MessageArrival :
    (∀ r ∈ [letter {}, letter { cap := 5 }], ∀ f ∈ [id, fun k => k.setCls 0 (2 ^ 24)],
      let s := posted r f
      s.firstSent (fun q => s.goal q == 2 && q.res == .input q.dst) = some r ∧ Claims.hasRoom s r ∧
        (s.coreAt 2).flips = [] ∧ s.upsets = []) ∧
    (let s := { posted (letter {}) id with upsets := [.lost] }
     s.firstSent (fun q => s.goal q == 2 && q.res == .input q.dst) = some (letter {}) ∧ Claims.hasRoom s (letter {}) ∧
      s.upsets.headD .none = .lost) ∧
    fld ((posted (letter {}) id).coreAt 2 |>.cls 0).toNat 32 32 = 0 ∧
    bit ((posted (letter {}) id).coreAt 2 |>.cls 0).toNat 24 = false ∧
    bit ((posted (letter {}) fun k => k.setCls 0 (2 ^ 24)).coreAt 2 |>.cls 0).toNat 24 = true := by
  and_intros <;> decide +kernel

/-- A request for host queue 3, whose ring of 64 bytes is free, has gone before. -/
def hosted : State :=
  { State.reset with reqs := [{ letter {} with load := .hostQueue 3 {} }] }.updHost 3 fun q => { q with size := 64 }

theorem witness_RequestEvents :
    (let s := posted (letter {}) crowd
     s.firstSent (fun q => s.goal q == 2 && q.res == .input q.dst) = some (letter {}) ∧ s.roomFor (letter {}) = false ∧
      (letter {}).fromFabric = false ∧ (letter {}).dieHalted s = false ∧ s.upsets = []) ∧
    (∀ f ∈ [id, crowd], let r : Req := { letter {} with standing := .refused 1 }
      let s := posted r f
      s.reqs.find? (fun q => q.id == 0) = some r ∧ s.arrivalWaits r = false ∧ s.behind r = false) ∧
    Claims.hasRoom (posted { letter {} with standing := .refused 1 } id) { letter {} with standing := .refused 1 } ∧
    (posted { letter {} with standing := .refused 1 } crowd).roomFor { letter {} with standing := .refused 1 } = false ∧
    (let r : Req := { letter {} with standing := .held 1 }
     (∀ f ∈ [id, crowd], (posted r f).reqs.find? (fun q => q.id == 0) = some r ∧ (posted r f).behind r = false) ∧
      Claims.hasRoom (posted r id) r ∧
      (let s := (posted r crowd).updDie 0 fun d => { d with dbg := 2 }
       s.reqs.find? (fun q => q.id == 0) = some r ∧ s.behind r = false ∧ s.roomFor r = false ∧
        r.fromFabric = false ∧ r.dieHalted s = true)) ∧
    (∀ n ∈ [0, 1], let r : Req := { letter {} with standing := .ticket (BitVec.ofNat 32 n) }
      (posted r id).reqs.find? (fun q => q.id == 0) = some r) ∧
    ((posted (letter {}) id).resv (letter {}).res).serving = 0 ∧
    ((posted (letter {}) id).resv (letter {}).res).queue.length < 16 ∧
    (let r : Req := { letter {} with load := .hostQueue 3 {} }
     hosted.firstSent (fun q => q.res == .ring 3) = some r ∧ Claims.hasRoom hosted r ∧ r.fromFabric = false ∧
      (0 : Nat) = (hosted.hostAt 3).key.toNat % 2 ^ 32 ∧
      (hosted.hostAt 3).tail.toNat % (hosted.hostAt 3).size.toNat + ringBytes {} ≤ (hosted.hostAt 3).size.toNat ∧
      bit (hosted.pkg.msixWord (4 * 3 + 3)).toNat 0 = true ∧
      bit ((hosted.updPkg fun p => { p with msixTab := [(15, 0)] }).pkg.msixWord (4 * 3 + 3)).toNat 0 = false) := by
  and_intros <;> decide +kernel

/-- Core 2's run queue holds e. -/
def queued (e : Entry) : State := State.reset.updCore 2 fun k => { k with runq := [e] }

/-- A save area of 256 KiB in die 0's pad, whose first slot holds a sealed activation. -/
def saveArea : PReg := ptr 35 0 262144 (dieBase 0 + 0x40010)

def sealedSlot (s : State) : State := s.updMem fun m =>
  let m := (m.write (dieBase 0 + 0x40000) (bytesOf 16 (Header.fresh 0 262144).toNat)).write (dieBase 0 + 0x40010 + 72) [1]
  { m with starts := m.starts.add ((dieBase 0 + 0x40000) / 32) }

/-- A request to resume it. -/
def again : ResumeReq := { slot := saveArea }

theorem witness_DispatchEvents :
    (∀ w ∈ [Work.message {}, .completion {}], let s := queued { work := w }
      let e : Entry := { work := w }
      s.dispatchHeld 2 = false ∧ (s.coreAt 2).choice = some (e, 0) ∧ (s.breakAt 2 e).isNone = true ∧
      (s.lacks (s.entryReads e)).isNone = true ∧
      (((s.updCore 2 fun k => { k with passBp := none }).takeEntry 2 e).coreAt 2).flips = []) ∧
    (let s := (queued { work := .message {} }).setCoreReg 2 0x24 1
     s.dispatchHeld 2 = false ∧ (s.coreAt 2).choice = some ({ work := .message {} }, 0) ∧
      (s.lacks (s.entryReads { work := .message {} })).isNone = true ∧ s.breakAt 2 { work := .message {} } = some 0) ∧
    ((State.reset.updCtx 2 0 fun q => { q with run := .entering }).ctxAt 2 0).run = .entering ∧
    (let e : Entry := { work := .resume again }
     let s := sealedSlot (queued e)
     let u := s.takeEntry 2 e
     s.dispatchHeld 2 = false ∧ (s.coreAt 2).choice = some (e, 0) ∧ (s.lacks (s.entryReads e)).isNone = true ∧
      (s.breakAt 2 e).isNone = true ∧ saveArea.tag = true ∧ s.malformed saveArea = false ∧
      32768 ≤ saveArea.len ∧ (u.sealedAt saveArea).2 = 0 ∧
      (∀ r ∈ [(0, 128), (128, 256), (4864, 1024), (5888, 8192)],
        (u.fetchObj? saveArea 0 r.1 r.2).isSome = true) ∧
      (u.fetchObj? saveArea 0 0 128).map (fun f => fldAt f 576 8) = some 1) ∧
    (let q : Ctx := { ctx with run := .sealing, classno := 5 }
     let s := ((sealedSlot (at0 q)).setCoreptr 0 0x10 saveArea).setCoreptr 2 0x18 saveArea
     s.pkg.recovery = false ∧ (s.coreAt 2).resumeHeld.isNone = true ∧
      (s.sealsInto (s.coreptr 2 0x18)).map Ctx.classno = some 5) ∧
    ((sealedSlot (queued { work := .resume again })).updPkg fun p =>
      { p with sealed := [(saveArea.key 0, 1, 0, 9)] }).sealedAct saveArea = (1, 0, 9) ∧
    State.reset.pkg.recovery = false ∧ (State.reset.sealsInto (State.reset.coreptr 2 0x18)).isNone = true ∧
    (State.reset.coreAt 2).resumeHeld.isNone = true ∧ (State.reset.coreAt 2).internal < 8 ∧
    (let s := State.reset.updCore 2 fun k => { k with runq := .replicate 8 { work := .completion {} } }
     s.pkg.recovery = false ∧ (s.sealsInto (s.coreptr 2 0x18)).isNone = true ∧ (s.coreAt 2).resumeHeld.isNone = true ∧
      8 ≤ (s.coreAt 2).internal) := by
  and_intros <;> decide +kernel

/-- Core 2's contexts 0-6 hold activations. -/
def taken (k : Core) : Core := { k with ctxs := k.ctxs.map fun q => { q with run := .live } }

/-- The queue table with a mask of core 2 for queue 0, and launch 1 of that queue in flight. -/
def masked (s : State) : State :=
  let t := dieBase 0
  (((queues s).updMem fun m =>
    let m := (m.write (t + 0x20800) (bytesOf 16 (Header.fresh 0 128).toNat)).write (t + 0x20810) [0x0C]
    let m := m.write (t + 16 + 16) (bytesOf 16 (ptr 3 0 128 (t + 0x20810)).bits.toNat)
    { m.setTag (t + 16 + 16) true with starts := m.starts.add ((t + 0x20800) / 32) }).updPkg fun p =>
      { p with launches := [{ uid := 1, id := 0, slot := 0, queue := 0, part := 0, mask := 0x0C }] })

/-- An initial message of launch 1, which a thief may take. -/
def stealable : Entry := { work := .message { launch := 1, steal := true }, stealable := true }

/-- Core 2 is idle and steals; core 3, its first victim, is busy with a message to offer, of a class that core 2 enables. -/
def stealing : State :=
  ((masked State.reset).setCoreReg 2 0x20 1).updCore 3 fun k => { taken k with runq := [stealable] }

theorem witness_PriorityAndStealing :
    (let e : Entry := { work := .message {}, prio := 8 }
     let s := ((State.reset.updCore 2 fun k => { taken k with runq := [e] }).setCoreReg 2 0x14 1)
     bit (s.coreReg 2 0x14) 0 = true ∧ (s.coreAt 2).runq.find? (fun f => !f.hnd) = some e ∧
      (∀ y ∈ Claims.lowCtx, (s.ctxAt 2 y).busy = true ∧ (s.ctxAt 2 y).request ≠ some true) ∧ 6 ∈ Claims.lowCtx ∧
      s.victimOk 2 6 = true ∧
      (∀ y ∈ Claims.lowCtx, s.victimOk 2 y = true → y ≠ 6 → Claims.leavesBefore s 2 6 y) ∧
      (s.ctxAt 2 6).prio.toNat + 8 ≤ e.prio.toNat) ∧
    (∀ f ∈ [id, fun (k : Core) => k.setCls 0 (2 ^ 24)],
      let s := stealing.updCore 2 f
      let u := (s.setCoreReg 2 0x21 (bumpCount (s.coreReg 2 0x21) 0)).updCore 2 fun k => { k with searchck := k.searchck + 8 }
      s.idle 2 = true ∧ (s.coreAt 2).thief.backing = false ∧ (s.coreAt 2).thief.next = 1 ∧
        u.offer 3 2 = some stealable) ∧
    bit ((stealing.updCore 2 fun k => k.setCls 0 (2 ^ 24)).coreAt 2 |>.cls 0).toNat 24 = true ∧
    fld ((stealing.updCore 2 fun k => k.setCls 0 (2 ^ 24)).coreAt 2 |>.cls 0).toNat 32 32 = 0 ∧
    (let s := State.reset.setCoreReg 2 0x20 1
     let u := (s.setCoreReg 2 0x21 (bumpCount (s.coreReg 2 0x21) 0)).updCore 2 fun k => { k with searchck := k.searchck + 8 }
     s.idle 2 = true ∧ (s.coreAt 2).thief.backing = false ∧ (u.offer 3 2).isNone = true) ∧
    ((State.reset.updCore 2 fun k => { k with thief := { coming := [stealable] } }).coreAt 2).thief.coming = [stealable] ∧
    ((State.reset.updCore 2 fun k => { k with thief := { backing := true } }).coreAt 2).thief.backing = true := by
  and_intros <;> decide +kernel

theorem not_halted {s : State} (h : ∀ i : Fin 4, bit s.dies[i].dbg.toNat 1 = false) : ∀ d, s.halted d = false :=
  fun d => h ⟨d % 4, Nat.mod_lt _ (by decide)⟩

/-- Past the last footprint of memory, every place has that footprint. -/
theorem foot_last (m : Memory) (k f : Nat) (hk : 16 ≤ locOf k) (hl : m.starts.getLast? = some f)
    (ha : ∀ j ∈ m.starts, j ≤ (k - 16) / 32) (hs : spaceOf (32 * f) = spaceOf k) : m.footOf k = some (32 * f) := by
  unfold Memory.footOf NSet.floor
  rw [if_neg (by omega), List.filter_eq_self.2 (by simpa using ha), hl]
  simp [hs]

/-- Core 0's context 0, as q, with the save area at its core's SAVEBASE. -/
def saves (q : Ctx → Ctx) : State := (sealedSlot ((at0 (q ctx)).updMem id)).setCoreptr 0 0x10 saveArea

/-- The slot of core 0's context 0 lies whole in the save area. -/
theorem saves_slot (q : Ctx → Ctx) : Claims.slotIn (saves q) (dieBase 0 + 0x40010) (dieBase 0 + 0x40000) := by
  have hm : (saves q).mem = (saves id).mem := rfl
  have hd : ∀ d, (saves q).halted d = false := not_halted (fun i => by
    have : (saves q).dies = State.reset.dies := rfl
    rw [this]
    revert i
    decide +kernel)
  have hst : (saves id).mem.starts = [0x80, 0x100, 0x180, 0x200, (dieBase 0 + 0x40000) / 32] := by decide +kernel
  have hp : (saves id).mem.poison = [] := by decide +kernel
  have hb : dieBase 0 = 144115188075855872 := by decide +kernel
  have hz : spaceSize = 70368744177664 := by decide +kernel
  refine ⟨fun o ho => ⟨?_, ?_, hd _⟩, by rw [hb], ?_, ?_, ?_⟩
  · rw [hm]
    have := foot_last (saves id).mem (dieBase 0 + 0x40010 + o) ((dieBase 0 + 0x40000) / 32)
      (by unfold locOf; rw [hz, hb]; omega) (by rw [hst]; rfl)
      (by
        rw [hst, hb]
        intro j hj
        simp only [List.mem_cons, List.not_mem_nil, or_false] at hj
        rcases hj with rfl | rfl | rfl | rfl | rfl <;> omega)
      (by unfold spaceOf; rw [hz, hb]; omega)
    rw [this, hb]
  · unfold levelOf spaceOf
    have : (dieBase 0 + 0x40010 + o) / spaceSize = 2048 := by rw [hb, hz]; omega
    rw [this]
    decide
  · rw [hm]; decide +kernel
  · rw [hm, Memory.isPoisoned, hp]; rfl
  · intro g _
    rw [hm, Memory.isPoisoned, hp]
    rfl

theorem witness_SavesInDiePad :
    (let s := saves fun q => { q with request := some false }
     let q := s.ctxAt 0 0
     q.takesPreempt 0 = true ∧ q.run = .live ∧ q.strm = Vector.replicate 8 none ∧ s.nodes = [] ∧ s.mem.wf ∧
      saveBaseOk s (s.coreptr 0 0x10) = true ∧ (s.saveSlot 0 0).key q.part.toNat = dieBase 0 + 0x40010) ∧
    (let s := saves fun q => { q with run := .sealing }
     let q := s.ctxAt 0 0
     q.run = .sealing ∧ s.jobsOf 0 q.actId = [] ∧ (s.unitAt (unitOf 0)).records q.actId = [] ∧ q.holds = [] ∧
      q.outbox = [] ∧ (s.coreAt 0).cmds = [] ∧ q.request ≠ some true ∧ s.mem.wf ∧
      (s.saveSlot 0 0).key q.part.toNat = dieBase 0 + 0x40010) := by
  and_intros <;> decide +kernel

theorem witness_PreemptionEvents :
    let asked := saves fun q => { q with request := some false }
    let frame : M Unit := writeFrame (asked.saveSlot 0 0) (asked.ctxAt 0 0) 0 0 0
    let t := (asked.giveUp 0 0).2
    let over1 := saves fun q => { q with run := .sealing }
    let close : M Unit := writeSeal (over1.saveSlot 0 0) 0 0
    ((base.coreAt 0).stopped = false ∧ (base.coreAt 0).preempts = [] ∧ (base.ctxAt 0 0).busy = true ∧
      (base.ctxAt 0 0).request = none ∧ (base.ctxAt 0 0).saving = false ∧
        (at0 { ctx with launch := 1 }).now.launch ≠ 0 ∧
      (at0 { ctx with launch := 1 }).now.slot = 0) ∧
    (let s := base.updCore 0 fun k => { k with stopped := true }
     (s.coreAt 0).stopped = true ∧ (0 : BitVec 7) ∉ (s.coreAt 0).heldPreempts) ∧
    ((asked.ctxAt 0 0).takesPreempt 0 = true ∧ (asked.ctxAt 0 0).run ≠ .entering ∧
      saveBaseOk asked (asked.coreptr 0 0x10) = true ∧ (asked.giveUp 0 0).1 = 0 ∧ M.answers frame t () (M.after frame t)) ∧
    (let s := { at0 { ctx with saving := true } with ck := 1 }
     (s.ctxAt 0 0).saving = true ∧ 1024 * fld (s.coreReg 0 0x13) 0 32 < s.ck - (s.ctxAt 0 0).saveSince) ∧
    ((over1.ctxAt 0 0).run = .sealing ∧ over1.jobsOf 0 (over1.ctxAt 0 0).actId = [] ∧ (over1.coreAt 0).cmds = [] ∧
      (over1.ctxAt 0 0).request ≠ some true ∧
      M.answers close over1 () (M.after close over1)) := by
  intro asked frame t over1 close
  and_intros <;> first | decide +kernel | exact answers_out (by decide +kernel)

/-- A wait for a word of p1's object, spinning with n re-checks left. -/
def awaiting (off n : Nat) : State :=
  at0 { ctx with run := .waiting { need := .words .load 1 4 [off] [], phase := .spin n } }

/-- A wait for generation e of group 2. -/
def gathering (e : Word) (n : Nat) : State :=
  at0 { ctx with run := .waiting { need := .group 2 e, phase := .spin n } }

theorem witness_WaitEvents :
    let check (off : Nat) : M (Except Nat (List Nat)) := M.as 0 0 (tryNeed 0 0 (.words .load 1 4 [off] []))
    (∀ n ∈ [1, 2], (((awaiting 0 n).ctxAt 0 0).run =
        .waiting { need := .words .load 1 4 [0] [], phase := .spin n }) ∧
      ((awaiting 4 n).ctxAt 0 0).run = .waiting { need := .words .load 1 4 [4] [], phase := .spin n }) ∧
    (Need.words .load 1 4 [0] []).rechecked = true ∧ (Need.job 5).rechecked = true ∧
    M.answers (check 0) (awaiting 0 2) (.ok [7]) (M.after (check 0) (awaiting 0 2)) ∧
    M.answers (check 4) (awaiting 4 2) (.error 4) (M.after (check 4) (awaiting 4 2)) ∧
    M.answers (check 4) (awaiting 4 1) (.error 4) (M.after (check 4) (awaiting 4 1)) ∧
    (∀ off ∈ [0, 4], ∀ n ∈ [1, 2], let me := (awaiting off n).asCtx 0 0
      Claims.ownObject me 1 0x1010 0x1000 head1 ∧ Claims.clean me (0x1010 + off) 4 ∧ (0x1010 + off) % 4 = 0 ∧
      off + 4 ≤ me.now.p[(1 : Fin 16)].len) ∧
    ((awaiting 0 1).mem.isFull 0x1010 = true ∧ (awaiting 4 1).mem.isFull 0x1014 = false) ∧
    (let s := gathering 1 2
     (s.ctxAt 0 0).run = .waiting { need := .group 2 1, phase := .spin 2 } ∧
      genPassed (SMap.get {} s.pkg.groups (groupKey (s.ctxAt 0 0).launch 2)).gen.toNat (1 : Word).toNat = false ∧
      genPassed (SMap.get {} s.pkg.groups (groupKey (s.ctxAt 0 0).launch 2)).gen.toNat (0xFFFFFFFF : Word).toNat = true) ∧
    (let w : Waiter := { need := .words .load 1 4 [4] [], phase := .parked }
     let s := at0 { ctx with run := .waiting w }
     (s.ctxAt 0 0).run = .waiting w ∧ w.since + 1024 * fld (s.ctxAt 0 0).waitbudget.toNat 16 32 ≤ s.ck ∧
      (s.ctxAt 0 0).ts = false) := by
  intro check
  and_intros <;> first | exact answers_granted (by decide +kernel) | exact answers_failed (by decide +kernel) |
    decide +kernel

/-- An arrival of work unit 2 at group 3 of launch 1. -/
def arrival : HEntry := { prio := 0, core := 0, ctx := 0, actId := 0, op := .arrive 1 3 0 2 }

theorem witness_GroupArrivals :
    let s := (masked base).updCore 0 fun k => { k with handler := [arrival] }
    let v : Group := { terms := [(0, 4, 2)], members := 3 }
    (s.coreAt 0).handler = [arrival] ∧ ((s.serveHead 0 arrival).launch? 1).isSome = true ∧
    v.members ≠ 0 ∧ v.isMember 2 = true ∧ v.isMember 1 = false ∧ v.gen = 0 ∧
    ({ v with arrived := 2 } : Group).arrived + 1 = v.members ∧ v.arrived + 1 ≠ v.members ∧
    (gathering 1 2).waitsFor 0 0 (groupKey 0 2) = true ∧ base.waitsFor 0 0 (groupKey 0 2) = false := by
  and_intros <;> decide +kernel

theorem witness_TimerEvents :
    (∀ p ∈ [false, true], let s := (base.setCoreReg 0 0x22 1).updCore 0 fun k => { k with timer := p }
      bit (s.coreReg 0 0x22) 0 = true ∧ (s.coreAt 0).timer = p) ∧
    (base.updCore 0 fun k => { k with timer := true }).takesTimer 0 0 = true := by
  and_intros <;> decide +kernel

/-- A trace ring of 32 records in p1's object, on. -/
def tracing1 : State :=
  ((base.setCoreptr 0 0x28 (ptr 3 0 1024 0x1010)).setCoreReg 0 0x2A 1).updCore 0 fun k => { k with tbuf := [{ bits := 5 }] }

theorem witness_StopsAndTrace :
    (let s := base.updCore 0 fun k => k.setLink 1 { k.link 1 with flying := [.scalar 5] }
     ((s.coreAt 0).link 1).flying = [.scalar 5]) ∧
    ((tracing1.coreAt 0).tbuf = [{ bits := 5 }] ∧ tracing1.trLen 0 = 32 ∧ tracing1.trFull 0 = false ∧
      fld (tracing1.coreReg 0 0x2B) 0 40 < tracing1.trLen 0) ∧
    base.malformed (ptr 3 0 1024 0x1010) = false ∧ (tracing1.coreptr 0 0x28).tag = true ∧
    tracing1.malformed (tracing1.coreptr 0 0x28) = false ∧ base.pkg.recovery = false ∧
    ((base.updCore 0 fun k => { k with stopping := true }).coreAt 0).stopping = true ∧
    rising (base.mgmt.map Prod.fst) = true ∧ (base.coreAt 0).stopping = false ∧
    (∀ b ∈ [false, true], let s := State.reset.updCore 0 fun k =>
        { k with stopping := true, stopCause := { bph := b } }
      (s.coreAt 0).stopping = true ∧ (s.coreAt 0).stopped = false ∧ (∀ x : Fin 8, (s.ctxAt 0 x).atRest = true) ∧
      (s.coreAt 0).stopCause.bph = b) ∧
    bit (base.dieAt 0).dbg.toNat 1 = false ∧
      bit ((base.updDie 0 fun d => { d with dbg := 2 }).dieAt 0).dbg.toNat 1 = true := by
  and_intros <;> decide +kernel

/-- Core 0's pad region, past its high-water mark. -/
def filled (s : State) : State :=
  (((s.setCoreReg 0 0 0x1000).setCoreReg 0 1 0x8000).setCoreReg 0 2 0x1000).setCoreReg 0 3 0x1420

theorem witness_SiftEvents :
    let s := filled State.reset
    let t := filled (base.updStack 0 0 fun q => { q with hend := [(0, 2 ^ 20)] })
    (Instr.coreSift 0, 0) ∈ Claims.siftEvents ∧
    ((s.pad 0).hwm < (s.pad 0).bump ∧ M.answers (siftPad 0) s () (M.after (siftPad 0) s)) ∧
    ((t.pad 0).hwm < (t.pad 0).bump ∧ stop? (siftPad 0) t = some (.siftPage (some (heapBase 0)) [0])) ∧
    (let u := filled base
     (u.pad 0).hwm < (u.pad 0).bump ∧ u.sifts = [] ∧ stop? (siftPad 0) u = some (.siftFull 0 0 1024)) ∧
    (let u := Claims.siftStart s 0
     s.draining 0 = false ∧ u.liveIn 0 = [] ∧ u.objectsIn (padBase 0 + (u.pad 0).lo) (padBase 0 + (u.pad 0).hi) = []) ∧
    (({ base with sifts := [{ pads := [0], owner := some (0, 0) }] } : State).dropEventSifts [0]).siftRuns 0 = true ∧
    s.sifts = [] ∧ t.sifts = [] ∧ base.sifts = [] ∧ (base.pad 0).bump ≤ (base.pad 0).hwm ∧ (∀ k < 64, 0 = 1024 + k → (base.cluAt k).held = []) ∧
    rising (s.mgmt.map Prod.fst) = true := by
  intro s t
  and_intros <;> first | decide +kernel | exact answers_out (by decide +kernel)

theorem witness_ExpanderAndScrubs :
    5 ∉ (base.cluAt 0).held ∧ base.halted 0 = false ∧ base.nodes = [] ∧ base.blockFails 0 5 = false ∧
    (base.cluAt 0).exp = [] ∧ base.upsets.headD .none = .none ∧
    ({ base with upsets := [.block 0 true] } : State).upsets.headD .none = .block 0 true ∧ base.upsets = [] ∧
    ({ base with upsets := [.corrected] } : State).upsets.head? = some .corrected ∧
    ({ base with upsets := [.lost] } : State).upsets.head? = some .lost ∧
    (((base.cluAt 0).upset 5 (.block 0 true)).failures (base.blockData 0 5) 5).2 ≠ 0 := by
  decide +kernel

/-- Stack 0 of die 0 maps the first 2 MiB of partition 0, with attributes R and W. -/
def charted (s : State) : State :=
  s.updMem fun m => (m.write (stackBase 0 0) [1, 1]).write (stackBase 0 0 + 256) [0x17]

/-- Core 0's context 0 waits for that page, with this list of faults. -/
def stuck (fs ws : List PageFault) : State :=
  (at0 { ctx with run := .paged 0 false }).updStack 0 0 fun q => { q with faults := fs, waiting := ws }

def fault0 : PageFault := ⟨0, 0, aR, .act 0 0 0⟩

theorem witness_TranslationEvents :
    ((charted base).cached 0 0 = none ∧ stackOf 0 ≠ 3 ∧ (charted base).walk 0 0 = some (0x17, 256, true) ∧
      (charted base).upsets = [] ∧ (charted base).upsetWalk 0 0 .none = charted base ∧
      ((charted base).tablePath 0 0).getLast? = some 256) ∧
    (let s := { charted base with upsets := [.lost] }
     s.cached 0 0 = none ∧ ((({ s with upsets := [] }).upsetWalk 0 0 .lost).walk 0 0).isNone = true) ∧
    (fault0.who = .act 0 0 0 ∧ (stuck [] []).halted (coreDie 0) = false ∧
      ((stuck [] []).updDie 0 fun d => { d with dbg := 2 }).halted (coreDie 0) = true) ∧
    (((stuck [] []).ctxAt 0 0).actId = 0 ∧ ((stuck [] []).ctxAt 0 0).run = .paged 0 false ∧
      (stuck [] []).stillFaults 0 = false ∧ base.pkg.recovery = false) ∧
    (let s := stuck [] [fault0]
     ((s.dieAt 0).stks[Fin.ofNat 3 0]).waiting = [fault0] ∧ (s.ctxAt 0 0).actId = 0 ∧
       (s.ctxAt 0 0).run = .paged 0 false ∧
      ((s.updStack 0 0 fun q => { q with waiting := [] }).translate (heapBase 0) aR).isNone = true ∧
      (((charted s).updStack 0 0 fun q => { q with waiting := [] }).translate (heapBase 0) aR).isSome = true) := by
  and_intros <;> decide +kernel

theorem witness_DieCommands :
    let work : M Unit := (coresOfDie 1).forM siftCore
    let t := M.after work base
    let move : M Unit := evacuate 1
    (base.dieBusy 1 = false ∧ base.dieBusy 0 = true ∧ base.pkg.recovery = false ∧ base.sifts = [] ∧
      base.halted 1 = false ∧ (base.updDie 1 fun d => { d with dbg := 2 }).halted 1 = true ∧
      (base.updDie 1 fun d => { d with dbg := 2 }).dieBusy 1 = false) ∧
    (let s := State.reset
     s.pkg.recovery = false ∧ s.dieBusy 1 = false ∧ s.sifts = [] ∧ s.nodes = [] ∧ s.halted 1 = false ∧
      s.mem.starts = [] ∧ (∀ i ∈ coresOfDie 1 ++ lowerPads 1, s.draining i = false) ∧
      (∀ i ∈ lowerPads 1, (s.pad i).live = 0 ∧ (s.pad i).pin = 0) ∧ rising (s.mgmt.map Prod.fst) = true) ∧
    M.answers work base () t ∧ (∀ p < 16, (t.needRoom 1 p).1 ≤ (t.needRoom 1 p).2) ∧
    M.answers move t () (M.after move t) ∧
    (let s := base.updClu 16 fun k => { k with pad := { k.pad with live := 64, owner := 16 } }
     s.dieBusy 1 = false ∧ s.pkg.recovery = false ∧ s.sifts = [] ∧ s.halted 1 = false ∧
      M.answers work s () (M.after work s) ∧
      ((M.after work s).needRoom 1 0).2 < ((M.after work s).needRoom 1 0).1) := by
  intro work t move
  and_intros <;> first | decide +kernel | exact answers_out (by decide +kernel)

/-- The queue table, with n written and not consumed in queue 0, whose ring's first packet is of type k, for p4's block. -/
def working (k n : Nat) : State :=
  let s := queues base
  (s.updMem fun m =>
    let r := dieBase 0 + 0x20010
    ((m.write r (bytesOf 16 k)).write (r + 16) (bytesOf 16 (ptr 3 0 192 0x4010).bits.toNat)).setTag (r + 16) true).setQueue
      0 36 4 n

/-- The table of queue 0 alone, with one packet to read. -/
def shortTable : State :=
  { State.reset with
    mem := { bytes := [(dieBase 0 + 16 + 36, 1), (dieBase 0 + 16 + 43, 1)], starts := [dieBase 0 / 32] }
    pkg := { qtbase := { bits := BitVec.ofNat 128 (0x0062000000000010 + 64 * 2 ^ 64), tag := true } } }

/-- The table lies in a heap page that is not mapped. -/
def pagedTable : State :=
  State.reset.updPkg fun p => { p with qtbase := ptr 35 0 65536 (heapBase 0 + 16) }

/-- The ring of queue 0 does. -/
def pagedRing : State :=
  let s := queues base
  s.updMem fun m => (m.write (dieBase 0 + 16) (bytesOf 16 (ptr 3 0 128 (heapBase 0 + 16)).bits.toNat)).setTag
    (dieBase 0 + 16) true

theorem witness_QueueAndSlotEvents :
    (let u := shortTable.taken [(shortTable.pkg.qtbase, 0, 0, 65536)]
     (upTo 128).find? (fun n => (u.slotAt n).queue.isNone) = some 0 ∧ u.age.bestQueue = some 0) ∧
    (pagedTable.lacks [(pagedTable.pkg.qtbase, 0, 0, 65536)]).isSome = true ∧ pagedTable.pkg.recovery = false ∧
    (pagedTable.lacks [pagedTable.descriptor 0]).isSome = true ∧
    (let s := working 1 1
     s.pkg.recovery = false ∧ (s.lacks [s.descriptor 0]).isNone = true ∧ (s.lacks (s.cancelReads 0)).isNone = true) ∧
    ((pagedRing.lacks [pagedRing.descriptor 0]).isNone = true ∧ (pagedRing.lacks (pagedRing.cancelReads 0)).isSome = true ∧
      pagedRing.pkg.recovery = false) ∧
    base.pkg.recovery = false ∧
    (shortTable.lacks [(shortTable.pkg.qtbase, 0, 0, 65536)]).isNone = true ∧
    shortTable.bestQueue = some 0 ∧ ((queues base).updSlot 0 fun t => { t with queue := some 0 }).releasable 0 = true ∧
    bit 256 8 = true := by
  and_intros <;> decide +kernel

/-- Queue 0 in slot 0. -/
def slotted (k n : Nat) : State := (working k n).updSlot 0 fun t => { t with queue := some 0 }

/-- A launch of queue 0 in the phase f, whose block has been read. -/
def flight (f : LaunchPhase) : Launch :=
  { uid := 1, id := 0, slot := 0, queue := 0, part := 0, blk := .replicate 192 0, ptrs := .replicate 7 .null, phase := f }

/-- The same with its block at p4, not read. -/
def unread (f : LaunchPhase) : Launch := { flight f with blk := [], ptrs := [], blkptr := ptr 3 0 192 0x4010 }

theorem witness_LaunchEvents :
    (let s := slotted 1 1
     let u := s.taken [s.descriptor 0]
     let k := u.queueField 0 32 4
     (s.slotAt 0).queue = some 0 ∧ (s.unplaced 0).isNone = true ∧ (s.lacks [s.descriptor 0]).isNone = true ∧
      u.hasWork 0 = true ∧ u.releasable 0 = false ∧ (u.lacks [u.packetPlace 0 k]).isNone = true ∧
      ((u.taken [u.packetPlace 0 k]).packetAt 0 k).1 = 1) ∧
    (let s := pagedTable.updSlot 0 fun t => { t with queue := some 0 }
     (s.slotAt 0).queue = some 0 ∧ (s.unplaced 0).isNone = true ∧ (s.lacks [s.descriptor 0]).isSome = true) ∧
    ((flight .placed).read = true ∧ rising (base.pkg.records.map Prod.fst) = true ∧
      (SMap.get (0, .null) base.pkg.records (flight .placed).queue).1 ≤ (flight .placed).uid) ∧
    (∀ f ∈ [LaunchPhase.waits, .reads],
      let l := unread f
      let s := (slotted 1 1).updPkg fun p => { p with launches := [l] }
      (s.slotAt 0).queue = some 0 ∧ s.unplaced 0 = some l ∧ l.phase = f ∧
        (s.lacks [(l.blkptr, l.part, 0, 192), (s.waitPtr l, l.part, 0, 4)]).isNone = true ∧
        (s.lacks [(l.blkptr, l.part, 0, 192)]).isNone = true ∧ (s.lacks (s.reading (s.readBlock l))).isNone = true) ∧
    (let s := slotted 2 1
     let k := s.queueField 0 32 4
     let v := (s.taken [s.descriptor 0]).taken [s.packetPlace 0 k]
     (s.slotAt 0).queue = some 0 ∧ (s.lacks [s.descriptor 0]).isNone = true ∧
      (s.lacks [s.packetPlace 0 k]).isNone = true ∧ v.hasWork 0 = true ∧ (v.packetAt 0 k).1 = 2 ∧
      v.pkg.launches = []) ∧
    (let s := (slotted 1 1).updPkg fun p => { p with launches := [flight (.placing 0)] }
     (s.pkg.launches.find? fun l => l.slot.toNat == 0 && match l.phase with
      | .placing _ => true
      | _ => false) = some (flight (.placing 0))) ∧
    (∀ l ∈ [flight .placed, unread .placed],
      let s := base.updPkg fun p => { p with launches := [l] }
      s.launch? 1 = some l ∧ l.active = 0 ∧ l.allPlaced = true ∧ s.launchAmos 1 = false ∧
        (s.lacks [(l.blkptr, l.part, 0, 192)]).isNone = true) ∧
    (flight .placed).blk ≠ [] ∧ (unread .placed).blk = [] ∧
    (let q := saveArea.bits
     let s := base.updPkg fun p => { p with sealed := [(saveArea.key 0, 0, 0, 9)] }
     s.pkg.recovery = false ∧ s.malformed { bits := q, tag := true } = false ∧
      (s.pkg.sealed.find? fun e => e.1 == ({ bits := q, tag := true } : PReg).key e.2.2.1).isSome = true) := by
  and_intros <;> decide +kernel

/-- A write of 8 bytes through window 0 to p1's object. -/
def inbound : HostWrite :=
  { bar4 := true, off := 0, data := .replicate 8 5, ptr := ptr 3 0 1024 0x1010, ctl := 3, route := some 0, total := 8 }

/-- The same to an object of die 0's pad. -/
def ashore (ctl : DWord) : HostWrite :=
  { inbound with ptr := ptr 3 0 128 (dieBase 0 + 0x20010), ctl, released := true }

/-- Such a write is the first on its route. -/
def landing (ctl : DWord) : State := (queues base).updPkg fun p => { p with orderQ := [ashore ctl] }

theorem witness_LandingInDiePad :
    (landing 1).landingOn 0 = some (ashore 1) ∧ (landing 3).landingOn 0 = some (ashore 3) ∧
    (∀ w ∈ [ashore 1, ashore 3], w.bar4 = true ∧ w.stepLen = 8 ∧ w.landed + 8 ≤ w.keep (landing 1) ∧
      w.ptr.key 0 + w.start + w.landed = dieBase 0 + 0x20010) ∧
    (∀ s ∈ [landing 1, landing 3], s.mem.footOf (dieBase 0 + 0x20010) = some (dieBase 0 + 0x20000) ∧
      s.mem.wf ∧ s.nodes = [] ∧ s.halted (dieOf (dieBase 0 + 0x20010)) = false ∧
      (∀ i ∈ s.padOf (dieBase 0 + 0x20010), s.siftRuns i = false) ∧
      ∀ g ∈ granules (dieBase 0 + 0x20000) 16 ++ granules (dieBase 0 + 0x20010) 8, s.mem.isPoisoned g = false) ∧
    Header.ofNat (natOf ((landing 1).mem.read (dieBase 0 + 0x20000) 16)) = Header.fresh 0 128 ∧
    (Header.fresh 0 128).state = stLive ∧ levelOf (dieBase 0 + 0x20010) = 2 ∧ levelOf (dieBase 0 + 0x20017) = 2 ∧
    Claims.bodyAt (Header.fresh 0 128) (dieBase 0 + 0x20000) (dieBase 0 + 0x20010) := by
  refine ⟨?_, ?_, ?_, ?_, ?_, ?_, ?_, ?_, ?_⟩ <;> decide +kernel

theorem witness_HostEvents :
    let ordered (ws : List HostWrite) : State := base.updPkg fun p => { p with orderQ := ws }
    let w := { inbound with released := true }
    let r : HostWrite := { bar4 := false, off := 0x10000, data := .replicate 8 0, route := some 4, released := true }
    base.pkg.powered = true ∧ base.pkg.recovery = false ∧ base.upsets = [] ∧ base.accesses = [] ∧ (.replicate 8 5 : List Byte) ≠ [] ∧
      0 % 2 ^ 26 + (.replicate 8 5 : List Byte).length ≤ 2 ^ 26 ∧
    ((ordered [w, inbound]).pkg.orderQ = [w] ++ inbound :: [] ∧ w.released = true ∧ inbound.released = false ∧
      w.route = some 0 ∧ (ordered [w, inbound]).pkg.saves = false) ∧
    ((ordered [{ inbound with route := none, read := some 4 }]).pkg.orderQ =
      [] ++ { inbound with route := none, read := some 4 } :: []) ∧
    ((ordered [w]).landingOn 0 = some w ∧
      M.answers (landStep w) (ordered [w]) () (M.after (landStep w) (ordered [w]))) ∧
    ((ordered [r]).landingOn 4 = some r ∧ ((ordered [r]).manage r.off (natOf r.data)).isSome = true) ∧
    (let v := { w with landed := 8 }
     ((ordered [v]).pkg.orderQ.find? fun w => w.released && w.route == some 0) = some v ∧ v.complete = true) ∧
    (bit ((1 : DWord).toNat) 1 = false ∧ bit ((3 : DWord).toNat) 1 = true) ∧
    (({ base with accesses := [.bar0] } : State).accesses.head? = some .bar0 ∧ base.accesses.head? ≠ some .bar0) ∧
    (let p : Package := { base.pkg with pba := [3] }
     rising (p.msixTab.map Prod.fst) = true ∧ p.pba.has 3 = true) ∧
    (let b : HostWrite := { bar4 := false, bar0 := true, off := 0, data := [1, 0, 0, 0], route := some 4, released := true }
     (ordered [b]).landingOn 4 = some b) ∧
    (base.hostAt 3).resv.queue = [] := by
  intro ordered w r
  and_intros <;> first | decide +kernel | exact answers_out (by decide +kernel)

theorem witness_RegisterWriteEvents :
    (padReg 0x10000 = some (2, 0) ∧ base.padWaits 2 = false) ∧ (padReg 0 = some (0, 0) ∧ base.coreHolds 0 = true) ∧
    ({ base with sifts := [{ pads := [1024] }] } : State).siftRuns 1024 = true ∧ base.padWaits 1024 = false ∧
    padReg 0x2000000 = some (1024, 0) ∧ padReg 0x2000040 = some (1024, 8) ∧ rising (base.mgmt.map Prod.fst) = true ∧
    regScope 0x90 = 0 ∧ base.coreSaves (regCore 0x90) = false ∧ regIdx 0x90 = 0x12 ∧ regIdx 0x98 = 0x13 ∧
    regIdx 0x80 = 0x10 ∧ regIdx 0x88 = 0x11 ∧ regIdx 0x140 = 0x28 ∧ regIdx 0x148 = 0x29 ∧ regIdx 0x200 = 0x40 ∧
    regIdx 0x208 = 0x41 ∧ regIdx 0x210 = 0x42 ∧ regIdx 0x218 = 0x43 ∧ regScope 0x218 = 0 ∧ regScope 0x6000138 = 3 ∧
    regIdx 0x6000138 = 0x27 ∧ 0x6000138 % 8 = 0 ∧ base.pkg.recovery = false ∧
    (base.updPkg fun p => { p with bootstat := 0x80 }).pkg.recovery = true ∧
    (regScope 0x100 = 0 ∧ (base.coreAt 0).stopped = false ∧ base.accesses = [] ∧
      ({ base with accesses := [.item 0] } : State).accesses = [.item 0] ∧
      ({ base with accesses := [.fuses] } : State).accesses = [.fuses]) ∧
    fld base.pkg.bootstat.toNat 0 2 < 2 ∧ 2 ≤ fld (base.updPkg fun p => { p with bootstat := 3 }).pkg.bootstat.toNat 0 2 ∧
    (let s := base.updCore 0 fun k => { k with stopped := true }
     let me := s.asCtx 0 1
     (s.coreAt 0).stopped = true ∧ selectorOk 0 = true ∧ targetOk97 none (s.coreAt 0) 0 = true ∧
      M.answers (writeItem 0 7) me () (M.after (writeItem 0 7) me)) := by
  and_intros <;> first | decide +kernel | exact answers_out (by decide +kernel)

/-- The load engine is at a step, of the image in p1's object, whose fields are changed by f. -/
def loading (l : Loading) (f : Memory → Memory) : State :=
  ((filled base).updClu 0 fun k => { k with pad := { k.pad with owner := 16 } }).updPkg (fun p =>
    { p with ldimg := ptr 3 0 1024 0x1010, loading := some l }) |>.updMem f

/-- The image has its magic number and its version. -/
def signed (m : Memory) : Memory := m.write 0x1010 (bytesOf 4 0x47494D31 ++ [1])

/-- Its first object is one of 16 bytes that core 0's pad has room for. -/
def oneObject (m : Memory) : Memory := (m.write 0x1010 (bytesOf 2 0x308)).write 0x1018 [16]

theorem answers_join {α : Type} {m : M (Option α)} {s : State} (h : (out? m s).join.isSome = true) :
    ∃ a, M.answers m s (some a) (M.after m s) := by
  obtain ⟨a, ha⟩ := Option.isSome_iff_exists.1 h
  exact ⟨a, answers_out (Option.join_eq_some_iff.1 ha)⟩

/-- Its first granule is poisoned. -/
def spoiled (m : Memory) : Memory := { m with poison := [0x1010 / 16] }

/-- Its first relocation names objects 0 and 0. -/
def zeroed (m : Memory) : Memory := m.write 0x1010 [0]

/-- Its code, at 16, is poisoned. -/
def spoiledCode (m : Memory) : Memory := { m.write 0x1018 [16, 0, 0, 0, 2] with poison := [0x1020 / 16] }

/-- The same once the image's page is there. -/
def loaded (l : Loading) (f : Memory → Memory) : State := M.after imgMapped (loading l f)

theorem witness_LoadEvents :
    (∀ f ∈ [id, signed], (loading {} f).pkg.loading = some {}) ∧
    M.answers imgMapped (loading {} id) () (loaded {} id) ∧ M.answers imgMapped (loading {} signed) () (loaded {} signed) ∧
    ((loaded {} id).imgBad 0 64 = false ∧ (loaded {} id).imgCheck = some 1 ∧
      (loaded {} signed).imgBad 0 64 = false ∧ (loaded {} signed).imgCheck.isNone = true) ∧
    (let s := loading { step := .object 0 } oneObject
     let t := loaded { step := .object 0 } oneObject
     M.answers imgMapped s () t ∧ t.objBad 0 = false ∧
      ∃ p, M.answers (buildObject 0) t (some p) (M.after (buildObject 0) t)) ∧
    (let s := loading { step := .object 0 } id
     let t := loaded { step := .object 0 } id
     M.answers imgMapped s () t ∧ t.objBad 0 = false ∧ M.answers (buildObject 0) t none (M.after (buildObject 0) t)) ∧
    (let s := loading { step := .object 0 } spoiled
     let t := loaded { step := .object 0 } spoiled
     M.answers imgMapped s () t ∧ t.objBad 0 = true) ∧
    (let s := loading { step := .reloc 0, objs := [ptr 3 0 1024 0x1010] } zeroed
     let t := loaded { step := .reloc 0, objs := [ptr 3 0 1024 0x1010] } zeroed
     M.answers imgMapped s () t ∧ t.imgBad (t.imgWord 44 + 32 * 0) 32 = false ∧
      M.answers (relocate 0) t true (M.after (relocate 0) t)) ∧
    (let s := loading { step := .reloc 0 } id
     let t := loaded { step := .reloc 0 } id
     M.answers imgMapped s () t ∧ t.imgBad (t.imgWord 44 + 32 * 0) 32 = false ∧
      M.answers (relocate 0) t false (M.after (relocate 0) t)) ∧
    (let s := loading { step := .finished } id
     s.pkg.loading = some { step := .finished } ∧ M.answers imgMapped s () (M.after imgMapped s)) ∧
    (∀ f ∈ [id, spoiledCode],
      let s := loading { step := .cores, cores := [2] } f
      s.pkg.loading = some { step := .cores, cores := [2] } ∧ (∀ x : Fin 8, (s.ctxAt 2 x).busy = false) ∧
      (out? imgMapped s).isSome = true) ∧
    (((loaded { step := .cores, cores := [2] } id).loadOne 2).1.isNone = true ∧
      ((loaded { step := .cores, cores := [2] } spoiledCode).loadOne 2).1 = some (6, 0)) := by
  and_intros <;> first | decide +kernel | exact answers_out (by decide +kernel) | exact answers_join (by decide +kernel)

/-- The image lies in die 0's pad. -/
def shipped (l : Loading) : State :=
  let s := (queues base).updPkg fun p => { p with ldimg := ptr 3 0 128 (dieBase 0 + 0x20010), loading := some l }
  s.updMem fun m => m.write (dieBase 0 + 0x20010) (bytesOf 4 0x47494D31 ++ [1])

theorem witness_LoadCompletes :
    let s := shipped {}
    let u := shipped { step := .cores, cores := [2] }
    (s.pkg.loading = some {} ∧ u.pkg.loading = some { step := .cores, cores := [2] }) ∧
    (s.pkg.ldimg.tag = true ∧ s.malformed s.pkg.ldimg = false ∧ Claims.inDiePad s s.pkg.ldimg 0 0 1) ∧
    (u.pkg.ldimg.tag = true ∧ u.malformed u.pkg.ldimg = false ∧ Claims.inDiePad u u.pkg.ldimg 0 0 1) ∧
    (s.imgBad 0 64 = false ∧ s.imgCheck.isNone = true) ∧ (∀ x : Fin 8, (u.ctxAt 2 x).busy = false) ∧
    (u.loadOne 2).1.isNone = true := by
  intro s u
  refine ⟨?_, ?_, ?_, ?_, ?_, ?_⟩ <;> decide +kernel

theorem witness_ResetEvents :
    base.pkg.bootstat = 0 ∧ base.pkg.powered = true ∧ base.pkg.firstFail base.pkg.flash = some (1, 1) := by
  and_intros <;> decide +kernel

/-- In recovery, with a command under way. -/
def recovering (cmd : DWord) : State :=
  base.updPkg fun p => { p with bootstat := 0x80, rcvstat := 1, rcvcmd := cmd }

theorem witness_SecurityEvents :
    (recovering 1).pkg.recovers 1 = true ∧ (recovering 2).pkg.recovers 2 = true ∧
    (recovering 1).pkg.verify 1 ([].take (recovering 1).pkg.rcvlen.toNat) ≠ 0 ∧
    (base.updPkg fun p => { p with attcmd := 1, identity := some 0 }).pkg.attcmd = 1 ∧
    (base.updPkg fun p => { p with attcmd := 1, identity := some 0 }).pkg.identity = some 0 ∧
    base.pkg.recovery = false ∧ fld base.pkg.alarmctl.toNat (2 * 0) 2 = 1 ∧
    fld base.pkg.alarmctl.toNat (2 * 3) 2 = 2 ∧
    fld (base.updPkg fun p => { p with alarmctl := 0 }).pkg.alarmctl.toNat (2 * 0) 2 = 0 := by
  and_intros <;> decide +kernel

theorem first_byte (m : Nat) (t : List Byte) : fldAt (BitVec.ofNat 8 (5 + 256 * m) :: t) 0 8 = 5 := by
  simp only [fldAt, natOf, fld, BitVec.toNat_ofNat]
  omega

theorem trailer_cons (p : Package) (d : BitVec 384) : ∃ m t, p.trailer d = BitVec.ofNat 8 (5 + 256 * m) :: t := by
  have h : trailerHead = BitVec.ofNat 8 (5 + 256 * 0) :: trailerHead.tail := by decide +kernel
  unfold Package.trailer
  rw [h]
  exact ⟨0, _, by rw [List.cons_append, List.cons_append]⟩

/-- An image that holds its trailer alone. -/
theorem trailer_alone (p : Package) (h : p.identity.isSome = true) :
    recordsOf (p.trailer (trailerDigest [])).length 0 (p.trailer (trailerDigest [])) = ([], 0) ∧
    p.trusts (p.trailer (trailerDigest [])) 0 = true := by
  constructor
  · obtain ⟨m, t, e⟩ := trailer_cons p (trailerDigest [])
    rw [e]
    simp [recordsOf, first_byte]
  · simp [Package.trusts, h]

/-- The checkpoint block, in die 0's pad, names target 0, and Ethernet port 2 is up. -/
def targeted (s : State) : State :=
  let t := dieBase 0
  let m := (s.mem.write t (bytesOf 16 (Header.fresh 0 8192).toNat)).write (t + 16) [1]
  { s with
    mem := { m with starts := m.starts.add (t / 32) }
    pkg := { s.pkg with ckpttgt := ptr 35 0 8192 (t + 16), eports := s.pkg.eports.set 2 1 } }

/-- Reset, with the identity keys of a boot, and a path to a target. -/
def keyed : State := targeted (State.reset.updPkg fun p => { p with identity := some 0 })

/-- The same with a command cmd under way. -/
def commanded (cmd : Nat) : State := keyed.updPkg fun p => { p with ckpt := some { cmd } }

theorem witness_CheckpointEvents :
    (keyed.pkg.recovery = false ∧ keyed.pkg.ckpt.isNone = true ∧ keyed.anyBusy = false ∧ keyed.ckptPath = true) ∧
    (base.pkg.recovery = false ∧ base.pkg.ckpt.isNone = true ∧ base.anyBusy = true) ∧
    (State.reset.pkg.recovery = false ∧ State.reset.pkg.ckpt.isNone = true ∧ State.reset.ckptPath = false) ∧
    (∀ cmd ∈ [1, 2], (commanded cmd).pkg.ckpt = some { cmd } ∧ (commanded cmd).pkg.recovery = false) ∧
    (∀ s ∈ [keyed, commanded 2],
      let image := s.pkg.trailer (trailerDigest [])
      s.pkg.trusts image (recordsOf image.length 0 image).2 = true ∧
      s.pkg.trusts [] (recordsOf ([] : List Byte).length 0 []).2 = false) ∧
    (let s := (commanded 1).updPeer 223 fun q => { q with sent := [(5, 8, [])] }
     s.pkg.ckpt = some { cmd := 1 } ∧
      ((SMap.get {} s.pkg.peers 223).sent.find? fun e => e.1 == (5 : BitVec 32)) = some (5, 8, [])) := by
  refine ⟨by decide +kernel, by decide +kernel, by decide +kernel, by decide +kernel, ?_, by decide +kernel⟩
  intro s hs image
  have hk : s.pkg.identity.isSome = true := by
    rcases List.mem_cons.1 hs with rfl | h
    · rfl
    · rw [List.mem_singleton.1 h]; rfl
  constructor
  · rw [(trailer_alone s.pkg hk).1]
    exact (trailer_alone s.pkg hk).2
  · obtain ⟨m, t, e⟩ := trailer_cons s.pkg (trailerDigest [])
    simp [Package.trusts, recordsOf, e]

theorem witness_ClockAndPowerEvents :
    fld 17 0 5 = 17 ∧ fld 3 0 5 = 3 ∧ base.pkg.clkBusy = false ∧
      max 3 base.pkg.pwrp.toNat ≠ fld base.pkg.clkstat.toNat 0 5 ∧
    max 0 base.pkg.pwrp.toNat = fld base.pkg.clkstat.toNat 0 5 ∧
    (base.updPkg fun p => { p with clkstat := 0x20 }).pkg.clkBusy = true ∧ base.pkg.saves = false ∧
    base.pkg.pwrlim.toNat < (2001 : BitVec 12).toNat ∧ (5 : BitVec 12).toNat + 100 < base.pkg.pwrlim.toNat ∧
    (base.updPkg fun p => { p with pwrlow := 9 }).pkg.pwrlow = 9 ∧ base.pkg.pwrlow < 9 ∧
    (base.pkg.pwrlim.toNat ≤ (1950 : BitVec 12).toNat + 100 ∧ (1950 : BitVec 12).toNat ≤ base.pkg.pwrlim.toNat) ∧
    (base.updPkg fun p => { p with clkstat := 0x20 }).pkg.clkPending = false ∧
    max base.pkg.clkstep.toNat (5 : BitVec 5).toNat ≠ fld base.pkg.clkstat.toNat 0 5 ∧
    max base.pkg.clkstep.toNat (0 : BitVec 5).toNat = fld base.pkg.clkstat.toNat 0 5 ∧ base.pkg.recovery = false := by
  and_intros <;> decide +kernel

/-- Port 3 is up, and p. -/
def ported (f : Port → Port) : State := base.updPort 3 fun p => f { p with reg := 0x18000000000C }

/-- A faster step waits for link l. -/
def asking (l : Nat) : State := base.updPkg fun p => { p with stepAsk := [(l, 1)] }

theorem witness_PortEvents :
    (let s := base.updPort 3 fun p => { p with reg := 0x180000000008 }
     bit (s.portAt 3).reg.toNat 3 = true ∧ s.portUp 3 = false) ∧
    ((ported id).portUp 3 = true ∧ ((ported id).portAt 3).waiting = [] ∧
      ((ported fun p => { p with adv := true }).portAt 3).adv = true) ∧
    ((ported fun p => { p with freed := #v[1, 0] }).portAt 3).freed ≠
      ((ported fun p => { p with freed := #v[1, 0] }).portAt 3).told ∧
    (∀ i < 4, fld (base.linkReg 36) 40 8 ≤ fld 0x20202020 (8 * i) 8) ∧ (SMap.find base.pkg.stepAsk 36).isNone = true ∧
    SMap.find (asking 36).pkg.stepAsk 36 = some 1 ∧
    (∀ s ∈ [base, asking 36], ∀ l ∈ [36, 3],
      ¬ (∀ i < 4, fld (s.linkReg l) 40 8 ≤ fld (0 : BitVec 32).toNat (8 * i) 8) ∧
      rising (s.pkg.stepAsk.map Prod.fst) = true) ∧
    fld (base.linkReg 36) 0 2 < 3 ∧ bit ((ported id).linkReg 3) 2 = true ∧
    (let s := base.updPort 3 fun p => { p with reg := 0x18000000000F }
     fld (s.linkReg 3) 0 2 = 3 ∧ bit (s.linkReg 3) 2 = true ∧
      ¬ (∀ i < 4, fld (s.linkReg 3) 40 8 ≤ fld (0 : BitVec 32).toNat (8 * i) 8)) ∧
    (bit base.pkg.clkstat.toNat 5 = false ∧ bit (base.updPkg fun p => { p with clkstat := 0x20 }).pkg.clkstat.toNat 5 = true) ∧
    (fld (base.linkReg 36) 0 2 = 0 ∧ ¬ fld 2 0 2 < fld (base.linkReg 36) 0 2) ∧
    (let s := base.updPort 3 fun p => { p with reg := 0x18000000000F }
     fld 0x8 0 2 < fld (s.linkReg 3) 0 2 ∧ bit (s.linkReg 3) 2 = true ∧ bit 0x8 3 = true ∧ bit 0 3 = false ∧
      s.pkg.recovery = false) := by
  and_intros <;> decide +kernel

theorem natOf_append (a b : List Byte) : natOf (a ++ b) = natOf a + 256 ^ a.length * natOf b := by
  induction a with
  | nil => simp [natOf]
  | cons x a ih =>
    simp only [List.cons_append, natOf, ih, List.length_cons, Nat.pow_succ, Nat.mul_add]
    rw [Nat.mul_comm (256 ^ a.length) 256, Nat.mul_assoc]
    omega

theorem natOf_bytesOf (n x : Nat) : natOf (bytesOf n x) = x % 256 ^ n := by
  induction n generalizing x with
  | zero => simp [bytesOf, natOf, Nat.mod_one]
  | succ n ih =>
    have h : (256 : Nat) ^ (n + 1) = 256 * 256 ^ n := Nat.pow_succ'
    rw [bytesOf, natOf, ih, BitVec.toNat_ofNat, h, Nat.mod_mul]

theorem length_bytesOf (n x : Nat) : (bytesOf n x).length = n := by
  induction n generalizing x with
  | zero => rfl
  | succ n ih => rw [bytesOf, List.length_cons, ih]

/-- The first 248 bytes of a flit of kind k with number 0. -/
def flitStart (k : Nat) : List Byte := bytesOf 8 (k * 2 ^ 48) ++ .replicate 240 0

/-- A flit whose CRC holds. -/
def goodFlit (k : Nat) : List Byte := flitStart k ++ bytesOf 8 (Config.crc64 (flitStart k)).toNat

theorem goodFlit_holds (k : Nat) (hk : k = 1 ∨ k = 2 ∨ k = 3 ∨ k = 4 ∨ k = 5) :
    (goodFlit k).length = 256 ∧ Config.crc64 ((goodFlit k).take 248) = BitVec.ofNat 64 (leAt (goodFlit k) 248 8) ∧
    BitVec.ofNat 16 (leAt (goodFlit k) 4 2) = 0 ∧ fldAt (goodFlit k) 48 4 = k := by
  have hl : (flitStart k).length = 248 := by rw [flitStart, List.length_append, length_bytesOf, List.length_replicate]
  have h2 : BitVec.ofNat 16 (leAt (flitStart k) 4 2) = 0 := by
    rcases hk with rfl | rfl | rfl | rfl | rfl <;> decide +kernel
  have h3 : fldAt (flitStart k) 48 4 = k := by rcases hk with rfl | rfl | rfl | rfl | rfl <;> decide +kernel
  unfold goodFlit
  generalize flitStart k = b at hl h2 h3
  have ht : (b ++ bytesOf 8 (Config.crc64 b).toNat).take 248 = b := by
    rw [List.take_append_of_le_length (by omega), List.take_of_length_le (by omega)]
  rw [ht]
  generalize Config.crc64 b = c
  refine ⟨by rw [List.length_append, length_bytesOf, hl], ?_, ?_, ?_⟩
  · have hd : (b ++ bytesOf 8 c.toNat).drop 248 = bytesOf 8 c.toNat := by
      rw [← hl, List.drop_left]
    have hc : c.toNat % 256 ^ 8 = c.toNat := Nat.mod_eq_of_lt (by have := c.isLt; omega)
    rw [leAt, hd, List.take_of_length_le (Nat.le_of_eq (length_bytesOf ..)), natOf_bytesOf, hc, BitVec.ofNat_toNat,
      BitVec.setWidth_eq]
  · have : ((b ++ bytesOf 8 c.toNat).drop 4).take 2 = (b.drop 4).take 2 := by
      rw [List.drop_append_of_le_length (by omega), List.take_append_of_le_length (by rw [List.length_drop]; omega)]
    rw [leAt, this]
    exact h2
  · rw [fldAt, natOf_append, hl, ← h3, fldAt, fld, fld]
    have : (256 : Nat) ^ 248 = 2 ^ 52 * 2 ^ 1932 := by decide +kernel
    rw [this]
    generalize natOf (bytesOf 8 c.toNat) = y
    generalize (2 : Nat) ^ 1932 = z
    rw [Nat.mul_assoc]
    generalize z * y = w
    omega

/-- The table of peers, whose peer 0 is valid and is reached by port 2. -/
def peered (f : Peer → Peer) : State :=
  let s := (queues base).updPkg fun p => { p with sotbase := p.qtbase, eports := p.eports.set 2 1 }
  (s.updMem fun m => m.write (dieBase 0 + 16 + 1024 + 18) [4, 0, 0, 0x80]).updPeer 0 f

/-- A packet of kind k, numbered 0. -/
def plainFrom (addr : BitVec 128) (kind : BitVec 4) : Packet :=
  { srcAddr := addr, srcPort := 0, udp := 0x4C42, kind, count := 0, seq := 0, cum := 0, sack := 0, body := [] }

theorem witness_TransportEvents :
    (∀ k ∈ [1, 2, 3, 4, 5], (ported id).portUp 3 = true ∧ (goodFlit k).length = 256 ∧
      Config.crc64 ((goodFlit k).take 248) = BitVec.ofNat 64 (leAt (goodFlit k) 248 8) ∧
      BitVec.ofNat 16 (leAt (goodFlit k) 4 2) = ((ported id).portAt 3).seqIn ∧ fldAt (goodFlit k) 48 4 = k) ∧
    base.portUp 3 ≠ true ∧
    (let u := (ported id).updPort 3 fun p => { p with seqIn := p.seqIn + 1 }
     let body := fun k => ((goodFlit k).drop 8).take 240
     (∃ t, exec (.endToEndAck (leAt (body 2) 0 4) .ack) u = .next t ∧ t.portUp 3 = true) ∧
      ∃ t, exec (.endToEndAck (leAt (body 3) 0 4) (if leAt (body 3) 4 1 = 0 then .refusal else .held)) u = .next t ∧
        t.portUp 3 = true) ∧
    (let s := base.updPkg fun p => { p with remotes := [{ id := 7, core := 0, ctx := 0, dst := 0, msg := {}, sent := true }] }
     (s.pkg.remotes.any fun r => r.id == 7 && r.sent) = true) ∧
    (bit ((peered id).pkg.eports[(2 : Fin 16)]).toNat 0 = true ∧ (0 : Nat) ≠ fld (peered id).pkg.soctl.toNat 0 16 ∧
      0x4C42 = fld (peered id).pkg.soctl.toNat 0 16 ∧ (peered id).peerAt 0 0 = some 0 ∧
      (0 : BitVec 32) = (SMap.get {} ((peered id).acknowledge 0 0 0).pkg.peers 0).expect ∧
      (peered id).peerAt 1 0 = none ∧ (peered id).peerPorts ((peered id).endpoint 0).2 = [2] ∧
      rising ((peered id).pkg.peers.map Prod.fst) = true ∧
      ∀ k ∈ [(2 : BitVec 4), 4], (plainFrom 0 k).plain = true ∧ (plainFrom 0 k).seq = 0) ∧
    (∀ n ∈ [7, 8], ((SMap.get {} (peered fun q => { q with sent := [(5, n, [])] }).pkg.peers 0).sent.find?
      fun e => e.1 == 5) = some (5, n, [])) := by
  refine ⟨?_, by decide +kernel, ⟨next_of (by decide +kernel), next_of (by decide +kernel)⟩, by decide +kernel, ?_,
    by decide +kernel⟩
  · intro k hk
    have h := goodFlit_holds k (by simp only [List.mem_cons, List.not_mem_nil, or_false] at hk; omega)
    exact ⟨by decide +kernel, h.1, h.2.1, h.2.2.1.trans (by decide +kernel), h.2.2.2⟩
  · and_intros <;> decide +kernel

/-- A COPY of p2's block by context 0, whose pointers are to p1's and p4's objects where good holds. -/
def copying (good : Bool) : State :=
  let s := (at0 { ctx with run := .copying }).updUnit 0 fun u =>
    { u with reqs := [{ core := 0, ctx := 0, actId := 0, p := 2, guard := 0 }] }
  if good then s.updMem fun m =>
    let m := (m.write 0x2010 (bytesOf 16 (ptr 3 0 1024 0x1010).bits.toNat)).setTag 0x2010 true
    (m.write 0x2020 (bytesOf 16 (ptr 3 0 192 0x4010).bits.toNat)).setTag 0x2020 true
  else s

/-- A write of four bits to p1's object. -/
def nibble : SubByte :=
  { ptr := ptr 3 0 1024 0x1010, part := 0, off := 0, high := true, value := 5, fe := none, bad := false, unit := 0, num := 0 }

/-- Unit 0 has job 0, and a write of four bits of it that is not performed. -/
def halfDone : State :=
  let s := base.updUnit 0 fun u => { u with jobs := [{}] }
  { s with subs := [nibble] }

/-- Context 0's request, and the state in which it is accepted. -/
def copyAsk : CopyReq := { core := 0, ctx := 0, actId := 0, p := 2, guard := 0 }
def copyOwn (good : Bool) : State := (Claims.took (copying good) 0 copyAsk).asCtx 0 0

/-- Work stops, and for no failed chunk. -/
def halts {α : Type} (m : M α) (s : State) : Bool :=
  match stop? m s with
  | none => false
  | some (.fill _ _) => false
  | some _ => true

/-- A job of one beat between two objects of die 0's pad. -/
def beatJob : Job :=
  { src := ptr 3 0 16 (dieBase 0 + 0x20010), dst := ptr 3 0 16 (dieBase 0 + 0x20020), guard := 1
    blk := BitVec.ofNat 1024 (2 ^ 384 + 2 ^ 416 + 2 ^ 448 + 2 ^ 480 + 2 ^ 512 + 2 ^ 544 + 2 ^ 960) }

/-- Unit 0 has it. -/
def beating : State := (queues base).updUnit 0 fun u => { u with jobs := [beatJob] }

theorem witness_CopyUnitEvents :
    (∀ good : Bool, (copying good).upsets = [] ∧ ((Claims.asked (copying good) 0).unitAt 0).chosen = some copyAsk) ∧
    M.answers (acceptJob 0 copyAsk false) (copyOwn true) (jobId 0 0)
      (M.after (acceptJob 0 copyAsk false) (copyOwn true)) ∧
    halts (acceptJob 0 copyAsk false) (copyOwn false) = true ∧
    (let s := base.updUnit 0 fun u => { u with jobs := [{}] }
     (s.unitAt 0).running = [{}] ∧ (s.jobStep 0 .none {}).isSome = true) ∧
    (let j : Job := { finished := true }
     let s := base.updUnit 0 fun u => { u with jobs := [j] }
     ((s.unitAt 0).jobs.find? fun j => j.finished && j.doneAt ≤ s.ck && !s.jobPaged 0 j && !(s.unitAt 0).ordWaits j) =
      some j ∧ j.setf = false ∧ j.int = false) ∧
    (halfDone.subs = [nibble] ∧ ((halfDone.unitAt 0).jobs.find? fun i => i.num == nibble.num) = some {} ∧
      (∀ d, halfDone.halted d = false) ∧ halfDone.sifts = [] ∧ halfDone.jobPaged 0 {} = false ∧
      M.answers nibble.work (halfDone.asCtx 0 0) () (M.after nibble.work (halfDone.asCtx 0 0)) ∧
      ({ (M.after nibble.work (halfDone.asCtx 0 0)).asCtx 0 0 with subs := [] } : State).jobPaged 0 {} = false) := by
  and_intros
  all_goals first | decide +kernel | exact answers_out (by decide +kernel) | exact not_halted (by decide +kernel)

theorem witness_CopyAccepted :
    let s := copying true
    let u := s.asCtx 0 0
    let blk := natOf (s.mem.read 0x2010 128)
    let ctl := fld blk 960 64
    let ptr := fun o => ({ bits := BitVec.ofNat 128 (blk / 2 ^ (8 * o)), tag := s.mem.isTagged (0x2010 + o) } : PReg)
    (s.upsets = [] ∧ ((Claims.asked s 0).unitAt 0).chosen = some copyAsk ∧ (s.unitAt 0).cache = []) ∧
    Claims.ownObject u 2 0x2010 0x2000 (Header.fresh 4 192) ∧ 128 ≤ u.now.p[(2 : Fin 16)].len ∧ Claims.clean u 0x2010 128 ∧
    (fld ctl 3 2 ≠ 3 ∧ fld ctl 5 4 < 2 ∧ fld ctl 13 3 < 6 ∧ bit ctl 11 = false) ∧
    ((ptr 0).tag = true ∧ s.malformed (ptr 0) = false ∧ (ptr 0).r = true) ∧
    ((ptr 16).tag = true ∧ s.malformed (ptr 16) = false ∧ (ptr 16).w = true) := by
  intro s u blk ctl ptr
  refine ⟨?_, ?_, ?_, ?_, ?_, ?_, ?_⟩ <;> decide +kernel

theorem witness_BeatMoves :
    let s := beating
    let j := beatJob
    (s.upsets = [] ∧ s.sifts = [] ∧ s.nodes = [] ∧ (s.unitAt 0).jobs = [j]) ∧
    (j.finished = false ∧ j.stopAt = none ∧ j.rises = false ∧ j.xf < 13 ∧ j.elem < j.inner ∧ j.startAt ≤ s.ck ∧
      s.jobPaged 0 j = false ∧ s.malformed j.src = false) ∧
    Claims.inDiePad s j.src 0 0 1 ∧ Claims.inDiePad s j.dst 0 0 1 ∧
    dieBase 0 + 0x20000 + 16 ≤ j.dst.key 0 ∧
    ∀ o, o < j.dst.len → s.mem.footOf (j.dst.key 0 + o) = some (dieBase 0 + 0x20000) := by
  intro s j
  refine ⟨?_, ?_, ?_, ?_, ?_, ?_⟩ <;> decide +kernel

theorem witness_NibbleWritten :
    let s := halfDone
    let k := nibble.ptr.key nibble.part + nibble.off
    (s.subs = [nibble] ∧ ((s.unitAt 0).jobs.find? fun i => i.num == nibble.num) = some {} ∧ ({} : Job).rises = false) ∧
    (∀ d, s.halted d = false) ∧
    (s.sifts = [] ∧ s.nodes = [] ∧ s.jobPaged 0 {} = false ∧ s.mem.wf ∧ spaceOf k < 1024) ∧
    (s.mem.footOf k = some 0x1000 ∧ 0x1000 + 16 ≤ k ∧ s.mem.isPoisoned 0x1000 = false ∧
      (Header.ofNat (natOf (s.mem.read 0x1000 16))).state = stLive ∧ Claims.sound s (spaceOf k)) := by
  intro s k
  exact ⟨by decide +kernel, not_halted (by decide +kernel), by decide +kernel, by decide +kernel⟩

/-- A command of two repeats on p1's and p4's objects. -/
def twice : MCmd :=
  { blk := bytesOf 64 (9 * 2 ^ 6) ++ bytesOf 64 map22.toNat ++ bytesOf 64 map22.toNat, repeats := 2
    pa := ptr 3 0 1024 0x1010, pb := ptr 3 0 192 0x4010 }

/-- A binding of p1's object by map22. -/
def bound : Stream := { ptr := ptr 3 0 1024 0x1010, map := map22, pane := 15 }

/-- The same of an object of die 0's pad. -/
def ashoreBound : Stream := { bound with ptr := ptr 3 0 128 (dieBase 0 + 0x20010) }

theorem witness_StreamAndCommandEvents :
    (let s := at0 { ctx with strm := ctx.strm.set 2 (some bound) }
     let fill : M Unit := refill 2 bound
     (s.ctxAt 0 0).strm[(2 : Fin 8)] = some bound ∧ bound.ahead.length < 4 ∧
      bound.popped + bound.ahead.length < bound.strips ∧ M.answers fill (s.asCtx 0 0) () (M.after fill (s.asCtx 0 0))) ∧
    (let s := queues (at0 { ctx with strm := ctx.strm.set 2 (some ashoreBound) })
     (s.ctxAt 0 0).strm[(2 : Fin 8)] = some ashoreBound ∧ ashoreBound.ahead.length < 4 ∧
      ashoreBound.popped + ashoreBound.ahead.length < ashoreBound.strips ∧ (s.asCtx 0 0).performed ∧
      Claims.inDiePad s ashoreBound.ptr (s.ctxAt 0 0).part.toNat 0 1) ∧
    (let b : OpBuf := { ptr := ptr 3 0 1024 0x1010, map := map22, rows := 2 }
     let s := base.updCore 0 fun k => { k with opbuf := some b }
     (s.coreAt 0).opbuf = some b ∧ (s.armed 0 9).isNone = true) ∧
    (let r : Req := { letter {} with load := .matrix {} }
     (posted r id).firstSent (fun q => q.res == .command 2) = some r ∧ Claims.hasRoom (posted r id) r) ∧
    (let c : MCmd := { blk := [3], core := 0 }
     let s := base.updCore 0 fun k => { k.setTile 0 { k.tile 0 with owner := some 0 } with cmds := [c] }
     let work : M Unit := cmdWork c
     (s.coreAt 0).cmds = [c] ∧ c.owner (s.coreAt 0) = some 0 ∧ c.lost = false ∧ c.field 0 4 = 3 ∧
      M.answers work (s.asCtx 0 0) () (M.after work (s.asCtx 0 0))) ∧
    (let s := base.updCore 0 fun k => { k.setTile 0 { k.tile 0 with owner := some 0 } with cmds := [twice] }
     let work : M Unit := cmdWork twice
     (s.coreAt 0).cmds = [twice] ∧ twice.owner (s.coreAt 0) = some 0 ∧ twice.lost = false ∧ twice.field 0 4 ≠ 3 ∧
      twice.finished + 1 < twice.repeats ∧ M.answers work (s.asCtx 0 0) () (M.after work (s.asCtx 0 0))) ∧
    (∀ lost : Bool, let c : MCmd := { lost }
     let s := base.updCore 0 fun k => { k with cmds := [c] }
     (s.coreAt 0).cmds = [c] ∧ (c.owner (s.coreAt 0)).isNone = true) := by
  and_intros <;> first | decide +kernel | exact answers_out (by decide +kernel)

/-- The sheet's one member waits in its SHMMA. -/
def paired : State := joined fun q => { q with run := .waiting { need := .sheet 1 0 4 1 9 (15, 15), phase := .parked } }

/-- The same with its two operands in die 0's pad. -/
def pairedAshore : State := queues (joined fun q => { q with
  p := (q.p.set 1 (ptr 3 0 128 (dieBase 0 + 0x20010))).set 4 (ptr 3 0 128 (dieBase 0 + 0x20010))
  run := .waiting { need := .sheet 1 0 4 1 9 (15, 15), phase := .parked } })

theorem witness_SheetsComplete :
    let s := pairedAshore
    let u := s.asCtx 0 0
    ((s.coreAt 0).member = some 0 ∧ (s.ctxAt 0 0).sheet = some sheetD ∧ sheetM.core = 0 ∧
      s.sheetMembers sheetD (s.ctxAt 0 0).sheetN none 0 = some [sheetM]) ∧
    (shW sheetD = 1 ∧ shH sheetD = 1 ∧ shKs sheetD = false ∧ shInside sheetD 0 = true) ∧
    Claims.sound s 0 ∧ u.performed ∧
    (∀ p ∈ [u.now.p[sheetM.pa], u.now.p[sheetM.pb]], s.malformed p = false ∧ Claims.inDiePad s p u.now.part.toNat 0 1 ∧
      ∀ g ∈ granules (p.key u.now.part.toNat) p.len, s.mem.isPoisoned g = false) := by
  intro s u
  refine ⟨?_, ?_, ?_, ?_, ?_⟩ <;> decide +kernel

theorem witness_SheetEvents :
    let p : Partial := { core := 0, slice := 1, acc := 0 }
    let merge : M Unit := Claims.merged (shC sheetD) p
    let s := (joined id).updClu 0 fun k => { k with partials := [p] }
    ((paired.coreAt 0).member = some 0 ∧ (paired.ctxAt 0 0).sheet = some sheetD ∧
      paired.sheetMembers sheetD (paired.ctxAt 0 0).sheetN none 0 = some [sheetM] ∧
      ∃ t, paired.collective sheetD [sheetM] [sheetM] = .ok t) ∧
    ((s.coreAt 0).member = some 0 ∧ firstPartial 0 (s.cluAt (coreClu 0)).partials = some p ∧
      (s.ctxAt 0 0).sheet = some sheetD ∧ M.answers merge (s.asCtx 0 0) () (M.after merge (s.asCtx 0 0)) ∧
      Claims.sound s 0) := by
  intro p merge s
  and_intros <;> first | exact ok_some (by decide +kernel) | exact answers_out (by decide +kernel) | decide +kernel

/-- A block of one strip of v5 to tile 0, and a block that does nothing, with its link. -/
def strip : List Byte := padTo 16 [9, 9, 1, 5]

def nothing (link : Nat) : List Byte := padTo 8 [0] ++ bytesOf 8 link

/-- Context 0 runs p8's tensor, with a block in the buffer. -/
def running (image : Option (List Byte)) (since : Option Nat) : State :=
  weighty fun q => { suspended q with run := .weights image since }

theorem witness_WeightEvents :
    let work (b : List Byte) : M Unit := successor b (blkLink b)
    let wait : M Unit := slices strip [blkX strip] (waitSlice strip) (pure ())
    let fetch : M Unit := fetchBlock
    Claims.blockEvent 0 0 (nothing 0) (.bnop 0 0) 0 (work (nothing 0)) ∧ blkBop (nothing 0) = 0 ∧
    ((running (some (nothing 0)) none).ctxAt 0 0).run = .weights (some (nothing 0)) none ∧
    M.answers (work (nothing 0)) ((running (some (nothing 0)) none).asCtx 0 0) ()
      (M.after (work (nothing 0)) ((running (some (nothing 0)) none).asCtx 0 0)) ∧
    halts (work (nothing 0x7FFF)) ((running (some (nothing 0x7FFF)) none).asCtx 0 0) = true ∧
    Claims.blockEvent 0 0 strip (.bwait 0 0) 9 wait ∧ blkBop strip = 9 ∧
    M.answers wait ((running (some strip) none).asCtx 0 0) () (M.after wait ((running (some strip) none).asCtx 0 0)) ∧
    ((running none none).ctxAt 0 0).run = .weights none none ∧
    M.answers fetch ((running none none).asCtx 0 0) () (M.after fetch ((running none none).asCtx 0 0)) ∧
    (let s := { running (some strip) (some 0) with ck := 10000 }
     (s.ctxAt 0 0).run = .weights (some strip) (some 0) ∧ (s.ctxAt 0 0).stripBudget < s.ck - 0 ∧
      (s.ctxAt 0 0).ts = false) := by
  refine ⟨.inl ⟨rfl, rfl, rfl⟩, by decide +kernel, by decide +kernel, answers_out (by decide +kernel), by decide +kernel,
    .inr (.inr (.inr (.inr (.inr (.inr (.inr (.inr (.inr ⟨rfl, rfl, rfl⟩)))))))), by decide +kernel,
    answers_out (by decide +kernel), by decide +kernel, answers_out (by decide +kernel), ?_⟩
  and_intros <;> decide +kernel

/-- A BLINK of one link, to the next block. -/
def linked : List Byte := padTo 16 [7, 0, 1]

theorem witness_BlocksComplete :
    let fetches := running none none
    let u := fetches.asCtx 0 0
    let b := fetches.mem.read (0x5010 + 80) (16 + 16 * 0)
    let ends := fetches.mem.read (0x5010 + 80) 16
    (let s := running (some strip) none
     Claims.blockEvent 0 0 strip (.bwait 0 0) 9 (slices strip [blkX strip] (waitSlice strip) (pure ())) ∧
      (s.ctxAt 0 0).run = .weights (some strip) none ∧ blkBop strip = 9 ∧ s.nodes = [] ∧ Claims.sound s 0 ∧
      (s.ctxAt 0 0).wdSlice < blkSlices strip ∧ Claims.tilesFree (s.asCtx 0 0) [blkX strip, blkY strip] ∧
      blkIn strip % 64 < 8) ∧
    (∀ e ∈ [(nothing 0, 0, blkLink (nothing 0)), (linked, 7, if blkRows linked = 0 then 0 else blkLink linked)],
      let s := running (some e.1) none
      (s.ctxAt 0 0).run = .weights (some e.1) none ∧ s.nodes = [] ∧ Claims.sound s 0 ∧ (s.ctxAt 0 0).wdPreg = 8 ∧
      bit (s.ctxAt 0 0).wp.toNat 17 = false ∧ blkBop e.1 = e.2.1 ∧
      Claims.ownObject (s.asCtx 0 0) 8 0x5010 0x5000 head6t ∧
      Claims.nearLink (s.asCtx 0 0) 8 0x5010 e.2.2 ((s.ctxAt 0 0).wdBlk + 16 + 16 * blkPlen e.1) 96) ∧
    (let s := running (some ends) none
     (s.ctxAt 0 0).run = .weights (some ends) none ∧ blkBop ends = 8 ∧ s.nodes = []) ∧
    ((fetches.ctxAt 0 0).run = .weights none none ∧ fetches.nodes = [] ∧ Claims.sound fetches 0 ∧ Claims.bufferFree u ∧
      (fetches.ctxAt 0 0).wdPreg = 8 ∧ (fetches.ctxAt 0 0).wdBlk = 80 ∧ u.now.p[(8 : Fin 16)].runs fetches = true ∧
      blkPlen ends = 0) ∧
    (Claims.ownObject u 8 0x5010 0x5000 head6t ∧ 80 + 16 + 16 * 0 ≤ u.now.p[(8 : Fin 16)].len ∧
      Claims.clean u (0x5010 + 80) (16 + 16 * 0)) ∧
    (crc32c (b.take 12 ++ blkPayload b)).toNat = leAt b 12 4 ∧
    (blkBop b = 8 ∧ blkOk b = true ∧ blkOut b % 64 < 36) := by
  intro fetches u b ends
  refine ⟨⟨.inr (.inr (.inr (.inr (.inr (.inr (.inr (.inr (.inr ⟨rfl, rfl, rfl⟩)))))))), ?_⟩, ?_, ?_, ?_, ?_, ?_, ?_⟩ <;>
    decide +kernel

theorem witness_DecodeOfEncode :
    (Instr.add true 1 2 3).wf = true ∧ (encode (.add true 1 2 3)).isSome = true ∧ Instr.doneCompact.wf = true ∧
    encode .doneCompact = some [0x9800] := by and_intros <;> decide +kernel

/-- A decoder answers i. -/
def reads {α : Type} (i : Instr) (e : Except α Instr) : Bool :=
  match e with
  | .ok j => j == i
  | .error _ => false

theorem reads_ok {α : Type} {i : Instr} {e : Except α Instr} (h : reads i e = true) : e = .ok i := by
  cases e with
  | ok j => rw [eq_of_beq (show (j == i) = true from h)]
  | error a => cases h

/-- A context is not in weight-driven mode. -/
def scalarRun (q : Ctx) : Bool :=
  match q.run with
  | .weights _ _ => false
  | _ => true

/-- It is core 0's turn, and its context 0 comes first. -/
abbrev firstReady (s : State) : Prop :=
  let u := Claims.turnOf s 0 []
  s.sched = [.core 0] ∧ s.sifts = [] ∧ (s.coreAt 0).handler = [] ∧
    (∀ e ∈ s.pending, e.2.isSift = true → s.tick.isDue e = false) ∧ s.tick.coreOn 0 = true ∧
    circular (s.coreAt 0).last = [] ++ (0 : Fin 8) :: [1, 2, 3, 4, 5, 6, 7] ∧ (∀ y, scalarRun (u.ctxAt 0 y) = true) ∧
    (u.ctxAt 0 0).run = .live ∧ (u.ctxAt 0 0).awake u.ck = true ∧ (u.ctxAt 0 0).takesPreempt 0 = false ∧
    u.takesTimer 0 0 = false

theorem comes_to_issue (s : State) (h : firstReady s) : Claims.comesToIssue s 0 [] 0 [] [1, 2, 3, 4, 5, 6, 7] := by
  obtain ⟨h1, h2, h3, h4, h5, h6, h7, h8⟩ := h
  refine ⟨h1, h2, h3, h4, h5, h6, fun y hy => absurd hy List.not_mem_nil, fun y img since e => ?_, h8⟩
  have := h7 y
  rw [scalarRun, e] at this
  cases this

/-- It is core 0's turn, with the word w at its context 0's PC. -/
def atTurn (s : State) (bits w : Nat) : State := { s with sched := [.core 0] }.withFetchWord bits w

/-- A unit at the PC has no error, and its step answers with a state that keeps p. -/
def runsOk (s : State) (i : Instr) (p : State → Bool) : Prop :=
  let f := Claims.issuer s 0 [] 0 i
  let pc := f.now.pc.toNat
  let ps := f.parcels 0 pc
  pc % 2 = 0 ∧ pc < 65536 ∧ decode ps = .ok i ∧
    (∀ g ∈ granules (routineBase 0 + pc) (fetchSize ps), f.mem.isPoisoned g = false) ∧
    ∃ t, exec i (f.fetched i.size) = .next t ∧ p t = true

theorem witness_StepRunsDecoded :
    (∀ s ∈ [atTurn base 16 0x11C1, atTurn base 16 0x9900],
      Claims.comesToIssue s 0 [] 0 [] [1, 2, 3, 4, 5, 6, 7]) ∧
    runsOk (atTurn base 16 0x11C1) (.moviCompact 7 1)
      (fun t => t.now.w[(7 : Fin 24)] == 1 && (t.ctxAt 0 0).blocked == none) ∧
    runsOk (atTurn base 16 0x9900) .wfeCompact (fun t => (t.ctxAt 0 0).blocked != none && (t.coreAt 0).handler == []) ∧
    (let v := { base with sched := [.input], inputs := [.clockHandshake] }
     v.sched = .input :: [] ∧ v.inputs = .clockHandshake :: [] ∧
      ∀ e ∈ v.pending, e.2.isSift = true → v.tick.isDue e = false) ∧
    (base.sched = [] ∧ (∀ e ∈ base.pending, e.2.isSift = true → base.tick.isDue e = false) ∧
      base.tick.defaultTurn.isSome = true) ∧
    (let v := { base with pending := [(0, siftDue 0)] }
     (v.pending.findIdx? fun e => e.2.isSift && v.tick.isDue e) = some 0) := by
  refine ⟨fun s hs => ?_, ?_, ?_, ?_, ?_, ?_⟩
  · rcases List.mem_cons.1 hs with rfl | h
    · exact comes_to_issue _ (by decide +kernel)
    · rw [List.mem_singleton.1 h]
      exact comes_to_issue _ (by decide +kernel)
  iterate 2
    exact ⟨by decide +kernel, by decide +kernel, reads_ok (by decide +kernel), by decide +kernel,
      next_of (by decide +kernel)⟩
  all_goals decide +kernel

/-- A decoder answers no instruction. -/
def refuses {α : Type} (e : Except α Instr) : Bool :=
  match e with
  | .ok _ => false
  | .error _ => true

theorem refuses_all {α : Type} {e : Except α Instr} (h : refuses e = true) : ∀ i, e ≠ .ok i := by
  rintro i rfl
  cases h

/-- Context 0 of core 0 is at pc, and the word w stands at 0. -/
def fetching (pc : DWord) (w : Nat) : State :=
  (atTurn base 32 w).updCtx 0 0 fun q => { q with pc }

theorem witness_IllegalUnits :
    (encode (.csrr 1 0x3FF) ≠ none ∧ (base.ctx = 7 → base.now.hbudget ≠ 0) ∧
      base.now.accepts (.csrr 1 0x3FF) = false) ∧
    (let s : State := { handler with cores := [] }
     s.ctx = 7 ∧ s.now.hbudget = 0 ∧ s.acqWaits s.core s.ctx = false ∧ s.ownsSift s.core s.ctx = false) ∧
    base.attempts := by and_intros <;> decide +kernel

theorem witness_BadFetches :
    let lost := (fetching 0 0x11C1).updMem fun m => { m with poison := [routineBase 0 / 16] }
    let f := fun s => Claims.issuer s 0 [] 0 .doneCompact
    (∀ s ∈ [fetching 65536 0, fetching 9 0, fetching 0 0xFFFFFFFF, lost],
      Claims.comesToIssue s 0 [] 0 [] [1, 2, 3, 4, 5, 6, 7] ∧ (f s).nowCore.flips = [] ∧ (f s).vectors) ∧
    (f (fetching 65536 0)).now.pc.toNat = 65536 ∧
    ((f (fetching 9 0)).now.pc.toNat = 9 ∧ (f (fetching 9 0)).now.windowOk = true) ∧
    (let u := f (fetching 0 0xFFFFFFFF)
     u.now.pc.toNat = 0 ∧ (∀ i, decode (u.parcels 0 0) ≠ .ok i) ∧
      ∀ g ∈ granules (routineBase 0 + 0) (fetchSize (u.parcels 0 0)), u.mem.isPoisoned g = false) ∧
    (let u := f lost
     u.now.pc.toNat = 0 ∧ routineBase 0 ∈ granules (routineBase 0 + 0) (fetchSize (u.parcels 0 0)) ∧
      u.mem.isPoisoned (routineBase 0) = true ∧
      (((u.keepLogs 0 u).rollback 0 0 cECC 0 1).ctxAt 0 0).blocked.isNone = true) := by
  intro lost f
  refine ⟨fun s hs => ⟨comes_to_issue s ?_, ?_⟩, by decide +kernel, by decide +kernel,
    ⟨by decide +kernel, refuses_all (by decide +kernel), by decide +kernel⟩, by decide +kernel⟩
  · exact (show ∀ s ∈ [fetching 65536 0, fetching 9 0, fetching 0 0xFFFFFFFF, lost],
      firstReady s by decide +kernel) s hs
  · exact (show ∀ s ∈ [fetching 65536 0, fetching 9 0, fetching 0 0xFFFFFFFF, lost],
      (f s).nowCore.flips = [] ∧ (f s).vectors by decide +kernel) s hs

theorem witness_MemoryStaysCanonical :
    base.mem.wf ∧ ∃ t, step base = .next t ∧ (decide (t.ck = 1)) = true := by
  exact ⟨by decide +kernel, next_of (by decide +kernel)⟩

/-- An instruction of each frame. -/
def framed : List Instr :=
  [.add true 1 2 3, .beq 2 3 0, .vadd ⟨0, none⟩ 1 2 3, .mset 1 5, .vext ⟨0, none⟩ 1 2 3, .mpop 1 2,
    .vcmp ⟨0, none⟩ 1 2 3 0, .vdq ⟨0, some ⟨0, 0, 9⟩⟩ 2 4]

theorem scalar_member : Claims.scalarRegister (.add true 1 2 3) 1 :=
  ⟨true, 1, 2, 3, 0, 0, 0, 0, 0, 0, 0, 0, 0, 0, .inl ⟨rfl, .inl (by decide)⟩⟩

theorem branch_member : Claims.branches (.beq 2 3 0) :=
  ⟨2, 3, 0, 0, 0, .inl (by decide)⟩

theorem vector_member : Claims.vectorRegister (.vadd ⟨0, none⟩ 1 2 3) 1 :=
  ⟨⟨0, none⟩, 1, 2, 3, 0, 0, 0, 0, .inl ⟨rfl, .inl (by decide)⟩⟩

theorem mask_member : Claims.maskRegister (.mset 1 5) 1 := ⟨1, 1, 0, 5, .inr (by decide)⟩

theorem extract_member : Claims.scalarFromLanes (.vext ⟨0, none⟩ 1 2 3) 1 := ⟨⟨0, none⟩, 1, 2, 3, 0, rfl, .inl rfl⟩

theorem mask_scalar_member : Claims.scalarFromLanes (.mpop 1 2) 1 :=
  ⟨⟨0, none⟩, 1, 0, 0, 2, rfl, .inr (by decide)⟩

theorem witness_Frames :
    base.now.run = .live ∧ ∀ i ∈ framed,
      ∃ t, exec i base = .next t ∧ decide (t.now.run ≠ .free) = true := by
  have h : ∀ i ∈ framed,
      nextWith (fun t => decide (t.now.run ≠ .free)) (exec i base) = true := by decide +kernel
  exact ⟨by decide +kernel, fun i hi => next_of (h i hi)⟩

/-! ## A word of each instruction, written out from the fields of the opcode table -/

theorem test_words0 : ∀ e ∈ ([
    (32, 0x44CC007, .add false 7 12 17),
    (32, 0x1285C040, .sub true 0 5 10),
    (32, 0x2389C044, .mul true 4 9 14),
    (32, 0x3181C064, .mulh true 36 1 6),
    (32, 0x4127C062, .mulhn true 34 39 4),
    (32, 0x50E6C021, .div false 33 38 3),
    (32, 0x6064C01F, .divn false 31 36 1),
    (32, 0x7127C062, .rem true 34 39 4),
    (32, 0x80A5C060, .remn true 32 37 2),
    (32, 0x96D6C011, .and false 17 22 27),
    (32, 0xA44CC007, .or false 7 12 17),
    (32, 0xB654C00F, .xor false 15 20 25),
    (32, 0xC1C2C025, .shl false 37 2 7),
    (32, 0xD348C003, .shr false 3 8 13),
    (32, 0xE181C064, .sar true 36 1 6),
    (32, 0xF348C003, .rol false 3 8 13),
    (32, 0x4C127, .clz false 39 4),
    (32, 0x100CC107, .ctz false 7 12),
    (32, 0x2025C160, .popc true 32 37)] : List (Nat × Nat × Instr)),
    decodeTableWord e.1 e.2.1 = some e.2.2 := by decide +kernel

theorem test_words1 : ∀ e ∈ ([
    (32, 0x3019C154, .abs true 20 25),
    (32, 0x4127C162, .min true 34 39 4),
    (32, 0x50A5C160, .minn true 32 37 2),
    (32, 0x6181C164, .max true 36 1 6),
    (32, 0x7127C162, .maxn true 34 39 4),
    (32, 0x8244C127, .seq false 39 4 9),
    (32, 0x9181C164, .sne true 36 1 6),
    (32, 0xA4CEC109, .slt false 9 14 19),
    (32, 0xB064C11F, .slb false 31 36 1),
    (32, 0x9244C262, .sel true 34 9 4 9),
    (32, 0xE405C340, .addi true 0 5 912),
    (32, 0xF58FC44A, .andi true 10 15 982),
    (32, 0x9E05C540, .ori true 0 5 632),
    (32, 0x380DC648, .xori true 8 13 224),
    (32, 0x8A3C75E, .shli true 30 35 34),
    (32, 0x1301C764, .shri true 36 1 12),
    (32, 0x26E2C71D, .sari false 29 34 27),
    (32, 0x229C864, .movi 36 2213),
    (32, 0xA9DC99C, .movhi 28 2717 2)] : List (Nat × Nat × Instr)),
    decodeTableWord e.1 e.2.1 = some e.2.2 := by decide +kernel

theorem test_words2 : ∀ e ∈ ([
    (32, 0x2B5ECAD9, .bfx 25 30 45 50),
    (32, 0x910FCB0A, .bfi 10 15 4 9),
    (32, 0x7D56D011, .beq 17 22 501),
    (32, 0x7813D04E, .bne 14 19 480),
    (32, 0x8EE0D09B, .blt 27 32 571),
    (32, 0x6BCCD0C7, .bge 7 12 431),
    (32, 0x861BD116, .blo 22 27 536),
    (32, 0x861BD156, .bhs 22 27 536),
    (32, 0x1300D1A5, .bz 37 76),
    (32, 0x9B80D1E3, .bnz 35 622),
    (32, 0x1D2D1, .b 465),
    (32, 0x2D309, .j 521),
    (32, 0x7D4C7, .call 1991),
    (32, 0x89ED523, .loop 35 2206),
    (32, 0xA9DD698, .loopi 152 2717),
    (32, 0x6DA38, .sig 1592),
    (32, 0xD800, .done),
    (32, 0x40D800, .yield),
    (32, 0x80D800, .wfe)] : List (Nat × Nat × Instr)),
    decodeTableWord e.1 e.2.1 = some e.2.2 := by decide +kernel

theorem test_words3 : ∀ e ∈ ([
    (32, 0xC0D800, .sev),
    (32, 0x118D81C, .brk 1564),
    (32, 0x163D811, .sysc 2257),
    (32, 0x180D800, .eret),
    (32, 0x1C0D825, .jr 37),
    (32, 0x200D807, .callr 7),
    (32, 0x240D800, .ret),
    (32, 0x280D80B, .clen 11),
    (32, 0x2C0D808, .cldis 8),
    (32, 0x327D804, .clpend 39 4),
    (32, 0x340D81F, .savew 31),
    (32, 0x380D810, .loadw 16),
    (32, 0x3DED823, .ctxrd 30 35),
    (32, 0x40ED809, .ctxwr 9 14),
    (32, 0x444D83A, .fence 2 7 4),
    (32, 0x480D826, .linkc 2),
    (32, 0x4C0D827, .linkf 3),
    (32, 0x500D805, .gbar 5),
    (32, 0x540D815, .gwait 21)] : List (Nat × Nat × Instr)),
    decodeTableWord e.1 e.2.1 = some e.2.2 := by decide +kernel

theorem test_words4 : ∀ e ∈ ([
    (32, 0x580D81F, .sift 31),
    (32, 0x5C0D800, .launch 0),
    (32, 0x600D817, .cancel 23),
    (32, 0x646D800, .xinv 6),
    (32, 0x680D808, .trace 8),
    (32, 0x6C0D800, .ctrsnap 0),
    (32, 0x89ED923, .csrr 35 2206),
    (32, 0x8C1D940, .csrw 0 2241),
    (32, 0xCD4D99D, .csrset 29 3284),
    (32, 0xC87D9D2, .csrclr 18 3207),
    (32, 0x8E3AE099, .ld 25 false true 2 7 12 17),
    (32, 0x96C3E160, .ldw 32 true false 3 8 13 18),
    (32, 0x30E3E24C, .ldc 12 true false 3 12 1 6),
    (32, 0x96C3E348, .st 8 true false 3 8 13 18),
    (32, 0xE391E466, .stf 38 true false 1 2 7 28),
    (32, 0x27D2E544, .feget 4 true 10 15 4),
    (32, 0xEC1EE550, .feset 16 true false 3 8 29),
    (32, 0xB968E603, .pld 3 false 13 2 23),
    (32, 0xC1F4E644, .pst 4 true 14 3 24)] : List (Nat × Nat × Instr)),
    decodeTableWord e.1 e.2.1 = some e.2.2 := by decide +kernel

theorem test_words5 : ∀ e ∈ ([
    (32, 0x605E7E9, .new 9 14 5 24),
    (32, 0x1205E7E9, .newp 9 14 5 8),
    (32, 0x30E7E81F, .vld 31 false 7 12 1 6),
    (32, 0x3968E966, .vldw 38 true 0 13 2 7),
    (32, 0xDB0CEA52, .vldc 18 true 4 1 6 27),
    (32, 0x3968EB4E, .vst 14 true 0 13 2 7),
    (32, 0x8E3AEC44, .vstf 4 true 2 7 12 17),
    (32, 0x6C1EED13, .vgath 19 6 3 8 13),
    (32, 0xF4A7ED9A, .vscat 26 7 4 9 30),
    (32, 0xCEE72, .padd 2 7 12),
    (32, 0x1244EE72, .pnarrow 2 7 4 9),
    (32, 0x2080EE50, .pview 0 5 2),
    (32, 0x3240EE4F, .pperm 15 4 9),
    (32, 0x4018EE10, .plen 24 1),
    (32, 0x5019EED8, .pcmp 25 8 13),
    (32, 0x6000EE61, .pmov 1 6),
    (32, 0x7000EE08, .touch 8),
    (32, 0x80C0EE06, .acq 6 3),
    (32, 0x9140EE08, .rel 8 5)] : List (Nat × Nat × Instr)),
    decodeTableWord e.1 e.2.1 = some e.2.2 := by decide +kernel

theorem test_words6 : ∀ e ∈ ([
    (32, 0x5D2F00D, .vadd ⟨0, none⟩ 13 18 23),
    (32, 0x140BF0C6, .vsub ⟨3, none⟩ 6 11 16),
    (32, 0x250FF0CA, .vmul ⟨3, none⟩ 10 15 20),
    (32, 0x389DF058, .vfma ⟨1, none⟩ 24 29 34),
    (32, 0x4307F0C2, .vfms ⟨3, none⟩ 2 7 12),
    (32, 0x5285F040, .vmin ⟨1, none⟩ 0 5 10),
    (32, 0x6307F0C2, .vmax ⟨3, none⟩ 2 7 12),
    (32, 0x76D6F011, .vclamp ⟨0, none⟩ 17 22 27),
    (32, 0x885CF097, .vand ⟨2, none⟩ 23 28 33),
    (32, 0x95D2F00D, .vor ⟨0, none⟩ 13 18 23),
    (32, 0xA7DAF015, .vxor ⟨0, none⟩ 21 26 31),
    (32, 0xB348F083, .vshl ⟨2, none⟩ 3 8 13),
    (32, 0xC4CEF009, .vshr ⟨0, none⟩ 9 14 19),
    (32, 0xD307F0C2, .vsar ⟨3, none⟩ 2 7 12),
    (32, 0xE348F083, .vdot ⟨2, none⟩ 3 8 13),
    (32, 0xF285F040, .vperm ⟨1, none⟩ 0 5 10),
    (32, 0x1FF1DA, .vabs ⟨3, none⟩ 26 31),
    (32, 0x1023F1DE, .vneg ⟨3, none⟩ 30 35),
    (32, 0x2006F101, .vrcp ⟨0, none⟩ 1 6)] : List (Nat × Nat × Instr)),
    decodeTableWord e.1 e.2.1 = some e.2.2 := by decide +kernel

theorem test_words7 : ∀ e ∈ ([
    (32, 0x3017F1D2, .vrsq ⟨3, none⟩ 18 23),
    (32, 0x4018F193, .vexp2 ⟨2, none⟩ 19 24),
    (32, 0x500DF148, .vlog2 ⟨1, none⟩ 8 13),
    (32, 0x6013F1CE, .vmov ⟨3, none⟩ 14 19),
    (32, 0x7000F121, .viota ⟨0, none⟩ 33),
    (32, 0x8016F111, .vbcast ⟨0, none⟩ 17 22),
    (32, 0x948BF1C6, .vins ⟨3, none⟩ 6 11 18),
    (32, 0xA0D2F10D, .vext ⟨0, none⟩ 13 18 3),
    (32, 0xB181F14A, .vcmp ⟨1, none⟩ 2 1 6 1),
    (32, 0xC285F140, .vsel ⟨1, none⟩ 0 5 10),
    (32, 0xDA64F19F, .vred ⟨2, none⟩ 31 36 41),
    (32, 0xEBDEF119, .vscan ⟨0, none⟩ 25 30 47),
    (32, 0x9CEF209, .vcvt ⟨0, none⟩ 9 14 39),
    (32, 0x1014F28F, .vqnt ⟨2, none⟩ 15 20),
    (32, 0x2006F201, .vdq ⟨0, none⟩ 1 6),
    (32, 0x140F303, .mand 3 0 5),
    (32, 0x11C2F305, .mor 5 2 7),
    (32, 0x21C2F305, .mxor 5 2 7),
    (32, 0x3002F305, .mnot 5 2)] : List (Nat × Nat × Instr)),
    decodeTableWord e.1 e.2.1 = some e.2.2 := by decide +kernel

theorem test_words8 : ∀ e ∈ ([
    (32, 0x4003F31E, .many 30 3),
    (32, 0x5002F30F, .mall 15 2),
    (32, 0x6004F325, .mpop 37 4),
    (32, 0x7003F31E, .mfirst 30 3),
    (32, 0x801FF302, .mfrom 2 31),
    (32, 0x9000F301, .mto 1 0),
    (32, 0x897F402, .mset 2 2199),
    (32, 0x267AF514, .mma 0 5 2 15 4 9),
    (32, 0x3D28F56E, .mmaz 2 11 0 5 2 15),
    (32, 0x38A7F5A9, .mcks 1 10 7 4 1 14),
    (32, 0x18E7F5C9, .shmma 1 2 7 12 1 6),
    (32, 0xCF601, .mchk 12 1),
    (32, 0x1022F603, .mfix 3 34),
    (32, 0x20C0F638, .mld 14 3),
    (32, 0x3000F613, .maccld 3 4),
    (32, 0x4000F601, .maccst 0 1),
    (32, 0x5000F602, .mzero 2),
    (32, 0x6000F600, .mtr 0),
    (32, 0x700AF63C, .mcmd 10 15)] : List (Nat × Nat × Instr)),
    decodeTableWord e.1 e.2.1 = some e.2.2 := by decide +kernel

theorem test_words9 : ∀ e ∈ ([
    (32, 0x8180F60C, .tmset 6 3),
    (32, 0x91C0F628, .tmget 10 7),
    (32, 0xF783, .wdrun 3 8),
    (32, 0x1000F700, .wdres),
    (32, 0x2025F700, .wdq 37),
    (32, 0xD8F813, .send 19 24 3),
    (32, 0x8C1EF859, .sendv 25 30 35),
    (32, 0x325F880, .reply 37 12),
    (32, 0x2D0F8CB, .sendh 11 16 11),
    (32, 0x2940F924, .copy 36 5 10),
    (32, 0x2F965, .copyq 37 2),
    (32, 0x3F980, .copyw 3),
    (32, 0xF9C0, .quiesce),
    (32, 0x1487FA00, .strm 5 2 7),
    (32, 0x3400FA00, .strmx 5),
    (32, 0x4200FA21, .rise 8 33),
    (32, 0x6240FA00, .risew 9 0),
    (32, 0x8000FA01, .hatch 1),
    (32, 0xA000FA14, .shjoin 20)] : List (Nat × Nat × Instr)),
    decodeTableWord e.1 e.2.1 = some e.2.2 := by decide +kernel

theorem test_words10 : ∀ e ∈ ([
    (32, 0xC000FA00, .shleave),
    (32, 0x70A1FB0D, .amoadd 13 2 33 12 1),
    (32, 0xDB17FB37, .amofadd 23 12 23 6 3),
    (32, 0xA7D4FB4A, .amomin 10 15 20 9 2),
    (32, 0x1F56FB78, .amomax 24 13 22 7 0),
    (32, 0xE42FB84, .amoswp 4 9 2 3 0),
    (32, 0xF907FBAF, .amocas 15 4 7 14 3),
    (32, 0xA7C4FC1A, .amologAnd 26 15 4 9 2),
    (32, 0x2C62FC3C, .amologOr 28 1 34 11 0),
    (32, 0xE42FC44, .amologXor 4 9 2 3 0),
    (16, 0xAD0, .addiCompact 11 16),
    (16, 0x12AF, .moviCompact 10 47),
    (16, 0x1F62, .shliCompact 29 34),
    (16, 0x21CC, .shriCompact 7 12),
    (16, 0x2D9B, .sariCompact 22 27),
    (16, 0x3322, .addCompact 12 17),
    (16, 0x3CF0, .subCompact 19 24),
    (16, 0x44AE, .andCompact 18 23),
    (16, 0x4D32, .orCompact 20 25)] : List (Nat × Nat × Instr)),
    decodeTableWord e.1 e.2.1 = some e.2.2 := by decide +kernel

theorem test_words11 : ∀ e ∈ ([
    (16, 0x5702, .xorCompact 28 1),
    (16, 0x5996, .addMoveCompact 6 11),
    (16, 0x6456, .bzCompact 17 22),
    (16, 0x6CF8, .bnzCompact 19 56),
    (16, 0x729B, .bCompact 667),
    (16, 0x7873, .ldS64Compact 1 6 3),
    (16, 0x80BC, .stS64Compact 2 7 4),
    (16, 0x8F98, .ldS32Compact 30 3 0),
    (16, 0x97E1, .stS32Compact 31 4 1),
    (16, 0x9800, .doneCompact),
    (16, 0x9840, .yieldCompact),
    (16, 0x9880, .retCompact),
    (16, 0x98CB, .jrCompact 11),
    (16, 0x9900, .wfeCompact),
    (16, 0x9940, .sevCompact),
    (16, 0x9995, .callrCompact 21),
    (16, 0xA322, .vaddF32Compact 12 17),
    (16, 0xABE8, .vmulF32Compact 15 20)] : List (Nat × Nat × Instr)),
    decodeTableWord e.1 e.2.1 = some e.2.2 := by decide +kernel

/-! ## Well-formedness: one ill-formed instruction for each check -/

theorem test_wf_shift : (Instr.shli true 1 2 32).wf = false ∧ (Instr.shli false 1 2 32).wf = true := by decide
theorem test_wf_field : (Instr.bfx 1 2 63 1).wf = false ∧ (Instr.bfi 1 2 1 63).wf = false := by decide
theorem test_wf_target : (Instr.j 32768).wf = false ∧ (Instr.call 32767).wf = true := by decide
theorem test_wf_len : (Instr.loop 1 0).wf = false ∧ (Instr.loopi 1 0).wf = false := by decide
theorem test_wf_fence : (Instr.fence 0 1 0).wf = false ∧ (Instr.fence 1 0 0).wf = false ∧
  (Instr.fence 1 1 5).wf = false := by
  decide
theorem test_wf_scope : (Instr.acq 1 5).wf = false ∧ (Instr.rel 1 5).wf = false := by decide
theorem test_wf_csr : (Instr.csrr 1 0x3FF).wf = false ∧ (Instr.csrw 1 0x001).wf = false ∧
  (Instr.csrw 1 0x3FF).wf = false := by
  decide
theorem test_wf_order : (Instr.ld 1 false false 2 10 1 0).wf = false ∧ (Instr.st 1 false false 2 5 1 0).wf = false ∧
    (Instr.feget 1 false 5 1 0).wf = false ∧ (Instr.amoadd 1 1 2 15 0).wf = false := by decide
theorem test_wf_amofadd : (Instr.amofadd 1 1 2 0 2).wf = false := by decide
theorem test_wf_kind : (Instr.new 1 7 2 0).wf = false ∧ (Instr.newp 1 8 2 0).wf = true := by decide
theorem test_wf_type : (Instr.vadd ⟨0, some ⟨0, 5, 9⟩⟩ 1 2 3).wf = false ∧
  (Instr.vadd ⟨1, some ⟨0, 0, 9⟩⟩ 1 2 3).wf = false ∧
    (Instr.vadd ⟨0, some ⟨0, 0, 12⟩⟩ 1 2 3).wf = false ∧ (Instr.vadd ⟨2, some ⟨0, 1, 15⟩⟩ 1 2 3).wf = false ∧
    (Instr.vand ⟨0, none⟩ 1 2 3).wf = false ∧ (Instr.vrcp ⟨2, none⟩ 1 2).wf = false ∧
    (Instr.viota ⟨0, some ⟨0, 0, 0⟩⟩ 1).wf = false ∧ (Instr.vmov ⟨0, some ⟨0, 1, 9⟩⟩ 1 2).wf = false := by decide
theorem test_wf_lane : (Instr.vext ⟨1, none⟩ 1 2 8).wf = false ∧ (Instr.vins ⟨0, none⟩ 1 2 16).wf = false := by decide
theorem test_wf_mask : (Instr.mset 0 1).wf = false ∧ (Instr.vcmp ⟨0, none⟩ 0 1 2 0).wf = false ∧
    (Instr.vcmp ⟨0, none⟩ 1 1 2 6).wf = false := by decide
theorem test_wf_reduce : (Instr.vred ⟨0, none⟩ 1 2 3).wf = false ∧ (Instr.vscan ⟨2, none⟩ 1 2 6).wf = false := by decide
theorem test_wf_convert : (Instr.vcvt ⟨0, none⟩ 1 2 15).wf = false := by decide
theorem test_wf_pair : (Instr.vqnt ⟨0, some ⟨0, 0, 14⟩⟩ 1 3).wf = false ∧
  (Instr.vdq ⟨0, some ⟨1, 0, 9⟩⟩ 2 1).wf = false ∧
    (Instr.vqnt ⟨0, none⟩ 1 2).wf = false ∧ (Instr.vdq ⟨2, none⟩ 2 1).wf = false := by decide
theorem test_wf_matrix : (Instr.mma 1 1 0 2 0 8).wf = false ∧ (Instr.mma 1 1 0 2 0 7).wf = false ∧
    (Instr.mcks 0 1 0 2 0 8).wf = false ∧ (Instr.shmma 0 1 0 2 0 8).wf = false := by decide
theorem test_wf_cancel : (Instr.cancel 32).wf = false := by decide

/-! ## Words of the spec that are not of the table's form -/

/-- R27: reserved XP codes, XP before a scalar unit, and an XP parcel alone are refused. -/
theorem test_decode_refuses : reads .doneCompact (decodeBytes []) = false ∧
    (decodeTableWord 32 0xFFFFFFFF).isNone = true ∧ (decodeTableWord 16 0xBFFF).isNone = true ∧
    (decodeTableWord 16 0x9801).isNone = true := by decide +kernel

/-! ## Values that the spec works out -/

/-- R117: the codes that 05 gives as examples: 1.0, 1.5, 2.0, 0.968_75, 192 and -1.0, as FP32 codes. -/
theorem test_t8_codes : ([0x40, 0x48, 0x50, 0x3F, 0x7B, 0xC0].map fun c => (round32 (decodeT8 c)).1) =
    [0x3F800000, 0x3FC00000, 0x40000000, 0x3F780000, 0x43400000, 0xBF800000] := by decide +kernel

/-- R130: the group sum of 05's example, 2^24 + 7, becomes 2^24 + 8 and sets NX. -/
theorem test_group_sum : addGroup false 0 (.replicate 8 (.ofInt 1)) (.ofInt (2 ^ 24) :: .replicate 7 (.ofInt 1)) =
    (0x4B800004, flagNX) := by decide +kernel

/-- R242-R244: chunk 0 of the worked coding. -/
theorem test_dictionary : packChunk (dictBits {} ([0, 0x3F800000, 0x3F800000, 0x3F800012, 0x40000000, 0] ++
    .replicate 10 0x40000000)) = [0x0C, 0x00, 0x00, 0xF8, 0x13, 0x08, 0x12, 0x03, 0x00, 0x00, 0x00, 0x51, 0x14, 0x45, 0x51,
      0x14, 0x45, 0x51, 0x14] := by decide +kernel

/-- R242-R244: the other scheme needs 294 bits, and the stream is 34 bytes. -/
theorem test_stream :
    (patternBits 0 ([0, 0x3F800000, 0x3F800000, 0x3F800012, 0x40000000, 0] ++ .replicate 10 0x40000000)).length = 294 ∧
    (streamOf (chunksOf false ([0, 0x3F800000, 0x3F800000, 0x3F800012, 0x40000000, 0] ++ .replicate 10 0x40000000 ++
      .replicate 48 0))).length = 34 := by decide +kernel

/-! ## Single steps -/

/-- What a step leaves in a register of context 0 of core 0. -/
def stepW (s : State) (j : Fin 24) : Option Nat :=
  match step s with
  | .next t => some (t.ctxAt 0 0).w[j].toNat
  | _ => none

/-- The first step after reset runs the word placed for it: MOVI w7, 1 (10, R236). -/
theorem test_step_movi : stepW (State.reset.withFetchWord 16 0x11C1) 7 = some 1 := by decide +kernel

/-- R72: MOVHI w5, 0x0040, 1 onto zero gives 0x0040_0000 (04). -/
theorem test_step_movhi : stepW (State.reset.withFetchWord 32 0x0040C945) 5 = some 0x00400000 := by decide +kernel

/-- R66, R68: a 32-bit sum is sign-extended. -/
theorem test_step_add : stepW ((at0 { ctx with w := ctx.w.set 1 0x7FFFFFFF }).withFetchWord 32 0x0081C041) 1 =
    some 0xFFFFFFFF80000001 := by decide +kernel

/-- R68: a division by zero gives all ones. -/
theorem test_step_div : stepW (base.withFetchWord 32 0x5003C001) 1 = some 0xFFFFFFFFFFFFFFFF := by decide +kernel

/-- R187: LD.s32 w2, [p1] reads p1's first word. -/
theorem test_step_load : stepW (base.withFetchWord 32 0x00A2E002) 2 = some 7 := by decide +kernel

/-- R45: a CSR that does not exist raises ILLEGAL in context 0. -/
theorem test_step_illegal : (match step (base.withFetchWord 32 0x03FFD901) with
    | .next t => ((t.ctxAt 0 0).trapcause.toNat, (t.ctxAt 0 0).ts)
    | _ => (0, false)) = (cILLEGAL, true) := by decide +kernel

end Sys2Proof.Tests
end

section
/-! SUPPORT. What work keeps, whether it answers or stops: a rule names a relation from the state before the work to
the state after it, and the ways in which the work may stop. -/

namespace Sys2Proof.Machine

variable {α β γ : Type} {s t u : State}

/-- A relation that holds from the state before some work to the state after it, and the ways in which that work may
stop. -/
structure Rule where
  rel : State → State → Prop
  stops : Stop → Prop
  refl : ∀ s, rel s s
  trans : ∀ {s t u}, rel s t → rel t u → rel s u

/-- Started in s, the work keeps the rule. -/
def M.KeepsAt (r : Rule) (m : M α) (s : State) : Prop :=
  match m s with
  | .ok _ t => r.rel s t
  | .error e t => r.stops e ∧ r.rel s t

/-- The work keeps the rule wherever it starts. -/
structure M.Keeps (r : Rule) (m : M α) : Prop where
  from_ : ∀ s, M.KeepsAt r m s

variable {r : Rule} {m : M α} {f : α → M β}

protected theorem M.KeepsAt.of_ok {a : α} (h : m s = .ok a t) (hr : r.rel s t) : M.KeepsAt r m s := by
  simpa [M.KeepsAt, h] using hr

protected theorem M.KeepsAt.of_error {e : Stop} (h : m s = .error e t) (he : r.stops e) (hr : r.rel s t) :
    M.KeepsAt r m s := by
  simpa [M.KeepsAt, h] using ⟨he, hr⟩

protected theorem M.KeepsAt.ok {a : α} (hm : M.KeepsAt r m s) (h : m s = .ok a t) : r.rel s t := by
  simpa [M.KeepsAt, h] using hm

protected theorem M.KeepsAt.error {e : Stop} (hm : M.KeepsAt r m s) (h : m s = .error e t) : r.stops e ∧ r.rel s t := by
  simpa [M.KeepsAt, h] using hm

/-- Work that goes as other work does from a later state. -/
theorem M.KeepsAt.resume {m' : M α} (h : m s = m' t) (hs : r.rel s t) (hm : M.KeepsAt r m' t) : M.KeepsAt r m s := by
  cases hu : m' t with
  | ok a u => exact .of_ok (h.trans hu) (r.trans hs (hm.ok hu))
  | error e u =>
    obtain ⟨he, ht⟩ := hm.error hu
    exact .of_error (h.trans hu) he (r.trans hs ht)

protected theorem M.KeepsAt.bind (hm : M.KeepsAt r m s) (hf : ∀ a t, m s = .ok a t → M.KeepsAt r (f a) t) :
    M.KeepsAt r (m >>= f) s := by
  cases h : m s with
  | error e t =>
    obtain ⟨he, hr⟩ := hm.error h
    exact .of_error (by simp [h]) he hr
  | ok a t =>
    have ht := hm.ok h
    have hft := hf a t h
    cases h' : f a t with
    | ok b u => exact .of_ok (a := b) (by simp [h, h']) (r.trans ht (hft.ok h'))
    | error e u =>
      obtain ⟨he, hu⟩ := hft.error h'
      exact .of_error (by simp [h, h']) he (r.trans ht hu)

protected theorem M.Keeps.bind (hm : M.Keeps r m) (hf : ∀ a, M.Keeps r (f a)) : M.Keeps r (m >>= f) :=
  ⟨fun s => (hm.from_ s).bind fun a t _ => (hf a).from_ t⟩

protected theorem M.Keeps.pure (a : α) : M.Keeps r (pure a : M α) := ⟨fun s => .of_ok (M.pure_run a) (r.refl s)⟩

protected theorem M.Keeps.get : M.Keeps r (get : M State) := ⟨fun s => .of_ok M.get_run (r.refl s)⟩

protected theorem M.Keeps.me : M.Keeps r me := ⟨fun s => .of_ok M.me_run (r.refl s)⟩

/-- Work that looks at the state it starts in. -/
protected theorem M.Keeps.get_bind {f : State → M β} (hf : ∀ s, M.KeepsAt r (f s) s) : M.Keeps r (get >>= f) :=
  ⟨fun s => (M.Keeps.get.from_ s).bind fun a t h => by
    cases M.get_run.symm.trans h
    exact hf s⟩

protected theorem M.Keeps.modify {g : State → State} (h : ∀ s, r.rel s (g s)) : M.Keeps r (modify g : M PUnit) :=
  ⟨fun s => .of_ok (M.modify_run g) (h s)⟩

protected theorem M.KeepsAt.set (h : r.rel s t) : M.KeepsAt r (set t : M PUnit) s := .of_ok (M.set_run t) h

protected theorem M.Keeps.throw {e : Stop} (h : r.stops e) : M.Keeps r (throw e : M α) :=
  ⟨fun s => .of_error (M.throw_run e) h (r.refl s)⟩

protected theorem M.Keeps.ite {c : Prop} [Decidable c] {a b : M α} (ha : M.Keeps r a) (hb : M.Keeps r b) :
    M.Keeps r (if c then a else b) := by
  split
  · exact ha
  · exact hb

protected theorem M.Keeps.tryCatch {h : Stop → M α} (hm : M.Keeps r m) (hh : ∀ e, r.stops e → M.Keeps r (h e)) :
    M.Keeps r (tryCatch m h) := by
  refine ⟨fun s => ?_⟩
  have run : tryCatch m h s = (match m s with
      | .ok a t => .ok a t
      | .error e t => h e t) := by
    show EStateM.tryCatch m h s = _
    unfold EStateM.tryCatch
    cases m s <;> rfl
  cases hs : m s with
  | ok a t => exact .of_ok (by rw [run, hs]) ((hm.from_ s).ok hs)
  | error e t =>
    obtain ⟨he, ht⟩ := (hm.from_ s).error hs
    have hc := (hh e he).from_ t
    cases hs' : h e t with
    | ok a u => exact .of_ok (by rw [run, hs]; exact hs') (r.trans ht (hc.ok hs'))
    | error e' u =>
      obtain ⟨he', hu⟩ := hc.error hs'
      exact .of_error (by rw [run, hs]; exact hs') he' (r.trans ht hu)

protected theorem M.Keeps.forM {g : γ → M PUnit} (h : ∀ c, M.Keeps r (g c)) (l : List γ) : M.Keeps r (l.forM g) := by
  induction l with
  | nil => exact .pure _
  | cons c l ih => exact .bind (h c) fun _ => ih

protected theorem M.Keeps.mapM {g : γ → M β} (h : ∀ c, M.Keeps r (g c)) (l : List γ) : M.Keeps r (l.mapM g) := by
  induction l with
  | nil => exact .pure _
  | cons c l ih =>
    rw [List.mapM_cons]
    exact .bind (h c) fun _ => .bind ih fun _ => .pure _

protected theorem M.Keeps.filterM {p : γ → M Bool} (h : ∀ c, M.Keeps r (p c)) (l : List γ) :
    M.Keeps r (l.filterM p) := by
  suffices ∀ acc, M.Keeps r (l.filterAuxM p acc) from .bind (this []) fun _ => .pure _
  induction l with
  | nil => exact fun acc => .pure _
  | cons c l ih => exact fun acc => .bind (h c) fun b => ih _

/-- What each step of a walk through a list keeps, the walk keeps. -/
theorem Rule.foldl (r : Rule) {f : State → γ → State} (h : ∀ s c, r.rel s (f s c)) (l : List γ) (s : State) :
    r.rel s (l.foldl f s) := by
  induction l generalizing s with
  | nil => exact r.refl s
  | cons c l ih => exact r.trans (h s c) (ih (f s c))

end Sys2Proof.Machine
end

section
/-! SUPPORT. Steady changes of the state: the issuing context stays the one named, and no context that is free is
woken. -/

namespace Sys2Proof.Machine

variable {s t u : State}

/-- A property of the value at k that every entry's change keeps. -/
theorem SMap.get_map {α : Type} {P : α → Prop} {f : Nat × α → α} (h : ∀ e, P e.2 → P (f e)) {d : α} {m : SMap α}
    {k : Nat} (hp : P (SMap.get d m k)) : P (SMap.get d (m.map fun e => (e.1, f e)) k) := by
  induction m with
  | nil => exact hp
  | cons e m ih =>
    simp only [List.map_cons, SMap.get] at hp ⊢
    split
    · next he => exact h e (by simpa [he] using hp)
    · next he =>
      simp only [he] at hp
      split
      · next hk => simpa [hk] using hp
      · next hk => exact ih (by simpa [hk] using hp)

/-- From s to t the context that issues stays the one named, and no free context is woken. -/
structure State.Steady (s t : State) : Prop where
  core : t.core = s.core
  ctx : t.ctx = s.ctx
  free : ∀ c x, (s.ctxAt c x).run = .free → (t.ctxAt c x).run = .free

/-- Work that is steady, however it stops. -/
def steady : Rule where
  rel := State.Steady
  stops _ := True
  refl _ := ⟨rfl, rfl, fun _ _ => id⟩
  trans h h' := ⟨h'.core.trans h.core, h'.ctx.trans h.ctx, fun c x hf => h'.free c x (h.free c x hf)⟩

namespace State.Steady

protected theorem refl (s : State) : s.Steady s := steady.refl s

protected theorem trans (h : s.Steady t) (h' : t.Steady u) : s.Steady u := steady.trans h h'

/-- What leaves the cores alone wakes no context. -/
theorem of_cores (hs : t.cores = s.cores := by rfl) (hc : t.core = s.core := by rfl)
    (hx : t.ctx = s.ctx := by rfl) : s.Steady t :=
  ⟨hc, hx, fun c x h => by simpa only [State.ctxAt, State.coreAt, hs] using h⟩

theorem updCore (s : State) (c : Nat) {f : Core → Core} (h : ∀ k, (f k).ctxs = k.ctxs := by intro k; rfl) :
    s.Steady (s.updCore c f) := by
  refine ⟨rfl, rfl, fun c' x hf => ?_⟩
  by_cases hc : c' = c
  · subst hc
    simpa [State.ctxAt, h] using hf
  · simpa [State.ctxAt, s.coreAt_updCore_other f hc] using hf

theorem updCtx (s : State) (c : Nat) (x : Fin 8) {f : Ctx → Ctx}
    (h : (s.ctxAt c x).run = .free → (f (s.ctxAt c x)).run = .free) : s.Steady (s.updCtx c x f) := by
  refine ⟨rfl, rfl, fun c' x' hf => ?_⟩
  by_cases hc : c' = c ∧ x' = x
  · obtain ⟨rfl, rfl⟩ := hc
    simpa using h hf
  · rwa [s.ctxAt_updCtx_other f (not_and_or.mp hc)]

/-- A change made to every core that is listed. -/
theorem mapCores {f : Nat × Core → Core} (hs : t.cores = s.cores.map fun e => (e.1, f e)) (hc : t.core = s.core)
    (hx : t.ctx = s.ctx) (h : ∀ e (x : Fin 8), e.2.ctxs[x].run = .free → (f e).ctxs[x].run = .free) : s.Steady t := by
  refine ⟨hc, hx, fun c x hf => ?_⟩
  rw [State.ctxAt, State.coreAt, hs]
  exact SMap.get_map (P := fun k => k.ctxs[x].run = .free) (fun e => h e x) hf

theorem foldl {γ : Type} {f : State → γ → State} (h : ∀ (s : State) c, s.Steady (f s c)) (l : List γ) (s : State) :
    s.Steady (l.foldl f s) := steady.foldl h l s

theorem ite {c : Prop} [Decidable c] (ht : s.Steady t) (hu : s.Steady u) : s.Steady (if c then t else u) := by
  split
  · exact ht
  · exact hu

end State.Steady

/-! ## Small updates -/

variable (s)

theorem State.steady_updClu (k : Nat) (f : Cluster → Cluster) : s.Steady (s.updClu k f) := .of_cores
theorem State.steady_updDie (d : Nat) (f : Die → Die) : s.Steady (s.updDie d f) := .of_cores
theorem State.steady_updPkg (f : Package → Package) : s.Steady (s.updPkg f) := .of_cores
theorem State.steady_updMem (f : Memory → Memory) : s.Steady (s.updMem f) := .of_cores
theorem State.steady_updStack (d st : Nat) (f : Stack → Stack) : s.Steady (s.updStack d st f) := .of_cores
theorem State.steady_updUnit (n : Nat) (f : CopyUnit → CopyUnit) : s.Steady (s.updUnit n f) := .of_cores
theorem State.steady_updLaunch (uid : Nat) (f : Launch → Launch) : s.Steady (s.updLaunch uid f) := .of_cores
theorem State.steady_setCoreReg (c i v : Nat) : s.Steady (s.setCoreReg c i v) := .of_cores
theorem State.steady_later (n : Nat) (e : Due) : s.Steady (s.later n e) := .of_cores

theorem State.steady_soon (n : Nat) (e : Due) : s.Steady (s.soon n e) := .ite (.refl s) (s.steady_later n e)

theorem State.steady_setPad (i : Nat) (p : PadRegs) : s.Steady (s.setPad i p) :=
  .ite (.of_cores) (.ite (s.steady_updClu _ _) (s.steady_updDie _ _))

/-! ## The expander of a cluster pad -/

theorem State.steady_logBlock (clu : Nat) (chk : BitVec 4) (hdr sch : Bool) (n blk : Nat) :
    s.Steady (s.logBlock clu chk hdr sch n blk) := .of_cores

theorem State.steady_failChunks (clu blk : Nat) (hdr : Bool) (chk : BitVec 4) :
    s.Steady (s.failChunks clu blk hdr chk) := by
  unfold State.failChunks
  refine .trans (.foldl (fun s i => ?_) (upTo 4) s) (.trans (.ite ?_ (.refl _)) (steady_logBlock ..))
  · exact .ite (.refl s) (s.steady_updMem _)
  · exact State.steady_updMem _ _

theorem State.steady_putSill (f p : Nat) : s.Steady (s.putSill f p) := by
  unfold State.putSill
  exact s.steady_updMem _

theorem State.steady_blockSills (clu blk : Nat) : s.Steady (s.blockSills clu blk) :=
  .foldl (fun s _ => s.steady_putSill _ _) _ s

theorem State.steady_retryHeld (clu : Nat) : s.Steady (s.retryHeld clu) := by
  refine .foldl (fun s b => ?_) _ s
  simp only []
  split
  · exact .trans (s.steady_blockSills clu b) (State.steady_updClu ..)
  · exact .refl s

theorem State.steady_evict (clu n : Nat) : s.Steady (s.evict clu n) := by
  induction n generalizing s with
  | zero => exact .refl s
  | succ n ih =>
    unfold State.evict
    simp only []
    split
    · exact .refl s
    · refine .trans (.ite (s.steady_updClu _ _) ?_) (ih _)
      split
      · exact .trans (s.steady_updClu _ _) (State.steady_retryHeld ..)
      · exact .of_cores

theorem State.steady_expand (clu blk : Nat) (dirty : Bool) : s.Steady (s.expand clu blk dirty) := by
  unfold State.expand
  simp only []
  exact .trans (.ite (.refl s) (s.steady_failChunks ..)) (.trans (State.steady_updClu ..) (State.steady_evict ..))

theorem State.steady_served (k n : Nat) (dirty : Bool) : s.Steady (s.served k n dirty) :=
  .ite (.refl s) (.foldl (fun s _ => s.steady_expand ..) _ s)

theorem State.steady_marked (k n : Nat) : s.Steady (s.marked k n) := .ite (.refl s) (s.steady_served ..)

/-! ## Code words and their errors -/

theorem State.steady_logError (c arr : Nat) (ue : Bool) (addr ctxid : Nat) :
    s.Steady (s.logError c arr ue addr ctxid) := s.steady_setCoreReg ..

theorem State.steady_disarm (c : Nat) : s.Steady (s.disarm c) := s.steady_setCoreReg ..

theorem State.steady_meetFlips (c arr ctxid : Nat) (at_ : Nat → Bool) : s.Steady (s.meetFlips c arr ctxid at_) :=
  .ite (.refl s) (.trans (.updCore s c) (.foldl (fun s _ => s.steady_logError ..) _ _))

theorem State.steady_meetLocal (p l : Nat) : s.Steady (s.meetLocal p l) := .ite (.refl s) (s.steady_meetFlips ..)

theorem State.steady_newWords (p l : Nat) : s.Steady (s.newWords p l) := by
  unfold State.newWords
  split
  · exact .refl s
  · exact .ite (.refl s) (.updCore s _)

theorem State.steady_wrote (p l : Nat) : s.Steady (s.wrote p l) := by
  unfold State.wrote
  refine .trans (s.steady_newWords p l) ?_
  generalize s.newWords p l = s
  simp only []
  split
  · exact .refl s
  split
  · exact .refl s
  refine .ite (.refl s) (.trans (s.steady_disarm _) (.ite (State.steady_updMem ..) ?_))
  exact .trans (.updCore ..) (.ite (State.steady_updMem ..) (.ite (State.steady_soon ..) (.refl _)))

theorem State.steady_touched (k n : Nat) : s.Steady (s.touched k n) := by
  unfold State.touched
  refine .trans (t := s.revalidated k n) (.ite (.refl s) (.of_cores)) ?_
  exact .ite (.refl _) (.mapCores rfl rfl rfl fun _ _ => id)

/-! ## Translation -/

theorem State.steady_fillCache (part va : Nat) (w : Nat × Nat × Bool) : s.Steady (s.fillCache part va w) := by
  obtain ⟨leaf, a, big⟩ := w
  unfold State.fillCache
  refine .trans (.ite ?_ (.refl s)) (State.steady_updStack ..)
  exact .of_cores

theorem State.steady_translate {k need p : Nat} (h : s.translate k need = some (p, t)) : s.Steady t := by
  unfold State.translate at h
  simp only [] at h
  split at h
  · cases h
    exact .refl s
  split at h
  · split at h <;> cases h
    exact .refl s
  split at h
  · split at h <;> cases h
    exact s.steady_fillCache ..
  · cases h

end Sys2Proof.Machine
end

section
/-! SUPPORT. Steady work: accesses to memory, what a home grants, the supervisor queue and posted writes. -/

namespace Sys2Proof.Machine

variable {α : Type} {m : M α}

theorem steady_throw (e : Stop) : M.Keeps steady (throw e : M α) := .throw trivial

theorem steady_wait (n : Nat) : M.Keeps steady (wait n : M α) := steady_throw _

theorem steady_serve (k n : Nat) (dirty : Bool) : M.Keeps steady (serve k n dirty) := by
  refine .ite (.get_bind fun s => ?_) (.pure _)
  split
  · exact (M.Keeps.ite (.bind (steady_wait _) fun _ => steady_throw _) (steady_throw _)).from_ s
  · simp only []
    split
    · exact ((steady_wait _).from_ s).bind fun _ _ h => by cases h
    · exact .set (s.steady_served ..)

theorem steady_phys (k need : Nat) : M.Keeps steady (phys k need) := by
  refine .bind (steady_serve ..) fun _ => .get_bind fun s => ?_
  split
  · next h => exact .bind (.set (s.steady_translate h)) fun _ _ _ => (M.Keeps.pure _).from_ _
  · exact (steady_throw _).from_ s

theorem steady_pieces (need fuel k n : Nat) : M.Keeps steady (pieces need fuel k n) := by
  induction fuel generalizing k n with
  | zero => exact .pure _
  | succ fuel ih =>
    refine .ite (.pure _) (.ite (.bind (steady_serve ..) fun _ => .pure _) ?_)
    exact .bind (steady_phys ..) fun _ => .bind (ih ..) fun _ => .pure _

theorem steady_piecesOf (need k n : Nat) : M.Keeps steady (piecesOf need k n) := steady_pieces ..

theorem steady_writeBlocks (k : Nat) (bs : List Byte) : M.Keeps steady (writeBlocks k bs) :=
  .forM (fun _ => .bind (steady_serve ..) fun _ => .modify fun s => s.steady_updMem _) _

theorem steady_writeRaw (k : Nat) (bs : List Byte) : M.Keeps steady (writeRaw k bs) := by
  have touched : M.Keeps steady (modify fun s => s.touched k bs.length : M Unit) := .modify fun s => s.steady_touched ..
  refine .ite (.bind (steady_writeBlocks ..) fun _ => touched) ?_
  refine .bind (steady_piecesOf ..) fun _ => .bind (.forM (fun _ => .modify fun s => ?_) _) fun _ => touched
  exact .trans (s.steady_updMem _) (State.steady_wrote ..)

theorem steady_header? (f need : Nat) : M.Keeps steady (header? f need) :=
  .bind (steady_phys ..) fun _ => .bind (.modify fun s => s.steady_meetLocal ..) fun _ => .bind .get fun _ => .pure _

theorem steady_header (f : Nat) : M.Keeps steady (header f) := by
  refine .bind (steady_header? ..) fun o => ?_
  split
  · exact .pure _
  · exact steady_throw _

theorem steady_putHeader (f : Nat) (h : Header) (need : Nat) : M.Keeps steady (putHeader f h need) :=
  .bind (steady_phys ..) fun _ => .modify fun s =>
    .trans (.trans (s.steady_updMem _) (State.steady_wrote ..)) (State.steady_served ..)

theorem steady_follow (n k : Nat) : M.Keeps steady (follow n k) := by
  induction n generalizing k with
  | zero => exact .pure _
  | succ n ih =>
    refine .bind .get fun s => ?_
    split
    · exact .pure _
    · exact .bind (steady_header _) fun _ => .ite (ih _) (.pure _)

theorem steady_locate (k : Nat) : M.Keeps steady (locate k) := by
  refine .bind (steady_follow ..) fun _ => .bind .get fun s => ?_
  split
  · exact .pure _
  · exact .bind (steady_header _) fun _ => .pure _

theorem steady_locateUp (k : Nat) : M.Keeps steady (locateUp k) :=
  .bind (steady_locate k) fun _ => .bind .get fun _ => .ite (.bind (steady_wait _) fun _ => .pure _) (.pure _)

theorem steady_bumpVersion (k : Nat) : M.Keeps steady (bumpVersion k) := by
  refine .bind (steady_locate k) fun _ => ?_
  simp only []
  split
  · exact .ite (steady_putHeader ..) (.pure _)
  · exact .pure _

theorem steady_setFE (k n : Nat) (b : Bool) (need : Nat) : M.Keeps steady (setFE k n b need) :=
  .forM (fun _ => .bind (steady_phys ..) fun _ => .modify fun s => s.steady_updMem _) _

theorem steady_putBytes (k : Nat) (bs : List Byte) (fe : Option Bool) : M.Keeps steady (putBytes k bs fe) := by
  refine .bind (steady_writeRaw ..) fun _ => ?_
  split
  · exact steady_setFE _ _ _ _
  · exact .pure _

theorem steady_allFull (k n : Nat) (b : Bool) (need : Nat) : M.Keeps steady (allFull k n b need) :=
  .bind (.mapM (fun _ => steady_phys ..) _) fun _ => .bind .get fun _ => .pure _

theorem steady_meetPieces (ps : List (Nat × Nat × Nat)) :
    M.Keeps steady (ps.forM fun (_, p, l) => modify fun s => s.meetLocal p l : M Unit) :=
  .forM (fun _ => .modify fun s => s.steady_meetLocal ..) _

theorem steady_readBytes (k n need : Nat) : M.Keeps steady (readBytes k n need) :=
  .bind (steady_piecesOf ..) fun _ => .bind .get fun _ => .bind (steady_meetPieces _) fun _ =>
    .ite (.bind (steady_throw _) fun _ => .pure _) (.pure _)

theorem steady_readNat (k n : Nat) : M.Keeps steady (readNat k n) := .bind (steady_readBytes ..) fun _ => .pure _

theorem steady_anyPoison (k n : Nat) : M.Keeps steady (anyPoison k n) :=
  .bind (steady_piecesOf ..) fun _ => .bind (steady_meetPieces _) fun _ => .bind .get fun _ => .pure _

/-- What a home tests and grants (R182). -/
theorem steady_tryNeed (c : Nat) (x : Fin 8) (need : Need) : M.Keeps steady (tryNeed c x need) := by
  cases need with
  | words kind r n offs data =>
    refine .bind .get fun s => .bind (steady_locateUp _) fun k => .bind (.filterM (fun w => ?_) _) fun bad => ?_
    · exact .bind (steady_allFull ..) fun _ => .pure _
    simp only []
    split
    · exact .pure _
    split
    · refine .bind (.forM (fun _ => steady_writeRaw ..) _) fun _ => ?_
      exact .bind (.forM (fun _ => steady_setFE ..) _) fun _ => .bind (steady_bumpVersion _) fun _ => .pure _
    · refine .bind (.mapM (fun _ => steady_readNat ..) _) fun _ => .ite ?_ (.pure _)
      exact .bind (.forM (fun _ => steady_setFE ..) _) fun _ => .pure _
  | acq r =>
    refine .bind .get fun s => .bind (steady_locateUp _) fun _ => ?_
    simp only []
    split
    · exact .pure _
    refine .ite ?_ (.ite (.pure _) (.pure _))
    refine .bind (steady_putHeader ..) fun _ => .bind (.modify fun s => ?_) fun _ => .pure _
    exact .updCtx s c x id
  | gen r e =>
    refine .bind .get fun s => .bind (steady_locateUp _) fun _ => .bind (steady_anyPoison ..) fun _ => ?_
    exact .ite (.pure _) (.bind (steady_readNat ..) fun _ => .pure _)
  | ring _ q => exact .bind .get fun _ => .pure _
  | job _ => exact .pure _
  | sheet _ _ _ _ _ _ => exact .pure _
  | group _ _ => exact .pure _

/-! ## The scan of waiters (R183) -/

theorem steady_fillFirst (hm : M.Keeps steady m) (n : Nat) : M.Keeps steady (M.fillFirst m n) := by
  refine ⟨fun s => ?_⟩
  induction n generalizing s with
  | zero => exact hm.from_ s
  | succ n ih =>
    have run : M.fillFirst m (n + 1) s = match m s with
      | .error (.fill clu blk) _ => M.fillFirst m n (s.expand clu blk false)
      | r => r := rfl
    by_cases h : ∃ clu blk t, m s = .error (.fill clu blk) t
    · obtain ⟨clu, blk, t, h⟩ := h
      exact .resume (by rw [run, h]) (s.steady_expand clu blk false) (ih _)
    · refine .resume ?_ (.refl s) (hm.from_ s)
      rw [run]
      split
      · next h' => exact absurd ⟨_, _, _, h'⟩ h
      · rfl

theorem steady_filled (hm : M.Keeps steady m) : M.Keeps steady (M.filled m) :=
  ⟨fun s => (steady_fillFirst hm _).from_ s⟩

/-- Another context may be named for the time of some work. -/
theorem steady_as (hm : M.Keeps steady m) (c : Nat) (x : Fin 8) : M.Keeps steady (M.as c x m) := by
  refine ⟨fun s => ?_⟩
  have h := (steady_filled hm).from_ { s with core := c, ctx := x }
  cases hr : M.filled m { s with core := c, ctx := x } with
  | ok a t => exact .of_ok (t := { t with core := s.core, ctx := s.ctx }) (by rw [M.as, hr]) ⟨rfl, rfl, (h.ok hr).free⟩
  | error e t =>
    obtain ⟨-, ht⟩ := h.error hr
    exact .of_error (t := { t with core := s.core, ctx := s.ctx }) (by rw [M.as, hr]) trivial ⟨rfl, rfl, ht.free⟩

variable (s : State)

theorem State.steady_setSill (f : Nat) : s.Steady (s.setSill f) := by
  unfold State.setSill
  refine .ite (.refl s) ?_
  split
  · exact .refl s
  · exact .trans (s.steady_served ..) (State.steady_putSill ..)

theorem State.steady_setNodes (ns : List Node) (fs : List Nat) : s.Steady (s.setNodes ns fs) :=
  .trans (.of_cores) (.foldl (fun s _ => s.steady_setSill _) fs { s with nodes := ns })

theorem State.steady_dropNodes (c : Nat) (x : Fin 8) : s.Steady (s.dropNodes c x) := s.steady_setNodes ..

/-- A grant wakes the context that waits, which is not free. -/
theorem State.steady_grantNode (n : Node) : s.Steady (s.grantNode n) := by
  unfold State.grantNode
  simp only []
  split
  · next w hw =>
    have has := (steady_as (steady_tryNeed n.core n.ctx w.need) n.core n.ctx).from_ s
    have woken {t : State} (ht : s.Steady t) (f : Ctx → Ctx) : s.Steady (t.updCtx n.core n.ctx f) := by
      refine ⟨ht.core, ht.ctx, fun c x hf => ?_⟩
      by_cases hc : c = n.core ∧ x = n.ctx
      · obtain ⟨rfl, rfl⟩ := hc
        exact absurd (hw.symm.trans hf) (by simp)
      · rw [State.ctxAt_updCtx_other _ _ (not_and_or.mp hc)]
        exact ht.free c x hf
    split
    · next h => exact .trans (woken (has.ok h) _) (State.steady_setNodes ..)
    · next h => exact has.ok h
    · exact .trans (woken (.refl s) _) (State.steady_setNodes ..)
    · exact .refl s
  · exact s.steady_setNodes ..

theorem State.steady_grantPass (ns : List Node) : s.Steady (s.grantPass ns) :=
  .foldl (fun s n => s.steady_grantNode n) ns s

theorem State.steady_settle (n : Nat) : s.Steady (s.settle n) := by
  induction n generalizing s with
  | zero => exact .refl s
  | succ n ih => exact .ite (.refl s) (.trans (s.steady_grantPass _) (ih _))

theorem State.steady_settled : s.Steady s.settled := s.steady_settle _

/-! ## The supervisor queue (R403) -/

theorem State.steady_sqWrite {t : State} {d : Nat} {e : List Byte} (h : s.sqWrite d e = some t) : s.Steady t := by
  obtain ⟨k, -, rfl⟩ := Option.map_eq_some_iff.mp h
  exact .of_cores

theorem State.steady_sqDrain (d n : Nat) : s.Steady (s.sqDrain d n) := by
  induction n generalizing s with
  | zero => exact .refl s
  | succ n ih =>
    unfold State.sqDrain
    simp only []
    split
    · exact .refl s
    refine .ite (.refl s) ?_
    split
    · next h => exact .trans (s.steady_updDie ..) (.trans (State.steady_sqWrite _ h) (ih _))
    · exact .refl s

theorem State.steady_sqJoin (d : Nat) (es : List (List Byte)) : s.Steady (s.sqJoin d es) :=
  .trans (.trans (s.steady_updDie ..) (State.steady_sqDrain ..)) (.ite (State.steady_soon ..) (.refl _))

theorem State.steady_sqReport (d : Nat) (e : List Byte) : s.Steady (s.sqReport d e) := s.steady_sqJoin ..

theorem State.steady_contain (core : Nat) (r : Record) (m : Option Msg) : s.Steady (s.contain core r m) := by
  unfold State.contain State.sqRecord
  simp only []
  exact .trans (.ite (s.steady_sqJoin ..) (s.steady_updDie ..)) (.ite (State.steady_updClu ..) (.refl _))

theorem State.steady_logPkg (code : Nat) (ue : Bool) (addr die : Nat) : s.Steady (s.logPkg code ue addr die) :=
  s.steady_updPkg _

theorem State.steady_pageFault (k need ctxid : Nat) (who : PageWaiter) : s.Steady (s.pageFault k need ctxid who) := by
  unfold State.pageFault
  extract_lets part va d st u q f first v w
  have logged : s.Steady u := by
    unfold u
    split
    · exact s.steady_logPkg ..
    · exact .refl s
  refine .trans logged (.ite (.trans (u.steady_updStack ..) (.ite (State.steady_sqReport ..) (.refl _))) ?_)
  exact .trans (.ite (u.steady_later ..) (.refl u)) (State.steady_updStack ..)

/-! ## Posted writes of engines (R388) -/

theorem State.steady_addPost (b : Post) : s.Steady (s.addPost b) :=
  .trans (.of_cores) (State.steady_soon { s with posts := s.posts ++ [b] } 64 .posts)

theorem State.steady_askPage (k need : Nat) : s.Steady (s.askPage k need) := .ite (.refl s) (s.steady_pageFault ..)

theorem steady_settledWork : M.Keeps steady (modify State.settled : M Unit) := .modify fun s => s.steady_settled

theorem steady_releaseHold (p : PReg) (part id : Nat) : M.Keeps steady (releaseHold p part id) := by
  refine .bind (steady_locateUp _) fun _ => ?_
  simp only []
  split
  · exact .ite (.bind (steady_putHeader ..) fun _ => steady_settledWork) steady_settledWork
  · exact .pure _

theorem steady_markDead (f : Nat) : M.Keeps steady (markDead f) := by
  refine .bind (steady_header? ..) fun o => ?_
  split
  · exact .pure _
  refine .bind (steady_putHeader ..) fun _ => .bind .get fun s => ?_
  split
  · exact .pure _
  refine .bind (steady_header? ..) fun o => ?_
  have unlinked (f g : Nat) : M.Keeps steady
      (modify fun s => s.updMem fun m => { m with fwd := (m.fwd.erase f).erase g } : M Unit) :=
    .modify fun s => s.steady_updMem _
  split
  · exact unlinked ..
  · exact .bind (steady_putHeader ..) fun _ => unlinked ..

theorem steady_post (b : Post) : M.Keeps steady b.work := by
  unfold Post.work
  split
  · refine .bind .get fun s => .ite ?_ (steady_releaseHold ..)
    exact .bind (steady_wait _) fun _ => steady_releaseHold ..
  · exact steady_markDead _
  · refine .bind (steady_locateUp _) fun _ => .bind (steady_putBytes ..) fun _ => ?_
    exact .bind (steady_bumpVersion _) fun _ => steady_settledWork

theorem State.steady_runPost (b : Post) : s.Steady (s.runPost b) := by
  unfold State.runPost
  refine .ite (s.steady_addPost b) ?_
  have work := (steady_filled (steady_post b)).from_ s
  split
  · next h => exact work.ok h
  · exact .trans (s.steady_addPost b) (State.steady_askPage ..)
  · exact s.steady_addPost b
  · exact .refl s

theorem State.steady_enginePut (p : PReg) (part off : Nat) (bs : List Byte) (fe : Option Bool) (src : Nat)
    (own : Option (Nat × Nat)) : s.Steady (s.enginePut p part off bs fe src own) := .ite (.refl s) (s.steady_runPost _)

theorem State.steady_postDead (f src : Nat) : s.Steady (s.postDead f src) := s.steady_runPost _

end Sys2Proof.Machine
end

section
/-! SUPPORT. How an activation ends: a kill and a rollback leave its context free. -/

namespace Sys2Proof.Machine

variable {t : State} (s : State)

/-! ## Jobs, launches and records -/

theorem State.steady_wakeJob (u num : Nat) : s.Steady (s.wakeJob u num) := by
  refine .foldl (fun s c => .ite (.refl s) (.foldl (fun s x => ?_) _ s)) _ s
  split
  · next w hw =>
    split
    · exact .ite (.updCtx s c x fun hf => absurd (hw.symm.trans hf) (by simp)) (.refl s)
    · exact .refl s
  · exact .refl s

theorem State.steady_stopJobs (c act : Nat) (st : BitVec 3) (saving : Bool) :
    s.Steady (s.stopJobs c act st saving) := by
  unfold State.stopJobs
  extract_lets n gone s1
  have woken : s.Steady (gone.foldl (fun s j => s.wakeJob n j.num) s1) :=
    .trans (s.steady_updUnit ..) (.foldl (fun s _ => s.steady_wakeJob ..) gone s1)
  exact .trans (.trans (.trans woken (State.steady_soon ..)) (State.steady_soon ..)) (State.steady_soon ..)

theorem State.steady_setSeal (c : Nat) (x : Fin 8) (v : Nat) : s.Steady (s.setSeal c x v) := s.steady_enginePut ..

theorem State.steady_countEnd (uid how : Nat) (flags : BitVec 5) : s.Steady (s.countEnd uid how flags) :=
  s.steady_updLaunch ..

theorem State.steady_launchLess (uid : Nat) : s.Steady (s.launchLess uid) := by
  unfold State.launchLess
  extract_lets s1
  have counted : s.Steady s1 := s.steady_updLaunch ..
  split
  · exact .trans counted (.ite (s1.steady_later ..) (.refl s1))
  · exact counted

theorem State.steady_join (c : Nat) (head : Bool) (e : Entry) : s.Steady (s.join c head e) :=
  .trans (.updCore s c) (State.steady_later ..)

/-! ## What an activation allocated (R61) -/

theorem State.steady_mapMgmt (φ : PReg → PReg) : s.Steady (s.mapMgmt φ) := by
  refine .foldl (fun s o => ?_) _ s
  exact .of_cores

theorem State.steady_mapPtrs (φ : PReg → PReg) : s.Steady (s.mapPtrs φ) := by
  unfold State.mapPtrs
  extract_lets s1 s2
  have marked : s1.Steady s2 := .foldl (fun s _ => .ite (s.steady_marked ..) (.refl s)) _ s1
  refine .trans (s.steady_mapMgmt φ) (.trans marked (.mapCores rfl rfl rfl fun e x h => ?_))
  simpa [Core.mapPtrs, Ctx.mapPtrs] using h

theorem State.steady_returnBump (i b : Nat) : s.Steady (s.returnBump i b) := by
  unfold State.returnBump
  extract_lets p lo hi fs s1
  have deadened : s.Steady s1 := .foldl (fun s _ => s.steady_mapPtrs _) fs s
  exact .ite (.refl s) (.trans (.trans deadened (s1.steady_updMem _)) (State.steady_setPad ..))

theorem State.steady_discard (c : Nat) (x : Fin 8) : s.Steady (s.discard c x) := by
  unfold State.discard
  exact .trans (.foldl (fun s f => s.steady_postDead ..) _ s) (.foldl (fun s m => s.steady_returnBump ..) _ _)

/-! ## What a context holds -/

theorem State.steady_traceHw (c : Nat) (x : Fin 8) (kind time aux : Nat) : s.Steady (s.traceHw c x kind time aux) := by
  unfold State.traceHw State.trPut State.trLost
  refine .ite (.ite (s.steady_setCoreReg ..) ?_) (.refl s)
  exact .trans (.updCore s c) (.ite (State.steady_later ..) (.refl _))

theorem State.steady_tallyCtx (c : Nat) (x : Fin 8) : s.Steady (s.tallyCtx c x) := by
  unfold State.tallyCtx
  extract_lets u
  exact .ite (.refl s) (.trans (t := u) (.updCtx s c x id) .of_cores)

theorem State.steady_addTotals (c : Nat) (x : Fin 8) : s.Steady (s.addTotals c x) :=
  .trans (s.steady_tallyCtx c x) (.ite (.refl _) (State.steady_updPkg ..))

theorem State.steady_relHolds (c : Nat) (x : Fin 8) : s.Steady (s.relHolds c x) := by
  unfold State.relHolds
  refine .trans (.foldl (fun s p => s.steady_runPost _) _ s) (.updCtx _ c x ?_)
  exact id

theorem State.steady_dropGroups (c : Nat) (x : Fin 8) : s.Steady (s.dropGroups c x) := .of_cores

theorem State.steady_dropSifts (c : Nat) (x : Fin 8) : s.Steady (s.dropSifts c x) := .ite (.refl s) .of_cores

theorem State.steady_endPreempt (c : Nat) : s.Steady (s.endPreempt c) := by
  unfold State.endPreempt
  refine .trans (.updCore s c) (.foldl (fun s p => ?_) _ _)
  exact .trans (.updCore s c) (State.steady_sqReport ..)

theorem State.steady_preemptDone (c : Nat) (x : Fin 8) (how : Nat) : s.Steady (s.preemptDone c x how) :=
  .trans (.updCore s c) (State.steady_endPreempt ..)

/-! ## Endings -/

/-- The context that issues stays the one named, and context x of core c is free in t. -/
structure State.Frees (s : State) (c : Nat) (x : Fin 8) (t : State) : Prop where
  core : t.core = s.core
  ctx : t.ctx = s.ctx
  freed : (t.ctxAt c x).run = .free

theorem State.Frees.after {s t u : State} {c : Nat} {x : Fin 8} (h : t.Frees c x u) (hs : s.Steady t) : s.Frees c x u :=
  ⟨h.core.trans hs.core, h.ctx.trans hs.ctx, h.freed⟩

theorem State.Frees.then {s t u : State} {c : Nat} {x : Fin 8} (h : s.Frees c x t) (ht : t.Steady u) : s.Frees c x u :=
  ⟨ht.core.trans h.core, ht.ctx.trans h.ctx, ht.free c x h.freed⟩

theorem State.freeCtx_frees (c : Nat) (x : Fin 8) (how : Nat) : s.Frees c x (s.freeCtx c x how) := by
  unfold State.freeCtx
  extract_lets q now wait run s1 s2 s3 s4 s5 s6 s7 s8 s9 k s10 s11
  have held : s.Steady s7 :=
    .trans (s.steady_traceHw ..) <| .trans (s1.steady_addTotals ..) <| .trans (s2.steady_relHolds ..) <|
    .trans (.trans (s3.steady_dropNodes ..) (State.steady_dropGroups ..)) <| .trans (.updCore s4 c) <|
    .trans (.updCore s5 c) <| .ite (s6.steady_updClu ..) (.refl s6)
  have freed : s7.Frees c x s8 := ⟨rfl, rfl, by rw [State.ctxAt_updCtx]⟩
  refine (freed.after held).then <| .trans (.trans (s8.steady_dropSifts ..) (State.steady_later ..)) <|
    .trans (.ite (s9.steady_later ..) (.refl s9)) <| .trans (.ite (s10.steady_preemptDone ..) (.refl s10))
      s11.steady_settled

theorem State.kill_frees (c : Nat) (x : Fin 8) (cause tcause pc det : Nat) :
    s.Frees c x (s.kill c x cause tcause pc det) := by
  unfold State.kill
  extract_lets q cause s1 s2 s3
  have begun : s.Steady s3 :=
    .trans (s.steady_stopJobs ..) <| .trans (.ite (s1.steady_setSeal ..) (.refl s1)) (s2.steady_contain ..)
  exact ((State.freeCtx_frees _ c x 1).after (begun.trans (s3.steady_countEnd ..))).then (State.steady_launchLess ..)

theorem State.rollback_frees (c : Nat) (x : Fin 8) (tcause pc val : Nat) :
    s.Frees c x (s.rollback c x tcause pc val) := by
  unfold State.rollback
  extract_lets q s1 s2 s3 again s4 s5
  have begun : s.Steady s4 :=
    .trans (s.steady_stopJobs ..) <| .trans (.ite (s1.steady_setSeal ..) (.refl s1)) <| .trans (s2.steady_discard ..) <|
    .ite (.refl s3) (s3.steady_contain ..)
  have freed : s.Frees c x s5 := (State.freeCtx_frees _ c x 2).after (begun.trans (s4.steady_countEnd ..))
  split
  · exact freed.then (s5.steady_join ..)
  · exact freed.then (s5.steady_launchLess ..)

/-! ## What a rollback keeps of the work that it ends (R233) -/

theorem Core.popCodes_ctxs (k : Core) (n : Nat) : (k.popCodes n).ctxs = k.ctxs := by
  unfold Core.popCodes
  split <;> rfl

theorem Core.dropHead_ctxs (k : Core) (n : Nat) : (k.dropHead n).ctxs = k.ctxs := by
  unfold Core.dropHead
  extract_lets k' q q'
  split <;> exact k.popCodes_ctxs n

theorem Core.dropHeads_ctxs (ns : List Nat) (k : Core) : (ns.foldl Core.dropHead k).ctxs = k.ctxs := by
  induction ns generalizing k with
  | nil => rfl
  | cons n ns ih => exact (ih _).trans (k.dropHead_ctxs n)

theorem State.steady_keepLogs (c : Nat) (t : State) : s.Steady (s.keepLogs c t) := by
  unfold State.keepLogs
  extract_lets lost s1
  have copied : s.Steady s1 := .foldl (fun s i => s.steady_setCoreReg ..) _ s
  clear_value s1
  have kept : s1.Steady { s1 with upsets := t.upsets } := .of_cores
  exact .trans (copied.trans kept) (.updCore _ c fun k => Core.dropHeads_ctxs ..)

end Sys2Proof.Machine
end

section
/-! SUPPORT. The frame of the work of a register unit. -/

namespace Sys2Proof.Machine

/-- What a register unit may write of its context: scalar registers by their codes, vector registers, lane masks, FEXC,
which then gains flags, and SRSEED. -/
structure Dest where
  scalar : Nat → Prop := fun _ => False
  vector : Nat → Prop := fun _ => False
  mask : Mk → Prop := fun _ => False
  flags : Prop := False
  seed : Prop := False

variable {D : Dest} {q q' q'' : Ctx} {s t u : State}

/-- The registers, FEXC and SRSEED of q' are those of q, but for what may be written. -/
structure Ctx.RegsKept (D : Dest) (q q' : Ctx) : Prop where
  w : ∀ j : Fin 24, ¬ D.scalar j.val → q'.w[j] = q.w[j]
  g : ∀ j : Fin 8, ¬ D.scalar (24 + j.val) → q'.g[j] = q.g[j]
  v : ∀ j : Fin 32, ¬ D.vector j.val → q'.v[j] = q.v[j]
  m : ∀ j : Mk, ¬ D.mask j → q'.m[j] = q.m[j]
  gains : q.fexc &&& ~~~q'.fexc = 0
  fexc : ¬ D.flags → q'.fexc = q.fexc
  srseed : ¬ D.seed → q'.srseed = q.srseed

/-- q' differs from q at most in its registers, stream bindings, FEXC and SRSEED, and in what the course of units
moves: PC, S, the loop count, budgets, and how the context waits. -/
def Ctx.RestKept (q q' : Ctx) : Prop :=
  q' = { q with
    w := q'.w, g := q'.g, v := q'.v, m := q'.m, strm := q'.strm, fexc := q'.fexc, srseed := q'.srseed
    pc := q'.pc, sig := q'.sig, lcount := q'.lcount, hbudget := q'.hbudget, run := q'.run, blocked := q'.blocked
    stalls := q'.stalls, latch := q'.latch, metSift := q'.metSift, yieldTo := q'.yieldTo }

/-- Flags that are gained stay gained. -/
theorem gains_trans {a b c : BitVec 5} (h : a &&& ~~~b = 0) (h' : b &&& ~~~c = 0) : a &&& ~~~c = 0 := by
  refine BitVec.eq_of_getLsbD_eq fun i hi => ?_
  have hb := congrArg (·.getLsbD i) h
  have hc := congrArg (·.getLsbD i) h'
  simp only [BitVec.getLsbD_and, BitVec.getLsbD_not, hi, decide_true, Bool.true_and] at hb hc ⊢
  cases ha : a.getLsbD i <;> simp_all

theorem gains_or (a b : BitVec 5) : a &&& ~~~(a ||| b) = 0 := by
  refine BitVec.eq_of_getLsbD_eq fun i hi => ?_
  cases ha : a.getLsbD i <;> simp [ha]

namespace Ctx.RegsKept

protected theorem refl (D : Dest) (q : Ctx) : q.RegsKept D q where
  w _ _ := rfl
  g _ _ := rfl
  v _ _ := rfl
  m _ _ := rfl
  gains := BitVec.and_not_self q.fexc
  fexc _ := rfl
  srseed _ := rfl

protected theorem trans (h : q.RegsKept D q') (h' : q'.RegsKept D q'') : q.RegsKept D q'' where
  w j hj := (h'.w j hj).trans (h.w j hj)
  g j hj := (h'.g j hj).trans (h.g j hj)
  v j hj := (h'.v j hj).trans (h.v j hj)
  m j hj := (h'.m j hj).trans (h.m j hj)
  gains := gains_trans h.gains h'.gains
  fexc hd := (h'.fexc hd).trans (h.fexc hd)
  srseed hd := (h'.srseed hd).trans (h.srseed hd)

/-- A context whose registers and flags are the same. -/
theorem of_eq (hw : q'.w = q.w := by rfl) (hg : q'.g = q.g := by rfl) (hv : q'.v = q.v := by rfl)
    (hm : q'.m = q.m := by rfl) (hf : q'.fexc = q.fexc := by rfl) (hs : q'.srseed = q.srseed := by rfl) :
    q.RegsKept D q' where
  w j _ := by rw [hw]
  g j _ := by rw [hg]
  v j _ := by rw [hv]
  m j _ := by rw [hm]
  gains := by rw [hf]; exact BitVec.and_not_self q.fexc
  fexc _ := hf
  srseed _ := hs

end Ctx.RegsKept

protected theorem Ctx.RestKept.refl (q : Ctx) : q.RestKept q := rfl

protected theorem Ctx.RestKept.trans (h : q.RestKept q') (h' : q'.RestKept q'') : q.RestKept q'' := by
  unfold Ctx.RestKept at *
  rw [h', h]

/-! ## The frame of a state -/

/-- What no register unit changes of a core. -/
def Core.RestKept (k k' : Core) : Prop := k'.tiles = k.tiles ∧ k'.classes = k.classes ∧ k'.panes = k.panes

/-- What no register unit changes of the machine: all but its cores, the management registers, what falls due, and the
sifts that wait. -/
def State.OutsideKept (s t : State) : Prop :=
  t = { s with cores := t.cores, mgmt := t.mgmt, pending := t.pending, sifts := t.sifts }

/-- Code words have met no consumer and taken no injection (R233, R235). -/
def State.CodesKept (s t : State) : Prop := t.mgmt = s.mgmt ∧ ∀ c, (t.coreAt c).flips = (s.coreAt c).flips

/-- t is s but for D, and for what the course of units moves. -/
structure State.Framed (D : Dest) (s t : State) : Prop where
  outside : s.OutsideKept t
  cores : ∀ c, (s.coreAt c).RestKept (t.coreAt c)
  run : t.now.run = s.now.run
  rest : s.now.RestKept t.now
  regs : s.now.RegsKept D t.now

/-- The work of a register unit that may write D leads from s to t. -/
structure State.Worked (D : Dest) (s t : State) : Prop extends s.Framed D t where
  codes : s.codesClean s.core = true → s.CodesKept t

theorem State.OutsideKept.trans (h : s.OutsideKept t) (h' : t.OutsideKept u) : s.OutsideKept u := by
  unfold State.OutsideKept at *
  rw [h', h]

theorem State.OutsideKept.core (h : s.OutsideKept t) : t.core = s.core := by rw [h]

theorem State.OutsideKept.ctx (h : s.OutsideKept t) : t.ctx = s.ctx := by rw [h]

theorem Core.RestKept.trans {k k' k'' : Core} (h : k.RestKept k') (h' : k'.RestKept k'') : k.RestKept k'' :=
  ⟨h'.1.trans h.1, h'.2.1.trans h.2.1, h'.2.2.trans h.2.2⟩

theorem State.CodesKept.trans (h : s.CodesKept t) (h' : t.CodesKept u) : s.CodesKept u :=
  ⟨h'.1.trans h.1, fun c => (h'.2 c).trans (h.2 c)⟩

theorem State.CodesKept.clean (h : s.CodesKept t) (hs : s.codesClean c = true) : t.codesClean c = true := by
  simpa only [State.codesClean, State.coreReg, h.1, h.2] using hs

protected theorem State.Framed.refl (D : Dest) (s : State) : s.Framed D s where
  outside := rfl
  cores _ := ⟨rfl, rfl, rfl⟩
  run := rfl
  rest := rfl
  regs := .refl D _

protected theorem State.Framed.trans (h : s.Framed D t) (h' : t.Framed D u) : s.Framed D u where
  outside := h.outside.trans h'.outside
  cores c := (h.cores c).trans (h'.cores c)
  run := h'.run.trans h.run
  rest := h.rest.trans h'.rest
  regs := h.regs.trans h'.regs

theorem State.Framed.foldl {γ : Type} {f : State → γ → State} (h : ∀ (s : State) c, s.Framed D (f s c)) (l : List γ)
    (s : State) : s.Framed D (l.foldl f s) :=
  Rule.foldl ⟨State.Framed D, fun _ => True, .refl D, .trans⟩ h l s

protected theorem State.Worked.refl (D : Dest) (s : State) : s.Worked D s := ⟨.refl D s, fun _ => ⟨rfl, fun _ => rfl⟩⟩

protected theorem State.Worked.trans (h : s.Worked D t) (h' : t.Worked D u) : s.Worked D u where
  toFramed := h.toFramed.trans h'.toFramed
  codes hs := by
    have ht := h.codes hs
    exact ht.trans (h'.codes (by rw [h.outside.core]; exact ht.clean hs))

/-- Where a code word has an error, or is to get one, what becomes of the errors is open. -/
theorem State.Framed.unclean (h : s.Framed D t) (hs : ¬ s.codesClean s.core = true) : s.Worked D t :=
  ⟨h, fun hc => absurd hc hs⟩

/-- The ways in which a register unit may stop: a trap from which nothing of its work survives, not ready, and
rollback. -/
def Stop.plain : Stop → Prop
  | .trap _ _ _ flag => flag = none
  | .wait _ => True
  | .rollback _ _ => True
  | _ => False

/-- Work of a register unit that may write D. -/
def framed (D : Dest) : Rule := ⟨State.Worked D, Stop.plain, .refl D, .trans⟩

namespace State.Framed

theorem coreAt_updCore (s : State) (c c' : Nat) (f : Core → Core) :
    (s.updCore c f).coreAt c' = if c' = c then f (s.coreAt c') else s.coreAt c' := by
  split
  · next h => rw [h, State.coreAt_updCore]
  · next h => rw [s.coreAt_updCore_other f h]

theorem updCore (s : State) (c : Nat) {f : Core → Core}
    (hk : ∀ k : Core, k.RestKept (f k) := by intro k; exact ⟨rfl, rfl, rfl⟩)
    (hx : ∀ k, (f k).ctxs = k.ctxs := by intro k; rfl) : s.Framed D (s.updCore c f) := by
  have now : (s.updCore c f).now = s.now := by
    show ((s.updCore c f).coreAt s.core).ctxs[s.ctx] = (s.coreAt s.core).ctxs[s.ctx]
    rw [coreAt_updCore]
    split
    · simp only [hx]
    · rfl
  refine ⟨rfl, fun c' => ?_, by rw [now], by rw [now]; exact .refl _, by rw [now]; exact .refl ..⟩
  rw [coreAt_updCore]
  split
  · exact hk _
  · exact ⟨rfl, rfl, rfl⟩

theorem setCoreReg (s : State) (c i v : Nat) : s.Framed D (s.setCoreReg c i v) where
  outside := rfl
  cores _ := ⟨rfl, rfl, rfl⟩
  run := rfl
  rest := rfl
  regs := .refl D _

end State.Framed

namespace State.Worked

/-- A change of a core that meets no code word. -/
theorem updCore (s : State) (c : Nat) {f : Core → Core}
    (hf : s.codesClean s.core = true → ∀ k, k = s.coreAt c → (f k).flips = k.flips := by intro _ k _; rfl)
    (hk : ∀ k : Core, k.RestKept (f k) := by intro k; exact ⟨rfl, rfl, rfl⟩)
    (hx : ∀ k, (f k).ctxs = k.ctxs := by intro k; rfl) : s.Worked D (s.updCore c f) := by
  refine ⟨.updCore s c hk hx, fun hc => ⟨rfl, fun c' => ?_⟩⟩
  rw [State.Framed.coreAt_updCore]
  split
  · next h => exact hf hc _ (by rw [h])
  · rfl

/-- A change of the issuing context leaves of the cores all but their contexts. -/
theorem coreAt_updMe (s : State) (f : Ctx → Ctx) (c : Nat) :
    (s.coreAt c).RestKept ((s.updCtx s.core s.ctx f).coreAt c) ∧
      ((s.updCtx s.core s.ctx f).coreAt c).flips = (s.coreAt c).flips := by
  by_cases hc : c = s.core
  · rw [hc, State.coreAt_updCtx]
    exact ⟨⟨rfl, rfl, rfl⟩, rfl⟩
  · rw [State.coreAt_updCtx_other _ _ _ hc]
    exact ⟨⟨rfl, rfl, rfl⟩, rfl⟩

/-- A change of the issuing context. -/
theorem updMe {f : Ctx → Ctx} (hn : (f s.now).run = s.now.run) (hr : s.now.RestKept (f s.now))
    (hd : s.now.RegsKept D (f s.now)) : s.Worked D (s.updCtx s.core s.ctx f) := by
  have now : (s.updCtx s.core s.ctx f).now = f s.now := s.ctxAt_updCtx _ _ f
  exact ⟨⟨rfl, fun c => (coreAt_updMe s f c).1, by rw [now, hn], by rw [now]; exact hr, by rw [now]; exact hd⟩,
    fun _ => ⟨rfl, fun c => (coreAt_updMe s f c).2⟩⟩

theorem later (s : State) (n : Nat) (e : Due) : s.Worked D (s.later n e) :=
  ⟨⟨rfl, fun _ => ⟨rfl, rfl, rfl⟩, rfl, rfl, .refl D _⟩, fun _ => ⟨rfl, fun _ => rfl⟩⟩

end State.Worked

end Sys2Proof.Machine
end

section
/-! SUPPORT. The frame of reading, writing and popping operands. -/

namespace Sys2Proof.Machine

variable {α : Type} {D : Dest} {s : State}

theorem framed_wait (n : Nat) : M.Keeps (framed D) (wait n : M α) := .throw trivial

theorem framed_trap (c v : Nat) (p : Option (Fin 16)) : M.Keeps (framed D) (trap c v p : M α) := .throw rfl

theorem framed_rollback (c v : Nat) : M.Keeps (framed D) (throw (.rollback c v) : M α) := .throw trivial

theorem framed_require (b : Bool) (c v : Nat) (p : Option (Fin 16)) : M.Keeps (framed D) (require b c v p) :=
  .ite (.pure _) (framed_trap ..)

/-- A change of the issuing context. -/
theorem framed_modMe {f : Ctx → Ctx} (hn : ∀ q, (f q).run = q.run) (hr : ∀ q : Ctx, q.RestKept (f q))
    (hd : ∀ q : Ctx, q.RegsKept D (f q)) : M.Keeps (framed D) (modMe f) :=
  .modify fun _ => .updMe (hn _) (hr _) (hd _)

/-! ## Code words (R233, R235) -/

theorem State.Framed.meetFlips (s : State) (c arr ctxid : Nat) (at_ : Nat → Bool) :
    s.Framed D (s.meetFlips c arr ctxid at_) := by
  unfold State.meetFlips
  extract_lets hit fs s1
  split
  · exact .refl D s
  · exact .trans (.updCore s c) (.foldl (fun s f => .setCoreReg s ..) _ _)

theorem framed_consume (arr i n : Nat) : M.Keeps (framed D) (consume arr i n) := by
  refine .get_bind fun s => ?_
  split
  · exact (M.Keeps.pure _).from_ s
  · next hc =>
    exact .bind (.set (State.Framed.unclean (.meetFlips ..) hc)) fun _ t _ =>
      (M.Keeps.ite (framed_rollback ..) (.pure _)).from_ t

/-- What is written is written at once, or, where a code word has an error or is to get one, after the errors of the old
words have gone and an injection has acted. -/
theorem encoded_framed (D : Dest) {w : Nat} (arr i n : Nat) (x : BitVec w) (s : State) :
    ∃ y t, encoded arr i n x s = .ok y t ∧ s.Worked D t := by
  unfold encoded
  simp only [M.bind_run, M.get_run]
  split
  · exact ⟨_, _, rfl, .refl D s⟩
  next hc =>
  simp only [M.bind_run, M.set_run]
  generalize hs1 : s.updCore s.core _ = s1
  have cleared : s.Framed D s1 := hs1 ▸ .updCore s s.core
  have armed : s.Framed D (s1.disarm s1.core) := cleared.trans (.setCoreReg s1 ..)
  generalize s1.armed _ _ = o
  cases o with
  | none => exact ⟨_, _, rfl, cleared.unclean hc⟩
  | some v =>
    simp only []
    split
    · exact ⟨_, _, rfl, cleared.unclean hc⟩
    split
    · exact ⟨_, _, rfl, armed.unclean hc⟩
    · exact ⟨_, _, rfl, (armed.trans (.updCore ..)).unclean hc⟩

theorem framed_encoded {w : Nat} (arr i n : Nat) (x : BitVec w) : M.Keeps (framed D) (encoded arr i n x) :=
  ⟨fun s => by
    obtain ⟨y, t, h, ht⟩ := encoded_framed D arr i n x s
    exact .of_ok h ht⟩

/-! ## Reading -/

theorem framed_takeReg (r : Nat) : M.Keeps (framed D) (takeReg r) :=
  .bind .me fun _ => .bind .get fun _ => .bind (framed_consume ..) fun _ => .pure _

theorem framed_takeVec (r : Nat) : M.Keeps (framed D) (takeVec r) :=
  .bind .get fun _ => .bind (framed_consume ..) fun _ => .bind .me fun _ => .pure _

theorem framed_oldV (d : Nat) : M.Keeps (framed D) (oldV d) := .ite (framed_takeVec d) (.pure _)

theorem framed_readM (m : Mk) : M.Keeps (framed D) (readM m) :=
  .ite (.pure _) (.bind .get fun _ => .bind (framed_consume ..) fun _ => .bind .me fun _ => .pure _)

theorem framed_readS (c : Nat) : M.Keeps (framed D) (readS c) := by
  refine .bind .get fun s => .ite (framed_takeReg c) (.ite ?_ ?_)
  · split
    · exact .bind (framed_consume ..) fun _ => .pure _
    · exact framed_wait _
  · split
    · exact .pure _
    · exact framed_trap ..
    · exact framed_wait _

theorem framed_readV (c : Nat) : M.Keeps (framed D) (readV c) := by
  refine .bind .get fun s => .ite ?_ (.ite ?_ ?_)
  · split
    · split
      · exact .pure _
      · exact .pure _
      · exact framed_rollback ..
    · exact framed_takeVec c
  · split
    · exact .bind (framed_consume ..) fun _ => .pure _
    · exact framed_wait _
  · split
    · exact .pure _
    · exact framed_trap ..
    · exact framed_wait _

/-! ## Readiness -/

/-- A check that answers nothing, or is not ready. -/
theorem framed_waitIf (c : Prop) [Decidable c] (n : Nat) :
    M.Keeps (framed D) (if c then wait n else pure () : M Unit) := .ite (framed_wait n) (.pure _)

theorem framed_readyS (c : Nat) : M.Keeps (framed D) (readyS c) :=
  .bind .get fun _ => .ite (framed_waitIf ..) (.ite (framed_waitIf ..) (framed_waitIf ..))

theorem framed_readyV (c : Nat) : M.Keeps (framed D) (readyV c) := by
  refine .bind .get fun _ => .ite ?_ (.ite (framed_waitIf ..) (framed_waitIf ..))
  split
  · exact framed_waitIf ..
  · exact .pure _

theorem framed_readyOut (c : Nat) : M.Keeps (framed D) (readyOut c) := by
  refine .bind .get fun _ => ?_
  split
  · exact .pure _
  · exact framed_waitIf ..

theorem framed_roomS (c : Nat) : M.Keeps (framed D) (roomS c) :=
  .bind .get fun _ => .ite (framed_waitIf ..) (.ite (framed_waitIf ..) (framed_readyOut c))

theorem framed_roomV (c : Nat) : M.Keeps (framed D) (roomV c) :=
  .bind .get fun _ => .ite (.pure _) (.ite (framed_waitIf ..) (framed_readyOut c))

theorem framed_meetS (c : Nat) : M.Keeps (framed D) (meetS c) :=
  .bind .me fun _ => .ite (.ite (.pure _) (.bind .get fun _ => framed_consume ..)) (.ite (framed_consume ..) (.pure _))

theorem framed_meetV (c : Nat) : M.Keeps (framed D) (meetV c) := by
  refine .bind .me fun _ => ?_
  split
  · split
    · exact framed_rollback ..
    · exact .pure _
  · exact .ite (.bind .get fun _ => framed_consume ..) (.ite (framed_consume ..) (.pure _))

theorem framed_meetAll (u : Uses) : M.Keeps (framed D) (meetAll u) :=
  .bind (.forM framed_meetS _) fun _ => .bind (.forM framed_meetV _) fun _ =>
    .forM (fun _ => .bind .get fun _ => framed_consume ..) _

theorem framed_ready (u : Uses) : M.Keeps (framed D) (ready u) := by
  have rooms : M.Keeps (framed D) (do u.ss.forM readyS; u.sv.forM readyV; u.ds.forM roomS; u.dv.forM roomV) :=
    .bind (.forM framed_readyS _) fun _ => .bind (.forM framed_readyV _) fun _ =>
      .bind (.forM framed_roomS _) fun _ => .forM framed_roomV _
  have unbound (c : Prop) [Decidable c] : M.Keeps (framed D)
      (if c then do meetAll u; trap cILLEGAL; u.ss.forM readyS; u.sv.forM readyV; u.ds.forM roomS; u.dv.forM roomV
       else do u.ss.forM readyS; u.sv.forM readyV; u.ds.forM roomS; u.dv.forM roomV) :=
    .ite (.bind (framed_meetAll u) fun _ => .bind (framed_trap ..) fun _ => rooms) rooms
  refine .bind .get fun s => ?_
  extract_lets k jp1
  split
  · exact .bind (framed_meetAll u) fun _ => .bind (framed_trap ..) fun _ => unbound _
  · exact unbound _

/-! ## Writing -/

theorem Ctx.setReg_rest (q : Ctx) (c : Nat) (v : DWord) : q.RestKept (q.setReg c v) ∧ (q.setReg c v).run = q.run := by
  unfold Ctx.setReg
  split
  · exact ⟨rfl, rfl⟩
  split
  · exact ⟨rfl, rfl⟩
  · exact ⟨rfl, rfl⟩

theorem Ctx.setReg_regs (q : Ctx) {c : Nat} (v : DWord) (hc : c < 32) (hd : D.scalar c) :
    q.RegsKept D (q.setReg c v) := by
  unfold Ctx.setReg
  split
  · next h =>
    refine { Ctx.RegsKept.refl D q with w := fun j hj => ?_ }
    have hne : c % 24 ≠ j.val := fun e => hj (by rwa [← e, Nat.mod_eq_of_lt h])
    simp [hne]
  split
  · exact .refl ..
  · next h h' =>
    refine { Ctx.RegsKept.refl D q with g := fun j hj => ?_ }
    have hne : c % 8 ≠ j.val := fun e => hj (by rwa [show 24 + j.val = c by omega])
    simp [hne]

theorem framed_putReg {c : Nat} (v : DWord) (hc : c < 32) (hd : D.scalar c) : M.Keeps (framed D) (putReg c v) :=
  .bind .me fun _ => .bind .get fun _ => .bind (framed_encoded ..) fun v =>
    framed_modMe (fun q => (q.setReg_rest c v).2) (fun q => (q.setReg_rest c v).1) fun q => q.setReg_regs v hc hd

theorem framed_putVec {r : Nat} (v : V512) (hr : r < 32) (hd : D.vector r) : M.Keeps (framed D) (putVec r v) := by
  refine .bind .get fun _ => .bind (framed_encoded ..) fun v => framed_modMe (fun _ => rfl) (fun _ => rfl) fun q => ?_
  refine { Ctx.RegsKept.refl D q with v := fun j hj => ?_ }
  have hne : r % 32 ≠ j.val := fun e => hj (by rwa [← e, Nat.mod_eq_of_lt hr])
  simp [Ctx.setV, hne]

theorem framed_writeM {m : Mk} (v : BitVec 16) (hd : D.mask m) : M.Keeps (framed D) (writeM m v) := by
  refine .ite (.pure _) (.bind .get fun _ => .bind (framed_encoded ..) fun v =>
    framed_modMe (fun _ => rfl) (fun _ => rfl) fun q => ?_)
  refine { Ctx.RegsKept.refl D q with m := fun j hj => ?_ }
  have hne : m.val ≠ j.val := fun e => hj (by rwa [← Fin.ext e])
  simp [hne]

theorem framed_sendFlit (c : Nat) (f : Flit) : M.Keeps (framed D) (sendFlit c f) := by
  refine .modify fun s => ?_
  split
  · exact .refl D s
  · exact .trans (.updCore s _) (.later ..)

/-- What is pushed on a queue, or any other change of the core that meets no code word. -/
theorem framed_modCore {f : Core → Core}
    (hf : ∀ s : State, s.codesClean s.core = true → (f (s.coreAt s.core)).flips = (s.coreAt s.core).flips)
    (hk : ∀ k : Core, k.RestKept (f k)) (hx : ∀ k, (f k).ctxs = k.ctxs) : M.Keeps (framed D) (modCore f) :=
  .modify fun s => .updCore s _ (fun hc k hks => by rw [hks]; exact hf s hc) hk hx

theorem framed_writeS {c : Nat} (v : DWord) (hd : D.scalar c) : M.Keeps (framed D) (writeS c v) := by
  refine .bind .get fun _ => ?_
  split
  · next h => exact framed_putReg v h hd
  split
  · exact .bind (framed_encoded ..) fun _ => framed_modCore (fun _ _ => rfl) (fun _ => ⟨rfl, rfl, rfl⟩) fun _ => rfl
  · exact framed_sendFlit ..

theorem framed_writeV {c : Nat} (v : V512) (hd : D.vector c) : M.Keeps (framed D) (writeV c v) := by
  refine .bind .get fun _ => ?_
  split
  · next h => exact framed_putVec v h hd
  split
  · exact .bind (framed_encoded ..) fun _ => framed_modCore (fun _ _ => rfl) (fun _ => ⟨rfl, rfl, rfl⟩) fun _ => rfl
  · exact framed_sendFlit ..

/-! ## Popping -/

theorem Core.popCodes_rest (k : Core) (n : Nat) : k.RestKept (k.popCodes n) := by
  unfold Core.popCodes
  split
  · exact ⟨rfl, rfl, rfl⟩
  · exact ⟨rfl, rfl, rfl⟩

/-- Where no code word has an error, there is none behind a head that leaves. -/
theorem popCodes_clean {c : Nat} (hc : s.codesClean c = true) (n : Nat) : (s.coreAt c).popCodes n = s.coreAt c := by
  have none6 : ((s.coreAt c).flips.any fun f => f.1 == 6) = false := by
    simp only [State.codesClean, Bool.and_eq_true, Bool.not_eq_true', List.any_eq_false] at hc ⊢
    intro f hf h6
    refine hc.1 f hf ?_
    simp_all [regArray]
  simp [Core.popCodes, none6]

theorem framed_popStream (c : Nat) : M.Keeps (framed D) (popStream c) := by
  refine .bind .me fun _ => ?_
  split
  · exact .pure _
  · exact .bind (framed_modMe (fun _ => rfl) (fun _ => rfl) fun _ => .of_eq) fun _ => .modify fun s => .later ..

theorem framed_popAll (u : Uses) : M.Keeps (framed D) (popAll u) := by
  refine .bind (.forM (fun c => ?_) _) fun _ => .bind (.forM (fun c => ?_) _) fun _ =>
    .bind (.forM (fun c => ?_) _) fun _ => .forM framed_popStream _
  · exact framed_modCore (fun _ _ => rfl) (fun _ => ⟨rfl, rfl, rfl⟩) fun _ => rfl
  · exact framed_modCore (fun s hc => by rw [popCodes_clean hc]; rfl) (fun k => k.popCodes_rest _)
      fun k => k.popCodes_ctxs _
  · exact framed_modCore (fun s hc => by rw [popCodes_clean hc]; rfl) (fun k => k.popCodes_rest _)
      fun k => k.popCodes_ctxs _

/-! ## Units over operands -/

theorem framed_using {m : M α} {u : Uses} (hm : M.Keeps (framed D) m) :
    M.Keeps (framed D) (using_ u m) := by
  refine .bind (framed_ready u) fun _ => .bind (framed_meetAll u) fun _ => .bind (.tryCatch hm fun e he => ?_) fun _ =>
    .bind (framed_popAll u) fun _ => .pure _
  split
  · exact absurd he id
  · exact absurd he id
  · exact .ite (.bind (.pure _) fun _ => .throw he) (.throw he)
  · exact .throw he

theorem framed_unitS {ss : List Nat} {d : Nat} {m : M DWord} (hm : M.Keeps (framed D) m) (hd : D.scalar d) :
    M.Keeps (framed D) (unitS ss d m) :=
  framed_using (.bind hm fun v => .bind (framed_writeS v hd) fun _ => .pure _)

end Sys2Proof.Machine
end

section
/-! SUPPORT. How a unit of the register instructions leaves the machine, whichever way it ends. -/

namespace Sys2Proof.Machine

variable {D : Dest} {s t u : State}

/-- What a trap writes of its context (R62). -/
def Ctx.TrapTaken (q q' : Ctx) : Prop :=
  q.ts = false ∧ q'.ts = true ∧ q' = { q with
    ts := q'.ts, mode := q'.mode, savedMode := q'.savedMode, sv := q'.sv, trapcause := q'.trapcause, trappc := q'.trappc
    trapinst := q'.trapinst, trapval := q'.trapval, trapptr := q'.trapptr, sig := q'.sig, blocked := q'.blocked
    latch := q'.latch, metSift := q'.metSift, run := q'.run, pc := q'.pc }

/-- A unit that may write D has led from s to t, and has taken no trap. -/
structure State.Passed (D : Dest) (s t : State) : Prop where
  outside : s.OutsideKept t
  cores : ∀ c, (s.coreAt c).RestKept (t.coreAt c)
  mgmt : s.codesClean s.core = true → t.mgmt = s.mgmt
  rest : s.now.RestKept t.now
  regs : s.now.RegsKept D t.now

/-- A unit that may write D leaves s as t, whether it has taken a trap or not. -/
structure State.Left (D : Dest) (s t : State) : Prop where
  outside : s.OutsideKept t
  cores : ∀ c, (s.coreAt c).RestKept (t.coreAt c)
  mgmt : s.codesClean s.core = true → t.mgmt = s.mgmt
  rest : ∃ q, s.now.RestKept q ∧ (t.now = q ∨ q.TrapTaken t.now)
  regs : s.now.RegsKept D t.now

/-- The unit has ended its activation, or leaves s as t. -/
def State.EndsIn (D : Dest) (s t : State) : Prop := t.now.run = .free ∨ s.Left D t

theorem State.Worked.passed (h : s.Worked D t) : s.Passed D t :=
  ⟨h.outside, h.cores, fun hc => (h.codes hc).1, h.rest, h.regs⟩

theorem State.Frees.run_free (h : s.Frees s.core s.ctx t) : t.now.run = .free := by
  rw [State.now, h.core, h.ctx]
  exact h.freed

theorem State.Frees.endsIn (h : s.Frees s.core s.ctx t) : u.EndsIn D t := .inl h.run_free

/-! ## The course of a unit after its work -/

namespace State.Passed

theorem endsIn (h : s.Passed D t) : s.EndsIn D t := .inr ⟨h.outside, h.cores, h.mgmt, ⟨_, h.rest, .inl rfl⟩, h.regs⟩

theorem updMe (h : s.Passed D t) {f : Ctx → Ctx} (hr : t.now.RestKept (f t.now)) (hd : t.now.RegsKept D (f t.now)) :
    s.Passed D (t.updCtx t.core t.ctx f) := by
  have now : (t.updCtx t.core t.ctx f).now = f t.now := t.ctxAt_updCtx _ _ f
  exact ⟨h.outside.trans rfl, fun c => (h.cores c).trans (Worked.coreAt_updMe t f c).1, h.mgmt,
    by rw [now]; exact h.rest.trans hr, by rw [now]; exact h.regs.trans hd⟩

theorem now_issued (s : State) (x : Fin 8) : (s.updCore s.core (·.issued x)).now =
    { s.now with yieldTo := s.now.yieldTo.filter (· != x.val) } := by
  simp [State.now, State.ctxAt, Core.issued, Core.passed, Core.release]

theorem issued (h : s.Passed D t) (x : Fin 8) : s.Passed D (t.updCore t.core (·.issued x)) := by
  refine ⟨h.outside.trans rfl, fun c => (h.cores c).trans ?_, h.mgmt, ?_, ?_⟩
  · rw [State.Framed.coreAt_updCore]
    split
    · exact ⟨rfl, rfl, rfl⟩
    · exact ⟨rfl, rfl, rfl⟩
  · rw [now_issued]
    exact h.rest.trans rfl
  · rw [now_issued]
    exact h.regs.trans .of_eq

theorem trap (h : s.Passed D t) (cause val : Nat) (ptr : Option (Fin 16)) :
    s.EndsIn D (t.trap t.core t.ctx cause val ptr) := by
  unfold State.trap
  extract_lets q
  split
  · exact (t.kill_frees ..).endsIn
  next hq =>
  generalize hf : (fun q : Ctx => _) = f
  have now : (t.updCtx t.core t.ctx f).now = f t.now := t.ctxAt_updCtx _ _ f
  have hts : t.now.ts = false := by
    simp only [Bool.or_eq_true, not_or, Bool.not_eq_true] at hq
    exact hq.1
  refine .inr ⟨h.outside.trans rfl, fun c => (h.cores c).trans (Worked.coreAt_updMe t f c).1, h.mgmt,
    ⟨t.now, h.rest, .inr ?_⟩, ?_⟩
  · rw [now, ← hf]
    exact ⟨hts, rfl, rfl⟩
  · rw [now, ← hf]
    exact h.regs.trans .of_eq

theorem takeTrap (h : s.Passed D t) (cause val : Nat) (ptr : Option (Fin 16)) :
    s.EndsIn D (t.takeTrap cause val ptr none) := by
  unfold State.takeTrap
  extract_lets s1 s2
  have marked : s.Passed D s2 := updMe (h.issued t.ctx) rfl .of_eq
  exact marked.trap cause val ptr

theorem stall (h : s.Passed D t) (id : Nat) : s.EndsIn D (t.stall id) := by
  unfold State.stall
  exact endsIn (updMe h rfl .of_eq)

end State.Passed

theorem Ctx.completed_kept (q : Ctx) (i : Instr) (b : Bool) (pc : DWord) (f : Flow) :
    q.RestKept (q.completed i b pc f) ∧ q.RegsKept D (q.completed i b pc f) ∧ (q.completed i b pc f).run = q.run := by
  unfold Ctx.completed
  extract_lets q'
  split
  · unfold Ctx.advance
    split
    · exact ⟨rfl, .of_eq, rfl⟩
    · exact ⟨rfl, .of_eq, rfl⟩
  · exact ⟨rfl, .of_eq, rfl⟩
  · exact ⟨rfl, .of_eq, rfl⟩

theorem State.noteHeld_live (h : s.now.run = .live) : s.noteHeld s.core s.ctx = s := by
  have hr : (s.ctxAt s.core s.ctx).run = .live := h
  simp only [State.noteHeld, hr]

theorem State.Passed.finish (h : s.Passed D t) (hrun : t.now.run = .live) (hc : u.core = t.core) (hx : u.ctx = t.ctx)
    (i : Instr) (f : Flow) : s.EndsIn D (u.finish i f t) := by
  unfold State.finish
  rw [hc, hx]
  extract_lets t'
  have issued : s.Passed D t' := h.issued t.ctx
  have live : t'.now.run = .live := by rw [Passed.now_issued]; exact hrun
  have completed (b : Bool) (pc : DWord) : s.EndsIn D
      ((t'.updCtx t'.core t'.ctx fun q => q.completed i b pc f).noteHeld t'.core t'.ctx) := by
    obtain ⟨hr, hd, hl⟩ := t'.now.completed_kept (D := D) i b pc f
    have now : (t'.updCtx t'.core t'.ctx fun q => q.completed i b pc f).now = t'.now.completed i b pc f :=
      t'.ctxAt_updCtx ..
    have held := State.noteHeld_live (s := t'.updCtx t'.core t'.ctx fun q => q.completed i b pc f)
      (by rw [now, hl, live])
    rw [State.updCtx_core, State.updCtx_ctx] at held
    rw [held]
    exact (issued.updMe hr hd).endsIn
  split
  · exact issued.endsIn
  · exact completed ..

/-! ## A unit that stops -/

theorem State.keepMet_framed (s t : State) : s.Framed D (s.keepMet t) := by
  unfold State.keepMet
  split
  · exact .refl D s
  refine .foldl (fun u e => ?_) _ s
  extract_lets inj u1 u2
  split
  · exact .refl D u
  have copied : u.Framed D u1 := .foldl (fun s i => .setCoreReg s ..) _ u
  have injected : u.Framed D u2 := by
    unfold u2
    split
    · exact copied.trans (.setCoreReg ..)
    · exact copied
  exact injected.trans (.updCore ..)

theorem State.keepMet_codesKept (h : s.CodesKept t) : s.keepMet t = s := by
  simp [State.keepMet, h.1, h.2]

theorem State.Worked.keepMet (h : s.Worked D t) : s.Worked D (s.keepMet t) where
  toFramed := s.keepMet_framed t
  codes hc := by
    rw [State.keepMet_codesKept (h.codes hc)]
    exact ⟨rfl, fun _ => rfl⟩

theorem State.Worked.dropSifts (s : State) (c : Nat) (x : Fin 8) : s.Worked D (s.dropSifts c x) := by
  unfold State.dropSifts
  split
  · exact .refl D s
  · exact ⟨⟨rfl, fun _ => ⟨rfl, rfl, rfl⟩, rfl, rfl, .refl D _⟩, fun _ => ⟨rfl, fun _ => rfl⟩⟩

theorem State.stopped_endsIn (hs : u.Worked D s) (ht : s.Worked D t) {e : Stop} (he : e.plain) :
    u.EndsIn D (s.stopped e t) := by
  have met := (hs.trans ht.keepMet).passed
  cases e with
  | wait id =>
    show u.EndsIn D (if _ then _ else _)
    split
    · exact hs.passed.takeTrap ..
    · exact hs.passed.stall id
  | trap cause val ptr flag =>
    obtain rfl : flag = none := he
    show u.EndsIn D (if _ then _ else _)
    split
    · exact met.takeTrap ..
    · exact met.takeTrap ..
  | rollback cause val => exact ((State.rollback_frees ..).after (s.steady_keepLogs s.core t)).endsIn
  | _ => exact absurd he id

theorem State.runWork_endsIn {i : Instr} {body : M Flow} (hb : M.Keeps (framed D) body) (hs : u.Worked D s)
    (hrun : s.now.run = .live) : u.EndsIn D (runWork i body s) := by
  have stopped {e : Stop} {t : State} (h : body s = .error e t) : u.EndsIn D (s.stopped e t) := by
    obtain ⟨he, ht⟩ := (hb.from_ s).error h
    exact stopped_endsIn hs ht he
  unfold runWork
  split
  · next h => exact stopped h
  split
  · exact hs.passed.trap ..
  split
  · next f t h =>
    have ht : s.Worked D t := (hb.from_ s).ok h
    split
    · exact (hs.trans ht).passed.finish (ht.run.trans hrun) ht.outside.core.symm ht.outside.ctx.symm i f
    · exact hs.passed.takeTrap ..
  · next h => exact stopped h

/-- However the work of a unit ends that may write D, its activation has ended, or the unit leaves all else as it
was. -/
theorem unit_endsIn {i : Instr} {body : M Flow} (hb : M.Keeps (framed D) body) (hrun : s.now.run = .live)
    (h : unit i body s = .next t) : s.EndsIn D t := by
  cases h
  have hs : s.Worked D (s.dropSifts s.core s.ctx) := .dropSifts ..
  have hlive : (s.dropSifts s.core s.ctx).now.run = .live := hs.run.trans hrun
  unfold runUnit
  generalize s.dropSifts s.core s.ctx = u at hs hlive
  simp only []
  split
  · exact hs.passed.stall _
  split
  · exact State.runWork_endsIn hb hs hlive
  split
  · exact hs.passed.trap ..
  · exact hs.passed.takeTrap ..

end Sys2Proof.Machine
end

section
/-! SUPPORT. What the claims about frames read off how a unit leaves the machine. -/

namespace Sys2Proof.Machine

variable {D : Dest} {s t : State}

namespace State.Left

theorem sameMemory (h : s.Left D t) : Claims.sameMemory s t := by
  intro a
  rw [h.outside]
  exact ⟨rfl, rfl, rfl, rfl⟩

theorem sameScalars (h : s.Left D t) {d : Nat} (hd : ∀ j, D.scalar j → j = d) : Claims.sameScalars s t d :=
  ⟨fun j hj => h.regs.w j (hj ∘ hd _), fun j hj => h.regs.g j (hj ∘ hd _)⟩

theorem sameVectors (h : s.Left D t) {d : Nat} (hd : ∀ j, D.vector j → j = d) : Claims.sameVectors s t d :=
  fun j hj _ => h.regs.v j (hj ∘ hd _)

theorem w_eq (h : s.Left D t) (hd : ∀ j, ¬ D.scalar j) : t.now.w = s.now.w :=
  Vector.ext fun j hj => h.regs.w ⟨j, hj⟩ (hd _)

theorem g_eq (h : s.Left D t) (hd : ∀ j, ¬ D.scalar j) : t.now.g = s.now.g :=
  Vector.ext fun j hj => h.regs.g ⟨j, hj⟩ (hd _)

theorem v_eq (h : s.Left D t) (hd : ∀ j, ¬ D.vector j) : t.now.v = s.now.v :=
  Vector.ext fun j hj => h.regs.v ⟨j, hj⟩ (hd _)

theorem m_eq (h : s.Left D t) (hd : ∀ j, ¬ D.mask j) : t.now.m = s.now.m :=
  Vector.ext fun j hj => h.regs.m ⟨j, hj⟩ (hd _)

/-- Of its context a unit moves at most what its course and a trap write. -/
theorem now_eq (h : s.Left D t) : t.now = { s.now with
    w := t.now.w, g := t.now.g, v := t.now.v, m := t.now.m, strm := t.now.strm, fexc := t.now.fexc
    srseed := t.now.srseed, pc := t.now.pc, sig := t.now.sig, lcount := t.now.lcount, hbudget := t.now.hbudget
    run := t.now.run, blocked := t.now.blocked, stalls := t.now.stalls, latch := t.now.latch
    metSift := t.now.metSift, yieldTo := t.now.yieldTo, ts := t.now.ts, mode := t.now.mode
    savedMode := t.now.savedMode, sv := t.now.sv, trapcause := t.now.trapcause, trappc := t.now.trappc
    trapinst := t.now.trapinst, trapval := t.now.trapval, trapptr := t.now.trapptr } := by
  obtain ⟨q, hq, ht | ⟨-, -, ht⟩⟩ := h.rest
  · rw [ht, hq]
  · rw [ht, hq]

/-- Where TS is as before, the unit took no trap. -/
theorem untrapped (h : s.Left D t) (hts : t.now.ts = s.now.ts) :
    t.now.mode = s.now.mode ∧ t.now.trapcause = s.now.trapcause ∧ t.now.trappc = s.now.trappc ∧
      t.now.trapinst = s.now.trapinst ∧ t.now.trapval = s.now.trapval ∧ t.now.trapptr = s.now.trapptr := by
  obtain ⟨q, hq, ht | ⟨h0, h1, -⟩⟩ := h.rest
  · rw [ht, hq]
    exact ⟨rfl, rfl, rfl, rfl, rfl, rfl⟩
  · rw [hq] at h0
    exact absurd ((h1.symm.trans hts).trans h0) (by decide)

theorem sameRest (h : s.Left D t) : Claims.sameRest s t := by
  have outside := h.outside
  have core : t.nowCore = t.coreAt s.core := by rw [State.nowCore, outside.core]
  obtain ⟨tiles, classes, panes⟩ := h.cores s.core
  unfold Claims.sameRest
  simp only [core]
  refine ⟨outside.core, outside.ctx, ?p, ?tm, ?outbox, ?below, ?depth, ?evt, ?rangeflag, ?rangectl, ?waitbudget,
    ?abfttol, ?jobdone, ?lstart, ?lend, ?wb, ?wp, ?spilltop, ?spillcap, ?trapvec, ?oc, ?hnd, h.untrapped,
    tiles, classes, panes, ?clusters, ?dies, ?pkg, ?reqs, ?nodes, h.mgmt⟩
  case clusters | dies | pkg | reqs | nodes => rw [outside]
  all_goals rw [h.now_eq]

end State.Left

end Sys2Proof.Machine
end

section
/-! SUPPORT. The frame of the scalar register instructions and the branches (R66-R75), and O59. -/

namespace Sys2Proof.Machine

variable {D : Dest} {i : Instr} {s t : State}

/-- The instruction is a unit whose work writes at most D. -/
def UnitWrites (D : Dest) (i : Instr) : Prop := ∃ body, (∀ s, exec i s = unit i body s) ∧ M.Keeps (framed D) body

theorem UnitWrites.left (h : UnitWrites D i) (hrun : s.now.run = .live) (ht : exec i s = .next t)
    (hf : t.now.run ≠ .free) : s.Left D t := by
  obtain ⟨body, he, hb⟩ := h
  exact (unit_endsIn hb hrun ((he s).symm.trans ht)).resolve_left hf

/-- The scalar register with code d. -/
def Dest.reg (d : Nat) : Dest := { scalar := (· = d) }

/-! ## What the scalar instructions share -/

section
variable {wd : Bool} {d a b : Nat}

theorem alu2_writes {f : Op2} (h : ∀ s, exec i s = alu2 i wd d a b f s) : UnitWrites (.reg d) i :=
  ⟨_, h, framed_unitS (.bind (framed_readS a) fun _ => .bind (framed_readS b) fun _ => .pure _) rfl⟩

theorem alu1_writes {f : (n : Nat) → BitVec n → BitVec n} (h : ∀ s, exec i s = alu1 i wd d a f s) :
    UnitWrites (.reg d) i := ⟨_, h, framed_unitS (.bind (framed_readS a) fun _ => .pure _) rfl⟩

theorem aluI_writes {y : DWord} {f : Op2} (h : ∀ s, exec i s = aluI i wd d a y f s) : UnitWrites (.reg d) i :=
  ⟨_, h, framed_unitS (.bind (framed_readS a) fun _ => .pure _) rfl⟩

end

theorem framed_relative (pc : DWord) (off : Int) : M.Keeps (framed D) (relative pc off) :=
  .bind (framed_require ..) fun _ => .pure _

theorem framed_compare2 (a b : Nat) (f : DWord → DWord → Bool) : M.Keeps (framed D) (compare2 a b f) :=
  .bind (framed_readS a) fun _ => .bind (framed_readS b) fun _ => .pure _

theorem branch_writes {ss : List Nat} {off : Int} {cond : M Bool} (hc : M.Keeps (framed D) cond)
    (h : ∀ s, exec i s = branch i ss off cond s) : UnitWrites D i :=
  ⟨_, h, framed_using (.bind hc fun _ =>
    .ite (.bind (.bind .me fun _ => .pure _) fun _ => framed_relative ..) (.pure _))⟩

/-! ## The instructions -/

theorem forall_fst_cons {α : Type} {P : Instr → Prop} {p : Instr × α} {l : List (Instr × α)} :
    (∀ i ∈ (p :: l).map Prod.fst, P i) ↔ P p.1 ∧ ∀ i ∈ l.map Prod.fst, P i := List.forall_mem_cons

theorem forall_fst_nil {α : Type} {P : Instr → Prop} : (∀ i ∈ ([] : List (Instr × α)).map Prod.fst, P i) ↔ True :=
  iff_true_intro fun _ h => absurd h List.not_mem_nil

theorem twoSource_writes (wd : Bool) (d a b : Sc) :
    ∀ i ∈ (Claims.twoSource wd d a b).map Prod.fst, UnitWrites (.reg d.val) i := by
  simp only [Claims.twoSource, forall_fst_cons, forall_fst_nil, and_true]
  and_intros
  all_goals exact alu2_writes fun _ => rfl

theorem oneSource_writes (wd : Bool) (d a : Sc) :
    ∀ i ∈ (Claims.oneSource wd d a).map Prod.fst, UnitWrites (.reg d.val) i := by
  simp only [Claims.oneSource, forall_fst_cons, forall_fst_nil, and_true]
  and_intros
  all_goals exact alu1_writes fun _ => rfl

theorem immediate_writes (wd : Bool) (d a : Sc) (imm : BitVec 10) (k : Fin 64) :
    ∀ i ∈ (Claims.immediate wd d a imm k).map Prod.fst, UnitWrites (.reg d.val) i := by
  simp only [Claims.immediate, forall_fst_cons, forall_fst_nil, and_true]
  and_intros
  all_goals exact aluI_writes fun _ => rfl

theorem compactImmediate_writes (d : R5) (imm : BitVec 6) (k : Fin 64) :
    ∀ i ∈ (Claims.compactImmediate d imm k).map Prod.fst, UnitWrites (.reg d.val) i := by
  simp only [Claims.compactImmediate, forall_fst_cons, forall_fst_nil, and_true]
  and_intros
  all_goals exact aluI_writes fun _ => rfl

theorem compactRegister_writes (d a : R5) :
    ∀ i ∈ (Claims.compactRegister d a).map Prod.fst, UnitWrites (.reg d.val) i := by
  simp only [Claims.compactRegister, forall_fst_cons, forall_fst_nil, and_true]
  and_intros
  all_goals exact alu2_writes fun _ => rfl

theorem sel_writes (wd : Bool) (d : Sc) (c : Fin 16) (a b : Sc) : UnitWrites (.reg d.val) (.sel wd d c a b) :=
  ⟨_, fun _ => rfl, framed_unitS (.bind (framed_readS _) fun _ => .bind (framed_readS _) fun _ =>
    .bind (framed_readS _) fun _ => .pure _) rfl⟩

theorem movi_writes (d : Sc) (imm : BitVec 18) : UnitWrites (.reg d.val) (.movi d imm) :=
  ⟨_, fun _ => rfl, framed_unitS (.pure _) rfl⟩

theorem moviCompact_writes (d : R5) (imm : BitVec 6) : UnitWrites (.reg d.val) (.moviCompact d imm) :=
  ⟨_, fun _ => rfl, framed_unitS (.pure _) rfl⟩

theorem movhi_writes (d : Sc) (imm : BitVec 16) (k : Fin 4) : UnitWrites (.reg d.val) (.movhi d imm k) :=
  ⟨_, fun _ => rfl, framed_unitS (.bind (framed_readS _) fun _ => .pure _) rfl⟩

theorem bfx_writes (d a : Sc) (pos lm : Fin 64) : UnitWrites (.reg d.val) (.bfx d a pos lm) :=
  ⟨_, fun _ => rfl, framed_unitS (.bind (framed_readS _) fun _ => .pure _) rfl⟩

theorem bfi_writes (d a : Sc) (pos lm : Fin 64) : UnitWrites (.reg d.val) (.bfi d a pos lm) :=
  ⟨_, fun _ => rfl, framed_unitS (.bind (framed_readS _) fun _ =>
    .ite (.bind (framed_readS _) fun _ => .pure _) (.bind (.pure _) fun _ => .pure _)) rfl⟩

theorem scalarRegister_writes {d : Nat} (h : Claims.scalarRegister i d) : UnitWrites (.reg d) i := by
  obtain ⟨wd, e, a, b, imm, wide, half, short, k, l, p, c, r, q, hi⟩ := h
  obtain ⟨rfl, hi | hi | hi | hi⟩ | ⟨rfl, hi | hi | hi⟩ := hi
  · exact twoSource_writes wd e a b i hi
  · exact oneSource_writes wd e a i hi
  · exact immediate_writes wd e a imm k i hi
  · simp only [List.mem_cons, List.not_mem_nil, or_false] at hi
    obtain rfl | rfl | rfl | rfl | rfl := hi
    · exact movi_writes e wide
    · exact movhi_writes e half p
    · exact sel_writes wd e c a b
    · exact bfx_writes e a k l
    · exact bfi_writes e a k l
  · exact compactImmediate_writes r short k i hi
  · exact compactRegister_writes r q i hi
  · simp only [List.mem_cons, List.not_mem_nil, or_false] at hi
    obtain rfl | rfl := hi
    · exact moviCompact_writes r short
    · exact alu2_writes fun _ => rfl

theorem branchTwo_writes (a b : Sc) (off : BitVec 10) :
    ∀ i ∈ (Claims.branchTwo a b off).map Prod.fst, UnitWrites {} i := by
  simp only [Claims.branchTwo, forall_fst_cons, forall_fst_nil, and_true]
  and_intros
  all_goals exact branch_writes (framed_compare2 ..) fun _ => rfl

theorem branchOne_writes (a : Sc) (c : R5) (off : BitVec 10) (imm : BitVec 6) :
    ∀ i ∈ (Claims.branchOne a c off imm).map Prod.fst, UnitWrites {} i := by
  simp only [Claims.branchOne, forall_fst_cons, forall_fst_nil, and_true]
  and_intros
  all_goals exact branch_writes (.bind (framed_readS _) fun _ => .pure _) fun _ => rfl

theorem branches_write (h : Claims.branches i) : UnitWrites {} i := by
  obtain ⟨a, b, c, off, imm, hi | hi⟩ := h
  · exact branchTwo_writes a b off i hi
  · exact branchOne_writes a c off imm i hi

end Sys2Proof.Machine

open Sys2Proof Sys2Proof.Machine

/-- Settles O59: a unit of these instructions, however it ends, leaves of the machine all as it was but its destination
and what the course of units and a trap write. -/
theorem scalarFrame : Obligations.ScalarFrame := by
  unfold Obligations.ScalarFrame
  refine ⟨fun i d s t hi hrun ht hf => ?_, fun i s t hi hrun ht hf => ?_⟩
  · have h := (scalarRegister_writes hi).left hrun ht hf
    exact ⟨h.sameMemory, h.sameScalars fun _ => id, h.v_eq fun _ => id, h.m_eq fun _ => id, h.regs.fexc id,
      h.regs.srseed id, h.sameRest⟩
  · have h := (branches_write hi).left hrun ht hf
    exact ⟨h.sameMemory, h.w_eq fun _ => id, h.g_eq fun _ => id, h.v_eq fun _ => id, h.m_eq fun _ => id,
      h.regs.fexc id, h.regs.srseed id, h.sameRest⟩
end

section
/-! SUPPORT. The frame of the vector and mask register instructions (R133-R145), and O60. -/

namespace Sys2Proof.Machine

variable {α : Type} {D : Dest} {i : Instr} {s t : State} {vx : Vx} {d : Nat}

/-- The vector register with code d, flags of FEXC, and SRSEED. -/
def Dest.lanes (d : Nat) : Dest := { vector := (· = d), flags := True, seed := True }

/-- Lane mask m. -/
def Dest.one (m : Mk) : Dest := { mask := (· = m) }

/-- Lane mask m, and flags of FEXC. -/
def Dest.compared (m : Mk) : Dest := { mask := (· = m), flags := True }

/-- The vector registers with codes d and d + 1, flags of FEXC, and SRSEED. -/
def Dest.pair (d : Nat) : Dest := { vector := fun j => j = d ∨ j = d + 1, flags := True, seed := True }

/-! ## Rounding -/

theorem framed_raise (hf : D.flags) (f : Flags) : M.Keeps (framed D) (raise f) :=
  framed_modMe (fun _ => rfl) (fun _ => rfl) fun q =>
    { Ctx.RegsKept.refl D q with gains := gains_or q.fexc f, fexc := absurd hf }

theorem framed_flushed (hf : D.flags) (ty c : Nat) : M.Keeps (framed D) (flushed ty c) :=
  .ite (.bind (framed_raise hf _) fun _ => .pure _) (.pure _)

theorem framed_quieted (hf : D.flags) (ty c : Nat) : M.Keeps (framed D) (quieted ty c) :=
  .ite (.pure _) (.bind (framed_raise hf _) fun _ => .pure _)

section
variable (hf : D.flags) (hs : D.seed)
include hf hs

theorem framed_round (ty : Nat) (mode : Mode) (v : FVal) (f : Flags) : M.Keeps (framed D) (round ty mode v f) := by
  refine .bind .me fun x => ?_
  refine .bind (framed_modMe (fun _ => rfl) (fun _ => rfl) fun q => ?_) fun _ => .pure _
  have gains : q.fexc &&& ~~~(q.fexc ||| f ||| (roundStep ty mode x.srseed v).2.1) = 0 := by
    rw [BitVec.or_assoc]
    exact gains_or q.fexc _
  exact { Ctx.RegsKept.refl D q with gains, fexc := absurd hf, srseed := absurd hs }

theorem framed_lane2 (vx : Vx) (f : Fn2) (x y : V512) (i : Nat) : M.Keeps (framed D) (lane2 vx f x y i) :=
  .ite (.pure _) (framed_round hf hs ..)

theorem framed_lanePick (vx : Vx) (f : FVal → FVal → FVal × Flags) (g : Int → Int → Int) (a b : Nat) :
    M.Keeps (framed D) (lanePick vx f g a b) := .ite (.pure _) (framed_round hf hs ..)

theorem framed_combine (vx : Vx) (op : Nat) (act : Bool) (a b : Nat) : M.Keeps (framed D) (combine vx op act a b) :=
  .ite (.pure _) (.ite (framed_round hf hs ..) (.bind .me fun _ => .pure _))

theorem framed_treeLevel (vx : Vx) (op : Nat) (xs : List Nat) : M.Keeps (framed D) (treeLevel vx op xs) := by
  induction xs using treeLevel.induct with
  | case1 a b t ih => exact .bind (framed_combine hf hs ..) fun _ => .bind ih fun _ => .pure _
  | case2 xs h =>
    unfold treeLevel
    split
    · exact absurd rfl (h _ _ _)
    · exact .pure _

theorem framed_treeOf (vx : Vx) (op n : Nat) (xs : List Nat) : M.Keeps (framed D) (treeOf vx op n xs) := by
  induction n generalizing xs with
  | zero => exact .pure _
  | succ n ih => exact .bind (framed_treeLevel hf hs ..) fun _ => ih _

theorem framed_scanPass (vx : Vx) (op : Nat) (m : BitVec 16) (k : Nat) (old : List Nat) (i : Nat) :
    M.Keeps (framed D) (scanPass vx op m k old i) := by
  induction i with
  | zero => exact .pure _
  | succ i ih =>
    exact .ite (.bind (framed_combine hf hs ..) fun _ => .bind ih fun _ => .pure _)
      (.bind (.pure _) fun _ => .bind ih fun _ => .pure _)

theorem framed_scanOf (vx : Vx) (op : Nat) (m : BitVec 16) (n k : Nat) (xs : List Nat) :
    M.Keeps (framed D) (scanOf vx op m n k xs) := by
  induction n generalizing k xs with
  | zero => exact .pure _
  | succ n ih => exact .bind (framed_scanPass hf hs ..) fun _ => ih ..

theorem framed_convertElem (vx : Vx) (src c : Nat) : M.Keeps (framed D) (convertElem vx src c) :=
  .ite (.pure _) (.bind (framed_round hf hs ..) fun _ => .pure _)

end

theorem framed_activePair (vx : Vx) : M.Keeps (framed D) (activePair vx) :=
  .bind (framed_readM _) fun _ => .ite (.bind (.pure _) fun _ => .pure _) (.bind (framed_readM _) fun _ => .pure _)

/-! ## Lanes -/

theorem framed_lanewise {f : Nat → M Nat} (hd : D.vector d) (hf : ∀ i, M.Keeps (framed D) (f i)) :
    M.Keeps (framed D) (lanewise vx d f) :=
  .bind (framed_readM _) fun _ => .bind (framed_oldV d) fun _ =>
    .bind (.mapM (fun i => .ite (hf i) (.pure _)) _) fun _ => framed_writeV _ hd

theorem framed_writeLane0 (hd : D.vector d) (x : Nat) : M.Keeps (framed D) (writeLane0 vx d x) :=
  .bind (framed_oldV d) fun _ => framed_writeV _ hd

/-! ## What the vector instructions share -/

section
variable {a b : Nat}

/-- The lanes of the destination, each rounded or not. -/
theorem framed_lanes {f : Nat → M Nat} (hf : ∀ i, M.Keeps (framed (.lanes d)) (f i)) :
    M.Keeps (framed (.lanes d)) (do lanewise vx d f; pure Flow.seq) :=
  .bind (framed_lanewise rfl hf) fun _ => .pure _

theorem vector1_writes {f : Nat → M Nat} (h : ∀ s, exec i s = vector1 i vx d a f s)
    (hf : ∀ c, M.Keeps (framed (.lanes d)) (f c)) : UnitWrites (.lanes d) i :=
  ⟨_, h, framed_using (.bind (framed_readV a) fun _ => framed_lanes fun _ => hf _)⟩

theorem vectorFn_writes {f : FVal → FVal × Flags} (h : ∀ s, exec i s = vectorFn i vx d a f s) :
    UnitWrites (.lanes d) i :=
  vector1_writes h fun _ => .bind (framed_round trivial trivial ..) fun _ => framed_flushed trivial ..

theorem vector2_writes {f : Fn2} (h : ∀ s, exec i s = vector2 i vx d a b f s) : UnitWrites (.lanes d) i :=
  ⟨_, h, framed_using (.bind (framed_readV a) fun _ => .bind (framed_readV b) fun _ =>
    framed_lanes fun _ => framed_lane2 trivial trivial ..)⟩

theorem vectorPick_writes {f : FVal → FVal → FVal × Flags} {g : Int → Int → Int}
    (h : ∀ s, exec i s = vectorPick i vx d a b f g s) : UnitWrites (.lanes d) i :=
  ⟨_, h, framed_using (.bind (framed_readV a) fun _ => .bind (framed_readV b) fun _ =>
    framed_lanes fun _ => framed_lanePick trivial trivial ..)⟩

theorem vectorBits_writes {f : (n : Nat) → BitVec n → BitVec n → BitVec n}
    (h : ∀ s, exec i s = vectorBits i vx d a b f s) : UnitWrites (.lanes d) i :=
  ⟨_, h, framed_using (.bind (framed_readV a) fun _ => .bind (framed_readV b) fun _ => framed_lanes fun _ => .pure _)⟩

theorem vector3_writes {f : Bool → FVal → FVal → FVal → FVal × Flags} {g : Int → Int → Int → Int}
    (h : ∀ s, exec i s = vector3 i vx d a b f g s) : UnitWrites (.lanes d) i :=
  ⟨_, h, framed_using (.bind (framed_readV a) fun _ => .bind (framed_readV b) fun _ => .bind (framed_readV d) fun _ =>
    framed_lanes fun _ => .ite (.pure _) (framed_round trivial trivial ..))⟩

end

/-! ## The vector instructions -/

/-- The meaning of an instruction under its own name: unification against what the vector instructions share then starts
from that name, and not from the dispatch. -/
theorem exec_arm (g : State → Out) (h : ∀ s, exec i s = g s := by intro s; rfl) (s : State) : exec i s = g s := h s

section
variable (vx : Vx) (d a b : Vc) (sc : Sc) (lane : Fin 64)

theorem vectorTwo_write : ∀ i ∈ (Claims.vectorTwo vx d a b).map Prod.fst, UnitWrites (.lanes d.val) i := by
  have vperm : UnitWrites (.lanes d.val) (.vperm vx d a b) :=
    ⟨_, fun _ => rfl, framed_using (.bind (framed_readV _) fun _ => .bind (framed_readV _) fun _ =>
      framed_lanes fun _ => .pure _)⟩
  simp only [Claims.vectorTwo, forall_fst_cons, forall_fst_nil, and_true]
  exact ⟨vector2_writes (exec_arm (execVadd vx d a b)), vector2_writes (exec_arm (execVsub vx d a b)),
    vector2_writes (exec_arm (execVmul vx d a b)), vectorPick_writes (exec_arm (execVmin vx d a b)),
    vectorPick_writes (exec_arm (execVmax vx d a b)), vectorBits_writes (exec_arm (execVand vx d a b)),
    vectorBits_writes (exec_arm (execVor vx d a b)), vectorBits_writes (exec_arm (execVxor vx d a b)),
    vectorBits_writes (exec_arm (execVshl vx d a b)), vectorBits_writes (exec_arm (execVshr vx d a b)),
    vectorBits_writes (exec_arm (execVsar vx d a b)), vperm⟩

theorem vectorThree_write : ∀ i ∈ (Claims.vectorThree vx d a b).map Prod.fst, UnitWrites (.lanes d.val) i := by
  have vclamp : UnitWrites (.lanes d.val) (.vclamp vx d a b) :=
    ⟨_, fun _ => rfl, framed_using (.bind (framed_readV _) fun _ => .bind (framed_readV _) fun _ =>
      .bind (framed_readV _) fun _ => framed_lanes fun _ => .ite (.pure _) (framed_round trivial trivial ..))⟩
  simp only [Claims.vectorThree, forall_fst_cons, forall_fst_nil, and_true]
  exact ⟨vector3_writes (exec_arm (execVfma vx d a b)), vector3_writes (exec_arm (execVfms vx d a b)), vclamp⟩

theorem vectorOne_write : ∀ i ∈ (Claims.vectorOne vx d a).map Prod.fst, UnitWrites (.lanes d.val) i := by
  have vabs : UnitWrites (.lanes d.val) (.vabs vx d a) :=
    vector1_writes (exec_arm (execVabs vx d a)) fun _ => .ite (.pure _) (framed_round trivial trivial ..)
  have vneg : UnitWrites (.lanes d.val) (.vneg vx d a) :=
    vector1_writes (exec_arm (execVneg vx d a)) fun _ => .ite (.pure _) (framed_round trivial trivial ..)
  have vmov : UnitWrites (.lanes d.val) (.vmov vx d a) :=
    ⟨_, fun _ => rfl, framed_using (.bind (framed_readV _) fun _ => framed_lanes fun _ => .pure _)⟩
  simp only [Claims.vectorOne, forall_fst_cons, forall_fst_nil, and_true]
  exact ⟨vabs, vneg, vectorFn_writes (exec_arm (execVrcp vx d a)), vectorFn_writes (exec_arm (execVrsq vx d a)),
    vectorFn_writes (exec_arm (execVexp2 vx d a)), vectorFn_writes (exec_arm (execVlog2 vx d a)), vmov⟩

theorem vectorCompact_write (d a : Fin 32) :
    ∀ i ∈ (Claims.vectorCompact d a).map Prod.fst, UnitWrites (.lanes d.val) i := by
  simp only [Claims.vectorCompact, forall_fst_cons, forall_fst_nil, and_true]
  exact ⟨vector2_writes (exec_arm (execVaddF32Compact d a)), vector2_writes (exec_arm (execVmulF32Compact d a))⟩

theorem viota_writes : UnitWrites (.lanes d.val) (.viota vx d) :=
  ⟨_, fun _ => rfl, framed_using (framed_lanes fun _ => .pure _)⟩

theorem vbcast_writes : UnitWrites (.lanes d.val) (.vbcast vx d sc) :=
  ⟨_, fun _ => rfl, framed_using (.bind (framed_readS _) fun _ => framed_lanes fun _ => .pure _)⟩

theorem vins_writes : UnitWrites (.lanes d.val) (.vins vx d sc lane) :=
  ⟨_, fun _ => rfl, framed_using (.bind (framed_readS _) fun _ => .bind (framed_oldV _) fun _ =>
    .bind (framed_writeV _ rfl) fun _ => .pure _)⟩

theorem vsel_writes : UnitWrites (.lanes d.val) (.vsel vx d a b) :=
  ⟨_, fun _ => rfl, framed_using (.bind (framed_readV _) fun _ => .bind (framed_readV _) fun _ =>
    .bind (framed_readM _) fun _ => .bind (framed_writeV _ rfl) fun _ => .pure _)⟩

theorem vdot_writes : UnitWrites (.lanes d.val) (.vdot vx d a b) :=
  ⟨_, fun _ => rfl, framed_using (.bind (framed_readV _) fun _ => .bind (framed_readV _) fun _ =>
    .bind (framed_readM _) fun _ => .ite (.bind (framed_writeLane0 rfl _) fun _ => .pure _)
      (.bind (framed_round trivial trivial ..) fun _ => .bind (framed_writeLane0 rfl _) fun _ => .pure _))⟩

theorem vred_writes : UnitWrites (.lanes d.val) (.vred vx d a lane) :=
  ⟨_, fun _ => rfl, framed_using (.bind (framed_readV _) fun _ => .bind (framed_readM _) fun _ =>
    .bind (framed_treeOf trivial trivial ..) fun _ => .bind (framed_writeLane0 rfl _) fun _ => .pure _)⟩

theorem vscan_writes : UnitWrites (.lanes d.val) (.vscan vx d a lane) :=
  ⟨_, fun _ => rfl, framed_using (.bind (framed_readV _) fun _ => .bind (framed_readM _) fun _ =>
    .bind (framed_scanOf trivial trivial ..) fun _ => framed_lanes fun _ =>
      .ite (.bind (framed_quieted trivial ..) fun _ => .pure _) (.bind (.pure _) fun _ => .pure _))⟩

theorem vcvt_writes : UnitWrites (.lanes d.val) (.vcvt vx d a lane) :=
  ⟨_, fun _ => rfl, framed_using (.bind (framed_readV _) fun _ => .bind (framed_readM _) fun _ =>
    .bind (framed_oldV _) fun _ =>
    .bind (.mapM (fun _ => .ite (.pure _) (.ite (framed_convertElem trivial trivial ..) (.pure _))) _) fun _ =>
    .bind (framed_writeV _ rfl) fun _ => .pure _)⟩

theorem vqnt_writes : UnitWrites (.lanes d.val) (.vqnt vx d a) :=
  ⟨_, fun _ => rfl, framed_using (.bind (framed_readV _) fun _ => .bind (framed_readV _) fun _ =>
    .bind (framed_activePair vx) fun _ =>
    .ite (.bind (framed_raise trivial _) fun _ => .bind (framed_writeV _ rfl) fun _ => .pure _)
      (.bind (.mapM (fun _ => .ite (framed_round trivial trivial ..) (.pure _)) _) fun _ =>
        .bind (framed_writeV _ rfl) fun _ => .pure _))⟩

theorem vdq_writes : UnitWrites (.pair d.val) (.vdq vx d a) := by
  refine ⟨_, fun _ => rfl, framed_using (.bind (framed_readV _) fun _ => .bind (framed_activePair vx) fun _ =>
    .bind (framed_oldV _) fun _ => .bind (framed_oldV _) fun _ => .bind (.mapM (fun _ => ?_) _) fun _ =>
    .bind (.mapM (fun _ => ?_) _) fun _ => .bind (framed_writeV _ (.inl rfl)) fun _ =>
    .bind (framed_writeV _ (.inr rfl)) fun _ => .pure _)⟩
  all_goals exact .ite (.pure _) (.ite (.pure _) (framed_round trivial trivial ..))

theorem vcmp_writes (md : Mk) (cond : Fin 8) : UnitWrites (.compared md) (.vcmp vx md a b cond) :=
  ⟨_, fun _ => rfl, framed_using (.bind (framed_readV _) fun _ => .bind (framed_readV _) fun _ =>
    .bind (framed_readM _) fun _ => .bind (framed_raise trivial _) fun _ => .bind (framed_writeM _ rfl) fun _ =>
    .pure _)⟩

theorem vext_writes (e : Sc) : UnitWrites (.reg e.val) (.vext vx e a lane) :=
  ⟨_, fun _ => rfl, framed_using (.bind (framed_readV _) fun _ => .bind (framed_writeS _ rfl) fun _ => .pure _)⟩

end

theorem vectorRegister_writes (h : Claims.vectorRegister i d) : UnitWrites (.lanes d) i := by
  obtain ⟨vx, e, a, b, sc, lane, r, q, hi⟩ := h
  obtain ⟨rfl, hi | hi | hi | hi⟩ | ⟨rfl, hi⟩ := hi
  · exact vectorTwo_write vx e a b i hi
  · exact vectorThree_write vx e a b i hi
  · exact vectorOne_write vx e a i hi
  · simp only [List.mem_cons, List.not_mem_nil, or_false] at hi
    obtain rfl | rfl | rfl | rfl | rfl | rfl | rfl | rfl | rfl := hi
    · exact viota_writes vx e
    · exact vbcast_writes vx e sc
    · exact vins_writes vx e sc lane
    · exact vsel_writes vx e a b
    · exact vdot_writes vx e a b
    · exact vred_writes vx e a lane
    · exact vscan_writes vx e a lane
    · exact vcvt_writes vx e a lane
    · exact vqnt_writes vx e a
  · exact vectorCompact_write r q i hi

/-! ## The mask instructions -/

theorem mask2_writes {md ma mb : Mk} {f : BitVec 16 → BitVec 16 → BitVec 16}
    (h : ∀ s, exec i s = mask2 i md ma mb f s) : UnitWrites (.one md) i :=
  ⟨_, h, .bind (framed_readM _) fun _ => .bind (framed_readM _) fun _ => .bind (framed_writeM _ rfl) fun _ => .pure _⟩

theorem maskScalar_writes {ma : Mk} {f : BitVec 16 → Nat} (h : ∀ s, exec i s = maskScalar i d ma f s) :
    UnitWrites (.reg d) i := ⟨_, h, framed_unitS (.bind (framed_readM _) fun _ => .pure _) rfl⟩

theorem mfrom_writes (md : Mk) (a : Sc) : UnitWrites (.one md) (.mfrom md a) :=
  ⟨_, fun _ => rfl, framed_using (.bind (framed_readS _) fun _ => .bind (framed_writeM _ rfl) fun _ => .pure _)⟩

theorem mset_writes (md : Mk) (imm : BitVec 16) : UnitWrites (.one md) (.mset md imm) :=
  ⟨_, fun _ => rfl, .bind (framed_writeM _ rfl) fun _ => .pure _⟩

theorem maskRegister_writes {md : Mk} (h : Claims.maskRegister i md) : UnitWrites (.one md) i := by
  obtain ⟨ma, mb, a, imm, hi⟩ := h
  simp only [Claims.maskTwo, List.map_cons, List.map_nil, List.mem_cons, List.not_mem_nil, or_false] at hi
  obtain (rfl | rfl | rfl) | rfl | rfl | rfl := hi
  · exact mask2_writes (exec_arm (execMand md ma mb))
  · exact mask2_writes (exec_arm (execMor md ma mb))
  · exact mask2_writes (exec_arm (execMxor md ma mb))
  · exact mask2_writes (exec_arm (execMnot md ma))
  · exact mfrom_writes md a
  · exact mset_writes md imm

theorem maskScalars_write (e : Sc) (ma : Mk) :
    ∀ i ∈ (Claims.maskScalars e ma).map Prod.fst, UnitWrites (.reg e.val) i := by
  simp only [Claims.maskScalars, forall_fst_cons, forall_fst_nil, and_true]
  exact ⟨maskScalar_writes (exec_arm (execMany e ma)), maskScalar_writes (exec_arm (execMall e ma)),
    maskScalar_writes (exec_arm (execMpop e ma)), maskScalar_writes (exec_arm (execMfirst e ma)),
    maskScalar_writes (exec_arm (execMto e ma))⟩

theorem scalarFromLanes_writes (h : Claims.scalarFromLanes i d) : UnitWrites (.reg d) i := by
  obtain ⟨vx, e, a, lane, ma, rfl, rfl | hi⟩ := h
  · exact vext_writes vx a lane e
  · exact maskScalars_write e ma i hi

/-- What leaves every vector register alone. -/
theorem State.Left.sameAllVectors (h : s.Left D t) (hd : ∀ j, ¬ D.vector j) (d : Nat) : Claims.sameVectors s t d :=
  h.sameVectors fun j hj => absurd hj (hd j)

end Sys2Proof.Machine

open Sys2Proof Sys2Proof.Machine

/-- Settles O60: a unit of these instructions, however it ends, leaves of the machine all as it was but its
destinations, the flags and the generator that its rounding moves, and what the course of units and a trap write. -/
theorem vectorFrame : Obligations.VectorFrame := by
  unfold Obligations.VectorFrame
  refine ⟨fun i d s t hi hrun ht hf => ?vector, fun i md s t hi hrun ht hf => ?mask,
    fun i d s t hi hrun ht hf => ?scalar, fun vx md a b cond s t hrun ht hf => ?vcmp,
    fun vx d a s t hrun ht hf => ?vdq⟩
  case vector =>
    have h := (vectorRegister_writes hi).left hrun ht hf
    exact ⟨h.sameMemory, h.w_eq fun _ => id, h.g_eq fun _ => id, h.m_eq fun _ => id, h.sameVectors fun _ => id,
      h.regs.gains, h.sameRest⟩
  case mask =>
    have h := (maskRegister_writes hi).left hrun ht hf
    exact ⟨h.sameMemory, h.w_eq fun _ => id, h.g_eq fun _ => id, h.v_eq fun _ => id, h.regs.m, h.regs.fexc id,
      h.regs.srseed id, h.sameRest⟩
  case scalar =>
    have h := (scalarFromLanes_writes hi).left hrun ht hf
    exact ⟨h.sameMemory, h.sameScalars fun _ => id, h.sameAllVectors (fun _ => id) 32, h.m_eq fun _ => id,
      h.regs.fexc id, h.regs.srseed id, h.sameRest⟩
  case vcmp =>
    have h := (vcmp_writes vx a b md cond).left hrun ht hf
    exact ⟨h.sameMemory, h.w_eq fun _ => id, h.g_eq fun _ => id, h.sameAllVectors (fun _ => id) 32, h.regs.m,
      h.regs.gains, h.regs.srseed id, h.sameRest⟩
  case vdq =>
    have h := (vdq_writes vx d a).left hrun ht hf
    exact ⟨h.sameMemory, h.w_eq fun _ => id, h.g_eq fun _ => id, h.m_eq fun _ => id,
      fun j hd hd' _ => h.regs.v j fun hj => hj.elim hd hd', h.regs.gains, h.sameRest⟩
end

section
/-! SUPPORT. How a unit that issues ends, by what its work comes to: completion, a trap, a wait or a rollback; and what
the work of a unit over operands that are ready comes to. -/

namespace Sys2Proof.Machine

variable {α β : Type} {s t : State} {i : Instr}

/-! ## Steps of work -/

theorem M.require_true {b : Bool} {c v : Nat} {p : Option (Fin 16)} (h : b = true) : require b c v p s = .ok () s := by
  simp [h]

theorem M.require_false {b : Bool} {c v : Nat} {p : Option (Fin 16)} (h : b = false) :
    require b c v p s = .error (.trap c v p none) s := by simp [h]

@[simp] theorem M.map_run (m : M α) (f : α → β) :
    (f <$> m) s = match m s with
      | .ok a t => .ok (f a) t
      | .error e t => .error e t := by
  rw [map_eq_pure_bind, M.bind_run]
  rfl

theorem tryCatch_error {m : M α} {h : Stop → M α} {e : Stop} (hm : m s = .error e t) : tryCatch m h s = h e t := by
  show EStateM.tryCatch m h s = _
  unfold EStateM.tryCatch
  rw [hm]
  rfl

/-! ## How a unit ends (R229) -/

theorem State.keepMet_self (s : State) : s.keepMet s = s := State.keepMet_codesKept ⟨rfl, fun _ => rfl⟩

theorem State.clean_of_issues (h : s.issues i) : s.codesClean s.core = true := by
  obtain ⟨⟨-, -, -, clean⟩, -⟩ := h
  exact clean

theorem State.windowOk_of_issues (h : s.issues i) : (s.ctxAt s.core s.ctx).windowOk = true := by
  obtain ⟨-, -, hw⟩ := h
  rwa [State.now] at hw

/-- A unit whose checks pass and whose work stops short. -/
theorem unit_stops {body : M Flow} {e : Stop} (h : s.issues i) (hb : body s = .error e t) :
    unit i body s = .next (s.stopped e t) := by
  obtain ⟨⟨h7, hq, ho, -⟩, ha, -⟩ := h
  have unspent : s.spent = false := by
    unfold State.spent
    by_cases hx : s.ctx = 7
    · simpa [hx, State.now] using h7 hx
    · simp [hx]
  simp only [State.now] at ha
  simp only [unit, runUnit, runWork, dropSifts_same ho, hq, ha, hb, unspent]
  cases e <;> rfl

theorem stopped_trap (hw : (s.ctxAt s.core s.ctx).windowOk = true) (c v : Nat) (p : Option (Fin 16)) (f : Option DWord) :
    s.stopped (.trap c v p f) s = s.takeTrap c v p f := by
  show (if decide (c ≤ cPRIV) || (s.ctxAt s.core s.ctx).windowOk then (s.keepMet s).takeTrap c v p f
    else (s.keepMet s).takeTrap cWINDOW 0 none none) = _
  rw [hw, Bool.or_true, if_pos rfl, s.keepMet_self]

theorem stopped_wait (hw : (s.ctxAt s.core s.ctx).windowOk = true) (id : Nat) (t : State) :
    s.stopped (.wait id) t = s.stall id := by
  show (if id == sEVENT && !(s.ctxAt s.core s.ctx).windowOk then s.takeTrap cWINDOW 0 none none else s.stall id) = _
  rw [hw, Bool.not_true, Bool.and_false, if_neg Bool.false_ne_true]

theorem unit_traps {body : M Flow} {c v : Nat} {p : Option (Fin 16)} {f : Option DWord} (h : s.issues i)
    (hb : body s = .error (.trap c v p f) s) : unit i body s = .next (s.takeTrap c v p f) :=
  (unit_stops h hb).trans (congrArg _ (stopped_trap (State.windowOk_of_issues h) ..))

theorem unit_waits {body : M Flow} {id : Nat} (h : s.issues i) (hb : body s = .error (.wait id) t) :
    unit i body s = .next (s.stall id) :=
  (unit_stops h hb).trans (congrArg _ (stopped_wait (State.windowOk_of_issues h) ..))

theorem unit_rollsBack {body : M Flow} {c v : Nat} (h : s.issues i) (hb : body s = .error (.rollback c v) t) :
    unit i body s = .next ((s.keepLogs s.core t).rollback s.core s.ctx c s.now.pc.toNat v) := unit_stops h hb

/-! ## Units over operands that are ready -/

theorem readyFor_one {a : Nat} {x : DWord} (h : s.gives a x) : s.readyFor { ss := [a] } := by
  simpa [State.readyFor] using ⟨x, h⟩

theorem readyFor_two {a b : Nat} {x y : DWord} (ha : s.gives a x) (hb : s.gives b y) :
    s.readyFor { ss := [a, b] } := by
  simpa [State.readyFor] using ⟨⟨x, ha⟩, ⟨y, hb⟩⟩

variable {u : Uses} {first : M Unit}

/-- A trap of the work of a unit over operands, but for LINK_WIDTH, which other causes may precede. -/
theorem using_traps {body : M α} {c v : Nat} {p : Option (Fin 16)} {f : Option DWord} (hc : s.codesClean s.core = true)
    (hr : s.readyFor u) (hb : body s = .error (.trap c v p f) t) (hne : c ≠ cLINKWIDTH) :
    using_ u body first s = .error (.trap c v p f) t := by
  simp [using_, ready_of_readyFor hr, meetAll_of_readyFor hc hr, tryCatch_error hb, hne]

theorem using_waits {body : M α} {id : Nat} (hc : s.codesClean s.core = true) (hr : s.readyFor u)
    (hb : body s = .error (.wait id) t) : using_ u body first s = .error (.wait id) t := by
  simp [using_, ready_of_readyFor hr, meetAll_of_readyFor hc hr, tryCatch_error hb]

/-- A unit over operands completes, and its sources are popped. -/
theorem unit_over_completes {body : M Flow} {f : Flow} (h : s.issues i) (hr : s.readyFor u) (hb : body s = .ok f t) :
    unit i (using_ u body first) s = .next (s.finish i f (M.after (popAll u) t)) :=
  unit_completes h (using_run (State.clean_of_issues h) hr hb)

theorem unit_over_traps {body : M Flow} {c v : Nat} {p : Option (Fin 16)} {f : Option DWord} (h : s.issues i)
    (hr : s.readyFor u) (hb : body s = .error (.trap c v p f) s) (hne : c ≠ cLINKWIDTH := by decide) :
    unit i (using_ u body first) s = .next (s.takeTrap c v p f) :=
  unit_traps h (using_traps (State.clean_of_issues h) hr hb hne)

theorem unit_over_waits {body : M Flow} {id : Nat} (h : s.issues i) (hr : s.readyFor u)
    (hb : body s = .error (.wait id) t) : unit i (using_ u body first) s = .next (s.stall id) :=
  unit_waits h (using_waits (State.clean_of_issues h) hr hb)

end Sys2Proof.Machine
end

section
/-! SUPPORT. Trap entry, the instructions that trap or return, SIG (R62, R88, R92, R93, R231), and O8. -/

namespace Sys2Proof.Machine

variable {s : State}

/-- BRK and SYSC raise BREAK and SYSCALL; ERET returns inside a trap routine that does not save, and nowhere else. -/
theorem trapInstructions : Claims.TrapInstructions := by
  refine ⟨fun s imm h => unit_traps h rfl, fun s imm h => unit_traps h rfl, fun s h => ⟨fun hts hsv => ?_, fun hno => ?_⟩⟩
  · have returns : (s.now.ts && !s.now.saving) = true := by rw [hts, hsv]; rfl
    exact unit_completes h (by simp [returns])
  · have stays : (s.now.ts && !s.now.saving) = false := by
      rcases hno with h | h <;> simp [h]
    exact unit_traps h (by simp [stays])

/-! ## Taking a trap (R62) -/

/-- A context that a trap vectors to its trap routine. -/
def Ctx.vectored (q : Ctx) (cause val : Nat) (inst : BitVec 32) (ptr : Option (Fin 16)) : Ctx :=
  { q with
    trapcause := BitVec.ofNat 8 cause
    trappc := q.pc
    trapinst := inst
    trapval := BitVec.ofNat 64 val
    trapptr := match ptr with
      | some r => BitVec.ofNat 5 (16 + r.val)
      | none => 0
    savedMode := q.mode
    mode := true
    ts := true
    sig := 0
    sv := false
    blocked := none
    latch := none
    metSift := false
    run := .live
    pc := BitVec.ofNat 64 q.trapvec.toNat }

theorem State.trap_vectors (h : s.vectors) (cause val : Nat) (ptr : Option (Fin 16)) :
    s.trap s.core s.ctx cause val ptr =
      s.updCtx s.core s.ctx fun q => q.vectored cause val (s.trapInst s.core q.pc.toNat) ptr := by
  obtain ⟨hts, hx⟩ := h
  have goes : ((s.ctxAt s.core s.ctx).ts || (s.ctx == 7 && cause != cBREAK)) = false := by
    rw [State.now] at hts
    simp [hts, hx]
  show (if _ then _ else _) = _
  rw [goes]
  rfl

/-- The state in which a trap of the issuing unit is taken: it has issued, and a handler's budget counts it (R65). -/
def State.trapping (s : State) : State :=
  (s.updCore s.core fun k => k.issued s.ctx).updCtx s.core s.ctx fun q =>
    { q with hbudget := if s.ctx == 7 then q.hbudget - 1 else q.hbudget }

theorem State.now_trapping (s : State) : s.trapping.now =
    { s.now with
      yieldTo := s.now.yieldTo.filter (· != s.ctx.val)
      hbudget := if s.ctx == 7 then s.now.hbudget - 1 else s.now.hbudget } := by
  have issued : (s.updCore s.core fun k => k.issued s.ctx).ctxAt s.core s.ctx =
      { s.now with yieldTo := s.now.yieldTo.filter (· != s.ctx.val) } := State.Passed.now_issued s s.ctx
  have now : s.trapping.now = s.trapping.ctxAt s.core s.ctx := rfl
  rw [now, State.trapping, State.ctxAt_updCtx, issued]

/-- What a trap that is vectored does. -/
theorem State.takeTrap_vectors (h : s.vectors) (cause val : Nat) (ptr : Option (Fin 16)) :
    s.takeTrap cause val ptr none = s.trapping.updCtx s.core s.ctx fun q =>
      q.vectored cause val (s.trapInst s.core q.pc.toNat) ptr := by
  have vectors : s.trapping.vectors := by
    refine ⟨?_, h.2⟩
    rw [s.now_trapping]
    exact h.1
  exact State.trap_vectors vectors cause val ptr

theorem State.now_takeTrap (h : s.vectors) (cause val : Nat) (ptr : Option (Fin 16)) :
    (s.takeTrap cause val ptr none).now = s.trapping.now.vectored cause val (s.trapInst s.core s.now.pc.toNat) ptr := by
  have pc : s.trapping.now.pc = s.now.pc := by rw [s.now_trapping]
  rw [State.takeTrap_vectors h, ← pc]
  exact State.ctxAt_updCtx ..

theorem trapEntry : Claims.TrapEntry := by
  intro s cause val ptr h t q
  have taken : t = s.trapping.updCtx s.core s.ctx _ := State.takeTrap_vectors h cause val ptr
  have now : q = _ := State.now_takeTrap h cause val ptr
  rw [s.now_trapping] at now
  rw [taken, now]
  exact ⟨rfl, rfl, rfl, rfl, rfl, rfl, rfl, by cases ptr <;> rfl, rfl, rfl, rfl, rfl, rfl, rfl, rfl, rfl, rfl, rfl, rfl,
    rfl, rfl, rfl, rfl, rfl⟩

/-! ## SIG (R92, R231) -/

theorem sig_checks : Claims.Signatures := by
  refine fun s v h => ⟨fun hok => ?_, fun hsv hne => ?_⟩
  · have passes : (s.now.sv && s.now.sig != v) = false := by
      rcases hok with h | h <;> simp [h]
    exact unit_completes h (by
      simp only [M.bind_run, M.me_run, passes, Bool.false_eq_true, if_false, M.modMe_run, M.pure_run])
  · have fails : (s.now.sv && s.now.sig != v) = true := by simp [hsv, hne]
    exact unit_rollsBack h (by simp only [M.bind_run, M.me_run, fails, if_true, M.throw_run])

/-- Settles O8: TrapInstructions, TrapEntry and Signatures, each from how a unit's work ends. -/
theorem trapsAndSignatures : Obligations.TrapsAndSignatures := ⟨trapInstructions, trapEntry, sig_checks⟩

end Sys2Proof.Machine
end

section
/-! SUPPORT. Control registers: what they hold of a write (R58), the CSR instructions (R89, R90, R101), and O9. -/

namespace Sys2Proof.Machine

variable {s : State}

/-! ## Registers that hold some bits of what is written -/

/-- The low n bits of a value, as a register of n bits reads back. -/
theorem setWidth_setWidth_eq_and {n : Nat} (hn : n ≤ 64) (v : DWord) :
    (v.setWidth n).setWidth 64 = v &&& BitVec.ofNat 64 (2 ^ n - 1) := by
  apply BitVec.eq_of_toNat_eq
  have hlt : 2 ^ n - 1 < 2 ^ 64 := by
    have := Nat.pow_le_pow_right (n := 2) (by decide) hn
    omega
  have hv : v.toNat % 2 ^ n < 2 ^ 64 := lt_of_le_of_lt (Nat.mod_le ..) v.isLt
  rw [BitVec.toNat_and, BitVec.toNat_ofNat, Nat.mod_eq_of_lt hlt, Nat.and_two_pow_sub_one_eq_mod,
    BitVec.toNat_setWidth, BitVec.toNat_setWidth, Nat.mod_eq_of_lt hv]

theorem getLsbD_zero_eq_and (v : DWord) : BitVec.ofNat 64 (v.getLsbD 0).toNat = v &&& 1 := by
  apply BitVec.eq_of_toNat_eq
  have hb : (v.getLsbD 0).toNat = v.toNat % 2 := by
    rw [BitVec.getLsbD, Nat.testBit_zero]
    rcases Nat.mod_two_eq_zero_or_one v.toNat with h | h <;> simp [h]
  have hand : v.toNat &&& 1 = v.toNat % 2 := Nat.and_two_pow_sub_one_eq_mod v.toNat 1
  have hlt : v.toNat % 2 < 2 ^ 64 := by omega
  rw [BitVec.toNat_and, BitVec.toNat_ofNat, hb, Nat.mod_eq_of_lt hlt]
  exact hand.symm

/-! ## Reading and writing a CSR -/

theorem csrWrite_run (x : Fin 8) (n : Nat) (v : DWord) (s : State) :
    csrWrite x n v s = .ok () (M.after (csrWrite x n v) s) := rfl

/-- A register of a context is written there. -/
theorem csrWrite_ctx {n : Nat} (hn : n < 0x100) (x : Fin 8) (v : DWord) (s : State) :
    csrWrite x n v s = .ok () (s.updCtx s.core x (·.putCsr n v)) := by
  have h : (0x100 ≤ n && n < 0x108) = false := by simp; omega
  simp only [csrWrite, M.modCore_run, h]
  rfl

/-- A pane register is its core's. -/
theorem csrWrite_pane {n : Nat} (h : (0x100 ≤ n && n < 0x108) = true) (x : Fin 8) (v : DWord) (s : State) :
    csrWrite x n v s = .ok () (s.updCore s.core fun k =>
      { k with panes := k.panes.set (Fin.ofNat 8 n).val (v &&& maskPane) (Fin.ofNat 8 n).isLt }) := by
  simp only [csrWrite, M.modCore_run, h, if_true]

/-- Every CSR can be read. -/
theorem csrRead_answers (x : Fin 8) (n : Nat) (s : State) : ∃ v t, csrRead x n s = .ok v t := by
  unfold csrRead
  simp only [M.bind_run, M.get_run]
  split
  · exact ⟨_, _, rfl⟩
  split
  · exact ⟨_, _, rfl⟩
  split
  · exact ⟨_, _, rfl⟩
  · exact ⟨_, _, rfl⟩

/-- A register of a context, 0x020 on, reads back f of that context, where f of the context after its write is what it
holds of the value. -/
theorem csr_reads_back {n : Nat} (hn : n < 0x100) {f : Ctx → DWord} {mask : DWord} (v : DWord)
    (hr : ∀ t : State, csrRead s.ctx n t = .ok (f (t.ctxAt t.core s.ctx)) t)
    (hf : ∀ q : Ctx, f (q.putCsr n v) = v &&& mask) :
    ∃ t u, M.answers (csrWrite s.ctx n v) s () t ∧ M.answers (csrRead s.ctx n) t (v &&& mask) u := by
  let t := s.updCtx s.core s.ctx (·.putCsr n v)
  have held : f (t.ctxAt t.core s.ctx) = v &&& mask := by
    rw [← hf (s.ctxAt s.core s.ctx)]
    exact congrArg f (s.ctxAt_updCtx ..)
  exact ⟨t, t, csrWrite_ctx hn s.ctx v s, held ▸ hr t⟩

/-- A pane register reads back the bits that it holds. -/
theorem csr_pane_reads_back {n : Nat} (hn : (0x100 ≤ n && n < 0x108) = true) (v : DWord)
    (hr : ∀ t : State, csrRead s.ctx n t = .ok (t.coreAt t.core).panes[Fin.ofNat 8 n] t) :
    ∃ t u, M.answers (csrWrite s.ctx n v) s () t ∧ M.answers (csrRead s.ctx n) t (v &&& maskPane) u := by
  let t := s.updCore s.core fun k =>
    { k with panes := k.panes.set (Fin.ofNat 8 n).val (v &&& maskPane) (Fin.ofNat 8 n).isLt }
  have held : (t.coreAt t.core).panes[Fin.ofNat 8 n] = v &&& maskPane := by simp [t]
  exact ⟨t, t, csrWrite_pane hn s.ctx v s, held ▸ hr t⟩

theorem csrWriteThenRead : Claims.CsrWriteThenRead := by
  intro s v p hp
  have whole : v = v &&& 0xFFFFFFFFFFFFFFFF := (BitVec.and_allOnes (x := v)).symm
  simp only [Claims.csrBits, List.mem_cons, List.not_mem_nil, or_false] at hp
  rcases hp with rfl | rfl | rfl | rfl | rfl | rfl | rfl | rfl | rfl | rfl | rfl | rfl | rfl | rfl | rfl | rfl | rfl
  · exact csr_reads_back (f := fun q => q.fexc.setWidth 64) (by decide) v (fun _ => rfl) fun _ =>
      setWidth_setWidth_eq_and (n := 5) (by decide) v
  · exact csr_reads_back (f := Ctx.srseed) (by decide) v (fun _ => rfl) fun _ => whole
  · exact csr_reads_back (f := Ctx.rangeflag) (by decide) v (fun _ => rfl) fun _ => rfl
  · exact csr_reads_back (f := fun q => BitVec.ofNat 64 q.rangectl.toNat) (by decide) v (fun _ => rfl) fun _ =>
      getLsbD_zero_eq_and v
  · exact csr_reads_back (f := Ctx.waitbudget) (by decide) v (fun _ => rfl) fun _ => rfl
  · exact csr_reads_back (f := Ctx.abfttol) (by decide) v (fun _ => rfl) fun _ => rfl
  · exact csr_reads_back (f := Ctx.jobdone) (by decide) v (fun _ => rfl) fun _ => whole
  · exact csr_reads_back (f := fun q => q.lcount.setWidth 64) (by decide) v (fun _ => rfl) fun _ =>
      setWidth_setWidth_eq_and (n := 32) (by decide) v
  · exact csr_reads_back (f := Ctx.lstart) (by decide) v (fun _ => rfl) fun _ => whole
  · exact csr_reads_back (f := Ctx.lend) (by decide) v (fun _ => rfl) fun _ => whole
  · exact csr_reads_back (f := Ctx.wb) (by decide) v (fun _ => rfl) fun _ => rfl
  · exact csr_reads_back (f := Ctx.wp) (by decide) v (fun _ => rfl) fun _ => rfl
  · exact csr_reads_back (f := Ctx.spillcap) (by decide) v (fun _ => rfl) fun _ => whole
  · exact csr_reads_back (f := Ctx.trappc) (by decide) v (fun _ => rfl) fun _ => whole
  · exact csr_reads_back (f := fun q => q.trapvec.setWidth 64) (by decide) v (fun _ => rfl) fun _ =>
      setWidth_setWidth_eq_and (n := 16) (by decide) v
  · exact csr_pane_reads_back rfl v fun _ => rfl
  · exact csr_pane_reads_back rfl v fun _ => rfl

/-! ## The CSR instructions (R89, R90, R101) -/

theorem readyFor_dest {d : Nat} (h : s.takes d) : s.readyFor { ds := [d] } := by
  simpa [State.readyFor] using h

/-- CSRW, CSRSET and CSRCLR are csrModify. -/
theorem csrWrites_exec {d : Sc} {csr : BitVec 12} : ∀ p ∈ Claims.csrWrites d csr,
    ∀ s, exec p.1 s = csrModify p.1 d.val csr p.2 s := by
  intro p hp
  simp only [Claims.csrWrites, List.mem_cons, List.not_mem_nil, or_false] at hp
  rcases hp with rfl | rfl | rfl
  · exact fun _ => rfl
  · exact fun _ => rfl
  · exact fun _ => rfl

theorem csrPrivWrite_fexc : csrPrivWrite 0x020 = false := rfl

theorem csrInstructions : Claims.CsrInstructions := by
  refine ⟨fun s d csr h ht hf => ?read, fun s d h ht hf => ?readHeld, fun s d csr x p hp h hg hpriv hf => ?write,
    fun s d x p hp h hg hf => ?writeHeld, fun s d csr x p hp h hg hcsr hpriv => ?refused⟩
  case read =>
    obtain ⟨v, t, hv⟩ := csrRead_answers s.ctx csr.toNat s
    have ready : (csr == 0x020 && s.now.fadds != 0) = false := by simpa using hf
    refine ⟨v, t, hv, unit_completes h (unitS_run (State.clean_of_issues h) (readyFor_dest ht) ?_)⟩
    simp only [M.bind_run, M.get_run, M.me_run, ready, Bool.false_eq_true, if_false, hv]
  case readHeld =>
    have held : ((0x020 : BitVec 12) == 0x020 && s.now.fadds != 0) = true := by simpa using hf
    refine unit_waits (t := s) h (using_waits (State.clean_of_issues h) (readyFor_dest ht) ?_)
    simp only [M.bind_run, M.get_run, M.me_run, held, if_true, M.wait_run]
  case write =>
    obtain ⟨old, t, ho⟩ := csrRead_answers s.ctx csr.toNat s
    have allowed : (!csrPrivWrite csr || s.now.privileged) = true := by
      cases hc : csrPrivWrite csr
      · rfl
      · simp [hpriv hc]
    have ready : (csr == 0x020 && s.now.fadds != 0) = false := by simpa using hf
    refine ⟨old, t, ho, (csrWrites_exec p hp s).trans (unit_over_completes h (readyFor_one hg) ?_)⟩
    simp only [M.bind_run, M.get_run, M.me_run, M.require_run, allowed, if_true, ready, Bool.false_eq_true, if_false,
      readS_of_gives (State.clean_of_issues h) hg, ho]
    rw [csrWrite_run]
    rfl
  case writeHeld =>
    have held : ((0x020 : BitVec 12) == 0x020 && s.now.fadds != 0) = true := by simpa using hf
    refine (csrWrites_exec p hp s).trans (unit_over_waits (t := s) h (readyFor_one hg) ?_)
    simp only [M.bind_run, M.get_run, M.me_run, M.require_run, csrPrivWrite_fexc, Bool.not_false, Bool.true_or, held,
      if_true, M.wait_run]
  case refused =>
    have refused : (!csrPrivWrite csr || s.now.privileged) = false := by simp [hcsr, hpriv]
    refine (csrWrites_exec p hp s).trans (unit_over_traps h (readyFor_one hg) ?_)
    simp only [M.bind_run, M.get_run, M.me_run, M.require_run, refused, Bool.false_eq_true, if_false]

/-- Settles O9: what a control register holds of a write it reads back, and the CSR instructions read, change and
refuse as their work says. -/
theorem controlRegisters : Obligations.ControlRegisters := ⟨csrWriteThenRead, csrInstructions⟩

end Sys2Proof.Machine
end

section
/-! SUPPORT. Accesses to plain places, which neither a translation unit nor an expander serves: what is read, what is
written, and the header of an object there (R164, R166, R233). -/

namespace Sys2Proof.Machine

variable {s : State} {k n f : Nat}

/-- A place that is neither in a heap nor in a cluster pad. -/
def Plain (k : Nat) : Prop := isHeap k = false ∧ levelOf k ≠ 1

theorem plain_of_local (h : spaceOf k < 1024) : Plain k := by
  refine ⟨?_, ?_⟩
  · simp only [isHeap, decide_eq_false_iff_not]
    omega
  · simp [levelOf, h]

theorem serve_plain (h : Plain k) (n : Nat) (dirty : Bool) : serve k n dirty s = .ok () s := by
  have : (levelOf k == 1) = false := by simpa using h.2
  simp [serve, this]

theorem phys_plain (h : Plain k) (need : Nat) : phys k need s = .ok k s := by
  simp [phys, serve_plain h, State.translate, h.1]

theorem piecesOf_plain (h : Plain k) (hn : n ≠ 0) (need : Nat) : piecesOf need k n s = .ok [(k, k, n)] s := by
  simp [piecesOf, pieces, hn, h.1, serve_plain h]

/-! ## Errors of code words (R233) -/

theorem meetFlips_none {c : Nat} (h : (s.coreAt c).flips = []) (arr ctxid : Nat) (at_ : Nat → Bool) :
    s.meetFlips c arr ctxid at_ = s := by
  simp [State.meetFlips, h]

theorem meetLocal_clean (h : (s.coreAt (spaceOf k)).flips = []) (n : Nat) : s.meetLocal k n = s := by
  unfold State.meetLocal
  split
  · rfl
  · exact meetFlips_none h ..

/-- The first of some granules that are not poisoned. -/
theorem isPoisoned_of_granules {m : Memory} (h : ∀ g ∈ granules k n, m.isPoisoned g = false) (hn : n ≠ 0) :
    m.isPoisoned k = false := by
  have first : k / 16 * 16 ∈ granules k n := by
    simp only [granules, beq_iff_eq, hn, if_false, List.mem_map, upTo, List.mem_range]
    exact ⟨0, by omega, by omega⟩
  simpa [Memory.isPoisoned] using h _ first

/-! ## Bytes -/

/-- Bytes that are not poisoned are read as they stand, and the errors of a local store among them are met. -/
theorem readBytes_plain (h : Plain k) (hn : n ≠ 0) (hp : ∀ g ∈ granules k n, s.mem.isPoisoned g = false) (need : Nat) :
    readBytes k n need s = .ok (s.mem.read k n) (s.meetLocal k n) := by
  have whole : ¬ ∃ g ∈ granules k n, s.mem.isPoisoned g = true := by
    rintro ⟨g, hg, h⟩
    rw [hp g hg] at h
    exact absurd h Bool.false_ne_true
  simp [readBytes, piecesOf_plain h hn, whole]

theorem writeRaw_plain (h : Plain k) {bs : List Byte} (hn : bs ≠ []) :
    writeRaw k bs s = .ok () (((s.updMem fun m => m.store k bs).wrote k bs.length).touched k bs.length) := by
  have level : (levelOf k == 1) = false := by simpa using h.2
  have length : bs.length ≠ 0 := by simpa using hn
  simp [writeRaw, level, piecesOf_plain h length]

/-! ## Headers (R166) -/

/-- A footprint lies in the space of the places that it serves. -/
theorem spaceOf_footOf {m : Memory} (h : m.footOf k = some f) : spaceOf f = spaceOf k := by
  unfold Memory.footOf at h
  split at h
  · cases h
  split at h
  · split at h
    · next heq => cases h; simpa using heq
    · cases h
  · cases h

/-- The header of footprint f in the memory. -/
def State.headerAt (s : State) (f : Nat) : Header := Header.ofNat (natOf (s.mem.read f 16))

theorem header_plain (h : Plain f) (hflips : (s.coreAt (spaceOf f)).flips = [])
    (hp : ∀ g ∈ granules f 16, s.mem.isPoisoned g = false) : header f s = .ok (s.headerAt f) s := by
  have sound : s.mem.isPoisoned f = false := isPoisoned_of_granules hp (by decide)
  simp [header, header?, phys_plain h, meetLocal_clean hflips, sound, State.headerAt]

/-- A live object is where its pointer reaches (R175). -/
theorem follow_live {h : Header} (hf : s.mem.footOf k = some f) (hh : header f s = .ok h s) (hl : h.state = stLive)
    (n : Nat) : follow n k s = .ok k s := by
  have live : ¬ h.state = stForwarded := by rw [hl]; decide
  cases n with
  | zero => rfl
  | succ n => simp [follow, hf, hh, live]

theorem locate_live {h : Header} (hf : s.mem.footOf k = some f) (hh : header f s = .ok h s) (hl : h.state = stLive) :
    locate k s = .ok (k, some (f, h)) s := by
  have live : ¬ h.state = stForwarded := by rw [hl]; decide
  simp [locate, follow_live hf hh hl, hf, hh, live, Header.found]

end Sys2Proof.Machine
end

section
/-! SUPPORT. The register window (R55-R57): what a call and a return check, and what they leave. -/

namespace Sys2Proof.Machine

variable {s : State} {tgt : DWord} {size : Nat}

/-! ## The window itself (R55) -/

/-- Register j of the callee's window. -/
theorem Ctx.enter_w (q : Ctx) (ret : DWord) (j : Fin 24) : (q.enter ret).w[j] =
    if j.val = 7 then ret else if j.val < 8 then q.w[Fin.ofNat 24 (16 + j.val)] else 0 := by
  have entered : (q.enter ret).w = Vector.ofFn fun j : Fin 24 =>
      if j.val == 7 then ret else if j.val < 8 then q.w[Fin.ofNat 24 (16 + j.val)] else 0 := rfl
  rw [entered, Fin.getElem_fin, Vector.getElem_ofFn]
  simp only [beq_iff_eq]

theorem Ctx.below_enter (q : Ctx) (ret : DWord) : (q.enter ret).below = q.below ++ [q.frame] := rfl

theorem Ctx.frame_get (q : Ctx) (j : Fin 24) (h : j.val < 16) : q.frame[Fin.ofNat 16 j.val] = q.w[j] := by
  have place : Fin.ofNat 24 (Fin.ofNat 16 j.val).val = j := Fin.ext (by simp [Fin.ofNat]; omega)
  rw [Ctx.frame, Fin.getElem_fin, Vector.getElem_ofFn]
  exact congrArg (fun i : Fin 24 => q.w[i]) place

/-- A return from a window that a call entered. -/
theorem Ctx.leave_enter (q : Ctx) (ret : DWord) : (q.enter ret).leave =
    { q.enter ret with
      below := q.below
      w := Vector.ofFn fun j : Fin 24 =>
        if j.val < 16 then q.frame[Fin.ofNat 16 j.val] else (q.enter ret).w[Fin.ofNat 24 (j.val - 16)]
      depth := (q.enter ret).depth - 1 } := by
  unfold Ctx.leave
  rw [Ctx.below_enter, List.getLast?_concat, List.dropLast_concat]

theorem Ctx.leave_enter_w (q : Ctx) (ret : DWord) (j : Fin 24) :
    (q.enter ret).leave.w[j] = if j.val = 23 then ret else q.w[j] := by
  have left : (q.enter ret).leave.w[j] =
      if j.val < 16 then q.frame[Fin.ofNat 16 j.val] else (q.enter ret).w[Fin.ofNat 24 (j.val - 16)] := by
    rw [Ctx.leave_enter, Fin.getElem_fin, Vector.getElem_ofFn]
  rw [left]
  by_cases low : j.val < 16
  · rw [if_pos low, q.frame_get j low, if_neg (by omega)]
  · have place : (Fin.ofNat 24 (j.val - 16)).val = j.val - 16 := Nat.mod_eq_of_lt (by omega)
    have back : Fin.ofNat 24 (16 + (j.val - 16)) = j := Fin.ext (by simp [Fin.ofNat]; omega)
    have callee : j.val - 16 < 8 := by omega
    rw [if_neg low, Ctx.enter_w]
    simp only [place, back, callee, if_true]
    exact if_congr (by omega) rfl rfl

theorem Ctx.depth_enter (q : Ctx) (ret : DWord) : (q.enter ret).depth = q.depth + 1 := rfl

theorem Ctx.enter_kept (q : Ctx) (ret : DWord) :
    (q.enter ret).g = q.g ∧ (q.enter ret).p = q.p ∧ (q.enter ret).v = q.v := by
  simp only [Ctx.enter, and_self]

theorem registerWindow : Claims.RegisterWindow := by
  refine ⟨Ctx.enter_w, fun q ret => ?enter, Ctx.leave_enter_w, fun q ret => ?leave⟩
  case enter =>
    obtain ⟨hg, hp, hv⟩ := q.enter_kept ret
    refine ⟨q.depth_enter ret, hg, hp, hv, ?_⟩
    rw [Ctx.below_enter, List.length_append, List.length_singleton]
  case leave =>
    rw [Ctx.leave_enter, Ctx.depth_enter]
    exact ⟨BitVec.add_sub_cancel q.depth 1, rfl⟩

/-! ## What a call checks -/

theorem mustSpill_run : mustSpill s = .ok (decide (s.nowCore.freeTo s.ctx < 16)) s := rfl

theorem meetOldest_clean (hc : s.codesClean s.core = true) : meetOldest s = .ok () s := by
  simp only [meetOldest, M.bind_run, M.me_run, M.get_run]
  exact forM_same fun j _ => consume_clean hc

theorem meetSpill_clean (hc : s.codesClean s.core = true) : meetSpill s = .ok () s := by
  simp only [meetSpill, M.bind_run, mustSpill_run]
  split
  · exact meetOldest_clean hc
  · rfl

theorem canSpill_run : canSpill s =
    require (s.now.spilltop.toNat + 1 ≤ s.now.spillcap.toNat && spillOk s s.now.spill s.now.spilltop.toNat true)
      cWINDOW 0 none s := rfl

theorem callWindow_fits (h : Claims.callFits s) : callWindow s = .ok () s := by
  simp only [callWindow, M.bind_run, mustSpill_run]
  split
  · next hfull =>
    obtain ⟨room, ok⟩ := h (by simpa using hfull)
    rw [canSpill_run]
    exact M.require_true (by simp [room, ok])
  · rfl

theorem callWindow_traps (h : ¬ Claims.callFits s) : callWindow s = .error (.trap cWINDOW 0 none none) s := by
  obtain ⟨hfull, hno⟩ := Classical.not_imp.mp h
  simp only [callWindow, M.bind_run, mustSpill_run, hfull, decide_true, if_true, canSpill_run]
  exact M.require_false (by simpa using hno)

theorem targetInStore_inside (h : tgt.toNat % 2 = 1 ∨ tgt.toNat < 65536) : targetInStore tgt s = .ok () s :=
  M.require_true (by simpa using h)

theorem targetInStore_beyond (heven : tgt.toNat % 2 = 0) (hbig : 65536 ≤ tgt.toNat) :
    targetInStore tgt s = .error (.trap cILLEGAL 0 none none) s := M.require_false (by simp [heven, hbig])

theorem targetEven_even (h : tgt.toNat % 2 = 0) : targetEven tgt s = .ok () s := M.require_true (by simpa using h)

theorem targetEven_odd (h : tgt.toNat % 2 = 1) : targetEven tgt s = .error (.trap cALIGN tgt.toNat none none) s :=
  M.require_false (by simp [h])

theorem newWindow_clean (hc : s.codesClean s.core = true) : newWindow s = .ok () s := by
  simp [newWindow, hc]

theorem entered_clean (s : State) (ret : DWord) : (Claims.entered s ret).codesClean s.core = s.codesClean s.core := by
  simp [State.codesClean, Claims.entered, Core.setCtx, State.coreReg]

/-- A call whose window has room, or whose oldest frame can be spilled, and whose target is even enters the callee's
window; then it spills. -/
theorem callTo_enters (hc : s.codesClean s.core = true) (ha : s.now.awaits 23 = false) (hfit : Claims.callFits s)
    (heven : tgt.toNat % 2 = 0) : callTo tgt size s =
      (do if decide (s.nowCore.freeTo s.ctx < 16) then spillOldest
          pure (Flow.jump tgt)) (Claims.entered s (s.now.pc + BitVec.ofNat 64 size)) := by
  have clean := newWindow_clean ((entered_clean s (s.now.pc + BitVec.ofNat 64 size)).trans hc)
  simp only [callTo, M.bind_run, M.me_run, ha, Bool.false_eq_true, if_false, mustSpill_run, meetSpill_clean hc,
    callWindow_fits hfit, targetEven_even heven, myPC, M.pure_run, M.modMe_run]
  simp only [Claims.entered] at clean ⊢
  rw [clean]

/-- A call that its window or its target stops. -/
theorem callTo_traps (hc : s.codesClean s.core = true) (ha : s.now.awaits 23 = false) :
    (¬ Claims.callFits s → callTo tgt size s = .error (.trap cWINDOW 0 none none) s) ∧
    (Claims.callFits s → tgt.toNat % 2 = 1 → callTo tgt size s = .error (.trap cALIGN tgt.toNat none none) s) := by
  refine ⟨fun h => ?_, fun h hodd => ?_⟩
  · simp only [callTo, M.bind_run, M.me_run, ha, Bool.false_eq_true, if_false, mustSpill_run, meetSpill_clean hc,
      callWindow_traps h]
  · simp only [callTo, M.bind_run, M.me_run, ha, Bool.false_eq_true, if_false, mustSpill_run, meetSpill_clean hc,
      callWindow_fits h, targetEven_odd hodd]

/-! ## The spill object (R56) -/

/-- A unit of the spill object that can be written lies at a plain place. -/
theorem Claims.unitAt.plain {n : Nat} {write : Bool} (h : Claims.unitAt s n write) : Plain (s.now.spillPlace n) := h.2

theorem frameBytes_ne_nil (f : Vector DWord 16) : frameBytes f ≠ [] := by
  intro h
  have first : bytesOf 8 f[0].toNat = [] := by
    rw [frameBytes, List.flatMap_eq_nil_iff] at h
    exact h _ (by simp)
  simp [bytesOf] at first

/-- The oldest frame of a window can be spilled to a plain place. -/
theorem spillOldest_answers (hc : s.codesClean s.core = true) (hp : Plain (s.now.spillPlace s.now.spilltop.toNat)) :
    ∃ t, spillOldest s = .ok () t := by
  unfold spillOldest
  simp only [M.bind_run, M.me_run]
  cases s.now.below with
  | nil => exact ⟨_, rfl⟩
  | cons f fs =>
    simp only [M.bind_run, meetOldest_clean hc, writeRaw_plain hp (frameBytes_ne_nil f)]
    exact ⟨_, rfl⟩

/-- What a call spills to is what it found before it entered the callee's window. -/
theorem entered_spillPlace (s : State) (ret : DWord) :
    (Claims.entered s ret).now.spillPlace (Claims.entered s ret).now.spilltop.toNat =
      s.now.spillPlace s.now.spilltop.toNat := by
  have now : (Claims.entered s ret).now = s.now.enter ret := s.ctxAt_updCtx ..
  rw [now]
  simp only [Ctx.spillPlace, Ctx.enter]

/-- A frame that is not poisoned returns. -/
theorem reloadOne_answers (hp : Plain (s.now.spillPlace (s.now.spilltop.toNat - 1)))
    (hs : ∀ g ∈ granules (s.now.spillPlace (s.now.spilltop.toNat - 1)) 128, s.mem.isPoisoned g = false) :
    ∃ t, reloadOne s = .ok () t ∧ t.core = s.core ∧ t.ctx = s.ctx := by
  unfold reloadOne
  simp only [M.bind_run, M.me_run, readBytes_plain hp (by decide) hs, M.modMe_run]
  have met := s.steady_meetLocal (s.now.spillPlace (s.now.spilltop.toNat - 1)) 128
  exact ⟨_, rfl, met.core, met.ctx⟩

end Sys2Proof.Machine
end

section
/-! SUPPORT. Calls and returns as units (R77, R78), and O4. -/

namespace Sys2Proof.Machine

variable {s t : State} {tgt : BitVec 24} {a : Sc} {v : DWord}

/-! ## Calls -/

theorem callFits_of_room (h : 16 ≤ s.nowCore.freeTo s.ctx) : Claims.callFits s := fun hlt => absurd hlt (by omega)

theorem callFits_of_spills (h : Claims.spills s) : Claims.callFits s := by
  obtain ⟨-, hok, hlen, -⟩ := h
  exact fun _ => ⟨hok, hlen⟩

/-- What a call to a register's value does, once its target is seen not to lie beyond the store. -/
theorem callReg_body (hc : s.codesClean s.core = true) (hg : s.gives a.val v) (hin : v.toNat % 2 = 1 ∨ v.toNat < 65536)
    (size : Nat) : (do meetSpill; let t ← readS a.val; targetInStore t; callTo t size : M Flow) s = callTo v size s := by
  simp only [M.bind_run, meetSpill_clean hc, readS_of_gives hc hg, targetInStore_inside hin]

/-- A call whose work answers completes at its target. -/
theorem call_completes {p : Instr × Nat × DWord × List Nat × Prop} (hp : p ∈ Claims.calls s tgt a v)
    (h : s.issues p.1) (hgives : p.2.2.2.2) (hrun : callTo p.2.2.1 p.2.1 s = .ok (.jump p.2.2.1) t) :
    exec p.1 s = .next (s.finish p.1 (.jump p.2.2.1) (Claims.popped t p.2.2.2.1)) := by
  simp only [Claims.calls, List.mem_cons, List.not_mem_nil, or_false] at hp
  rcases hp with rfl | rfl | rfl
  · exact unit_completes h hrun
  · obtain ⟨hg, -, hlt⟩ := hgives
    exact unit_over_completes h (readyFor_one hg)
      ((callReg_body (State.clean_of_issues h) hg (.inr hlt) 4).trans hrun)
  · obtain ⟨hg, -, hlt⟩ := hgives
    exact unit_over_completes h (readyFor_one hg)
      ((callReg_body (State.clean_of_issues h) hg (.inr hlt) 2).trans hrun)

theorem calls_even {p : Instr × Nat × DWord × List Nat × Prop} (hp : p ∈ Claims.calls s tgt a v)
    (hgives : p.2.2.2.2) : p.2.2.1.toNat % 2 = 0 := by
  simp only [Claims.calls, List.mem_cons, List.not_mem_nil, or_false] at hp
  rcases hp with rfl | rfl | rfl
  · have := tgt.isLt
    simp only [BitVec.toNat_ofNat]
    omega
  · obtain ⟨-, even, -⟩ := hgives
    exact even
  · obtain ⟨-, even, -⟩ := hgives
    exact even

/-- CALLR that its window or its target stops. -/
theorem callr_traps {i : Instr} (hi : i ∈ [Instr.callr a, .callrCompact a]) (h : s.issues i) (hg : s.gives a.val v)
    {c val : Nat} (hne : c ≠ cLINKWIDTH)
    (hrun : ∀ size, (do meetSpill; let t ← readS a.val; targetInStore t; callTo t size : M Flow) s =
      .error (.trap c val none none) s) : exec i s = .next (s.takeTrap c val none none) := by
  simp only [List.mem_cons, List.not_mem_nil, or_false] at hi
  rcases hi with rfl | rfl
  · exact unit_over_traps h (readyFor_one hg) (hrun 4) hne
  · exact unit_over_traps h (readyFor_one hg) (hrun 2) hne

/-! ## Returns -/

/-- What a return does, once no reply to the window that it gives up is to come. -/
theorem giveFrame_run (hc : s.codesClean s.core = true) (ha : ∀ r, 7 ≤ r → r < 24 → s.now.awaits r = false) :
    giveFrame s = (do
      require (s.now.depth != 0) cILLEGAL
      targetInStore s.now.w[7]
      if s.now.below.isEmpty then canReload
      targetEven s.now.w[7]
      if s.now.below.isEmpty then reloadOne
      modMe Ctx.leave
      pure (.jump s.now.w[7]) : M Flow) s := by
  have none : ((upTo 24).any fun r => 7 ≤ r && s.now.awaits r) = false := by
    simp only [upTo, List.any_eq_false, List.mem_range, Bool.and_eq_true, decide_eq_true_eq, not_and]
    exact fun r hr h7 => by simp [ha r h7 hr]
  have w7 : takeReg 7 s = .ok s.now.w[7] s := takeReg_clean hc
  simp only [giveFrame, M.bind_run, M.me_run, none, Bool.false_eq_true, if_false, w7]

theorem depth_positive (h : s.now.depth ≠ 0) : require (s.now.depth != 0) cILLEGAL 0 none s = .ok () s :=
  M.require_true (by simpa using h)

theorem canReload_fits (h : spillOk s s.now.spill (s.now.spilltop.toNat - 1) false = true) : canReload s = .ok () s :=
  M.require_true h

theorem canReload_traps (h : spillOk s s.now.spill (s.now.spilltop.toNat - 1) false = false) :
    canReload s = .error (.trap cWINDOW 0 none none) s := M.require_false h

theorem ret_completes {i : Instr} (hi : i ∈ [Instr.ret, .retCompact]) (h : s.issues i) {f : Flow}
    (hrun : giveFrame s = .ok f t) : exec i s = .next (s.finish i f t) := by
  simp only [List.mem_cons, List.not_mem_nil, or_false] at hi
  rcases hi with rfl | rfl
  · exact unit_completes h hrun
  · exact unit_completes h hrun

theorem ret_traps {i : Instr} (hi : i ∈ [Instr.ret, .retCompact]) (h : s.issues i) {c val : Nat}
    (hrun : giveFrame s = .error (.trap c val none none) s) : exec i s = .next (s.takeTrap c val none none) := by
  simp only [List.mem_cons, List.not_mem_nil, or_false] at hi
  rcases hi with rfl | rfl
  · exact unit_traps h hrun
  · exact unit_traps h hrun

/-! ## The claims -/

theorem callsAndReturns : Claims.CallsAndReturns := by
  refine ⟨fun s tgt a v p hp h hgives ha hroom => ?call, fun s i hi h ha hdepth heven hlt hbelow => ?ret⟩
  case call =>
    have hc := State.clean_of_issues h
    refine call_completes hp h hgives ((callTo_enters hc ha (callFits_of_room hroom) (calls_even hp hgives)).trans ?_)
    have room : ¬ s.nowCore.freeTo s.ctx < 16 := by omega
    simp only [room, decide_false, Bool.false_eq_true, if_false, M.pure_run]
  case ret =>
    refine ret_completes hi h ((giveFrame_run (State.clean_of_issues h) ha).trans ?_)
    have resident : s.now.below.isEmpty = false := by simpa using hbelow
    simp only [M.bind_run, depth_positive hdepth, targetInStore_inside (.inr hlt), resident, Bool.false_eq_true, if_false,
      targetEven_even heven, M.modMe_run, M.pure_run]

theorem spillingCalls : Claims.SpillingCalls := by
  refine ⟨fun s tgt a v p hp h hgives ha hspills => ?call, fun s i hi h ha hdepth heven hlt hreloads => ?ret⟩
  case call =>
    have hc := State.clean_of_issues h
    refine call_completes hp h hgives ((callTo_enters hc ha (callFits_of_spills hspills) (calls_even hp hgives)).trans ?_)
    obtain ⟨hdepth, -, -, hplace⟩ := hspills
    obtain ⟨t, ht⟩ := spillOldest_answers ((entered_clean s (s.now.pc + BitVec.ofNat 64 p.2.1)).trans hc)
      (by rwa [entered_spillPlace])
    simp only [hdepth, decide_true, if_true, M.bind_run, ht, M.pure_run, M.after_ok ht]
  case ret =>
    obtain ⟨hbelow, ⟨hok, hplain⟩, hsound, -⟩ := hreloads
    obtain ⟨t, ht, hcore, hctx⟩ := reloadOne_answers hplain hsound
    refine ret_completes hi h ((giveFrame_run (State.clean_of_issues h) ha).trans ?_)
    simp only [M.bind_run, depth_positive hdepth, targetInStore_inside (.inr hlt), hbelow, List.isEmpty_nil, if_true,
      canReload_fits hok, targetEven_even heven, ht, M.modMe_run, M.pure_run, M.after_ok ht, hcore, hctx]

theorem callTraps : Claims.CallTraps := by
  refine ⟨fun s a v i hi h hg => ⟨fun hodd ha hfit => ?align, fun hin ha hfit => ?window, fun heven hbig => ?beyond⟩,
    fun s tgt h ha hfit => ?call, fun s i hi h ha => ⟨fun hdepth => ?top, fun hdepth hodd hok => ?retAlign,
      fun hdepth hin hbelow hok => ?retWindow, fun hdepth heven hbig => ?retBeyond⟩⟩
  case align =>
    have hc := State.clean_of_issues h
    exact callr_traps hi h hg (by decide) fun size =>
      (callReg_body hc hg (.inl hodd) size).trans ((callTo_traps hc ha).2 hfit hodd)
  case window =>
    have hc := State.clean_of_issues h
    exact callr_traps hi h hg (by decide) fun size =>
      (callReg_body hc hg hin size).trans ((callTo_traps hc ha).1 hfit)
  case beyond =>
    have hc := State.clean_of_issues h
    refine callr_traps hi h hg (by decide) fun size => ?_
    simp only [M.bind_run, meetSpill_clean hc, readS_of_gives hc hg, targetInStore_beyond heven hbig]
  case call => exact unit_traps h ((callTo_traps (State.clean_of_issues h) ha).1 hfit)
  case top =>
    refine ret_traps hi h ((giveFrame_run (State.clean_of_issues h) ha).trans ?_)
    simp only [M.bind_run, M.require_false (b := s.now.depth != 0) (by simpa using hdepth)]
  case retAlign =>
    refine ret_traps hi h ((giveFrame_run (State.clean_of_issues h) ha).trans ?_)
    simp only [M.bind_run, depth_positive hdepth, targetInStore_inside (.inl hodd)]
    by_cases hbelow : s.now.below = []
    · simp only [hbelow, List.isEmpty_nil, if_true, M.bind_run, canReload_fits (hok hbelow), targetEven_odd hodd]
    · have resident : s.now.below.isEmpty = false := by simpa using hbelow
      simp only [resident, Bool.false_eq_true, if_false, M.bind_run, targetEven_odd hodd]
  case retWindow =>
    refine ret_traps hi h ((giveFrame_run (State.clean_of_issues h) ha).trans ?_)
    simp only [M.bind_run, depth_positive hdepth, targetInStore_inside hin, hbelow, List.isEmpty_nil, if_true,
      canReload_traps hok]
  case retBeyond =>
    refine ret_traps hi h ((giveFrame_run (State.clean_of_issues h) ha).trans ?_)
    simp only [M.bind_run, depth_positive hdepth, targetInStore_beyond heven hbig]

/-- Settles O4: the window's registers, and of calls and returns each check in R229's order. -/
theorem callsAndWindows : Obligations.CallsAndWindows := ⟨callsAndReturns, spillingCalls, callTraps, registerWindow⟩

end Sys2Proof.Machine
end

section
/-! SUPPORT. A load of an object in the issuing core's own pad, at its first place and without an error: each step of the
access leaves the machine as it is (R167, R174, R175, R386). -/

namespace Sys2Proof.Machine

variable {s : State} {p : Pr} {k f : Nat} {h : Header}

theorem preg_clean (hc : s.codesClean s.core = true) (r : Fin 16) : preg r s = .ok s.now.p[r] s := by
  simp only [preg, M.bind_run, M.get_run, consume_clean hc, M.me_run, M.pure_run]

/-- A pointer that can be read passes the check of R167. -/
theorem checkPerm_reads (hc : s.codesClean s.core = true) (htag : s.now.p[p].tag = true)
    (hform : s.malformed s.now.p[p] = false) (hr : s.now.p[p].r = true) :
    checkPerm p true false s = .ok s.now.p[p] s := by
  simp only [checkPerm, M.bind_run, preg_clean hc, M.get_run]
  rw [M.require_true (by rw [htag, hform, hr]; rfl)]
  rfl

/-- Where what the context has issued is performed, an access waits for none of it. -/
theorem afterAmoOn_performed (hp : s.performed) (a n : Nat) : afterAmoOn a n s = .ok () s := by
  obtain ⟨hamos, htraces⟩ := hp
  have none : (s.amos s.now.actId).isEmpty = true := by simpa [State.amosOut] using hamos
  simp only [afterAmoOn, M.bind_run, M.get_run, M.me_run, htraces, List.isEmpty_nil, Bool.not_true, Bool.false_and,
    Bool.false_eq_true, if_false, none, if_true, M.pure_run]

/-- Whether an object may be copied up is only looked at. -/
theorem eligible_answers (s : State) (q : PReg) (h : Header) : ∃ b, eligible q h s = .ok b s := ⟨_, rfl⟩

section
variable (ho : Claims.ownObject s p k f h)
include ho

theorem own_plain : Plain k := by
  obtain ⟨hcore, -, -, -, -, hspace, -⟩ := ho
  exact plain_of_local (by omega)

theorem own_flips : (s.coreAt (spaceOf k)).flips = [] := by
  obtain ⟨-, -, -, -, -, hspace, -, -, -, ⟨-, hflips⟩, -⟩ := ho
  rw [hspace]
  exact hflips

theorem own_header : header f s = .ok h s := by
  have hflips := own_flips ho
  have hplain := own_plain ho
  obtain ⟨hcore, -, -, -, -, hspace, hfoot, hh, -, ⟨hsound, -⟩, -⟩ := ho
  have same := spaceOf_footOf hfoot
  rw [hh]
  exact header_plain (plain_of_local (by omega)) (same ▸ hflips) hsound

theorem own_locateUp : locateUp k s = .ok (k, some (f, h)) s := by
  have hh := own_header ho
  obtain ⟨-, -, -, -, -, -, hfoot, -, hlive, -, hdie, -⟩ := ho
  have running : s.halted (dieOf k) = false := hdie
  have moved : s.siftHolds k k = false := by simp [State.siftHolds]
  simp only [locateUp, M.bind_run, locate_live hfoot hh hlive, M.get_run, running, moved, Bool.and_false, Bool.or_false,
    Bool.false_eq_true, if_false, M.pure_run]

/-- Its place is reached where it is, and it is not dead. -/
theorem own_reach : reach p false s = .ok (k, false) s := by
  have hup := own_locateUp ho
  obtain ⟨-, -, -, -, hk, -, -, -, hlive, -⟩ := ho
  have alive : (h.state == stDead) = false := by rw [hlive]; rfl
  obtain ⟨b, hb⟩ := eligible_answers s s.now.p[p] h
  simp only [reach, M.bind_run, M.me_run, ← hk, hup, alive, bne_self_eq_false, Bool.false_eq_true, if_false,
    hb, Bool.false_and, M.pure_run]

theorem own_access (hc : s.codesClean s.core = true) (hr : s.now.p[p].r = true) :
    access p 0 s.now.p[p].len 1 true false false s = .ok (some k) s := by
  have hreach := own_reach ho
  obtain ⟨-, htag, hform, -, -, -, -, -, -, -, -, hperf, -⟩ := ho
  have inside : ¬ s.now.p[p].len < 0 + s.now.p[p].len := by omega
  simp only [access, M.bind_run, checkPerm_reads hc htag hform hr, M.require_true (b := 0 % 1 == 0) rfl, inside, if_false,
    hreach, Bool.false_eq_true, afterAmoOn_performed hperf, M.pure_run, Nat.add_zero]

/-- The payload of a message is the object's bytes (R255). -/
theorem own_payload (hc : s.codesClean s.core = true) (hr : s.now.p[p].r = true) (hlen : s.now.p[p].len ≤ 256)
    (hclean : Claims.clean s k s.now.p[p].len) : payload p s = .ok (s.mem.read k s.now.p[p].len) s := by
  have haccess := own_access ho hc hr
  have hplain := own_plain ho
  have hflips := own_flips ho
  obtain ⟨-, htag, hform, -⟩ := ho
  refine tryCatch_ok ?_
  simp only [M.bind_run, checkPerm_reads hc htag hform hr, M.require_true (decide_eq_true hlen)]
  by_cases hz : s.now.p[p].len = 0
  · simp only [hz, beq_self_eq_true, if_true]
    rfl
  · have some_ : (s.now.p[p].len == 0) = false := by simpa using hz
    simp only [some_, Bool.false_eq_true, if_false, M.bind_run, haccess, readBytes_plain hplain hz hclean.1,
      meetLocal_clean hflips]

end

end Sys2Proof.Machine
end

section
/-! SUPPORT. SEND, SENDV, SENDH and REPLY (R60, R254, R255, R328), and O30. -/

namespace Sys2Proof.Machine

variable {s t : State}

/-! ## The outbox (R60) -/

theorem holdMessage_run (o : OutMsg) : holdMessage o s = .ok () (Claims.held s o) := by
  unfold holdMessage Claims.held
  by_cases fits : s.now.outbox.length < 32 ∧ s.now.outBytes + o.msg.body.length ≤ 8192
  · have room : (32 ≤ s.now.outbox.length || 8192 < s.now.outBytes + o.msg.body.length) = false := by
      simpa using fits
    simp only [M.bind_run, M.me_run, room, Bool.false_eq_true, if_false, M.modMe_run, if_pos fits]
  · have full : (32 ≤ s.now.outbox.length || 8192 < s.now.outBytes + o.msg.body.length) = true := by
      simp only [Bool.or_eq_true, decide_eq_true_eq]
      omega
    simp only [M.bind_run, M.me_run, full, if_true, M.modify_run, M.modMe_run, if_neg fits]

theorem placeMessage_run (dst tag hdr : Nat) (body : List Byte) (handler : Bool) :
    placeMessage dst tag hdr body handler s = .ok () (Claims.held s (Claims.messageOf s dst tag hdr body handler)) := by
  simp only [placeMessage, M.bind_run, M.get_run, M.me_run, holdMessage_run]
  rfl

/-! ## The units -/

section
variable {i : Instr} {a b res0 : Nat} {sv : List Nat} {handler : Bool} {body : M (List Byte)} {bs : List Byte}
  {dst hdr : DWord}

/-- A message whose reserved bits are zero, and whose payload answers, is held. -/
theorem sendUnit_holds (h : s.issues i) (hr : s.readyFor { ss := [a, b], sv := sv }) (ha : s.gives a dst)
    (hb : s.gives b hdr) (hres : dst.toNat &&& res0 = 0) (hhdr : fld hdr.toNat 18 14 = 0) (hbody : body s = .ok bs t) :
    sendUnit i a b sv res0 handler body s = .next (s.finish i .seq (M.after (popAll { ss := [a, b], sv := sv })
      (Claims.held t (Claims.messageOf t (fld dst.toNat 0 22) (fld dst.toNat 32 32) hdr.toNat bs handler)))) := by
  have hc := State.clean_of_issues h
  have zero : (dst.toNat &&& res0 == 0 && headerOk hdr) = true := by simp [headerOk, hres, hhdr]
  refine unit_over_completes h hr ?_
  simp only [M.bind_run, readS_of_gives hc ha, readS_of_gives hc hb, M.require_true zero, hbody, placeMessage_run,
    M.pure_run]

/-- Reserved bits raise ILLEGAL. -/
theorem sendUnit_traps (h : s.issues i) (hr : s.readyFor { ss := [a, b], sv := sv }) (ha : s.gives a dst)
    (hb : s.gives b hdr) (hbits : dst.toNat &&& res0 ≠ 0 ∨ fld hdr.toNat 18 14 ≠ 0) :
    sendUnit i a b sv res0 handler body s = .next (s.takeTrap cILLEGAL 0 none none) := by
  have hc := State.clean_of_issues h
  have set_ : (dst.toNat &&& res0 == 0 && headerOk hdr) = false := by
    rcases hbits with h | h <;> simp [headerOk, h]
  refine unit_over_traps h hr ?_
  simp only [M.bind_run, readS_of_gives hc ha, readS_of_gives hc hb, M.require_false set_]

end

/-- SEND and SENDH are sendUnit over the payload that a pointer names. -/
theorem sends_exec {a b : Sc} {p : Pr} {e : Instr × Nat × Bool}
    (he : e ∈ [(Instr.send a b p, 0xFFC00007, false), (Instr.sendh a b p, 0xFFC00787, true)]) (s : State) :
    exec e.1 s = sendUnit e.1 a.val b.val [] e.2.1 e.2.2 (payload p) s := by
  simp only [List.mem_cons, List.not_mem_nil, or_false] at he
  rcases he with rfl | rfl
  · rfl
  · rfl

theorem reply_holds {b : Sc} {p : Pr} {hdr : DWord} {body : List Byte} (h : s.issues (.reply b p))
    (hb : s.gives b.val hdr) (hhdr : fld hdr.toNat 18 14 = 0) (hbody : payload p s = .ok body t) :
    exec (.reply b p) s = .next (s.finish (.reply b p) .seq (Claims.popped (Claims.held t
      (Claims.messageOf t (fld t.now.sender.toNat 3 19 * 8) t.now.routetag.toNat hdr.toNat body false)) [b.val])) := by
  have hc := State.clean_of_issues h
  have zero : headerOk hdr = true := by simp [headerOk, hhdr]
  refine unit_over_completes h (readyFor_one hb) ?_
  simp only [M.bind_run, readS_of_gives hc hb, M.require_true zero, hbody, M.me_run, placeMessage_run, M.pure_run]

theorem readyFor_vector {a b v : Nat} {x y : DWord} {z : V512} (ha : s.gives a x) (hb : s.gives b y)
    (hv : s.givesV v z) : s.readyFor { ss := [a, b], sv := [v] } := by
  simpa [State.readyFor] using ⟨⟨⟨x, ha⟩, ⟨y, hb⟩⟩, ⟨z, hv⟩⟩

/-- Settles O30: each message is held once its reserved bits are zero and its payload is read, and the payload of an
object in the core's own pad is its bytes. -/
theorem messagesAreHeld : Obligations.MessagesAreHeld := by
  refine ⟨fun s t a b p dst hdr body e he h ha hb => ⟨fun hres hhdr hbody => ?sends, fun hbits => ?illegal⟩,
    fun s a b v dst hdr x h ha hb hv hres hhdr => ?sendv, fun s t b p hdr body h hb hhdr hbody => ?reply,
    fun s p k f obj b hdr ho hr hlen hclean hb hhdr => ⟨fun a dst e he h ha hres => ?ownSends, fun h => ?ownReply⟩⟩
  case sends =>
    exact (sends_exec he s).trans (sendUnit_holds h (readyFor_two ha hb) ha hb hres hhdr hbody)
  case illegal => exact (sends_exec he s).trans (sendUnit_traps h (readyFor_two ha hb) ha hb hbits)
  case sendv =>
    refine sendUnit_holds h (readyFor_vector ha hb hv) ha hb hres hhdr ?_
    simp only [M.bind_run, readV_of_givesV (State.clean_of_issues h) hv, M.pure_run]
  case reply => exact reply_holds h hb hhdr hbody
  case ownSends =>
    exact (sends_exec he s).trans (sendUnit_holds h (readyFor_two ha hb) ha hb hres hhdr
      (own_payload ho (State.clean_of_issues h) hr hlen hclean))
  case ownReply => exact reply_holds h hb hhdr (own_payload ho (State.clean_of_issues h) hr hlen hclean)

end Sys2Proof.Machine
end

section
/-! SUPPORT. What a dispatched activation finds in its context (R53, R54, R57, R291): the updates on the way that leave
every context alone, and the one that fills its own. -/

namespace Sys2Proof.Machine

variable (s : State)

/-! ## Updates that leave contexts and the package alone -/

theorem State.ctxAt_updCore_kept (c : Nat) {f : Core → Core} (h : ∀ k, (f k).ctxs = k.ctxs := by intro k; rfl)
    (c' : Nat) (x : Fin 8) : (s.updCore c f).ctxAt c' x = s.ctxAt c' x := by
  by_cases hc : c' = c
  · subst hc
    simp only [State.ctxAt, State.coreAt_updCore, h]
  · simp only [State.ctxAt, s.coreAt_updCore_other f hc]

/-- From s to t no context changes, nor what the package holds. -/
structure State.CtxsKept (s t : State) : Prop where
  ctxAt : ∀ c x, t.ctxAt c x = s.ctxAt c x
  pkg : t.pkg = s.pkg

namespace State.CtxsKept

variable {s} {t u : State}

theorem refl (s : State) : s.CtxsKept s := ⟨fun _ _ => rfl, rfl⟩

theorem trans (h : s.CtxsKept t) (h' : t.CtxsKept u) : s.CtxsKept u :=
  ⟨fun c x => (h'.ctxAt c x).trans (h.ctxAt c x), h'.pkg.trans h.pkg⟩

theorem updCore (s : State) (c : Nat) {f : Core → Core} (h : ∀ k, (f k).ctxs = k.ctxs := by intro k; rfl) :
    s.CtxsKept (s.updCore c f) := ⟨s.ctxAt_updCore_kept c h, rfl⟩

theorem updMem (s : State) (f : Memory → Memory) : s.CtxsKept (s.updMem f) := ⟨fun _ _ => rfl, rfl⟩

theorem setCoreReg (s : State) (c i v : Nat) : s.CtxsKept (s.setCoreReg c i v) := ⟨fun _ _ => rfl, rfl⟩

theorem later (s : State) (n : Nat) (e : Due) : s.CtxsKept (s.later n e) := ⟨fun _ _ => rfl, rfl⟩

theorem ite {c : Prop} [Decidable c] (ht : s.CtxsKept t) (hu : s.CtxsKept u) : s.CtxsKept (if c then t else u) := by
  split
  · exact ht
  · exact hu

theorem soon (s : State) (n : Nat) (e : Due) : s.CtxsKept (s.soon n e) := .ite (.refl s) (.later s n e)

/-- New code words, and the injections that act on them (R235). -/
theorem newWords (s : State) (p l : Nat) : s.CtxsKept (s.newWords p l) := by
  unfold State.newWords
  split
  · exact .refl s
  · exact .ite (.refl s) (.updCore s _)

theorem wrote (s : State) (p l : Nat) : s.CtxsKept (s.wrote p l) := by
  unfold State.wrote
  refine .trans (newWords s p l) ?_
  generalize s.newWords p l = s
  simp only []
  split
  · exact .refl s
  split
  · exact .refl s
  refine .ite (.refl s) (.trans (.setCoreReg s _ _ _) (.ite (.updMem ..) ?_))
  exact .trans (.updCore ..) (.ite (.updMem ..) (.ite (.soon ..) (.refl _)))

/-- The payload copy in the message slot (R53). -/
theorem writeSlot (s : State) (c : Nat) (x : Fin 8) (body : List Byte) (holes : BitVec 4) :
    s.CtxsKept (s.writeSlot c x body holes) := .trans (.updMem s _) (.wrote ..)

/-- A hardware trace record (R345, R346). -/
theorem traceHw (s : State) (c : Nat) (x : Fin 8) (kind time aux : Nat) : s.CtxsKept (s.traceHw c x kind time aux) :=
  .ite (.ite (.setCoreReg s ..) (.ite (.trans (.updCore s c) (.later ..)) (.updCore s c))) (.refl s)

end State.CtxsKept

/-! ## The context of an activation that enters -/

/-- What occupy makes of a context: the activation's own state, with the entry's stamps, and of what stood there its stall
bank and its spill object (R57, R340). -/
theorem State.ctxAt_occupy (c : Nat) (x : Fin 8) (e : Entry) (q : Ctx) :
    ∃ marks request, (s.occupy c x e q).ctxAt c x =
      { q with
        run := .entering, actId := if q.actId == 0 then s.actNext else q.actId, enq := e.stamp, disp := s.pkg.time
        stolen := e.stolen, stalls := (s.ctxAt c x).stalls, stallsAt := (s.ctxAt c x).stalls
        spill := (s.ctxAt c x).spill, spillcap := (s.ctxAt c x).spillcap, marks := marks, request := request } := by
  have kept := (State.CtxsKept.traceHw · c x 1 s.pkg.time.toNat e.stamp.toNat)
  exact ⟨_, _, ((kept _).ctxAt c x).trans (State.ctxAt_setCtx ..)⟩

end Sys2Proof.Machine
end

section
/-! SUPPORT. Whether a die's upper die is present is a fact of the package: no read that an engine makes, and nothing that
joins or leaves a run queue, changes it. So a pointer that is well formed stays so (R164, R305). -/

namespace Sys2Proof.Machine

variable {α : Type} {m : M α} {s t u : State}

/-- From s to t the same dies have an upper die. -/
structure State.UppersKept (s t : State) : Prop where
  upper : ∀ d, (t.dieAt d).upper = (s.dieAt d).upper

/-- Work that leaves the upper dies as they are, however it stops. -/
def uppers : Rule where
  rel := State.UppersKept
  stops _ := True
  refl _ := ⟨fun _ => rfl⟩
  trans h h' := ⟨fun d => (h'.upper d).trans (h.upper d)⟩

namespace State.UppersKept

protected theorem refl (s : State) : s.UppersKept s := uppers.refl s

protected theorem trans (h : s.UppersKept t) (h' : t.UppersKept u) : s.UppersKept u := uppers.trans h h'

theorem of_dies (h : t.dies = s.dies := by rfl) : s.UppersKept t :=
  ⟨fun d => by rw [State.dieAt, State.dieAt, h]⟩

theorem foldl {γ : Type} {f : State → γ → State} (h : ∀ (s : State) c, s.UppersKept (f s c)) (l : List γ) (s : State) :
    s.UppersKept (l.foldl f s) := uppers.foldl h l s

theorem ite {c : Prop} [Decidable c] (ht : s.UppersKept t) (hu : s.UppersKept u) :
    s.UppersKept (if c then t else u) := by
  split
  · exact ht
  · exact hu

theorem malformed (h : s.UppersKept t) (p : PReg) : t.malformed p = s.malformed p := by
  rw [State.malformed, State.malformed, h.upper]

end State.UppersKept

variable (s)

theorem State.uppers_updDie (d : Nat) {f : Die → Die} (h : ∀ v, (f v).upper = v.upper := by intro v; rfl) :
    s.UppersKept (s.updDie d f) := by
  refine ⟨fun e => ?_⟩
  by_cases he : (Fin.ofNat 4 d).val = (Fin.ofNat 4 e).val
  · have same : (s.updDie d f).dieAt e = f (s.dieAt e) := by
      simp only [State.dieAt, State.updDie, Fin.getElem_fin, he, Vector.getElem_set_self]
    rw [same, h]
  · have other : (s.updDie d f).dieAt e = s.dieAt e := by
      simp only [State.dieAt, State.updDie, Fin.getElem_fin]
      exact Vector.getElem_set_ne _ _ he
    rw [other]

theorem State.uppers_updMem (f : Memory → Memory) : s.UppersKept (s.updMem f) := .of_dies
theorem State.uppers_updClu (k : Nat) (f : Cluster → Cluster) : s.UppersKept (s.updClu k f) := .of_dies
theorem State.uppers_updCore (c : Nat) (f : Core → Core) : s.UppersKept (s.updCore c f) := .of_dies
theorem State.uppers_updCtx (c : Nat) (x : Fin 8) (f : Ctx → Ctx) : s.UppersKept (s.updCtx c x f) := .of_dies
theorem State.uppers_putSill (f p : Nat) : s.UppersKept (s.putSill f p) := by
  unfold State.putSill
  exact s.uppers_updMem _
theorem State.uppers_setCoreReg (c i v : Nat) : s.UppersKept (s.setCoreReg c i v) := .of_dies
theorem State.uppers_later (n : Nat) (e : Due) : s.UppersKept (s.later n e) := .of_dies

theorem State.uppers_soon (n : Nat) (e : Due) : s.UppersKept (s.soon n e) := .ite (.refl s) (s.uppers_later ..)

/-! ## The expander of a cluster pad -/

theorem State.uppers_failChunks (clu blk : Nat) (hdr : Bool) (chk : BitVec 4) :
    s.UppersKept (s.failChunks clu blk hdr chk) := by
  unfold State.failChunks
  refine .trans (.foldl (fun s i => ?_) (upTo 4) s) (.trans (.ite ?_ (.refl _)) (State.uppers_updClu ..))
  · exact .ite (.refl s) (s.uppers_updMem _)
  · exact State.uppers_updMem ..

theorem State.uppers_retryHeld (clu : Nat) : s.UppersKept (s.retryHeld clu) := by
  refine .foldl (fun s b => ?_) _ s
  simp only []
  split
  · exact .trans (t := s.blockSills clu b) (.foldl (fun s _ => s.uppers_putSill ..) _ s) (State.uppers_updClu ..)
  · exact .refl s

theorem State.uppers_evict (clu n : Nat) : s.UppersKept (s.evict clu n) := by
  induction n generalizing s with
  | zero => exact .refl s
  | succ n ih =>
    unfold State.evict
    simp only []
    split
    · exact .refl s
    · refine .trans (.ite (s.uppers_updClu _ _) ?_) (ih _)
      split
      · exact .trans (s.uppers_updClu _ _) (State.uppers_retryHeld ..)
      · exact .of_dies

theorem State.uppers_expand (clu blk : Nat) (dirty : Bool) : s.UppersKept (s.expand clu blk dirty) := by
  unfold State.expand
  simp only []
  exact .trans (.ite (.refl s) (s.uppers_failChunks ..)) (.trans (State.uppers_updClu ..) (State.uppers_evict ..))

theorem State.uppers_served (k n : Nat) (dirty : Bool) : s.UppersKept (s.served k n dirty) :=
  .ite (.refl s) (.foldl (fun s _ => s.uppers_expand ..) _ s)

/-! ## Code words, and translation -/

theorem State.uppers_meetLocal (p l : Nat) : s.UppersKept (s.meetLocal p l) :=
  .ite (.refl s) (.ite (.refl s) (.trans (s.uppers_updCore ..) (.foldl (fun s _ => s.uppers_setCoreReg ..) _ _)))

theorem State.uppers_wrote (p l : Nat) : s.UppersKept (s.wrote p l) := by
  have newWords : s.UppersKept (s.newWords p l) := by
    unfold State.newWords
    split
    · exact .refl s
    · exact .ite (.refl s) (s.uppers_updCore ..)
  unfold State.wrote
  refine .trans newWords ?_
  generalize s.newWords p l = s
  simp only []
  split
  · exact .refl s
  split
  · exact .refl s
  refine .ite (.refl s) (.trans (s.uppers_setCoreReg ..) (.ite (State.uppers_updMem ..) ?_))
  exact .trans (State.uppers_updCore ..) (.ite (State.uppers_updMem ..) (.ite (State.uppers_soon ..) (.refl _)))

theorem State.uppers_touched (k n : Nat) : s.UppersKept (s.touched k n) := by
  unfold State.touched
  exact .trans (t := s.revalidated k n) (.ite (.refl s) .of_dies) (.ite (.refl _) .of_dies)

theorem State.uppers_translate {k need p : Nat} (h : s.translate k need = some (p, t)) : s.UppersKept t := by
  unfold State.translate at h
  simp only [] at h
  split at h
  · cases h
    exact .refl s
  split at h
  · split at h <;> cases h
    exact .refl s
  split at h
  · split at h <;> cases h
    unfold State.fillCache
    exact .trans (.ite .of_dies (.refl s)) (State.uppers_updDie ..)
  · cases h

/-! ## Accesses -/

theorem uppers_throw (e : Stop) : M.Keeps uppers (throw e : M α) := .throw trivial

theorem uppers_wait (n : Nat) : M.Keeps uppers (wait n : M α) := uppers_throw _

theorem uppers_serve (k n : Nat) (dirty : Bool) : M.Keeps uppers (serve k n dirty) := by
  refine .ite (.get_bind fun s => ?_) (.pure _)
  split
  · exact (M.Keeps.ite (.bind (uppers_wait _) fun _ => uppers_throw _) (uppers_throw _)).from_ s
  · simp only []
    split
    · exact ((uppers_wait _).from_ s).bind fun _ _ h => by cases h
    · exact .set (s.uppers_served ..)

theorem uppers_phys (k need : Nat) : M.Keeps uppers (phys k need) := by
  refine .bind (uppers_serve ..) fun _ => .get_bind fun s => ?_
  split
  · next h => exact .bind (.set (s.uppers_translate h)) fun _ _ _ => (M.Keeps.pure _).from_ _
  · exact (uppers_throw _).from_ s

theorem uppers_piecesOf (need k n : Nat) : M.Keeps uppers (piecesOf need k n) := by
  suffices ∀ fuel k n, M.Keeps uppers (pieces need fuel k n) from this ..
  intro fuel
  induction fuel with
  | zero => exact fun _ _ => .pure _
  | succ fuel ih =>
    refine fun _ _ => .ite (.pure _) (.ite (.bind (uppers_serve ..) fun _ => .pure _) ?_)
    exact .bind (uppers_phys ..) fun _ => .bind (ih ..) fun _ => .pure _

theorem uppers_writeRaw (k : Nat) (bs : List Byte) : M.Keeps uppers (writeRaw k bs) := by
  have touched : M.Keeps uppers (modify fun s => s.touched k bs.length : M Unit) := .modify fun s => s.uppers_touched ..
  refine .ite (.bind (.forM (fun _ => ?_) _) fun _ => touched) ?_
  · exact .bind (uppers_serve ..) fun _ => .modify fun s => s.uppers_updMem _
  refine .bind (uppers_piecesOf ..) fun _ => .bind (.forM (fun _ => .modify fun s => ?_) _) fun _ => touched
  exact .trans (s.uppers_updMem _) (State.uppers_wrote ..)

theorem uppers_header (f : Nat) : M.Keeps uppers (header f) := by
  refine .bind (.bind (uppers_phys ..) fun _ => .bind (.modify fun s => s.uppers_meetLocal ..) fun _ =>
    .bind .get fun _ => .pure _) fun o => ?_
  split
  · exact .pure _
  · exact uppers_throw _

theorem uppers_putHeader (f : Nat) (h : Header) (need : Nat) : M.Keeps uppers (putHeader f h need) :=
  .bind (uppers_phys ..) fun _ => .modify fun s =>
    .trans (.trans (s.uppers_updMem _) (State.uppers_wrote ..)) (State.uppers_served ..)

theorem uppers_locate (k : Nat) : M.Keeps uppers (locate k) := by
  have follow (n k : Nat) : M.Keeps uppers (follow n k) := by
    induction n generalizing k with
    | zero => exact .pure _
    | succ n ih =>
      refine .bind .get fun s => ?_
      split
      · exact .pure _
      · exact .bind (uppers_header _) fun _ => .ite (ih _) (.pure _)
  refine .bind (follow ..) fun _ => .bind .get fun s => ?_
  split
  · exact .pure _
  · exact .bind (uppers_header _) fun _ => .pure _

theorem uppers_locateUp (k : Nat) : M.Keeps uppers (locateUp k) :=
  .bind (uppers_locate k) fun _ => .bind .get fun _ => .ite (.bind (uppers_wait _) fun _ => .pure _) (.pure _)

theorem uppers_bumpVersion (k : Nat) : M.Keeps uppers (bumpVersion k) := by
  refine .bind (uppers_locate k) fun _ => ?_
  simp only []
  split
  · exact .ite (uppers_putHeader ..) (.pure _)
  · exact .pure _

theorem uppers_setFE (k n : Nat) (b : Bool) (need : Nat) : M.Keeps uppers (setFE k n b need) :=
  .forM (fun _ => .bind (uppers_phys ..) fun _ => .modify fun s => s.uppers_updMem _) _

theorem uppers_meetPieces (ps : List (Nat × Nat × Nat)) :
    M.Keeps uppers (ps.forM fun (_, p, l) => modify fun s => s.meetLocal p l : M Unit) :=
  .forM (fun _ => .modify fun s => s.uppers_meetLocal ..) _

theorem uppers_readNat (k n : Nat) : M.Keeps uppers (readNat k n) :=
  .bind (.bind (uppers_piecesOf ..) fun _ => .bind .get fun _ => .bind (uppers_meetPieces _) fun _ =>
    .ite (.bind (uppers_throw _) fun _ => .pure _) (.pure _)) fun _ => .pure _

theorem uppers_anyPoison (k n : Nat) : M.Keeps uppers (anyPoison k n) :=
  .bind (uppers_piecesOf ..) fun _ => .bind (uppers_meetPieces _) fun _ => .bind .get fun _ => .pure _

/-- What an engine reads in place. -/
theorem uppers_fetchObj (p : PReg) (part off n : Nat) : M.Keeps uppers (fetchObj p part off n) :=
  .ite (.pure _) (.bind (uppers_locateUp _) fun _ =>
    .bind (.bind (uppers_piecesOf ..) fun _ => .bind .get fun _ => .pure _) fun _ => .pure _)

/-- What a home tests and grants (R182). -/
theorem uppers_tryNeed (c : Nat) (x : Fin 8) (need : Need) : M.Keeps uppers (tryNeed c x need) := by
  cases need with
  | words kind r n offs data =>
    refine .bind .get fun s => .bind (uppers_locateUp _) fun k => .bind (.filterM (fun w => ?_) _) fun bad => ?_
    · exact .bind (.bind (.mapM (fun _ => uppers_phys ..) _) fun _ => .bind .get fun _ => .pure _) fun _ => .pure _
    simp only []
    split
    · exact .pure _
    split
    · refine .bind (.forM (fun _ => uppers_writeRaw ..) _) fun _ => ?_
      exact .bind (.forM (fun _ => uppers_setFE ..) _) fun _ => .bind (uppers_bumpVersion _) fun _ => .pure _
    · refine .bind (.mapM (fun _ => uppers_readNat ..) _) fun _ => .ite ?_ (.pure _)
      exact .bind (.forM (fun _ => uppers_setFE ..) _) fun _ => .pure _
  | acq r =>
    refine .bind .get fun s => .bind (uppers_locateUp _) fun _ => ?_
    simp only []
    split
    · exact .pure _
    · exact .ite (.bind (uppers_putHeader ..) fun _ => .bind (.modify fun s => s.uppers_updCtx ..) fun _ => .pure _)
        (.ite (.pure _) (.pure _))
  | gen r e =>
    refine .bind .get fun s => .bind (uppers_locateUp _) fun _ => .bind (uppers_anyPoison ..) fun _ => ?_
    exact .ite (.pure _) (.bind (uppers_readNat ..) fun _ => .pure _)
  | ring _ q => exact .bind .get fun _ => .pure _
  | job _ => exact .pure _
  | sheet _ _ _ _ _ _ => exact .pure _
  | group _ _ => exact .pure _

/-! ## The scan of waiters (R183) -/

theorem uppers_filled (hm : M.Keeps uppers m) : M.Keeps uppers (M.filled m) := by
  suffices ∀ n s, M.KeepsAt uppers (M.fillFirst m n) s from ⟨fun s => this _ s⟩
  intro n
  induction n with
  | zero => exact hm.from_
  | succ n ih =>
    intro s
    have run : M.fillFirst m (n + 1) s = match m s with
      | .error (.fill clu blk) _ => M.fillFirst m n (s.expand clu blk false)
      | r => r := rfl
    by_cases h : ∃ clu blk t, m s = .error (.fill clu blk) t
    · obtain ⟨clu, blk, t, h⟩ := h
      exact .resume (by rw [run, h]) (s.uppers_expand clu blk false) (ih _)
    · refine .resume ?_ (.refl s) (hm.from_ s)
      rw [run]
      split
      · next h' => exact absurd ⟨_, _, _, h'⟩ h
      · rfl

/-- Another context may be named for the time of some work. -/
theorem uppers_as (hm : M.Keeps uppers m) (c : Nat) (x : Fin 8) : M.Keeps uppers (M.as c x m) := by
  refine ⟨fun s => ?_⟩
  have h := (uppers_filled hm).from_ { s with core := c, ctx := x }
  cases hr : M.filled m { s with core := c, ctx := x } with
  | ok a t => exact .of_ok (t := { t with core := s.core, ctx := s.ctx }) (by rw [M.as, hr]) ⟨(h.ok hr).upper⟩
  | error e t =>
    exact .of_error (t := { t with core := s.core, ctx := s.ctx }) (by rw [M.as, hr]) trivial ⟨(h.error hr).2.upper⟩

theorem State.uppers_setNodes (ns : List Node) (fs : List Nat) : s.UppersKept (s.setNodes ns fs) := by
  refine .trans (t := { s with nodes := ns }) .of_dies (.foldl (fun s f => ?_) fs _)
  unfold State.setSill
  refine .ite (.refl s) ?_
  split
  · exact .refl s
  · exact .trans (s.uppers_served ..) (State.uppers_putSill ..)

theorem State.uppers_grantNode (n : Node) : s.UppersKept (s.grantNode n) := by
  unfold State.grantNode
  simp only []
  split
  · next w hw =>
    have has := (uppers_as (uppers_tryNeed n.core n.ctx w.need) n.core n.ctx).from_ s
    split
    · next h => exact .trans (has.ok h) (.trans (State.uppers_updCtx ..) (State.uppers_setNodes ..))
    · next h => exact has.ok h
    · exact .trans (s.uppers_updCtx ..) (State.uppers_setNodes ..)
    · exact .refl s
  · exact s.uppers_setNodes ..

theorem State.uppers_settled : s.UppersKept s.settled := by
  suffices ∀ n s, State.UppersKept s (s.settle n) from this _ s
  intro n
  induction n with
  | zero => exact .refl
  | succ n ih => exact fun s => .ite (.refl s) (.trans (.foldl (fun s n => s.uppers_grantNode n) _ s) (ih _))

/-! ## The run queue -/

/-- What the launch engine reads, where nothing holds it (R388). -/
theorem State.uppers_engineReads (xs : List (PReg × Nat × Nat × Nat)) (h : (s.engineReads xs).2 = true) :
    s.UppersKept (s.engineReads xs).1 := by
  induction xs generalizing s with
  | nil => exact .refl s
  | cons x xs ih =>
    obtain ⟨p, part, off, n⟩ := x
    have read := (uppers_filled (uppers_fetchObj p part off n)).from_ s
    revert h
    unfold State.engineReads
    split
    · exact ih s
    split
    · next hr => exact fun h => .trans (read.ok hr) (.trans (State.uppers_settled _) (ih _ h))
    · exact fun h => by cases h
    · exact fun h => by cases h
    · exact ih s

theorem State.uppers_taken {xs : List (PReg × Nat × Nat × Nat)} (h : s.lacks xs = none) :
    s.UppersKept (s.taken xs) := by
  refine s.uppers_engineReads xs ?_
  unfold State.lacks at h
  split at h
  · cases h
  · next held => exact Bool.eq_true_of_not_eq_false fun hf => held _ (Prod.ext rfl hf)

theorem State.uppers_admitHeld (c n : Nat) : s.UppersKept (s.admitHeld c n) := by
  induction n generalizing s with
  | zero => exact .refl s
  | succ n ih =>
    unfold State.admitHeld
    refine .ite (.refl s) ?_
    simp only []
    split
    · exact .trans .of_dies (ih _)
    · exact .trans .of_dies (ih _)
    · exact .trans .of_dies (ih _)
    · exact .refl s

end Sys2Proof.Machine
end

section
/-! SUPPORT. The dispatch decision and its three kinds of entry (R53, R54, R272, R291, R293, R351), and O35. -/

namespace Sys2Proof.Machine

variable {s u : State} {core : Fin 1024} {c : Nat} {x : Fin 8} {e : Entry}

/-! ## The decision (R316) -/

/-- The state in which an entry that a decision takes is dispatched: what it reads has been taken, no breakpoint is passed
over any more, and it has left the run queue. -/
def State.entryTaken (s : State) (c : Nat) (e : Entry) : State :=
  ((s.taken (s.entryReads e)).updCore c fun k => { k with passBp := none }).takeEntry c e

/-- The pointer of a resume request is as well formed where the request is dispatched as where it was chosen. -/
theorem State.malformed_entryTaken {r : ResumeReq} (hw : e.work = .resume r) (hreads : s.lacks (s.entryReads e) = none)
    (p : PReg) : (s.entryTaken c e).malformed p = s.malformed p := by
  have left (t : State) : t.UppersKept (t.takeEntry c e) := by
    simp only [State.takeEntry, hw]
    exact .trans (t.uppers_updCore ..) (State.uppers_admitHeld ..)
  exact ((s.uppers_taken hreads).trans (.trans (State.uppers_updCore ..) (left _))).malformed p

theorem dispatch_takes (hheld : s.dispatchHeld core.val = false) (hchoice : (s.coreAt core.val).choice = some (e, x))
    (hreads : s.lacks (s.entryReads e) = none) (hbreak : s.breakAt core.val e = none) :
    exec (.dispatchDecision core) s =
      .next (((s.entryTaken core.val e).dispatchInto core.val x e).later 1 (.dispatch core.val)) := by
  show execDispatchDecision core s = _
  simp only [execDispatchDecision, hheld, Bool.false_eq_true, if_false, hchoice, hreads, hbreak]
  rfl

/-- A breakpoint that matches holds the entry, and the core stops (R351). -/
theorem dispatch_breaks {i : Nat} (hheld : s.dispatchHeld core.val = false)
    (hchoice : (s.coreAt core.val).choice = some (e, x)) (hreads : s.lacks (s.entryReads e) = none)
    (hbreak : s.breakAt core.val e = some i) :
    exec (.dispatchDecision core) s = .next ((s.updCore core.val fun k =>
      { k with stopping := true, passBp := none
               stopCause := { bph := true, bpi := BitVec.ofNat 2 i, entry := some e } }).later 0
        (.stopDone core.val)) := by
  show execDispatchDecision core s = _
  simp only [execDispatchDecision, hheld, Bool.false_eq_true, if_false, hchoice, hreads, hbreak]

/-! ## A message (R53) -/

theorem entryError_clean (h : (s.coreAt c).flips = []) (n : Nat) : s.entryError c n = (false, s) := by
  simp only [State.entryError, h, List.any_nil, meetFlips_none h]

/-- The window and p15 of an activation that a message starts (R53). -/
theorem entryCtx_w (s : State) (c : Nat) (x : Fin 8) (m : Msg) (j : Fin 24) : (s.entryCtx c x m).w[j] =
    if j.val < 8 then BitVec.ofNat 64 (leAt m.body (8 * j.val) 8) else 0 := by
  rw [State.entryCtx, Fin.getElem_fin, Vector.getElem_ofFn]

theorem entryCtx_p15 (s : State) (c : Nat) (x : Fin 8) (m : Msg) :
    (s.entryCtx c x m).p[(15 : Fin 16)] = messagePtr c x m.body.length := by
  rw [State.entryCtx, Fin.getElem_fin]
  exact Vector.getElem_set_self ..

/-- A message fills its context, once its payload stands in its slot and no entry error is met (R53). -/
theorem dispatchInto_message {m : Msg} (hw : e.work = .message m) (hf : (s.coreAt c).flips = []) :
    let v := ((s.coreAt c).cls m.cls.toNat).toNat
    ∃ t, s.CtxsKept t ∧ s.dispatchInto c x e = t.occupy c x e { t.entryCtx c x { m with prio := e.prio } with
      msg := m, actstart := t.pkg.time, idem := bit v 26, mode := bit v 28, pc := BitVec.ofNat 64 (4 * fld v 2 14) } := by
  refine ⟨s.writeSlot c x m.body m.holes, .writeSlot .., ?_⟩
  simp only [State.dispatchInto, hw, entryError_clean hf, Bool.false_eq_true, if_false]

/-! ## A completion (R272) -/

/-- The completion routine's context (R272). -/
theorem dispatchInto_completion {d : Completion} (hw : e.work = .completion d) :
    ∃ t, s.CtxsKept t ∧ s.dispatchInto c x e = t.occupy c x e
      { t.entryCtx c x { d.msg with body := bytesOf 8 d.job.toNat } with
        actstart := t.pkg.time, completion := true, jobdone := d.job, pc := BitVec.ofNat 64 (2 * d.ent.toNat) } := by
  refine ⟨s.writeSlot c x (bytesOf 8 d.job.toNat) 0, .writeSlot .., ?_⟩
  simp only [State.dispatchInto, hw]

theorem natOf_bytesOf_mod (n x : Nat) : natOf (bytesOf n x) = x % 256 ^ n := by
  induction n generalizing x with
  | zero => rw [bytesOf, natOf, pow_zero, Nat.mod_one]
  | succ n ih =>
    rw [bytesOf, natOf, ih, BitVec.toNat_ofNat, pow_succ' 256 n]
    exact Nat.mod_mul.symm

/-- Eight bytes hold a dword. -/
theorem dword_of_bytes (v : DWord) : BitVec.ofNat 64 (leAt (bytesOf 8 v.toNat) 0 8) = v := by
  have all : (bytesOf 8 v.toNat).take 8 = bytesOf 8 v.toNat := rfl
  have fits : v.toNat % 256 ^ 8 = v.toNat := Nat.mod_eq_of_lt v.isLt
  rw [leAt, List.drop_zero, all, natOf_bytesOf_mod, fits, BitVec.ofNat_toNat, BitVec.setWidth_eq]

/-! ## A resumption (R291) -/

/-- What a resumed activation finds (R291), from its request and the frame f of its slot: its restore routine with TS = 1,
and the slot in p15. -/
structure Ctx.Resumed (q : Ctx) (r : ResumeReq) (f : List Byte) : Prop where
  ts : q.ts = true
  mode : q.mode = true
  savedMode : q.savedMode = decide (fldAt f 272 1 = 1)
  trapcause : q.trapcause = 0x0F
  trappc : q.trappc = BitVec.ofNat 64 (fldAt f 256 16)
  pc : q.pc = BitVec.ofNat 64 (4 * r.ent.toNat)
  slot : q.p[(15 : Fin 16)] = r.slot
  classno : q.classno = BitVec.ofNat 8 (fldAt f 320 8)
  wuid : q.wuid = BitVec.ofNat 24 (fldAt f 352 24)
  sv : q.sv = false

/-- A resume request whose slot is sealed and can be read fills its context from the slot. -/
theorem resumeInto_fills {r : ResumeReq} {f pay heads pays : List Byte} (htag : r.slot.tag = true)
    (hform : s.malformed r.slot = false) (hlen : 32768 ≤ r.slot.len)
    (hf : s.fetchObj? r.slot (s.sealedAt r.slot).2 0 128 = some f)
    (hpay : s.fetchObj? r.slot (s.sealedAt r.slot).2 128 256 = some pay)
    (hheads : s.fetchObj? r.slot (s.sealedAt r.slot).2 4864 1024 = some heads)
    (hpays : s.fetchObj? r.slot (s.sealedAt r.slot).2 5888 8192 = some pays) (hsealed : fldAt f 576 8 = 1) :
    ∃ (t : State) (q : Ctx), s.resumeInto c x e r = t.occupy c x e q ∧ q.Resumed r f ∧
      q.actId = (s.sealedAct r.slot).2.2 := by
  have readable : (!r.slot.tag || s.malformed r.slot || r.slot.len < 32768) = false := by
    simp [htag, hform, hlen]
  have held : (fldAt f 576 8 != 1) = false := by simp [hsealed]
  unfold State.resumeInto
  simp only [State.sealedAt] at hf hpay hheads hpays
  simp only [readable, Bool.false_eq_true, if_false, hf, hpay, hheads, hpays, held]
  exact ⟨_, _, rfl, ⟨rfl, rfl, rfl, rfl, rfl, rfl, Vector.getElem_set_self .., rfl, rfl, rfl⟩, rfl⟩

/-- A dispatched resume request is what a dispatch decision takes. -/
theorem resumeDispatch_decides {r : ResumeReq} (hchoice : (s.coreAt core.val).choice = some (e, x))
    (hw : e.work = .resume r) : exec (.resumeDispatch core) s = exec (.dispatchDecision core) s := by
  show execResumeDispatch core s = _
  simp only [execResumeDispatch, hchoice, hw]
  rfl

/-- The request that the resume registers of a core ask for (R291). -/
def State.resumeAsked (s : State) (c : Nat) : ResumeReq :=
  { slot := s.coreptr c 0x18, ent := BitVec.ofNat 14 (fld (s.coreReg c 0x1A) 0 14)
    prio := BitVec.ofNat 6 (fld (s.coreReg c 0x1A) 14 6) }

section

variable (hopen : s.pkg.recovery = false) (hnone : (s.coreAt core.val).resumeHeld = none)

include hopen hnone

/-- A slot whose seal is in progress refuses the request (R293). -/
theorem resumeSubmit_refused {q : Ctx} (hseal : s.sealsInto (s.resumeAsked core.val).slot = some q) :
    exec (.resumeRequestSubmit core) s = .next (s.contain core.val
      { cause := 11, cls := q.classno.toNat, wuid := q.wuid.toNat, at_ := s.coreId core.val
        sender := q.sender.toNat, slot := q.slot.toNat }) := by
  show execResumeRequestSubmit core s = _
  rw [State.resumeAsked] at hseal
  simp only [execResumeRequestSubmit, managed, hopen, hnone, Option.isSome_none, Bool.false_eq_true, if_false, hseal]

/-- The request joins the internal queue, or is held where that is full (R291). -/
theorem resumeSubmit_accepted (hseal : s.sealsInto (s.resumeAsked core.val).slot = none) :
    exec (.resumeRequestSubmit core) s = if (s.coreAt core.val).internal < 8
      then .next (s.join core.val true { prio := (s.resumeAsked core.val).prio, work := .resume (s.resumeAsked core.val) })
      else .next (s.updCore core.val fun k => { k with resumeHeld := some (s.resumeAsked core.val) }) := by
  show execResumeRequestSubmit core s = _
  rw [State.resumeAsked] at hseal
  simp only [execResumeRequestSubmit, managed, hopen, hnone, Option.isSome_none, Bool.false_eq_true, if_false, hseal]
  rfl

end

/-! ## The claims -/

/-- What an entry's context is after its dispatch. -/
theorem ctxAt_dispatched {q : Ctx} {t : State} (h : u.dispatchInto c x e = t.occupy c x e q) (hkept : u.CtxsKept t)
    (n : Nat) (ev : Due) : ∃ marks request, ((u.dispatchInto c x e).later n ev).ctxAt c x =
      { q with
        run := .entering, actId := if q.actId == 0 then t.actNext else q.actId, enq := e.stamp, disp := u.pkg.time
        stolen := e.stolen, stalls := (u.ctxAt c x).stalls, stallsAt := (u.ctxAt c x).stalls
        spill := (u.ctxAt c x).spill, spillcap := (u.ctxAt c x).spillcap, marks := marks, request := request } := by
  rw [State.ctxAt_later, h, ← hkept.ctxAt c x, ← hkept.pkg]
  exact t.ctxAt_occupy c x e q

/-- Settles O35: a decision's entry fills its context by its kind, a breakpoint holds it, entry reads the core's default
registers, and a resume request is queued, held or refused. -/
theorem dispatchEvents : Obligations.DispatchEvents := by
  refine ⟨fun s core x e hheld hchoice hreads => ⟨fun hbreak m hw hflips => ?message, fun hbreak d hw => ?completion,
      fun i hbreak => ?break_⟩, fun s core x hrun => ?entry,
    fun s core x e r f pay heads pays hheld hchoice hw hreads hbreak htag hform hlen => ?resume,
    fun s core hopen hnone => ⟨fun q hseal => ?refused, fun hseal => ⟨fun hroom => ?queued, fun hfull => ?held⟩⟩⟩
  case message =>
    refine ⟨_, dispatch_takes hheld hchoice hreads hbreak, ?_⟩
    rw [State.entryTaken]
    generalize State.takeEntry _ core.val e = u at hflips ⊢
    obtain ⟨t, kept, fills⟩ := dispatchInto_message (x := x) hw hflips
    obtain ⟨marks, request, now⟩ := ctxAt_dispatched fills kept 1 (.dispatch core.val)
    intro q
    have hq : q = _ := now
    rw [hq]
    exact ⟨rfl, rfl, rfl, rfl, rfl, rfl, rfl, rfl, rfl, rfl, rfl, rfl, congrArg Package.time kept.pkg,
      entryCtx_w t core.val x _, entryCtx_p15 t core.val x _, rfl, rfl, rfl, rfl, rfl, rfl⟩
  case completion =>
    refine ⟨_, dispatch_takes hheld hchoice hreads hbreak, ?_⟩
    generalize s.entryTaken core.val e = u
    obtain ⟨t, kept, fills⟩ := dispatchInto_completion (s := u) (c := core.val) (x := x) hw
    obtain ⟨marks, request, now⟩ := ctxAt_dispatched fills kept 1 (.dispatch core.val)
    intro q
    have hq : q = _ := now
    rw [hq]
    exact ⟨rfl, rfl, rfl, rfl, (entryCtx_w t core.val x _ 0).trans (dword_of_bytes d.job)⟩
  case break_ =>
    refine ⟨_, dispatch_breaks hheld hchoice hreads hbreak, ?_⟩
    rw [State.coreAt_later, State.coreAt_updCore]
    exact ⟨rfl, rfl, rfl⟩
  case entry =>
    have entering : ((s.ctxAt core.val x).run != .entering) = false := by rw [hrun]; rfl
    show execActivationEntry core x s = _
    simp only [execActivationEntry, entering, Bool.false_eq_true, if_false]
    rfl
  case resume =>
    intro u part hf hpay hheads hpays hsealed
    obtain ⟨t, q0, fills, found, hact⟩ := resumeInto_fills (s := u) (c := core.val) (x := x) (e := e) htag
      ((State.malformed_entryTaken hw hreads _).trans hform) hlen hf hpay hheads hpays hsealed
    refine ⟨_, (resumeDispatch_decides hchoice hw).trans (dispatch_takes hheld hchoice hreads hbreak), ?_⟩
    have dispatched : u.dispatchInto core.val x e = t.occupy core.val x e q0 := by
      rw [← fills]
      simp only [State.dispatchInto, hw]
    obtain ⟨marks, request, now⟩ := t.ctxAt_occupy core.val x e q0
    intro q
    have hq : q = _ := (congrArg (State.ctxAt · core.val x) dispatched).trans now
    rw [hq]
    refine ⟨rfl, found.ts, found.mode, found.savedMode, found.trapcause, found.trappc, found.pc, found.slot,
      found.classno, found.wuid, found.sv, fun hne => ?_⟩
    have numbered : (q0.actId == 0) = false := by simpa [hact] using hne
    simp only [numbered, Bool.false_eq_true, if_false]
    exact hact
  case refused => exact resumeSubmit_refused hopen hnone hseal
  case queued => exact (resumeSubmit_accepted hopen hnone hseal).trans (if_pos hroom)
  case held => exact (resumeSubmit_accepted hopen hnone hseal).trans (if_neg (Nat.not_lt.mpr hfull))

end Sys2Proof.Machine
end

section
/-! SUPPORT. What refutes O34 (R51, R327): the entry that an arriving message makes in the run queue bears the ck of its
arrival, and the entry of the statement has zero there. -/

namespace Sys2Proof.Machine

/-- A message of class 0 without payload. -/
def plainLetter : OutMsg := { msg := {} }

/-- Its request, which core 1 has sent to core 2. -/
def plainRequest : Req := { id := 0, core := 1, ctx := 0, actId := 0, dst := 2, load := .message plainLetter }

/-- At ck 1, the request has come to core 2, where class 0 is enabled. -/
def atFirstCk : State :=
  { State.reset with ck := 1, reqs := [plainRequest] }.updCore 2 fun k => k.setCls 0 (2 ^ 24)

/-- The cks at which the entries of a core's run queue came, after an event. -/
def cameAfter (core : Fin 1024) : Out → List Nat
  | .next t => (t.coreAt core.val).runq.map Entry.came
  | _ => []

theorem atFirstCk_came : cameAfter 2 (exec (.messageArrival 2) atFirstCk) = [1] := by decide +kernel

/-- Refutes O34, in MessageArrival: a message that arrives at ck 1 joins the run queue with that ck in its entry, by which
R323 orders it and the handler queue; the statement's entry says 0, whatever the ck. -/
theorem not_arrivalsAndRefusals : ¬ Obligations.ArrivalsAndRefusals := by
  unfold Obligations.ArrivalsAndRefusals Claims.MessageArrival
  rintro ⟨arrival, -⟩
  have first : (atFirstCk.firstSent fun q => atFirstCk.goal q == (2 : Fin 1024).val && q.res == .input q.dst) =
      some plainRequest := by decide +kernel
  have room : Claims.hasRoom atFirstCk plainRequest := by decide +kernel
  obtain ⟨t, ht, -, -, joins, -⟩ :=
    arrival atFirstCk 2 .none plainRequest plainLetter rfl first rfl room (.inl rfl) rfl rfl (by decide +kernel)
  obtain ⟨runq, -⟩ := joins (by decide) (by decide +kernel) (by decide +kernel)
  have came := atFirstCk_came
  rw [ht, cameAfter, runq] at came
  exact absurd came (by decide +kernel)

end Sys2Proof.Machine
end

section
/-! SUPPORT. The results of R68's table: what the machine computes on n bits is the low n bits of the table's integer. -/

namespace Sys2Proof.Machine

/-- What f makes of n bits is the low n bits of the integer that g names. -/
def Op2.Computes (f : Op2) (g : Claims.IntOp) : Prop := ∀ n x y, f n x y = BitVec.ofInt n (g n x y)

/-- The low n bits of a difference. -/
theorem ofInt_sub (n : Nat) (a b : Int) : BitVec.ofInt n (a - b) = BitVec.ofInt n a - BitVec.ofInt n b := by
  rw [Int.sub_eq_add_neg, BitVec.ofInt_add, BitVec.ofInt_neg, BitVec.sub_eq_add_neg]

theorem ofInt_toNat {n : Nat} (x : BitVec n) : BitVec.ofInt n x.toNat = x := by
  rw [BitVec.ofInt_natCast, BitVec.ofNat_toNat, BitVec.setWidth_eq]

/-- A word is the low bits of the integer that it stands for. -/
theorem eq_ofInt_of_toNat {n : Nat} {z : BitVec n} {k : Nat} (h : z.toNat = k) : z = BitVec.ofInt n k := by
  rw [← h, ofInt_toNat]

theorem eq_ofInt_of_toInt {n : Nat} {z : BitVec n} {k : Int} (h : z.toInt = k) : z = BitVec.ofInt n k := by
  rw [← h, BitVec.ofInt_toInt]

theorem eq_zero_iff_toNat {n : Nat} {x : BitVec n} : x = 0 ↔ x.toNat = 0 := by
  rw [← BitVec.toNat_inj]
  simp

theorem allOnes_eq_ofInt (n : Nat) : BitVec.allOnes n = BitVec.ofInt n (-1) := by
  rw [BitVec.ofInt_neg, ← BitVec.neg_one_eq_allOnes]
  rfl

/-! ## Sums, products and quotients -/

theorem add_computes : Op2.Computes (fun _ x y => x + y) fun _ x y => x.toNat + y.toNat := fun n x y => by
  rw [BitVec.ofInt_add, ofInt_toNat, ofInt_toNat]

theorem sub_computes : Op2.Computes (fun _ x y => x - y) fun _ x y => (x.toNat : Int) - y.toNat := fun n x y => by
  rw [ofInt_sub, ofInt_toNat, ofInt_toNat]

theorem mul_computes : Op2.Computes (fun _ x y => x * y) fun _ x y => x.toInt * y.toInt := fun n x y => by
  rw [BitVec.ofInt_mul, BitVec.ofInt_toInt, BitVec.ofInt_toInt]

/-- The upper half of the 2n low bits of an integer. -/
theorem upper_half (n : Nat) (p : Int) :
    ((BitVec.ofInt (2 * n) p) >>> n).setWidth n = BitVec.ofInt n (p / 2 ^ n) := by
  have pos : (0 : Int) < 2 ^ n := by positivity
  have double : (2 : Int) ^ (2 * n) = 2 ^ n * 2 ^ n := by rw [two_mul, pow_add]
  have half : p % (2 ^ n * 2 ^ n) / 2 ^ n % 2 ^ n = p / 2 ^ n % 2 ^ n := by
    have split : p = p % (2 ^ n * 2 ^ n) + p / (2 ^ n * 2 ^ n) * 2 ^ n * 2 ^ n := by
      rw [mul_assoc, mul_comm (p / _), Int.emod_add_mul_ediv]
    conv_rhs => rw [split, Int.add_mul_ediv_right _ _ pos.ne', Int.add_mul_emod_self_right]
  apply BitVec.eq_of_toNat_eq
  rw [BitVec.toNat_setWidth, BitVec.toNat_ushiftRight, BitVec.toNat_ofInt, BitVec.toNat_ofInt, Nat.shiftRight_eq_div_pow]
  zify
  rw [Int.toNat_of_nonneg (Int.emod_nonneg _ (by positivity)), Int.toNat_of_nonneg (Int.emod_nonneg _ (by positivity))]
  rw [double, half]

theorem mulh_computes : Op2.Computes opMulh fun n x y => (x.toInt * y.toInt) / 2 ^ n := fun n x y => by
  show ((BitVec.ofInt (2 * n) x.toInt * BitVec.ofInt (2 * n) y.toInt) >>> n).setWidth n = _
  rw [← BitVec.ofInt_mul, upper_half]

theorem mulhn_computes : Op2.Computes opMulhn fun n x y => ((x.toNat * y.toNat) / 2 ^ n : Nat) := fun n x y => by
  show ((x.setWidth (2 * n) * y.setWidth (2 * n)) >>> n).setWidth n = _
  have product : x.setWidth (2 * n) * y.setWidth (2 * n) = BitVec.ofInt (2 * n) (x.toNat * y.toNat) := by
    rw [BitVec.ofInt_mul, BitVec.ofInt_natCast, BitVec.ofInt_natCast, BitVec.ofNat_toNat, BitVec.ofNat_toNat]
  rw [product, upper_half]
  push_cast
  rfl

theorem div_computes : Op2.Computes opDiv fun _ x y => if y.toNat = 0 then -1 else x.toInt.tdiv y.toInt := fun n x y => by
  simp only [opDiv, eq_zero_iff_toNat]
  split
  · exact allOnes_eq_ofInt n
  · exact BitVec.eq_of_toInt_eq (by rw [BitVec.toInt_sdiv, BitVec.toInt_ofInt])

theorem divn_computes : Op2.Computes opDivn fun _ x y => if y.toNat = 0 then -1 else (x.toNat / y.toNat : Nat) :=
  fun n x y => by
  simp only [opDivn, eq_zero_iff_toNat]
  split
  · exact allOnes_eq_ofInt n
  · exact eq_ofInt_of_toNat BitVec.toNat_udiv

theorem rem_computes : Op2.Computes opRem fun _ x y => if y.toNat = 0 then x.toInt else x.toInt.tmod y.toInt :=
  fun n x y => by
  simp only [opRem, eq_zero_iff_toNat]
  split
  · exact BitVec.ofInt_toInt.symm
  · exact eq_ofInt_of_toInt (BitVec.toInt_srem x y)

theorem remn_computes : Op2.Computes opRemn fun _ x y => if y.toNat = 0 then x.toNat else (x.toNat % y.toNat : Nat) :=
  fun n x y => by
  simp only [opRemn, eq_zero_iff_toNat]
  split
  · exact (ofInt_toNat x).symm
  · exact eq_ofInt_of_toNat BitVec.toNat_umod

/-! ## Bits and shifts -/

theorem and_computes : Op2.Computes (fun _ x y => x &&& y) fun _ x y => (x.toNat &&& y.toNat : Nat) := fun _ x y =>
  eq_ofInt_of_toNat (BitVec.toNat_and x y)

theorem or_computes : Op2.Computes (fun _ x y => x ||| y) fun _ x y => (x.toNat ||| y.toNat : Nat) := fun _ x y =>
  eq_ofInt_of_toNat (BitVec.toNat_or x y)

theorem xor_computes : Op2.Computes (fun _ x y => x ^^^ y) fun _ x y => (x.toNat ^^^ y.toNat : Nat) := fun _ x y =>
  eq_ofInt_of_toNat (BitVec.toNat_xor x y)

theorem shl_computes : Op2.Computes opShl fun n x y => (x.toNat * 2 ^ (y.toNat % n) : Nat) := fun n x y => by
  rw [BitVec.ofInt_natCast]
  exact BitVec.eq_of_toNat_eq (by rw [opShl, BitVec.toNat_shiftLeft, BitVec.toNat_ofNat, Nat.shiftLeft_eq])

theorem shr_computes : Op2.Computes opShr fun n x y => (x.toNat / 2 ^ (y.toNat % n) : Nat) := fun n x y =>
  eq_ofInt_of_toNat (by rw [opShr, BitVec.toNat_ushiftRight, Nat.shiftRight_eq_div_pow])

theorem sar_computes : Op2.Computes opSar fun n x y => x.toInt / 2 ^ (y.toNat % n) := fun n x y =>
  eq_ofInt_of_toInt (by rw [opSar, BitVec.toInt_sshiftRight, Int.shiftRight_eq_div_pow]; push_cast; rfl)

theorem rol_computes : Op2.Computes opRol fun n x y =>
    (x.toNat * 2 ^ (y.toNat % n) % 2 ^ n ||| x.toNat / 2 ^ (n - y.toNat % n) : Nat) := fun n x y =>
  eq_ofInt_of_toNat (by rw [opRol, BitVec.toNat_or, BitVec.toNat_shiftLeft, BitVec.toNat_ushiftRight, Nat.shiftLeft_eq,
    Nat.shiftRight_eq_div_pow])

/-! ## Comparisons -/

theorem min_computes : Op2.Computes opMin fun _ x y => if x.toInt ≤ y.toInt then x.toInt else y.toInt := fun n x y => by
  simp only [opMin, BitVec.sle_iff_toInt_le]
  split
  · exact BitVec.ofInt_toInt.symm
  · exact BitVec.ofInt_toInt.symm

theorem minn_computes : Op2.Computes opMinn fun _ x y => if x.toNat ≤ y.toNat then x.toNat else y.toNat := fun n x y => by
  simp only [opMinn, BitVec.ule_iff_toNat_le]
  split
  · exact (ofInt_toNat x).symm
  · exact (ofInt_toNat y).symm

theorem max_computes : Op2.Computes opMax fun _ x y => if x.toInt ≥ y.toInt then x.toInt else y.toInt := fun n x y => by
  simp only [opMax, BitVec.sle_iff_toInt_le]
  split
  · exact BitVec.ofInt_toInt.symm
  · exact BitVec.ofInt_toInt.symm

theorem maxn_computes : Op2.Computes opMaxn fun _ x y => if x.toNat ≥ y.toNat then x.toNat else y.toNat := fun n x y => by
  simp only [opMaxn, BitVec.ule_iff_toNat_le]
  split
  · exact (ofInt_toNat x).symm
  · exact (ofInt_toNat y).symm

/-- 1 or 0, as a condition holds. -/
theorem opFlag_eq_ofInt (n : Nat) {b : Bool} {p : Prop} [Decidable p] (h : b = true ↔ p) :
    opFlag n b = BitVec.ofInt n (if p then 1 else 0) := by
  simp only [opFlag, h]
  split
  · exact (BitVec.ofInt_natCast n 1).symm
  · exact (BitVec.ofInt_natCast n 0).symm

theorem seq_computes : Op2.Computes (fun n x y => opFlag n (x == y)) fun _ x y => if x.toNat = y.toNat then 1 else 0 :=
  fun n _ _ => opFlag_eq_ofInt n (by rw [beq_iff_eq, BitVec.toNat_inj])

theorem sne_computes : Op2.Computes (fun n x y => opFlag n (x != y)) fun _ x y => if x.toNat ≠ y.toNat then 1 else 0 :=
  fun n _ _ => opFlag_eq_ofInt n (by rw [bne_iff_ne, ne_eq, ne_eq, BitVec.toNat_inj])

theorem slt_computes : Op2.Computes (fun n x y => opFlag n (x.slt y)) fun _ x y => if x.toInt < y.toInt then 1 else 0 :=
  fun n _ _ => opFlag_eq_ofInt n BitVec.slt_iff_toInt_lt

theorem slb_computes : Op2.Computes (fun n x y => opFlag n (x.ult y)) fun _ x y => if x.toNat < y.toNat then 1 else 0 :=
  fun n _ _ => opFlag_eq_ofInt n BitVec.ult_iff_toNat_lt

/-! ## Counts of bits, and ABS -/

theorem bit_eq_testBit (x k : Nat) : bit x k = x.testBit k := by
  rw [bit, Nat.testBit_eq_decide_div_mod_eq]
  rfl

/-- What the search of a range for its first member of some kind finds, one step at a time. -/
theorem find_range_succ (p : Nat → Bool) (i : Nat) : ((List.range (i + 1)).find? p).getD (i + 1) =
    if p 0 then 0 else 1 + ((List.range i).find? fun k => p (k + 1)).getD i := by
  rw [List.range_succ_eq_map, List.find?_cons, List.find?_map]
  cases p 0 with
  | true => rfl
  | false =>
    show (Option.map Nat.succ ((List.range i).find? fun k => p (k + 1))).getD (i + 1) = _
    cases (List.range i).find? fun k => p (k + 1) with
    | none => exact Nat.add_comm i 1
    | some k => exact Nat.add_comm k 1

theorem zerosDown_eq (x i : Nat) :
    zerosDown x i = ((List.range i).find? fun k => x.testBit (i - 1 - k)).getD i := by
  induction i with
  | zero => rfl
  | succ i ih =>
    have rest : (fun k => x.testBit (i + 1 - 1 - (k + 1))) = fun k => x.testBit (i - 1 - k) :=
      funext fun k => congrArg x.testBit (by omega)
    rw [zerosDown, ih, bit_eq_testBit, find_range_succ, rest]
    rfl

theorem zerosUp_eq (x i : Nat) : zerosUp x i = ((List.range i).find? fun k => x.testBit k).getD i := by
  induction i generalizing x with
  | zero => rfl
  | succ i ih =>
    rw [zerosUp, ih, bit_eq_testBit, find_range_succ]
    simp only [Nat.testBit_succ]

theorem onesOf_eq (x i : Nat) : onesOf x i = ((List.range i).filter fun k => x.testBit k).length := by
  induction i with
  | zero => rfl
  | succ i ih =>
    rw [onesOf, ih, List.range_succ, List.filter_append, List.length_append, bit_eq_testBit, Nat.add_comm]
    cases h : x.testBit i with
    | true => simp [h]
    | false => simp [h]

theorem abs_eq_ofInt (n : Nat) (x : BitVec n) : opAbs n x = BitVec.ofInt n x.toInt.natAbs := by
  rw [opAbs, BitVec.msb_eq_toInt]
  by_cases neg : x.toInt < 0
  · have flipped : (x.toInt.natAbs : Int) = -x.toInt := by omega
    simp only [neg, decide_true, if_true, flipped, BitVec.ofInt_neg, BitVec.ofInt_toInt]
  · have same : (x.toInt.natAbs : Int) = x.toInt := by omega
    simp only [neg, decide_false, Bool.false_eq_true, if_false, same, BitVec.ofInt_toInt]

end Sys2Proof.Machine
end

section
/-! SUPPORT. The integer register instructions as units (R66-R71), and O1. -/

namespace Sys2Proof.Machine

variable {s : State} {i : Instr} {d a b : Nat} {x y : DWord}

/-! ## Units that write one scalar -/

/-- A unit of some scalar sources and a destination, all ready, completes with what its work answers. -/
theorem unitS_completes {ss : List Nat} {body : M DWord} {v : DWord} (h : s.issues i)
    (hs : ∀ c ∈ ss, ∃ x, s.gives c x) (hd : s.takes d) (hb : body s = .ok v s) :
    unit i (unitS ss d body) s = .next (s.finish i .seq (s.putS { ss := ss, ds := [d] } d v)) := by
  have ready : s.readyFor { ss := ss, ds := [d] } := by simpa [State.readyFor] using ⟨hs, hd⟩
  exact unit_completes h (unitS_run (State.clean_of_issues h) ready hb)

theorem alu2_completes (h : s.issues i) (ha : s.gives a x) (hb : s.gives b y) (hd : s.takes d) (wd : Bool) (f : Op2) :
    alu2 i wd d a b f s =
      .next (s.finish i .seq (s.putS { ss := [a, b], ds := [d] } d (sized2 wd f x y))) := by
  have hc := State.clean_of_issues h
  refine unitS_completes h ?_ hd (by simp only [M.bind_run, readS_of_gives hc ha, readS_of_gives hc hb, M.pure_run])
  simpa using ⟨⟨x, ha⟩, ⟨y, hb⟩⟩

theorem alu1_completes (h : s.issues i) (ha : s.gives a x) (hd : s.takes d) (wd : Bool)
    (f : (n : Nat) → BitVec n → BitVec n) :
    alu1 i wd d a f s = .next (s.finish i .seq (s.putS { ss := [a], ds := [d] } d (sized1 wd f x))) :=
  unitS_completes h (by simpa using ⟨x, ha⟩) hd
    (by simp only [M.bind_run, readS_of_gives (State.clean_of_issues h) ha, M.pure_run])

theorem aluI_completes (h : s.issues i) (ha : s.gives a x) (hd : s.takes d) (wd : Bool) (f : Op2) :
    aluI i wd d a y f s = .next (s.finish i .seq (s.putS { ss := [a], ds := [d] } d (sized2 wd f x y))) :=
  unitS_completes h (by simpa using ⟨x, ha⟩) hd
    (by simp only [M.bind_run, readS_of_gives (State.clean_of_issues h) ha, M.pure_run])

/-! ## Their results -/

theorem sized2_eq {f : Op2} {g : Claims.IntOp} (h : f.Computes g) (wd : Bool) (x y : DWord) :
    sized2 wd f x y = Claims.sizedResult wd g x y := by
  simp only [sized2, Claims.sizedResult, h _ _ _]

/-- One source: the table's operation reads no second. -/
theorem sized1_eq {f : (n : Nat) → BitVec n → BitVec n} {g : Claims.IntOp}
    (h : Op2.Computes (fun n x _ => f n x) g) (wd : Bool) (x : DWord) : sized1 wd f x = Claims.sizedResult wd g x 0 :=
  sized2_eq h wd x 0

/-- Each row of R68's table of two sources is an operation of the machine. -/
theorem twoSource_exec {wd : Bool} {d a b : Sc} : ∀ p ∈ Claims.twoSource wd d a b,
    ∃ f : Op2, f.Computes p.2 ∧ ∀ s, exec p.1 s = alu2 p.1 wd d.val a.val b.val f s := by
  simp only [Claims.twoSource, List.forall_mem_cons]
  exact ⟨⟨_, add_computes, fun _ => rfl⟩, ⟨_, sub_computes, fun _ => rfl⟩, ⟨_, mul_computes, fun _ => rfl⟩,
    ⟨_, mulh_computes, fun _ => rfl⟩, ⟨_, mulhn_computes, fun _ => rfl⟩, ⟨_, div_computes, fun _ => rfl⟩,
    ⟨_, divn_computes, fun _ => rfl⟩, ⟨_, rem_computes, fun _ => rfl⟩, ⟨_, remn_computes, fun _ => rfl⟩,
    ⟨_, and_computes, fun _ => rfl⟩, ⟨_, or_computes, fun _ => rfl⟩, ⟨_, xor_computes, fun _ => rfl⟩,
    ⟨_, shl_computes, fun _ => rfl⟩, ⟨_, shr_computes, fun _ => rfl⟩, ⟨_, sar_computes, fun _ => rfl⟩,
    ⟨_, rol_computes, fun _ => rfl⟩, ⟨_, min_computes, fun _ => rfl⟩, ⟨_, minn_computes, fun _ => rfl⟩,
    ⟨_, max_computes, fun _ => rfl⟩, ⟨_, maxn_computes, fun _ => rfl⟩, ⟨_, seq_computes, fun _ => rfl⟩,
    ⟨_, sne_computes, fun _ => rfl⟩, ⟨_, slt_computes, fun _ => rfl⟩, ⟨_, slb_computes, fun _ => rfl⟩,
    List.forall_mem_nil _⟩

theorem clz_computes : Op2.Computes (fun n x _ => opClz n x) fun n x _ =>
    (((List.range n).find? fun k => x.getLsbD (n - 1 - k)).getD n : Nat) := fun n x _ =>
  (congrArg (BitVec.ofNat n) (zerosDown_eq x.toNat n)).trans (BitVec.ofInt_natCast n _).symm

theorem ctz_computes : Op2.Computes (fun n x _ => opCtz n x) fun n x _ =>
    (((List.range n).find? fun k => x.getLsbD k).getD n : Nat) := fun n x _ =>
  (congrArg (BitVec.ofNat n) (zerosUp_eq x.toNat n)).trans (BitVec.ofInt_natCast n _).symm

theorem popc_computes : Op2.Computes (fun n x _ => opPopc n x) fun n x _ =>
    (((List.range n).filter fun k => x.getLsbD k).length : Nat) := fun n x _ =>
  (congrArg (BitVec.ofNat n) (onesOf_eq x.toNat n)).trans (BitVec.ofInt_natCast n _).symm

theorem oneSource_exec {wd : Bool} {d a : Sc} : ∀ p ∈ Claims.oneSource wd d a,
    ∃ f : (n : Nat) → BitVec n → BitVec n, Op2.Computes (fun n x _ => f n x) p.2 ∧
      ∀ s, exec p.1 s = alu1 p.1 wd d.val a.val f s := by
  simp only [Claims.oneSource, List.forall_mem_cons]
  exact ⟨⟨_, clz_computes, fun _ => rfl⟩, ⟨_, ctz_computes, fun _ => rfl⟩, ⟨_, popc_computes, fun _ => rfl⟩,
    ⟨_, fun n x _ => abs_eq_ofInt n x, fun _ => rfl⟩, List.forall_mem_nil _⟩

theorem immediate_exec {wd : Bool} {d a : Sc} {imm : BitVec 10} {k : Fin 64} : ∀ p ∈ Claims.immediate wd d a imm k,
    ∃ f : Op2, f.Computes p.2.2 ∧ ∀ s, exec p.1 s = aluI p.1 wd d.val a.val p.2.1 f s := by
  simp only [Claims.immediate, List.forall_mem_cons]
  exact ⟨⟨_, add_computes, fun _ => rfl⟩, ⟨_, and_computes, fun _ => rfl⟩, ⟨_, or_computes, fun _ => rfl⟩,
    ⟨_, xor_computes, fun _ => rfl⟩, ⟨_, shl_computes, fun _ => rfl⟩, ⟨_, shr_computes, fun _ => rfl⟩,
    ⟨_, sar_computes, fun _ => rfl⟩, List.forall_mem_nil _⟩

theorem compactRegister_exec {d a : R5} : ∀ p ∈ Claims.compactRegister d a,
    ∃ f : Op2, f.Computes p.2 ∧ ∀ s, exec p.1 s = alu2 p.1 false d.val d.val a.val f s := by
  simp only [Claims.compactRegister, List.forall_mem_cons]
  exact ⟨⟨_, add_computes, fun _ => rfl⟩, ⟨_, sub_computes, fun _ => rfl⟩, ⟨_, and_computes, fun _ => rfl⟩,
    ⟨_, or_computes, fun _ => rfl⟩, ⟨_, xor_computes, fun _ => rfl⟩, List.forall_mem_nil _⟩

/-- A shift count below 64 is what a 64-bit shift takes of it. -/
theorem shift_count (k : Fin 64) : (BitVec.ofNat 64 k.val).toNat % 64 = (BitVec.ofNat 64 k.val).toNat := by
  have := k.isLt
  simp only [BitVec.toNat_ofNat]
  omega

/-- The compact shifts work on 64 bits, whose count needs no reduction. -/
theorem compactImmediate_exec {d : R5} {imm : BitVec 6} {k : Fin 64} : ∀ p ∈ Claims.compactImmediate d imm k,
    ∃ f : Op2, (∀ x, sized2 false f x p.2.1 = Claims.sizedResult false p.2.2 x p.2.1) ∧
      ∀ s, exec p.1 s = aluI p.1 false d.val d.val p.2.1 f s := by
  simp only [Claims.compactImmediate, List.forall_mem_cons]
  refine ⟨⟨_, fun x => sized2_eq add_computes .., fun _ => rfl⟩,
    ⟨_, fun x => (sized2_eq shl_computes ..).trans ?_, fun _ => rfl⟩,
    ⟨_, fun x => (sized2_eq shr_computes ..).trans ?_, fun _ => rfl⟩,
    ⟨_, fun x => (sized2_eq sar_computes ..).trans ?_, fun _ => rfl⟩, List.forall_mem_nil _⟩
  · simp only [Claims.sizedResult, Bool.false_eq_true, if_false, shift_count]
  · simp only [Claims.sizedResult, Bool.false_eq_true, if_false, shift_count]
  · simp only [Claims.sizedResult, Bool.false_eq_true, if_false, shift_count]

/-! ## The claims -/

theorem integerTwoSourceResults : Claims.IntegerTwoSourceResults := by
  intro s wd d a b x y p hp h ha hb hd
  obtain ⟨f, hf, he⟩ := twoSource_exec p hp
  rw [he, alu2_completes h ha hb hd, sized2_eq hf]

theorem integerOneSourceResults : Claims.IntegerOneSourceResults := by
  intro s wd d a x p hp h ha hd
  obtain ⟨f, hf, he⟩ := oneSource_exec p hp
  rw [he, alu1_completes h ha hd, sized1_eq hf]

theorem integerImmediateResults : Claims.IntegerImmediateResults := by
  refine ⟨fun s wd d a imm k x p hp h ha hd => ?imm, fun s d imm k x p hp h ha hd => ?compactImm,
    fun s d a x y p hp h ha hb hd => ?compactReg, fun s d a x h ha hz hd => ?move⟩
  case imm =>
    obtain ⟨f, hf, he⟩ := immediate_exec p hp
    rw [he, aluI_completes h ha hd, sized2_eq hf]
  case compactImm =>
    obtain ⟨f, hf, he⟩ := compactImmediate_exec p hp
    rw [he, aluI_completes h ha hd, hf]
  case compactReg =>
    obtain ⟨f, hf, he⟩ := compactRegister_exec p hp
    rw [he, alu2_completes h ha hb hd, sized2_eq hf]
  case move =>
    have sum : sized2 false (fun _ x y => x + y) x 0 = x := BitVec.add_zero x
    exact (alu2_completes h ha hz hd false _).trans (by rw [sum])

/-- Settles O1: each instruction computes on n bits the low n bits of its table's integer, and completes with it. -/
theorem integerResults : Obligations.IntegerResults :=
  ⟨integerTwoSourceResults, integerOneSourceResults, integerImmediateResults⟩

end Sys2Proof.Machine
end

section
/-! SUPPORT. Moves, SEL and bit fields (R72-R74), and O2. -/

namespace Sys2Proof.Machine

variable {s : State}

/-! ## Fields (R72, R74) -/

/-- Bits [lo + n - 1 : lo], as insertBits masks them. -/
def fieldMask (lo n : Nat) : DWord := (BitVec.allOnes 64 >>> (64 - n)) <<< lo

/-- The low n bits of a value. -/
theorem and_lowMask {n : Nat} (hn : n ≤ 64) (v : DWord) :
    v &&& (BitVec.allOnes 64 >>> (64 - n)) = BitVec.ofNat 64 (v.toNat % 2 ^ n) := by
  apply BitVec.eq_of_getLsbD_eq
  intro j hj
  have low : 64 - n + j < 64 ↔ j < n := by omega
  simp only [BitVec.getLsbD_and, BitVec.getLsbD_ushiftRight, BitVec.getLsbD_allOnes, BitVec.getLsbD_ofNat, hj, low,
    Nat.testBit_mod_two_pow, decide_true, Bool.true_and, Bool.and_comm (v.getLsbD j)]
  rfl

/-- The low n bits of a value, moved to lo. -/
theorem shiftLeft_and_fieldMask {n : Nat} (hn : n ≤ 64) (v : DWord) (lo : Nat) :
    (v <<< lo) &&& fieldMask lo n = BitVec.ofNat 64 (v.toNat % 2 ^ n * 2 ^ lo) := by
  rw [fieldMask, ← BitVec.shiftLeft_and_distrib, and_lowMask hn]
  apply BitVec.eq_of_toNat_eq
  rw [BitVec.toNat_shiftLeft, BitVec.toNat_ofNat, BitVec.toNat_ofNat, Nat.shiftLeft_eq, Nat.mod_mul_mod]

/-- The bits of a value in a field, in their place. -/
theorem and_fieldMask {n : Nat} (hn : n ≤ 64) (x : DWord) (lo : Nat) :
    x &&& fieldMask lo n = BitVec.ofNat 64 (x.toNat / 2 ^ lo % 2 ^ n * 2 ^ lo) := by
  have upper : x &&& fieldMask lo n = ((x >>> lo) <<< lo) &&& fieldMask lo n := by
    apply BitVec.eq_of_getLsbD_eq
    intro j hj
    by_cases below : j < lo
    · simp [fieldMask, below]
    · simp [below, hj, Nat.add_sub_of_le (Nat.le_of_not_lt below)]
  rw [upper, shiftLeft_and_fieldMask hn, BitVec.toNat_ushiftRight, Nat.shiftRight_eq_div_pow]

/-- A value is its bits outside a mask and those inside. -/
theorem and_not_add_and (x m : DWord) : (x &&& ~~~m) + (x &&& m) = x := by
  have apart : (x &&& ~~~m) &&& (x &&& m) = 0#64 := by
    rw [BitVec.and_comm x m, ← BitVec.and_assoc, BitVec.and_assoc x, BitVec.and_comm (~~~m), BitVec.and_not_self]
    simp
  rw [BitVec.add_eq_or_of_and_eq_zero _ _ apart]
  apply BitVec.eq_of_getLsbD_eq
  intro j hj
  simp only [BitVec.getLsbD_or, BitVec.getLsbD_and, BitVec.getLsbD_not, hj, decide_true, Bool.true_and]
  cases m.getLsbD j with
  | true => simp
  | false => simp

/-- What insertBits leaves is the statement's field. -/
theorem insertBits_eq {n : Nat} (hn : n ≤ 64) (x v : DWord) (lo : Nat) :
    insertBits x v lo n = Claims.withField x v lo n := by
  have apart : (x &&& ~~~fieldMask lo n) &&& ((v <<< lo) &&& fieldMask lo n) = 0#64 := by
    rw [BitVec.and_comm (v <<< lo), ← BitVec.and_assoc, BitVec.and_assoc x]
    simp
  have inside : x.toNat / 2 ^ lo % 2 ^ n * 2 ^ lo ≤ x.toNat :=
    le_trans (Nat.mul_le_mul_right _ (Nat.mod_le ..)) (Nat.div_mul_le_self ..)
  have outside : x &&& ~~~fieldMask lo n = BitVec.ofNat 64 (x.toNat - x.toNat / 2 ^ lo % 2 ^ n * 2 ^ lo) := by
    rw [eq_sub_of_add_eq (and_not_add_and x (fieldMask lo n)), and_fieldMask hn, sub_eq_iff_eq_add, ← BitVec.ofNat_add,
      Nat.sub_add_cancel inside, BitVec.ofNat_toNat, BitVec.setWidth_eq]
  calc insertBits x v lo n
      = (x &&& ~~~fieldMask lo n) + ((v <<< lo) &&& fieldMask lo n) :=
        (BitVec.add_eq_or_of_and_eq_zero _ _ apart).symm
    _ = Claims.withField x v lo n := by
        rw [outside, shiftLeft_and_fieldMask hn, ← BitVec.ofNat_add, Claims.withField]

/-- The field that BFX takes. -/
theorem extracted_eq (x : DWord) (pos lm : Fin 64) : (x >>> pos.val) &&& (BitVec.allOnes 64 >>> (63 - lm.val)) =
    BitVec.ofNat 64 (x.toNat / 2 ^ pos.val % 2 ^ (lm.val + 1)) := by
  have width : 63 - lm.val = 64 - (lm.val + 1) := by omega
  rw [width, and_lowMask (by omega), BitVec.toNat_ushiftRight, Nat.shiftRight_eq_div_pow]

/-! ## SEL (R73) -/

/-- What SEL picks, by whether its condition's n bits are zero. -/
theorem selected_eq (wd : Bool) (t x y : DWord) :
    sized2 wd (fun n x y => if (t.setWidth n) != 0 then x else y) x y =
      Claims.sizedResult wd (fun n x y => if (t.setWidth n) ≠ 0 then x.toInt else y.toInt) x y := by
  refine sized2_eq (fun n x y => ?_) wd x y
  simp only [bne_iff_ne]
  split
  · exact BitVec.ofInt_toInt.symm
  · exact BitVec.ofInt_toInt.symm

/-- Settles O2: each instruction completes with its sources' bits, moved, picked or put into a field. -/
theorem moveAndFieldResults : Obligations.MoveAndFieldResults := by
  refine ⟨fun s d imm h hd => ?movi, fun s d imm h hd => ?moviCompact, fun s d imm k x h hg hd => ?movhi,
    fun s wd d c a b t x y h ht ha hb hd => ?sel, fun s d a pos lm x h ha hd => ?bfx,
    fun s d a pos lm x t h ha hreg hcode hd => ?bfi⟩
  case movi => exact unitS_completes h (List.forall_mem_nil _) hd rfl
  case moviCompact => exact unitS_completes h (List.forall_mem_nil _) hd rfl
  case movhi =>
    refine unitS_completes h (List.forall_mem_singleton.2 ⟨x, hg⟩) hd ?_
    simp only [M.bind_run, readS_of_gives (State.clean_of_issues h) hg, M.pure_run, insertBits_eq (n := 16) (by decide)]
  case sel =>
    have hc := State.clean_of_issues h
    have cond : readS (selCode c.val) s = .ok t s := readS_of_gives hc ht
    refine unitS_completes h (ss := [selCode c.val, a.val, b.val])
      (List.forall_mem_cons.2 ⟨⟨t, ht⟩, List.forall_mem_cons.2 ⟨⟨x, ha⟩, List.forall_mem_singleton.2 ⟨y, hb⟩⟩⟩) hd ?_
    simp only [M.bind_run, cond, readS_of_gives hc ha, readS_of_gives hc hb, M.pure_run, selected_eq]
  case bfx =>
    refine unitS_completes h (List.forall_mem_singleton.2 ⟨x, ha⟩) hd ?_
    simp only [M.bind_run, readS_of_gives (State.clean_of_issues h) ha, M.pure_run, extracted_eq]
  case bfi =>
    have hc := State.clean_of_issues h
    have sources : ∀ c ∈ if d.val < 32 then [d.val, a.val] else [a.val], ∃ v, s.gives c v := by
      split
      · next reg => exact List.forall_mem_cons.2 ⟨⟨t, hreg reg⟩, List.forall_mem_singleton.2 ⟨x, ha⟩⟩
      · exact List.forall_mem_singleton.2 ⟨x, ha⟩
    have width : lm.val + 1 ≤ 64 := lm.isLt
    refine unitS_completes h sources hd ?_
    by_cases reg : d.val < 32
    · simp only [M.bind_run, readS_of_gives hc ha, reg, if_true, readS_of_gives hc (hreg reg), M.pure_run,
        insertBits_eq width]
    · simp only [M.bind_run, readS_of_gives hc ha, reg, if_false, hcode (Nat.le_of_not_lt reg), M.pure_run,
        insertBits_eq width]

end Sys2Proof.Machine
end

section
/-! SUPPORT. Branches, jumps and loops (R75, R76, R80), O3 and O5. -/

namespace Sys2Proof.Machine

variable {s : State} {i : Instr}

/-! ## Transfers (R75, R76) -/

theorem relative_run (s : State) (off : Int) : relative s.now.pc off s = (do
    require (0 ≤ Claims.relTarget s off && Claims.relTarget s off < 65536) cILLEGAL
    pure (.jump (BitVec.ofNat 64 (Claims.relTarget s off).toNat)) : M Flow) s := rfl

/-- A target in the store, as relative gives it. -/
theorem relative_inStore {off : Int} (h : Claims.inStore (Claims.relTarget s off)) :
    relative s.now.pc off s = .ok (.jump (BitVec.ofInt 64 (Claims.relTarget s off))) s := by
  have inside : (decide (0 ≤ Claims.relTarget s off) && decide (Claims.relTarget s off < 65536)) = true := by
    simpa using h
  have same : BitVec.ofNat 64 (Claims.relTarget s off).toNat = BitVec.ofInt 64 (Claims.relTarget s off) := by
    rw [← BitVec.ofInt_natCast, Int.toNat_of_nonneg h.1]
  simp only [relative_run, M.bind_run, M.require_true inside, M.pure_run, same]

theorem relative_outside {off : Int} (h : ¬ Claims.inStore (Claims.relTarget s off)) :
    relative s.now.pc off s = .error (.trap cILLEGAL 0 none none) s := by
  have outside : (decide (0 ≤ Claims.relTarget s off) && decide (Claims.relTarget s off < 65536)) = false := by
    simpa using h
  simp only [relative_run, M.bind_run, M.require_false outside]

/-! ## Conditional branches (R75) -/

/-- A conditional branch whose condition has the value b: taken, or not, or taken out of the store. -/
theorem branch_runs {ss : List Nat} {off : Int} {cond : M Bool} {b : Bool} (h : s.issues i)
    (hr : s.readyFor { ss := ss }) (hcond : cond s = .ok b s) :
    (b = false → branch i ss off cond s = .next (s.finish i .seq (Claims.popped s ss))) ∧
    (b = true → Claims.inStore (Claims.relTarget s off) → branch i ss off cond s =
      .next (s.finish i (.jump (BitVec.ofInt 64 (Claims.relTarget s off))) (Claims.popped s ss))) ∧
    (b = true → ¬ Claims.inStore (Claims.relTarget s off) →
      branch i ss off cond s = .next (s.takeTrap cILLEGAL 0 none none)) := by
  refine ⟨?_, ?_, ?_⟩
  · rintro rfl
    refine unit_over_completes h hr ?_
    simp only [M.bind_run, hcond, Bool.false_eq_true, if_false, M.pure_run]
  · rintro rfl hin
    refine unit_over_completes h hr ?_
    simp only [M.bind_run, hcond, if_true, myPC, M.me_run, M.pure_run, relative_inStore hin]
  · rintro rfl hout
    refine unit_over_traps h hr ?_
    simp only [M.bind_run, hcond, if_true, myPC, M.me_run, M.pure_run, relative_outside hout]

/-- Each row of R75's table on two sources is a comparison of the machine. -/
theorem branchTwo_exec {a b : Sc} {off : BitVec 10} : ∀ p ∈ Claims.branchTwo a b off,
    ∃ f, (∀ x y, f x y = p.2 x y) ∧
      ∀ s, exec p.1 s = branch p.1 [a.val, b.val] off.toInt (compare2 a.val b.val f) s := by
  simp only [Claims.branchTwo, List.forall_mem_cons]
  refine ⟨⟨_, fun x y => ?beq, fun _ => rfl⟩, ⟨_, fun x y => ?bne, fun _ => rfl⟩, ⟨_, fun x y => ?blt, fun _ => rfl⟩,
    ⟨_, fun x y => ?bge, fun _ => rfl⟩, ⟨_, fun x y => ?blo, fun _ => rfl⟩, ⟨_, fun x y => ?bhs, fun _ => rfl⟩,
    List.forall_mem_nil _⟩
  case beq => rw [Bool.eq_iff_iff, beq_iff_eq, decide_eq_true_iff, BitVec.toNat_inj]
  case bne => rw [Bool.eq_iff_iff, bne_iff_ne, decide_eq_true_iff, ne_eq, ne_eq, BitVec.toNat_inj]
  case blt => rw [Bool.eq_iff_iff, BitVec.slt_iff_toInt_lt, decide_eq_true_iff]
  case bge => rw [Bool.eq_iff_iff, BitVec.sle_iff_toInt_le, decide_eq_true_iff]
  case blo => rw [Bool.eq_iff_iff, BitVec.ult_iff_toNat_lt, decide_eq_true_iff]
  case bhs => rw [Bool.eq_iff_iff, BitVec.ule_iff_toNat_le, decide_eq_true_iff]

/-- Each row of R75's table on one source tests it for zero. -/
theorem branchOne_exec {a : Sc} {c : R5} {off : BitVec 10} {imm : BitVec 6} : ∀ p ∈ Claims.branchOne a c off imm,
    ∃ f : DWord → Bool, (∀ x, f x = p.2.2.2 x) ∧
      ∀ s, exec p.1 s = branch p.1 [p.2.1] p.2.2.1 (do pure (f (← readS p.2.1))) s := by
  have zero (x : DWord) : (x == 0) = decide (x.toNat = 0) := by
    rw [Bool.eq_iff_iff, beq_iff_eq, decide_eq_true_iff, eq_zero_iff_toNat]
  have nonzero (x : DWord) : (x != 0) = decide (x.toNat ≠ 0) := by
    rw [Bool.eq_iff_iff, bne_iff_ne, decide_eq_true_iff, ne_eq, ne_eq, eq_zero_iff_toNat]
  simp only [Claims.branchOne, List.forall_mem_cons]
  exact ⟨⟨(· == 0), zero, fun _ => rfl⟩, ⟨(· != 0), nonzero, fun _ => rfl⟩, ⟨(· == 0), zero, fun _ => rfl⟩,
    ⟨(· != 0), nonzero, fun _ => rfl⟩, List.forall_mem_nil _⟩

/-- Settles O3: each conditional branch is one comparison, and goes on, to its target or into ILLEGAL by it. -/
theorem conditionalBranches : Obligations.ConditionalBranches := by
  refine ⟨fun s a b off x y p hp h ha hb => ?two, fun s a c off imm x p hp h hg => ?one⟩
  case two =>
    obtain ⟨f, hf, he⟩ := branchTwo_exec p hp
    have hc := State.clean_of_issues h
    have cond : compare2 a.val b.val f s = .ok (p.2 x y) s := by
      simp only [compare2, M.bind_run, readS_of_gives hc ha, readS_of_gives hc hb, M.pure_run, hf]
    rw [he]
    exact branch_runs h (readyFor_two ha hb) cond
  case one =>
    obtain ⟨f, hf, he⟩ := branchOne_exec p hp
    have cond : (do pure (f (← readS p.2.1)) : M Bool) s = .ok (p.2.2.2 x) s := by
      simp only [M.bind_run, readS_of_gives (State.clean_of_issues h) hg, M.pure_run, hf]
    rw [he]
    exact branch_runs h (readyFor_one hg) cond

/-! ## Jumps (R76) -/

theorem jumpTo_completes {a : Nat} {t : DWord} (h : s.issues i) (hg : s.gives a t) (hlt : t.toNat < 65536)
    (heven : t.toNat % 2 = 0) : jumpTo i a s = .next (s.finish i (.jump t) (Claims.popped s [a])) :=
  unit_over_completes h (readyFor_one hg) (by
    simp only [M.bind_run, readS_of_gives (State.clean_of_issues h) hg, targetInStore_inside (.inr hlt),
      targetEven_even heven, M.pure_run])

theorem jumpTo_odd {a : Nat} {t : DWord} (h : s.issues i) (hg : s.gives a t) (hodd : t.toNat % 2 = 1) :
    jumpTo i a s = .next (s.takeTrap cALIGN t.toNat none none) :=
  unit_over_traps h (readyFor_one hg) (by
    simp only [M.bind_run, readS_of_gives (State.clean_of_issues h) hg, targetInStore_inside (.inl hodd),
      targetEven_odd hodd])

theorem jumpTo_beyond {a : Nat} {t : DWord} (h : s.issues i) (hg : s.gives a t) (hbig : 65536 ≤ t.toNat)
    (heven : t.toNat % 2 = 0) : jumpTo i a s = .next (s.takeTrap cILLEGAL 0 none none) :=
  unit_over_traps h (readyFor_one hg) (by
    simp only [M.bind_run, readS_of_gives (State.clean_of_issues h) hg, targetInStore_beyond heven hbig])

theorem jr_exec {a : Sc} : ∀ i ∈ [Instr.jr a, Instr.jrCompact a], ∀ s, exec i s = jumpTo i a.val s := by
  simp only [List.forall_mem_cons]
  exact ⟨fun _ => rfl, fun _ => rfl, List.forall_mem_nil _⟩

/-- B and its compact form are relative transfers. -/
theorem b_exec {off : Int}
    (h : (∃ t : BitVec 24, i = .b t ∧ off = t.toInt) ∨ (∃ t : BitVec 11, i = .bCompact t ∧ off = t.toInt)) (s : State) :
    exec i s = unit i (do relative (← myPC) off) s := by
  obtain ⟨t, rfl, rfl⟩ | ⟨t, rfl, rfl⟩ := h
  · rfl
  · rfl

theorem jumps : Claims.Jumps := by
  refine ⟨fun s i off hi h => ⟨fun hin => ?taken, fun hout => ?illegal⟩, fun s t h => unit_completes h rfl,
    fun s a t i hi h hg => ⟨fun hlt heven => ?jr, fun hodd => ?odd, fun hbig heven => ?beyond⟩⟩
  case taken =>
    rw [b_exec hi]
    exact unit_completes h (by simp only [M.bind_run, myPC, M.me_run, M.pure_run, relative_inStore hin])
  case illegal =>
    rw [b_exec hi]
    exact unit_traps h (by simp only [M.bind_run, myPC, M.me_run, M.pure_run, relative_outside hout])
  case jr => rw [jr_exec i hi, jumpTo_completes h hg hlt heven]
  case odd => rw [jr_exec i hi, jumpTo_odd h hg hodd]
  case beyond => rw [jr_exec i hi, jumpTo_beyond h hg hbig heven]

/-! ## Loops (R80) -/

/-- The state in which a loop of cnt rounds over len parcels has been set up. -/
def State.looped (s : State) (cnt : BitVec 32) (len : BitVec 16) : State :=
  s.updCtx s.core s.ctx fun q => { q with
    lstart := s.now.pc + 4, lend := BitVec.ofNat 64 (s.now.pc.toNat + 4 + 2 * len.toNat), lcount := cnt }

theorem startLoop_inside {len : BitVec 16} (h : s.now.pc.toNat + 4 + 2 * len.toNat ≤ 65536) (cnt : BitVec 32) :
    startLoop cnt len s = .ok (.jump (if cnt = 0 then BitVec.ofNat 64 (s.now.pc.toNat + 4 + 2 * len.toNat)
      else s.now.pc + 4)) (s.looped cnt len) := by
  simp only [startLoop, M.bind_run, myPC, M.me_run, M.pure_run, M.require_true (decide_eq_true h), M.modMe_run,
    beq_iff_eq]
  rfl

theorem startLoop_beyond {len : BitVec 16} (h : 65536 < s.now.pc.toNat + 4 + 2 * len.toNat) (cnt : BitVec 32) :
    startLoop cnt len s = .error (.trap cILLEGAL 0 none none) s := by
  simp only [startLoop, M.bind_run, myPC, M.me_run, M.pure_run, M.require_false (decide_eq_false (Nat.not_le.2 h))]

/-- A register's count, cut to 32 bits, is zero where the register is. -/
theorem count_eq_zero (x : Nat) : BitVec.ofNat 32 (min x (2 ^ 32 - 1)) = 0 ↔ x = 0 := by
  rw [eq_zero_iff_toNat, BitVec.toNat_ofNat]
  omega

theorem loopStarts : Claims.LoopStarts := by
  refine ⟨fun s n len h hin => ?loopi, fun s a len x h hg hin => ?loop, fun s n a len x hg i hi h hout => ?beyond⟩
  case loopi =>
    have zero : n.setWidth 32 = 0 ↔ n = 0 := by
      rw [eq_zero_iff_toNat, eq_zero_iff_toNat, BitVec.toNat_setWidth]
      omega
    have count : BitVec.ofNat 32 n.toNat = n.setWidth 32 := BitVec.ofNat_toNat ..
    rw [count]
    simp only [← zero]
    exact unit_completes h (startLoop_inside hin _)
  case loop =>
    simp only [← count_eq_zero x.toNat]
    refine unit_over_completes h (readyFor_one hg) ?_
    simp only [M.bind_run, readS_of_gives (State.clean_of_issues h) hg, startLoop_inside hin]
    rfl
  case beyond =>
    simp only [List.mem_cons, List.not_mem_nil, or_false] at hi
    rcases hi with rfl | rfl
    · exact unit_traps h (startLoop_beyond hout _)
    · refine unit_over_traps h (readyFor_one hg) ?_
      simp only [M.bind_run, readS_of_gives (State.clean_of_issues h) hg, startLoop_beyond hout]

/-- Settles O5: jumps check their target, and loops their end, before they transfer. -/
theorem jumpsAndLoops : Obligations.JumpsAndLoops := ⟨jumps, loopStarts⟩

end Sys2Proof.Machine
end

section
/-! SUPPORT. What completion leaves (R81, R100, R230), and O6. -/

namespace Sys2Proof.Machine

variable {s t : State} {i : Instr}

/-! ## A context that has issued (R84, R100) -/

theorem State.ctxAt_issued (t : State) (c : Nat) (x y : Fin 8) : (t.updCore c fun k => k.issued x).ctxAt c y =
    { t.ctxAt c y with yieldTo := (t.ctxAt c y).yieldTo.filter (· != x.val) } := by
  simp [State.ctxAt, Core.issued, Core.passed, Core.release]

theorem State.last_issued (t : State) (c : Nat) (x : Fin 8) :
    ((t.updCore c fun k => k.issued x).coreAt c).last = x := by
  simp [Core.issued, Core.passed]

/-! ## The suspension that a store's page brings (R307) -/

/-- It writes TRAPPC and TRAPINST of the context. -/
theorem State.ctxAt_noteHeld (t : State) (c : Nat) (x : Fin 8) : ∃ pc inst,
    (t.noteHeld c x).ctxAt c x = { t.ctxAt c x with trappc := pc, trapinst := inst } := by
  unfold State.noteHeld
  split
  · exact ⟨_, _, t.ctxAt_updCtx ..⟩
  · exact ⟨_, _, rfl⟩

/-- It leaves everything else. -/
theorem State.noteHeld_frame (t : State) (c : Nat) (x : Fin 8) :
    ((t.noteHeld c x).coreAt c).last = (t.coreAt c).last ∧ (t.noteHeld c x).mem = t.mem ∧
      (t.noteHeld c x).pkg = t.pkg ∧ ∀ y, y ≠ x → (t.noteHeld c x).ctxAt c y = t.ctxAt c y := by
  unfold State.noteHeld
  split
  · exact ⟨by simp [Core.setCtx], rfl, rfl, fun y hy => t.ctxAt_updCtx_other _ (.inr hy)⟩
  · exact ⟨rfl, rfl, rfl, fun _ _ => rfl⟩

/-! ## The next unit (R81) -/

theorem Ctx.advance_on {q : Ctx} {pc : DWord} (h : q.lcount = 0 ∨ pc ≠ q.lend) : q.advance pc = { q with pc } := by
  have on : (q.lcount != 0 && pc == q.lend) = false := by
    rcases h with h | h <;> simp [h]
  simp only [Ctx.advance, on, Bool.false_eq_true, if_false]

theorem Ctx.advance_back {q : Ctx} {pc : DWord} (hn : q.lcount ≠ 0) (hp : pc = q.lend) :
    q.advance pc = { q with lcount := q.lcount - 1, pc := if q.lcount = 1 then q.lend else q.lstart } := by
  have back : (q.lcount != 0 && pc == q.lend) = true := by simpa using ⟨hn, hp⟩
  simp only [Ctx.advance, back, if_true, bne_iff_ne, ne_eq, ite_not]

/-- An advance keeps S and the registers. -/
theorem Ctx.advance_kept (q : Ctx) (pc : DWord) : (q.advance pc).sig = q.sig ∧ (q.advance pc).w = q.w ∧
    (q.advance pc).g = q.g ∧ (q.advance pc).p = q.p ∧ (q.advance pc).v = q.v ∧ (q.advance pc).m = q.m := by
  unfold Ctx.advance
  split
  · exact ⟨rfl, rfl, rfl, rfl, rfl, rfl⟩
  · exact ⟨rfl, rfl, rfl, rfl, rfl, rfl⟩

/-! ## Completion -/

/-- What completion makes of the unit's own context, where the unit does not end its activation. -/
theorem State.ctxAt_finish (s t : State) (i : Instr) {f : Flow} (hf : f ≠ .gone) : ∃ y pc inst,
    (s.finish i f t).ctxAt s.core s.ctx =
      { ({ t.ctxAt s.core s.ctx with yieldTo := y } : Ctx).completed i (s.ctx == 7) s.now.pc f with
        trappc := pc, trapinst := inst } := by
  have held (h : Ctx → Ctx) := State.ctxAt_noteHeld ((t.updCore s.core fun k => k.issued s.ctx).updCtx s.core s.ctx h)
    s.core s.ctx
  simp only [State.ctxAt_updCtx, State.ctxAt_issued] at held
  cases f with
  | gone => exact absurd rfl hf
  | seq =>
    obtain ⟨pc, inst, h⟩ := held fun q => q.completed i (s.ctx == 7) s.now.pc .seq
    exact ⟨_, pc, inst, h⟩
  | jump a =>
    obtain ⟨pc, inst, h⟩ := held fun q => q.completed i (s.ctx == 7) s.now.pc (.jump a)
    exact ⟨_, pc, inst, h⟩

/-- How a unit that s's context has issued, and whose work has led to t, leaves the machine as u: what is said of all but
that context. -/
def State.Completes (s t u : State) : Prop :=
  (u.coreAt s.core).last = s.ctx ∧ u.mem = t.mem ∧ u.pkg = t.pkg ∧ ∀ x, x ≠ s.ctx → u.ctxAt s.core x =
    { t.ctxAt s.core x with yieldTo := (t.ctxAt s.core x).yieldTo.filter (· != s.ctx.val) }

theorem State.completes_issued (s t : State) : s.Completes t (t.updCore s.core fun k => k.issued s.ctx) :=
  ⟨t.last_issued .., rfl, rfl, fun _ _ => t.ctxAt_issued ..⟩

/-- Changes of the issuing context leave the others. -/
theorem State.Completes.updCtx {u : State} (h : s.Completes t u) (f : Ctx → Ctx) :
    s.Completes t ((u.updCtx s.core s.ctx f).noteHeld s.core s.ctx) := by
  obtain ⟨last, mem, pkg, others⟩ := h
  obtain ⟨hlast, hmem, hpkg, hctx⟩ := (u.updCtx s.core s.ctx f).noteHeld_frame s.core s.ctx
  refine ⟨hlast.trans ?_, hmem.trans mem, hpkg.trans pkg, fun x hx =>
    (hctx x hx).trans ((u.ctxAt_updCtx_other f (.inr hx)).trans (others x hx))⟩
  rw [State.coreAt_updCtx]
  exact last

theorem State.finish_completes (s t : State) (i : Instr) (f : Flow) : s.Completes t (s.finish i f t) := by
  have issued := s.completes_issued t
  cases f with
  | gone => exact issued
  | seq => exact issued.updCtx _
  | jump a => exact issued.updCtx _

/-- The context that a unit's sequential advance starts from. -/
def Ctx.folded (q : Ctx) (i : Instr) (handler : Bool) (pc : DWord) : Ctx :=
  { q with
    sig := sigAfter i pc.toNat q.sig
    hbudget := if handler then q.hbudget - 1 else q.hbudget
    blocked := none
    latch := none
    metSift := false }

theorem Ctx.completed_seq (q : Ctx) (i : Instr) (handler : Bool) (pc : DWord) :
    q.completed i handler pc .seq = (q.folded i handler pc).advance (pc + BitVec.ofNat 64 i.size) := rfl

/-- Settles O6: the unit's own context is its advance or its target, and all else is as the work left it. -/
theorem unitCompletion : Obligations.UnitCompletion := by
  refine fun s t i hcore => ⟨?seq, fun a => ?jump, fun f => s.finish_completes t i f⟩
  case seq =>
    intro q p next
    obtain ⟨y, pc, inst, hq⟩ := s.ctxAt_finish t i (f := .seq) (by simp)
    rw [Ctx.completed_seq] at hq
    let r := ({ p with yieldTo := y } : Ctx).folded i (s.ctx == 7) s.now.pc
    have done : q = { r.advance next with trappc := pc, trapinst := inst } := hq
    rw [done]
    refine ⟨fun h => ?on, fun hn hp => ?back, r.advance_kept next⟩
    case on =>
      show (r.advance next).pc = next ∧ (r.advance next).lcount = p.lcount
      rw [Ctx.advance_on (q := r) h]
      exact ⟨rfl, rfl⟩
    case back =>
      show (r.advance next).lcount = p.lcount - 1 ∧ (r.advance next).pc = if p.lcount = 1 then p.lend else p.lstart
      rw [Ctx.advance_back (q := r) hn hp]
      exact ⟨rfl, rfl⟩
  case jump =>
    obtain ⟨y, pc, inst, hq⟩ := s.ctxAt_finish t i (f := .jump a) (by simp)
    rw [hq]
    rfl

end Sys2Proof.Machine
end

section
/-! SUPPORT. YIELD, WFE, SEV and DONE (R83-R86, R285, R332, R385, R386), and O7. -/

namespace Sys2Proof.Machine

variable {s : State} {i : Instr}

/-! ## Waits for what was issued before (R385, R386) -/

theorem afterAmos_performed (h : s.performed) : afterAmos s = .ok () s := by
  obtain ⟨hamos, htraces⟩ := h
  simp only [afterAmos, M.bind_run, M.get_run, M.me_run, hamos, htraces, List.isEmpty_nil, Bool.not_true, Bool.or_false,
    Bool.false_eq_true, if_false, M.pure_run]

theorem afterRels_released (h : s.released) : afterRels s = .ok () s := by
  simp only [afterRels, M.bind_run, M.get_run, M.me_run, show s.relsOut s.now.actId = false from h, Bool.false_eq_true,
    if_false, M.pure_run]

/-! ## The pairs of forms (R26) -/

theorem yield_exec : ∀ i ∈ [Instr.yield, .yieldCompact], ∀ s, exec i s = unit i yieldNow s := by
  simp only [List.forall_mem_cons]
  exact ⟨fun _ => rfl, fun _ => rfl, List.forall_mem_nil _⟩

theorem wfe_exec : ∀ i ∈ [Instr.wfe, .wfeCompact], ∀ s, exec i s = unit i waitEvent s := by
  simp only [List.forall_mem_cons]
  exact ⟨fun _ => rfl, fun _ => rfl, List.forall_mem_nil _⟩

theorem sev_exec : ∀ i ∈ [Instr.sev, .sevCompact], ∀ s, exec i s = unit i sendEvent s := by
  simp only [List.forall_mem_cons]
  exact ⟨fun _ => rfl, fun _ => rfl, List.forall_mem_nil _⟩

theorem done_exec : ∀ i ∈ [Instr.done, .doneCompact], ∀ s, exec i s = unit i endActivation s := by
  simp only [List.forall_mem_cons]
  exact ⟨fun _ => rfl, fun _ => rfl, List.forall_mem_nil _⟩

/-! ## WFE (R86) -/

theorem waitEvent_set (hx : s.ctx ≠ 7) (he : s.now.evt = true) (hr : s.released) :
    waitEvent s = .ok .seq (s.updCtx s.core s.ctx fun q => { q with evt := false }) := by
  have other : (s.ctx != 7) = true := by simpa using hx
  simp only [waitEvent, M.bind_run, M.get_run, M.me_run, M.require_true other, he, Bool.not_true, Bool.false_eq_true,
    if_false, afterRels_released hr, M.modMe_run, M.pure_run]

theorem waitEvent_waits (hx : s.ctx ≠ 7) (he : s.now.evt = false) : waitEvent s = .error (.wait sEVENT) s := by
  have other : (s.ctx != 7) = true := by simpa using hx
  simp only [waitEvent, M.bind_run, M.get_run, M.me_run, M.require_true other, he, Bool.not_false, if_true, M.wait_run]

theorem waitEvent_handler (hx : s.ctx = 7) : waitEvent s = .error (.trap cILLEGAL 0 none none) s := by
  have seven : (s.ctx != 7) = false := by simpa using hx
  simp only [waitEvent, M.bind_run, M.get_run, M.me_run, M.require_false seven]

/-- A context that stalls for an event sleeps at the unit. -/
theorem State.now_stall_event (s : State) : (s.stall sEVENT).now.run = .asleep ∧ (s.stall sEVENT).now.pc = s.now.pc := by
  have now : (s.stall sEVENT).now = _ := s.ctxAt_updCtx s.core s.ctx _
  rw [now]
  exact ⟨rfl, rfl⟩

/-! ## SEV (R85) -/

/-- A core in which context x has sent the event to those of a list. -/
def Core.sendTo (x : Fin 8) (l : List (Fin 8)) (k : Core) : Core :=
  l.foldl (fun k y => if y == x then k else k.setCtx y k.ctxs[y].event) k

/-- Each of the list but the sender has it once. -/
theorem Core.ctxs_sendTo {x : Fin 8} {l : List (Fin 8)} (hl : l.Nodup) (k : Core) (y : Fin 8) :
    (k.sendTo x l).ctxs[y] = if y ∈ l ∧ y ≠ x then k.ctxs[y].event else k.ctxs[y] := by
  induction l generalizing k with
  | nil => simp [Core.sendTo]
  | cons z l ih =>
    obtain ⟨hz, hl⟩ := List.nodup_cons.1 hl
    have step : k.sendTo x (z :: l) = (if z == x then k else k.setCtx z k.ctxs[z].event).sendTo x l := rfl
    rw [step, ih hl]
    by_cases here : y = z
    · subst here
      by_cases self : y = x
      · simp [self]
      · simp only [hz, beq_iff_eq, self, if_false, false_and, List.mem_cons_self, ne_eq, not_false_eq_true, and_self, if_true]
        exact k.setCtx_same ..
    · have kept : (if z == x then k else k.setCtx z k.ctxs[z].event).ctxs[y] = k.ctxs[y] := by
        split
        · rfl
        · exact k.setCtx_other _ here
      rw [kept]
      simp only [List.mem_cons, here, false_or]

/-- The state after SEV. -/
def State.sentEvent (s : State) : State := s.updCore s.core (Core.sendTo s.ctx allCtx)

theorem State.ctxAt_sentEvent (s : State) (y : Fin 8) :
    s.sentEvent.ctxAt s.core y = if y = s.ctx then s.ctxAt s.core y else (s.ctxAt s.core y).event := by
  have all : y ∈ allCtx := by revert y; decide
  rw [State.sentEvent, State.ctxAt, State.coreAt_updCore, Core.ctxs_sendTo (by decide)]
  by_cases self : y = s.ctx
  · simp only [self, ne_eq, not_true, and_false, if_false, if_true]
    rfl
  · simp only [all, ne_eq, self, not_false_eq_true, and_self, if_true, if_false]
    rfl

theorem sendEvent_run (h : s.performed) : sendEvent s = .ok .seq s.sentEvent := by
  simp only [sendEvent, M.bind_run, afterAmos_performed h, M.get_run, M.modCore_run, M.pure_run]
  rfl

theorem yieldAndEvents : Claims.YieldAndEvents := by
  refine ⟨fun s i hi h => ?yield, fun s i hi h => ⟨fun hx he hr => ?wfe, fun hx he => ?sleep, fun hx => ?handler⟩,
    fun s i hi h hp => ?sev⟩
  case yield =>
    rw [yield_exec i hi]
    exact unit_completes h rfl
  case wfe =>
    rw [wfe_exec i hi]
    exact unit_completes h (waitEvent_set hx he hr)
  case sleep =>
    rw [wfe_exec i hi]
    exact ⟨_, unit_waits h (waitEvent_waits hx he), s.now_stall_event⟩
  case handler =>
    rw [wfe_exec i hi]
    exact unit_traps h (waitEvent_handler hx)
  case sev =>
    rw [sev_exec i hi]
    refine ⟨_, unit_completes h (sendEvent_run hp), (s.ctxAt_sentEvent s.ctx).trans (if_pos rfl), rfl, fun x hx => ?_⟩
    rw [s.ctxAt_sentEvent, if_neg hx]

/-! ## DONE (R83, R285, R332) -/

theorem endActivation_waits (h : s.now.replies ≠ []) : endActivation s = .error (.wait sREMOTE) s := by
  have some_ : s.now.replies.isEmpty = false := by simpa using h
  simp only [endActivation, M.bind_run, M.me_run, some_, Bool.not_false, if_true, M.wait_run]

/-- The state in which a saving context has ended, and its seal is to begin. -/
def State.sealing (s : State) : State :=
  (s.updCtx s.core s.ctx fun q => { q with run := .sealing, blocked := none }).later 1 (.seal s.core s.ctx.val)

theorem endActivation_ends (h : s.now.replies = []) :
    endActivation s = .ok .gone (if s.now.saving then s.sealing else s.complete s.core s.ctx) := by
  simp only [endActivation, M.bind_run, M.me_run, h, List.isEmpty_nil, Bool.not_true, Bool.false_eq_true, if_false,
    M.modify_run, M.pure_run]
  rfl

/-- A unit that ends its activation leaves the context as its work has. -/
theorem State.run_finish_gone (s t : State) (i : Instr) :
    ((s.finish i .gone t).ctxAt s.core s.ctx).run = (t.ctxAt s.core s.ctx).run := by
  have issued : (s.finish i .gone t).ctxAt s.core s.ctx = _ := t.ctxAt_issued s.core s.ctx s.ctx
  rw [issued]

theorem doneEndsActivation : Claims.DoneEndsActivation := by
  refine fun s i hi h => ⟨fun hr hs => ?complete, fun hr hs => ?saving, fun hr => ?wait⟩
  case complete =>
    rw [done_exec i hi]
    refine unit_completes h ((endActivation_ends hr).trans ?_)
    rw [hs, if_neg Bool.false_ne_true]
  case saving =>
    rw [done_exec i hi]
    refine ⟨_, unit_completes h ((endActivation_ends hr).trans (by rw [hs, if_pos rfl])), ?_⟩
    have now : (s.finish i .gone s.sealing).now.run = (s.sealing.ctxAt s.core s.ctx).run := s.run_finish_gone ..
    rw [now, State.sealing, State.ctxAt_later, State.ctxAt_updCtx]
  case wait =>
    rw [done_exec i hi]
    exact unit_waits h (endActivation_waits hr)

/-- Settles O7: YIELD, WFE and SEV by what they wait for, DONE by whether its activation saves. -/
theorem eventsAndEndings : Obligations.EventsAndEndings := ⟨yieldAndEvents, doneEndsActivation⟩

end Sys2Proof.Machine
end

section
/-! SUPPORT. CLEN, CLDIS and CLPEND (R91), and O10. -/

namespace Sys2Proof.Machine

variable {s : State} {i : Instr} {a : Nat} {v : DWord}

/-! ## The class and its entry -/

/-- The checks of a class, in their order (R91). -/
theorem classEntry_run (v : DWord) (s : State) : classEntry v s = (do
    require (v.toNat ≤ 255) cILLEGAL
    require (Claims.mayClass s v.toNat) cPRIV
    pure (v.toNat, (s.nowCore.cls v.toNat).toNat) : M (Nat × Nat)) s := by
  have may : (s.now.privileged || (!bit (s.nowCore.cls v.toNat).toNat 27 && !bit (s.nowCore.cls v.toNat).toNat 28 &&
      fld (s.nowCore.cls v.toNat).toNat 32 32 == fld (s.nowCore.cls s.now.classno.toNat).toNat 32 32)) =
      decide (Claims.mayClass s v.toNat) := by
    rw [Bool.eq_iff_iff, decide_eq_true_iff]
    simp [and_assoc]
  rw [← may]
  by_cases hle : v.toNat ≤ 255
  · simp only [classEntry, M.bind_run, M.require_true (decide_eq_true hle)]
    rfl
  · simp only [classEntry, M.bind_run, M.require_false (decide_eq_false hle)]

theorem classEntry_may (hle : v.toNat ≤ 255) (h : Claims.mayClass s v.toNat) :
    classEntry v s = .ok (v.toNat, (s.nowCore.cls v.toNat).toNat) s := by
  simp only [classEntry_run, M.bind_run, M.require_true (decide_eq_true hle), M.require_true (decide_eq_true h), M.pure_run]

theorem classEntry_refused (hle : v.toNat ≤ 255) (h : ¬ Claims.mayClass s v.toNat) :
    classEntry v s = .error (.trap cPRIV 0 none none) s := by
  simp only [classEntry_run, M.bind_run, M.require_true (decide_eq_true hle), M.require_false (decide_eq_false h)]

theorem classEntry_beyond (h : 255 < v.toNat) : classEntry v s = .error (.trap cILLEGAL 0 none none) s := by
  simp only [classEntry_run, M.bind_run, M.require_false (decide_eq_false (Nat.not_le.2 h))]

/-! ## The instructions -/

/-- CLEN and CLDIS write bit 24 of the entry. -/
theorem setEnable_exec {a : Sc} : ∀ p ∈ [(Instr.clen a, 1), (Instr.cldis a, 0)],
    ∃ on : Bool, on.toNat = p.2 ∧ ∀ s, exec p.1 s = setEnable p.1 a.val on s := by
  simp only [List.forall_mem_cons]
  exact ⟨⟨true, rfl, fun _ => rfl⟩, ⟨false, rfl, fun _ => rfl⟩, List.forall_mem_nil _⟩

theorem setEnable_completes (h : s.issues i) (hg : s.gives a v) (hle : v.toNat ≤ 255)
    (hm : Claims.mayClass s v.toNat) (on : Bool) : setEnable i a on s = .next (s.finish i .seq (Claims.popped
      (s.writeClass s.core v.toNat (setFld (s.nowCore.cls v.toNat).toNat 24 1 on.toNat)) [a])) :=
  unit_over_completes h (readyFor_one hg) (by
    simp only [M.bind_run, readS_of_gives (State.clean_of_issues h) hg, classEntry_may hle hm, M.modify_run, M.pure_run])

/-- A class that is refused traps. -/
theorem setEnable_traps (h : s.issues i) (hg : s.gives a v) {c : Nat}
    (he : classEntry v s = .error (.trap c 0 none none) s) (hne : c ≠ cLINKWIDTH) (on : Bool) :
    setEnable i a on s = .next (s.takeTrap c 0 none none) :=
  unit_over_traps h (readyFor_one hg) (by
    simp only [M.bind_run, readS_of_gives (State.clean_of_issues h) hg, he]) hne

/-- A unit of a scalar source and a destination, both ready, whose work traps. -/
theorem unitS_traps {d : Nat} {body : M DWord} {c : Nat} (h : s.issues i) (hg : s.gives a v) (hd : s.takes d)
    (hb : body s = .error (.trap c 0 none none) s) (hne : c ≠ cLINKWIDTH) :
    unit i (unitS [a] d body) s = .next (s.takeTrap c 0 none none) := by
  have ready : s.readyFor { ss := [a], ds := [d] } := by simpa [State.readyFor] using ⟨⟨v, hg⟩, hd⟩
  exact unit_over_traps h ready (by simp only [M.bind_run, hb]) hne

theorem clpend_traps {b a : Sc} {c : Nat} (h : s.issues (.clpend b a)) (hg : s.gives a.val v) (hd : s.takes b.val)
    (he : classEntry v s = .error (.trap c 0 none none) s) (hne : c ≠ cLINKWIDTH) :
    exec (.clpend b a) s = .next (s.takeTrap c 0 none none) :=
  unitS_traps h hg hd (by simp only [M.bind_run, readS_of_gives (State.clean_of_issues h) hg, he]) hne

/-- Settles O10: each of the instructions does its work once its class has passed the two checks. -/
theorem classControl : Obligations.ClassControl := by
  refine ⟨fun s a v p hp h hg => ⟨fun hle hm => ?write, fun hle hm => ?writeRefused, fun hbig => ?writeBeyond⟩,
    fun s b a v h hg hd => ⟨fun hle hm => ?read, fun hle hm => ?readRefused, fun hbig => ?readBeyond⟩⟩
  case write =>
    obtain ⟨on, hon, he⟩ := setEnable_exec p hp
    rw [he, setEnable_completes h hg hle hm, hon]
  case writeRefused =>
    obtain ⟨on, -, he⟩ := setEnable_exec p hp
    rw [he, setEnable_traps h hg (classEntry_refused hle hm) (by decide)]
  case writeBeyond =>
    obtain ⟨on, -, he⟩ := setEnable_exec p hp
    rw [he, setEnable_traps h hg (classEntry_beyond hbig) (by decide)]
  case read =>
    refine unitS_completes h (List.forall_mem_singleton.2 ⟨v, hg⟩) hd ?_
    simp only [M.bind_run, readS_of_gives (State.clean_of_issues h) hg, classEntry_may hle hm, M.pure_run]
  case readRefused => exact clpend_traps h hg hd (classEntry_refused hle hm) (by decide)
  case readBeyond => exact clpend_traps h hg hd (classEntry_beyond hbig) (by decide)

end Sys2Proof.Machine
end

section
/-! SUPPORT. What refutes O11 (R96): STALL16 is a listed CSR, and R96's list of those whose writes raise ILLEGAL does not
hold it; CTXWR of it completes, where the statement has ILLEGAL. -/

namespace Sys2Proof.Machine

/-- STALL16 (CSR 0x210) of context 0, as a selector. -/
def stall16 : DWord := 0x210060000

/-- A privileged routine, with that selector in its registers, in context 0 of core 0. -/
def writingStall16 : State :=
  State.reset.updCore 0 fun k =>
    { k with ctxs := k.ctxs.set 0 { k.ctxs[0] with run := .live, mode := true, w := .replicate 24 stall16 } }

/-- Whether the issuing context has taken a trap in an event's outcome. -/
def trapped : Out → Bool
  | .next t => t.now.ts
  | _ => false

theorem stall16_completes : trapped (exec (.ctxwr 2 3) writingStall16) = false := by decide +kernel

theorem stall16_not_writable : ¬ Claims.itemWritable stall16.toNat := by decide +kernel

/-- Refutes O11, in ContextInspection: a CTXWR of STALL16-63, which R96 does not forbid, completes; the statement's
itemWritable leaves them out, and so has it raise ILLEGAL. -/
theorem not_contextsInspected : ¬ Obligations.ContextsInspected := by
  unfold Obligations.ContextsInspected Claims.ContextInspection
  rintro ⟨-, ⟨-, -, refusals⟩, -⟩
  have gives2 : writingStall16.gives 2 stall16 := by decide +kernel
  have gives3 : writingStall16.gives 3 stall16 := by decide +kernel
  have issues : writingStall16.issues (.ctxwr 2 3) := by decide +kernel
  obtain ⟨-, write⟩ := refusals writingStall16 3 2 stall16 stall16 gives2
  obtain ⟨illegal, -⟩ := write issues gives3
  have completes := stall16_completes
  rw [illegal (.inr stall16_not_writable)] at completes
  exact absurd completes (by decide +kernel)

end Sys2Proof.Machine
end

section
/-! SUPPORT. Work that rounds (R123, R124): it raises flags of FEXC, moves the generator, and leaves the rest of the
machine as it was. -/

namespace Sys2Proof.Machine

variable {α β : Type} {s t u : State}

/-! ## Updates that meet -/

theorem SMap.put_put (m : SMap α) (k : Nat) (x y : α) : (m.put k x).put k y = m.put k y := by
  induction m with
  | nil => simp [SMap.put]
  | cons e m ih =>
    obtain ⟨j, z⟩ := e
    by_cases hj : j = k
    · simp [SMap.put, hj]
    · by_cases hk : k < j <;> simp [SMap.put, hj, hk, ih]

theorem State.setCore_setCore (s : State) (c : Nat) (v w : Core) : (s.setCore c v).setCore c w = s.setCore c w := by
  simp [State.setCore, SMap.put_put]

theorem Core.setCtx_setCtx (k : Core) (x : Fin 8) (v w : Ctx) : (k.setCtx x v).setCtx x w = k.setCtx x w := by
  simp [Core.setCtx]

theorem State.updCtx_updCtx (s : State) (c : Nat) (x : Fin 8) (f g : Ctx → Ctx) :
    (s.updCtx c x f).updCtx c x g = s.updCtx c x fun q => g (f q) := by
  show (s.updCtx c x f).setCore c (((s.updCtx c x f).coreAt c).setCtx x (g ((s.updCtx c x f).ctxAt c x))) = _
  rw [State.coreAt_updCtx, State.ctxAt_updCtx, Core.setCtx_setCtx]
  exact s.setCore_setCore ..

theorem State.now_updCtx (s : State) (f : Ctx → Ctx) : (s.updCtx s.core s.ctx f).now = f s.now :=
  s.ctxAt_updCtx s.core s.ctx f

theorem State.codesClean_updCtx (s : State) (c c' : Nat) (x : Fin 8) (f : Ctx → Ctx) :
    (s.updCtx c x f).codesClean c' = s.codesClean c' := by
  have flips : ((s.updCtx c x f).coreAt c').flips = (s.coreAt c').flips := by
    by_cases h : c' = c
    · subst h
      rw [State.coreAt_updCtx]
      rfl
    · rw [State.coreAt_updCtx_other _ _ _ h]
  unfold State.codesClean
  rw [flips]
  rfl

/-! ## What rounding leaves -/

/-- A context's flags and generator after some rounding. -/
def Ctx.raised (q : Ctx) (f : Flags) (seed : DWord) : Ctx := { q with fexc := q.fexc ||| f, srseed := seed }

variable {f g : Flags} {a b : DWord}

theorem raised_iff : Claims.raised s f a t ↔
    (t = s ∧ f = 0 ∧ a = s.now.srseed) ∨ t = s.updCtx s.core s.ctx (·.raised f a) := Iff.rfl

theorem raised_refl (s : State) : Claims.raised s 0 s.now.srseed s := .inl ⟨rfl, rfl, rfl⟩

theorem raised_upd (s : State) (f : Flags) (a : DWord) : Claims.raised s f a (s.updCtx s.core s.ctx (·.raised f a)) :=
  .inr rfl

theorem now_of_raised (h : Claims.raised s f a t) : t.now = s.now.raised f a := by
  obtain ⟨rfl, rfl, rfl⟩ | rfl := raised_iff.1 h
  · simp [Ctx.raised]
  · exact s.now_updCtx _

theorem seed_of_raised (h : Claims.raised s f a t) : t.now.srseed = a := by
  rw [now_of_raised h]
  rfl

theorem clean_of_raised (h : Claims.raised s f a t) : t.codesClean t.core = s.codesClean s.core := by
  obtain ⟨rfl, -⟩ | rfl := raised_iff.1 h
  · rfl
  · exact s.codesClean_updCtx ..

theorem maskOf_raised (h : Claims.raised s f a t) (m : Mk) : Claims.maskOf t m = Claims.maskOf s m := by
  simp only [Claims.maskOf, now_of_raised h, Ctx.raised]

theorem oldOf_raised (h : Claims.raised s f a t) (d : Nat) : Claims.oldOf t d = Claims.oldOf s d := by
  simp only [Claims.oldOf, now_of_raised h, Ctx.raised]

theorem raised_trans (h : Claims.raised s f a t) (h' : Claims.raised t g b u) : Claims.raised s (f ||| g) b u := by
  have seed := seed_of_raised h
  obtain ⟨rfl, rfl, rfl⟩ | rfl := raised_iff.1 h
  · rwa [show 0 ||| g = g from BitVec.zero_or]
  · obtain ⟨rfl, rfl, rfl⟩ | rfl := raised_iff.1 h'
    · rw [show f ||| 0 = f from BitVec.or_zero, seed]
      exact raised_upd ..
    · refine raised_iff.2 (.inr ((s.updCtx_updCtx ..).trans ?_))
      simp only [Ctx.raised, BitVec.or_assoc]

/-! ## Steps of work -/

theorem M.bind_ok {m : M α} {w : α → M β} {x : α} (h : m s = .ok x t) : (m >>= w) s = w x t := by rw [M.bind_run, h]

theorem readM_clean (hc : s.codesClean s.core = true) (m : Mk) : readM m s = .ok (Claims.maskOf s m) s := by
  unfold readM Claims.maskOf
  by_cases hm : m = 0
  · simp [hm]
  · simp [hm, consume_clean hc]

theorem oldV_clean (hc : s.codesClean s.core = true) (d : Nat) : oldV d s = .ok (Claims.oldOf s d) s := by
  unfold oldV Claims.oldOf
  by_cases hd : d < 32
  · simp [hd, takeVec_clean hc]
  · simp [hd]

theorem raise_run (f : Flags) : raise f s = .ok () (s.updCtx s.core s.ctx fun q => { q with fexc := q.fexc ||| f }) := rfl

theorem raise_raises (f : Flags) (s : State) : ∃ t, raise f s = .ok () t ∧ Claims.raised s f s.now.srseed t :=
  ⟨_, raise_run f, .inr rfl⟩

theorem round_raises (ty : Nat) (mode : Mode) (v : FVal) (f : Flags) (s : State) :
    ∃ t, round ty mode v f s = .ok (roundStep ty mode s.now.srseed v).1 t ∧
      Claims.raised s (f ||| (roundStep ty mode s.now.srseed v).2.1) (roundStep ty mode s.now.srseed v).2.2 t :=
  ⟨_, rfl, .inr (by simp only [BitVec.or_assoc]; rfl)⟩

theorem mapM_congr_mem {g h : β → M α} {l : List β} (hgh : ∀ i ∈ l, g i = h i) : l.mapM g = l.mapM h := by
  induction l with
  | nil => rfl
  | cons i l ih => rw [List.mapM_cons, List.mapM_cons, hgh i (by simp), ih fun j hj => hgh j (by simp [hj])]

/-! ## Lanes (R126, R133) -/

/-- Work on a lane answers what a lane function gives for the generator's state, and leaves what that raises. -/
def LaneWork (w : Nat → M Nat) (f : Claims.LaneFn) : Prop := ∀ i s, ∃ t,
  w i s = .ok (f i s.now.srseed).1 t ∧ Claims.raised s (f i s.now.srseed).2.1 (f i s.now.srseed).2.2 t

theorem laneWork_pure (g : Nat → Nat) : LaneWork (fun i => pure (g i)) (Claims.exactly g) := fun _ s =>
  ⟨s, rfl, raised_refl s⟩

theorem laneWork_round (ty : Nat) (mode : Mode) (g : Nat → FVal × Flags) :
    LaneWork (fun i => round ty mode (g i).1 (g i).2) (Claims.rounded ty mode g) := fun i s =>
  round_raises ty mode (g i).1 (g i).2 s

theorem laneWork_ite {c : Prop} [Decidable c] {v w : Nat → M Nat} {f g : Claims.LaneFn} (hv : LaneWork v f)
    (hw : LaneWork w g) : LaneWork (fun i => if c then v i else w i) (if c then f else g) := by
  by_cases h : c
  · simpa only [if_pos h] using hv
  · simpa only [if_neg h] using hw

theorem laneWork_flushed {ty : Nat} {w : Nat → M Nat} {mode : Mode} {g : Nat → FVal × Flags}
    (h : LaneWork w (Claims.rounded ty mode g)) :
    LaneWork (fun i => do flushed ty (← w i)) (Claims.flushing ty mode g) := by
  intro i s
  obtain ⟨t, run, ht⟩ := h i s
  simp only [M.bind_run, run, flushed, Claims.flushing, fld, Nat.pow_zero, Nat.div_one, bne_iff_ne, ne_eq,
    Bool.and_eq_true, Bool.or_eq_true, beq_iff_eq, ← and_assoc]
  split
  · obtain ⟨u, run', hu⟩ := raise_raises (flagUF ||| flagNX) t
    refine ⟨u, by simp only [M.bind_run, run', M.pure_run], ?_⟩
    rw [seed_of_raised ht] at hu
    simpa only [BitVec.or_assoc] using raised_trans ht hu
  · exact ⟨t, rfl, ht⟩

/-- Lanes in ascending order: the active ones are worked on, the inactive ones keep their values. -/
theorem mapM_fill {w : Nat → M Nat} {f : Claims.LaneFn} (h : LaneWork w f) (m : BitVec 16) (old : Nat → Nat)
    (is : List Nat) (s : State) :
    let r := Claims.fill f m old is s.now.srseed
    ∃ t, (is.mapM fun i => if active m i then w i else pure (old i)) s = .ok r.1 t ∧ Claims.raised s r.2.1 r.2.2 t := by
  induction is generalizing s with
  | nil => exact ⟨s, rfl, raised_refl s⟩
  | cons i is ih =>
    simp only [List.mapM_cons, M.bind_run, Claims.fill, active]
    by_cases hi : m.getLsbD i
    · obtain ⟨t, run, ht⟩ := h i s
      obtain ⟨u, run', hu⟩ := ih t
      rw [seed_of_raised ht] at run' hu
      simp only [active] at run'
      exact ⟨u, by simp [hi, run, run'], by simpa [hi] using raised_trans ht hu⟩
    · obtain ⟨u, run', hu⟩ := ih s
      simp only [active] at run'
      exact ⟨u, by simp [hi, run'], by simpa [hi] using hu⟩

theorem lanewise_writes {w : Nat → M Nat} {f : Claims.LaneFn} (h : LaneWork w f) (vx : Vx) (d : Nat)
    (hc : s.codesClean s.core = true) :
    let r := Claims.fill f (Claims.maskOf s vx.mask) (laneOf (Claims.oldOf s d) (laneWidth vx.type))
      (List.range (lanesOf vx.type)) s.now.srseed
    ∃ t, Claims.raised s r.2.1 r.2.2 t ∧ lanewise vx d w s = writeV d (ofLanes (laneWidth vx.type) r.1) t := by
  obtain ⟨t, run, ht⟩ := mapM_fill h (Claims.maskOf s vx.mask) (laneOf (Claims.oldOf s d) (laneWidth vx.type))
    (List.range (lanesOf vx.type)) s
  refine ⟨t, ht, ?_⟩
  simp only [lanewise, M.bind_run, readM_clean hc, oldV_clean hc, upTo, run]

/-! ## Units that write a vector -/

variable {i : Instr} {uses : Uses} {d : Nat} {v : V512}

theorem putV_eq {w : State} (h : writeV d v t = .ok () w) : t.putV uses d v = M.after (popAll uses) w := by
  simp only [State.putV, M.after, M.bind_run, h]

/-- A unit over operands that are ready, whose work ends with the writing of vector d. -/
theorem unit_writesV {body : M Flow} (h : s.issues i) (hr : s.readyFor uses)
    (hb : body s = (do writeV d v; pure Flow.seq : M Flow) t) :
    unit i (using_ uses body) s = .next (s.finish i .seq (t.putV uses d v)) := by
  obtain ⟨w, hw⟩ := writeV_answers d v t
  rw [putV_eq hw]
  exact unit_over_completes h hr (by simp only [hb, M.bind_run, hw, M.pure_run])

/-- A unit that fills the lanes of vector d. -/
theorem fills_of_lanewise {vx : Vx} {body : M Flow} {w : Nat → M Nat} {f : Claims.LaneFn} (h : s.issues i)
    (hr : s.readyFor uses) (hx : ∀ s, exec i s = unit i (using_ uses body) s) (hw : LaneWork w f)
    (hb : body s = (do lanewise vx d w; pure Flow.seq : M Flow) s) : Claims.fills s i vx uses d f := by
  obtain ⟨t, ht, run⟩ := lanewise_writes hw vx d (State.clean_of_issues h)
  refine ⟨t, ht, (hx s).trans (unit_writesV h hr ?_)⟩
  rw [hb, M.bind_run, run, M.bind_run]

end Sys2Proof.Machine
end

section
/-! SUPPORT. The lane-wise vector instructions (R126, R133-R138): the work on a lane of each, and what the unit leaves. -/

namespace Sys2Proof.Machine

variable {s : State} {i : Instr} {vx : Vx} {d a b : Nat} {x y z : V512}

/-! ## Operands that are ready -/

theorem readyFor_lanes {sv : List Nat} (hs : ∀ c ∈ sv, ∃ v, s.givesV c v) (hd : s.takesV d) :
    s.readyFor { sv := sv, dv := [d] } :=
  ⟨List.forall_mem_nil _, hs, List.forall_mem_nil _, List.forall_mem_singleton.2 hd⟩

theorem gives_one (ha : s.givesV a x) : ∀ c ∈ [a], ∃ v, s.givesV c v := List.forall_mem_singleton.2 ⟨x, ha⟩

theorem gives_two (ha : s.givesV a x) (hb : s.givesV b y) : ∀ c ∈ [a, b], ∃ v, s.givesV c v :=
  List.forall_mem_cons.2 ⟨⟨x, ha⟩, gives_one hb⟩

/-! ## Units that work on lanes -/

/-- A unit that works on the lanes of one vector source. -/
def lanesOfOne (i : Instr) (vx : Vx) (d a : Nat) (w : V512 → Nat → M Nat) : State → Out :=
  unit i (using_ { sv := [a], dv := [d] } do
    let x ← readV a
    lanewise vx d (w x)
    pure .seq)

/-- A unit that works on the lanes of two vector sources. -/
def lanesOfTwo (i : Instr) (vx : Vx) (d a b : Nat) (w : V512 → V512 → Nat → M Nat) : State → Out :=
  unit i (using_ { sv := [a, b], dv := [d] } do
    let x ← readV a
    let y ← readV b
    lanewise vx d (w x y)
    pure .seq)

/-- A unit that works on the lanes of two vector sources and of the old destination. -/
def lanesOfThree (i : Instr) (vx : Vx) (d a b : Nat) (w : V512 → V512 → V512 → Nat → M Nat) : State → Out :=
  unit i (using_ { sv := [a, b, d], dv := [d] } do
    let x ← readV a
    let y ← readV b
    let z ← readV d
    lanewise vx d (w x y z)
    pure .seq)

theorem lanesOfOne_fills {w : V512 → Nat → M Nat} {f : Claims.LaneFn} (h : s.issues i) (ha : s.givesV a x)
    (hd : s.takesV d) (hx : ∀ s, exec i s = lanesOfOne i vx d a w s) (hw : LaneWork (w x) f) :
    Claims.fills s i vx { sv := [a], dv := [d] } d f := by
  have hc := State.clean_of_issues h
  refine fills_of_lanewise h (readyFor_lanes (gives_one ha) hd) hx hw ?_
  simp only [M.bind_run, readV_of_givesV hc ha]

theorem lanesOfTwo_fills {w : V512 → V512 → Nat → M Nat} {f : Claims.LaneFn} (h : s.issues i) (ha : s.givesV a x)
    (hb : s.givesV b y) (hd : s.takesV d) (hx : ∀ s, exec i s = lanesOfTwo i vx d a b w s) (hw : LaneWork (w x y) f) :
    Claims.fills s i vx { sv := [a, b], dv := [d] } d f := by
  have hc := State.clean_of_issues h
  refine fills_of_lanewise h (readyFor_lanes (gives_two ha hb) hd) hx hw ?_
  simp only [M.bind_run, readV_of_givesV hc ha, readV_of_givesV hc hb]

theorem lanesOfThree_fills {w : V512 → V512 → V512 → Nat → M Nat} {f : Claims.LaneFn} (h : s.issues i)
    (ha : s.givesV a x) (hb : s.givesV b y) (hz : s.givesV d z) (hd : s.takesV d)
    (hx : ∀ s, exec i s = lanesOfThree i vx d a b w s) (hw : LaneWork (w x y z) f) :
    Claims.fills s i vx { sv := [a, b, d], dv := [d] } d f := by
  have hc := State.clean_of_issues h
  refine fills_of_lanewise h (readyFor_lanes (List.forall_mem_cons.2 ⟨⟨x, ha⟩, gives_two hb hz⟩) hd) hx hw ?_
  simp only [M.bind_run, readV_of_givesV hc ha, readV_of_givesV hc hb, readV_of_givesV hc hz]

/-! ## The work on a lane -/

/-- RDN, as the claims and the machine write it. -/
theorem rdn_eq_down (vx : Vx) : decide (roundingOf vx = .rdn) = Claims.down vx := by
  unfold roundingOf Mode.ofCode Claims.down
  split <;> simp_all

theorem laneWork_lane2 {f : Fn2} {real : FVal → FVal → FVal × Flags} (hr : f.real (Claims.down vx) = real) (x y : V512) :
    LaneWork (lane2 vx f x y) (Claims.arith vx real f.int x y) := by
  rw [← rdn_eq_down] at hr
  subst hr
  exact laneWork_ite (laneWork_pure _) (laneWork_round _ _ _)

theorem laneWork_pick (f : FVal → FVal → FVal × Flags) (g : Int → Int → Int) (x y : V512) :
    LaneWork (fun i => lanePick vx f g (elemOf vx.type x i) (elemOf vx.type y i)) (Claims.choose vx f g x y) :=
  laneWork_ite (laneWork_pure _) (laneWork_round _ _ _)

/-- The work on a lane of VFMA and VFMS. -/
def lane3 (vx : Vx) (f : Bool → FVal → FVal → FVal → FVal × Flags) (g : Int → Int → Int → Int) (x y z : V512) (i : Nat) :
    M Nat :=
  let ty := vx.type
  if intType ty then pure (intLane ty (g (intOf ty (elemOf ty x i)) (intOf ty (elemOf ty y i)) (intOf ty (elemOf ty z i))))
  else
    let v := f (roundingOf vx = .rdn) (decodeVal ty (elemOf ty x i)) (decodeVal ty (elemOf ty y i))
      (decodeVal ty (elemOf ty z i))
    round ty (roundingOf vx) v.1 v.2

theorem laneWork_lane3 {f : Bool → FVal → FVal → FVal → FVal × Flags} {real : FVal → FVal → FVal → FVal × Flags}
    (hr : f (Claims.down vx) = real) (g : Int → Int → Int → Int) (x y z : V512) :
    LaneWork (lane3 vx f g x y z) (Claims.arith3 vx real g x y z) := by
  rw [← rdn_eq_down] at hr
  subst hr
  exact laneWork_ite (laneWork_pure _) (laneWork_round _ _ _)

/-! ## The instructions -/

/-- A unit of two vector sources works on its lanes as the lane functions f say. -/
def WorksOnTwo (vx : Vx) (d a b : Nat) (p : Instr × (V512 → V512 → Claims.LaneFn)) : Prop :=
  ∃ w, (∀ x y, LaneWork (w x y) (p.2 x y)) ∧ ∀ s, exec p.1 s = lanesOfTwo p.1 vx d a b w s

theorem vector2_works {f : Fn2} {real : FVal → FVal → FVal × Flags} {int : Int → Int → Int}
    (hx : ∀ s, exec i s = vector2 i vx d a b f s) (hr : f.real (Claims.down vx) = real) (hi : f.int = int) :
    WorksOnTwo vx d a b (i, Claims.arith vx real int) :=
  ⟨lane2 vx f, fun x y => hi ▸ laneWork_lane2 hr x y, hx⟩

theorem vectorPick_works {f : FVal → FVal → FVal × Flags} {g : Int → Int → Int}
    (hx : ∀ s, exec i s = vectorPick i vx d a b f g s) : WorksOnTwo vx d a b (i, Claims.choose vx f g) :=
  ⟨_, laneWork_pick f g, hx⟩

theorem vectorBits_works {f : (n : Nat) → BitVec n → BitVec n → BitVec n}
    (hx : ∀ s, exec i s = vectorBits i vx d a b f s) : WorksOnTwo vx d a b (i, Claims.bitwise vx f) :=
  ⟨_, fun _ _ => laneWork_pure _, hx⟩

theorem vectorTwo_exec {d a b : Vc} : ∀ p ∈ Claims.vectorTwo vx d a b, WorksOnTwo vx d.val a.val b.val p := by
  simp only [Claims.vectorTwo, List.forall_mem_cons]
  exact ⟨vector2_works (exec_arm (execVadd vx d a b)) rfl rfl, vector2_works (exec_arm (execVsub vx d a b)) rfl rfl,
    vector2_works (exec_arm (execVmul vx d a b)) rfl rfl, vectorPick_works (exec_arm (execVmin vx d a b)),
    vectorPick_works (exec_arm (execVmax vx d a b)), vectorBits_works (exec_arm (execVand vx d a b)),
    vectorBits_works (exec_arm (execVor vx d a b)), vectorBits_works (exec_arm (execVxor vx d a b)),
    vectorBits_works (exec_arm (execVshl vx d a b)), vectorBits_works (exec_arm (execVshr vx d a b)),
    vectorBits_works (exec_arm (execVsar vx d a b)),
    ⟨_, fun _ _ => laneWork_pure _, exec_arm (execVperm vx d a b)⟩, List.forall_mem_nil _⟩

theorem vectorCompact_exec {d a : Fin 32} :
    ∀ p ∈ Claims.vectorCompact d a, WorksOnTwo ⟨0, none⟩ d.val d.val a.val p := by
  simp only [Claims.vectorCompact, List.forall_mem_cons]
  exact ⟨vector2_works (exec_arm (execVaddF32Compact d a)) rfl rfl,
    vector2_works (exec_arm (execVmulF32Compact d a)) rfl rfl, List.forall_mem_nil _⟩

/-- A unit of three vector sources works on its lanes as the lane functions f say. -/
def WorksOnThree (vx : Vx) (d a b : Nat) (p : Instr × (V512 → V512 → V512 → Claims.LaneFn)) : Prop :=
  ∃ w, (∀ x y z, LaneWork (w x y z) (p.2 x y z)) ∧ ∀ s, exec p.1 s = lanesOfThree p.1 vx d a b w s

theorem vector3_works {f : Bool → FVal → FVal → FVal → FVal × Flags} {real : FVal → FVal → FVal → FVal × Flags}
    {g : Int → Int → Int → Int} (hx : ∀ s, exec i s = vector3 i vx d a b f g s) (hr : f (Claims.down vx) = real) :
    WorksOnThree vx d a b (i, Claims.arith3 vx real g) :=
  ⟨lane3 vx f g, laneWork_lane3 hr g, hx⟩

theorem vectorThree_exec {d a b : Vc} : ∀ p ∈ Claims.vectorThree vx d a b, WorksOnThree vx d.val a.val b.val p := by
  simp only [Claims.vectorThree, List.forall_mem_cons]
  exact ⟨vector3_works (exec_arm (execVfma vx d a b)) rfl, vector3_works (exec_arm (execVfms vx d a b)) rfl,
    ⟨_, fun lo hi c => laneWork_ite (laneWork_pure _) (laneWork_round _ _ _), exec_arm (execVclamp vx d a b)⟩,
    List.forall_mem_nil _⟩

/-- A unit of one vector source works on its lanes as the lane functions f say. -/
def WorksOnOne (vx : Vx) (d a : Nat) (p : Instr × (V512 → Claims.LaneFn)) : Prop :=
  ∃ w, (∀ x, LaneWork (w x) (p.2 x)) ∧ ∀ s, exec p.1 s = lanesOfOne p.1 vx d a w s

theorem vectorFn_works {f : FVal → FVal × Flags} (hx : ∀ s, exec i s = vectorFn i vx d a f s) :
    WorksOnOne vx d a (i, fun x => Claims.flushing vx.type (Mode.ofCode vx.mode)
      fun i => f (decodeVal vx.type (elemOf vx.type x i))) :=
  ⟨_, fun _ => laneWork_flushed (laneWork_round _ _ _), hx⟩

theorem vectorSign_works {real : FVal → FVal} {int : Int → Int} (hx : ∀ s, exec i s = vector1 i vx d a (fun c =>
      if intType vx.type then pure (intLane vx.type (int (intOf vx.type c)))
      else round vx.type (roundingOf vx) (real (decodeVal vx.type c)) (flagIf (decodeVal vx.type c).isSig flagNV)) s) :
    WorksOnOne vx d a (i, Claims.signOf vx real int) :=
  ⟨_, fun _ => laneWork_ite (laneWork_pure _) (laneWork_round _ _ _), hx⟩

theorem vectorOne_exec {d a : Vc} : ∀ p ∈ Claims.vectorOne vx d a, WorksOnOne vx d.val a.val p := by
  simp only [Claims.vectorOne, List.forall_mem_cons]
  exact ⟨vectorSign_works (exec_arm (execVabs vx d a)), vectorSign_works (exec_arm (execVneg vx d a)),
    vectorFn_works (exec_arm (execVrcp vx d a)), vectorFn_works (exec_arm (execVrsq vx d a)),
    vectorFn_works (exec_arm (execVexp2 vx d a)), vectorFn_works (exec_arm (execVlog2 vx d a)),
    ⟨_, fun _ => laneWork_pure _, exec_arm (execVmov vx d a)⟩, List.forall_mem_nil _⟩

theorem vectorLaneResults : Claims.VectorLaneResults := by
  refine ⟨fun s vx d a b x y p hp h ha hb hd => ?two, fun s d a x y p hp h ha hb hd => ?compact,
    fun s vx d a b x y z p hp h ha hb hz hd => ?three, fun s vx d a x p hp h ha hd => ?one⟩
  case two =>
    obtain ⟨w, hw, hx⟩ := vectorTwo_exec p hp
    exact lanesOfTwo_fills h ha hb hd hx (hw x y)
  case compact =>
    obtain ⟨w, hw, hx⟩ := vectorCompact_exec p hp
    exact lanesOfTwo_fills h ha hb hd hx (hw x y)
  case three =>
    obtain ⟨w, hw, hx⟩ := vectorThree_exec p hp
    exact lanesOfThree_fills h ha hb hz hd hx (hw x y z)
  case one =>
    obtain ⟨w, hw, hx⟩ := vectorOne_exec p hp
    exact lanesOfOne_fills h ha hd hx (hw x)

end Sys2Proof.Machine
end

section
/-! SUPPORT. VIOTA, VBCAST, VINS, VEXT, VCMP and VSEL (R137, R139), and O22. -/

namespace Sys2Proof.Machine

variable {s : State} {i : Instr} {vx : Vx} {d : Nat} {x y : V512}

/-- A unit over operands that are ready, whose work ends with the writing of scalar d. -/
theorem unit_writesS {uses : Uses} {body : M Flow} {v : DWord} (h : s.issues i) (hr : s.readyFor uses)
    (hb : body s = (do writeS d v; pure Flow.seq : M Flow) s) :
    unit i (using_ uses body) s = .next (s.finish i .seq (s.putS uses d v)) := by
  obtain ⟨w, hw⟩ := writeS_answers d v s
  have put : s.putS uses d v = M.after (popAll uses) w := by simp only [State.putS, M.after, M.bind_run, hw]
  rw [put]
  exact unit_over_completes h hr (by simp only [hb, M.bind_run, hw, M.pure_run])

/-! ## A mask from comparisons (R139) -/

/-- The number whose bits are the lanes that pass. -/
def lanesThat (p : Nat → Bool) (l : List Nat) : Nat := l.foldl (fun n i => if p i then n + 2 ^ i else n) 0

theorem lanesThat_range (p q : Nat → Bool) (n : Nat) : lanesThat p ((List.range n).filter q) < 2 ^ n ∧
    ∀ i, (lanesThat p ((List.range n).filter q)).testBit i = (decide (i < n) && q i && p i) := by
  induction n with
  | zero => simp [lanesThat]
  | succ n ih =>
    obtain ⟨bound, bits⟩ := ih
    have grows : 2 ^ n < 2 ^ (n + 1) := Nat.pow_lt_pow_right (by decide) (by omega)
    by_cases hq : q n = true ∧ p n = true
    · have step : lanesThat p ((List.range (n + 1)).filter q) = 2 ^ n + lanesThat p ((List.range n).filter q) := by
        simp [lanesThat, List.range_succ, List.filter_append, hq, Nat.add_comm]
      rw [step]
      refine ⟨by rw [Nat.pow_succ]; omega, fun i => ?_⟩
      rcases Nat.lt_trichotomy i n with hi | rfl | hi
      · rw [Nat.testBit_two_pow_add_gt hi, bits]
        simp [hi, Nat.lt_succ_of_lt hi]
      · rw [Nat.testBit_two_pow_add_eq, Nat.testBit_lt_two_pow bound]
        simp [hq]
      · rw [Nat.testBit_lt_two_pow]
        · simp [show ¬ i < n + 1 by omega]
        · exact Nat.lt_of_lt_of_le (by rw [Nat.pow_succ]; omega : _ < 2 ^ (n + 1)) (Nat.pow_le_pow_right (by decide) hi)
    · have same : lanesThat p ((List.range (n + 1)).filter q) = lanesThat p ((List.range n).filter q) := by
        cases hqn : q n <;> cases hpn : p n <;> simp_all [lanesThat, List.range_succ, List.filter_append]
      rw [same]
      refine ⟨by omega, fun i => ?_⟩
      rw [bits]
      rcases Nat.lt_trichotomy i n with hi | rfl | hi
      · simp [hi, Nat.lt_succ_of_lt hi]
      · cases hqn : q i <;> cases hpn : p i <;> simp_all
      · simp [show ¬ i < n by omega, show ¬ i < n + 1 by omega]

/-- The flags of some lanes together. -/
def flagsOf (f : Nat → Flags) (l : List Nat) : Flags := l.foldl (fun g i => g ||| f i) 0

theorem zero_or_flags (g : Flags) : 0 ||| g = g := BitVec.zero_or

theorem and_not_or_right {a b c : Flags} (h : a &&& ~~~b = 0) : a &&& ~~~(c ||| b) = 0 := by
  rw [BitVec.not_or, BitVec.and_comm (~~~c), ← BitVec.and_assoc, h]
  exact BitVec.zero_and

theorem foldl_or (f : Nat → Flags) (l : List Nat) (g : Flags) :
    l.foldl (fun g i => g ||| f i) g = g ||| flagsOf f l := by
  unfold flagsOf
  induction l generalizing g with
  | nil => simp
  | cons i l ih => rw [List.foldl_cons, List.foldl_cons, ih, ih (0 ||| f i), zero_or_flags, BitVec.or_assoc]

theorem flagsOf_mem {f : Nat → Flags} {l : List Nat} {i : Nat} (h : i ∈ l) : f i &&& ~~~flagsOf f l = 0 := by
  induction l with
  | nil => exact absurd h List.not_mem_nil
  | cons j l ih =>
    have split : flagsOf f (j :: l) = f j ||| flagsOf f l := by
      show (l.foldl _ (0 ||| f j)) = _
      rw [foldl_or, zero_or_flags]
    rw [split]
    rcases List.mem_cons.1 h with rfl | h
    · exact gains_or ..
    · exact and_not_or_right (ih h)

theorem writeM_clean (hc : s.codesClean s.core = true) (m : Mk) (v : BitVec 16) :
    writeM m v s = .ok () (if m = 0 then s else s.updCtx s.core s.ctx fun q => { q with m := q.m.set m.val v m.isLt }) := by
  unfold writeM
  by_cases hm : m = 0
  · simp [hm]
  · simp [hm, encoded_clean hc]

/-! ## The claims -/

/-- What VCMP leaves before its sources are popped: flags, and a mask. -/
def State.compared (s : State) (f : Flags) (md : Mk) (v : BitVec 16) : State :=
  s.updCtx s.core s.ctx fun q =>
    { q with fexc := q.fexc ||| f, m := if md = 0 then q.m else q.m.set md.val v md.isLt }

theorem now_compared (f : Flags) (md : Mk) (v : BitVec 16) : (s.compared f md v).now =
    { s.now with fexc := s.now.fexc ||| f, m := if md = 0 then s.now.m else s.now.m.set md.val v md.isLt } :=
  s.now_updCtx _

theorem writeM_compared (hc : s.codesClean s.core = true) (f : Flags) (md : Mk) (v : BitVec 16) :
    writeM md v (s.updCtx s.core s.ctx fun q => { q with fexc := q.fexc ||| f }) = .ok () (s.compared f md v) := by
  rw [writeM_clean ((s.codesClean_updCtx ..).trans hc)]
  by_cases hm : md = 0
  · simp only [State.compared, hm, if_true]
  · simp only [State.compared, hm, if_false, State.updCtx_core, State.updCtx_ctx, State.updCtx_updCtx]

/-- The flags that the active lanes of VCMP raise. -/
def compareFlags (ty cond : Nat) (x y : V512) (l : List Nat) : Flags :=
  flagsOf (fun i => (compareLane ty cond (elemOf ty x i) (elemOf ty y i)).2) l

/-- The lanes whose comparison holds. -/
def compareLanes (ty cond : Nat) (x y : V512) (l : List Nat) : Nat :=
  lanesThat (fun i => (compareLane ty cond (elemOf ty x i) (elemOf ty y i)).1) l

theorem vcmp_completes {md : Mk} {a b : Vc} {cond : Fin 8} (h : s.issues (.vcmp vx md a b cond)) (ha : s.givesV a.val x)
    (hb : s.givesV b.val y) :
    let l := activeLanes (Claims.maskOf s vx.mask) (lanesOf vx.type)
    exec (.vcmp vx md a b cond) s = .next (s.finish (.vcmp vx md a b cond) .seq (M.after (popAll { sv := [a.val, b.val] })
      (s.compared (compareFlags vx.type cond.val x y l) md (BitVec.ofNat 16 (compareLanes vx.type cond.val x y l))))) := by
  have hc := State.clean_of_issues h
  have ready : s.readyFor { sv := [a.val, b.val] } :=
    ⟨List.forall_mem_nil _, gives_two ha hb, List.forall_mem_nil _, List.forall_mem_nil _⟩
  refine unit_over_completes h ready ?_
  refine (M.bind_ok (readV_of_givesV hc ha)).trans ((M.bind_ok (readV_of_givesV hc hb)).trans ?_)
  refine (M.bind_ok (readM_clean hc vx.mask)).trans ?_
  simp only [List.foldl_map]
  exact (M.bind_ok (raise_run _)).trans (M.bind_ok (writeM_compared hc ..))

theorem vcmp_mask (s : State) (vx : Vx) (cond : Nat) (x y : V512) (i : Fin 16) :
    (BitVec.ofNat 16 (compareLanes vx.type cond x y (activeLanes (Claims.maskOf s vx.mask) (lanesOf vx.type)))).getLsbD
      i.val = (decide (i.val < lanesOf vx.type) && (Claims.maskOf s vx.mask).getLsbD i.val &&
        (compareLane vx.type cond (elemOf vx.type x i.val) (elemOf vx.type y i.val)).1) := by
  rw [BitVec.getLsbD_ofNat, decide_eq_true i.isLt, Bool.true_and]
  exact (lanesThat_range _ _ _).2 i.val

theorem vectorMoveResults : Claims.VectorMoveResults := by
  refine ⟨fun s vx d h hd => ?viota, fun s vx d a x h ha hd => ?vbcast, fun s vx d a lane x h ha hd => ?vins,
    fun s vx d a lane x h ha hd => ?vext, fun s vx md a b cond x y h ha hb => ?vcmp,
    fun s vx d a b x y h ha hb hd => ?vsel⟩
  all_goals have hc := State.clean_of_issues h
  case viota =>
    exact fills_of_lanewise h (readyFor_lanes (List.forall_mem_nil _) hd) (exec_arm (execViota vx d)) (laneWork_pure _) rfl
  case vbcast =>
    have ready : s.readyFor { ss := [a.val], dv := [d.val] } :=
      ⟨List.forall_mem_singleton.2 ⟨x, ha⟩, List.forall_mem_nil _, List.forall_mem_nil _, List.forall_mem_singleton.2 hd⟩
    refine fills_of_lanewise h ready (exec_arm (execVbcast vx d a)) (laneWork_pure _) ?_
    simp only [M.bind_run, readS_of_gives hc ha]
  case vins =>
    have ready : s.readyFor { ss := [a.val], dv := [d.val] } :=
      ⟨List.forall_mem_singleton.2 ⟨x, ha⟩, List.forall_mem_nil _, List.forall_mem_nil _, List.forall_mem_singleton.2 hd⟩
    exact unit_writesV h ready (by simp only [M.bind_run, readS_of_gives hc ha, oldV_clean hc])
  case vext =>
    have ready : s.readyFor { sv := [a.val], ds := [d.val] } :=
      ⟨List.forall_mem_nil _, gives_one ha, List.forall_mem_singleton.2 hd, List.forall_mem_nil _⟩
    exact unit_writesS h ready (by simp only [M.bind_run, readV_of_givesV hc ha])
  case vcmp =>
    refine ⟨_, vcmp_completes h ha hb, fun i hm => ?bits, fun k hk => ?others, fun i hi => ?flags, ?vectors, rfl⟩
    all_goals rw [now_compared]
    case bits =>
      simp only [hm, if_false]
      rw [← vcmp_mask s vx cond.val x y i]
      simp
    case others =>
      by_cases hm : md = 0
      · simp only [hm, if_true]
      · have hne : md.val ≠ k.val := fun e => (hk.resolve_right hm) (Fin.ext e.symm)
        simp [hm, hne]
    case flags =>
      refine and_not_or_right (flagsOf_mem (f := fun i => (compareLane _ _ (elemOf _ x i) (elemOf _ y i)).2) ?_)
      simpa [activeLanes, active, upTo] using hi
  case vsel =>
    refine unit_writesV h (readyFor_lanes (gives_two ha hb) hd) ?_
    refine (M.bind_ok (readV_of_givesV hc ha)).trans ((M.bind_ok (readV_of_givesV hc hb)).trans ?_)
    exact M.bind_ok (readM_clean hc vx.mask)

end Sys2Proof.Machine

open Sys2Proof Sys2Proof.Machine

/-- Settles O22: each lane's work computes the claim's lane function, and the lanes are walked in ascending order. -/
theorem laneResults : Obligations.LaneResults := ⟨vectorLaneResults, vectorMoveResults⟩
end

section
/-! SUPPORT. VDOT, VRED and VSCAN (R127-R129, R140). -/

namespace Sys2Proof.Machine

variable {α β : Type} {s t : State} {i : Instr} {vx : Vx} {d a b : Vc} {x y : V512}

/-! ## Work that only rounds -/

/-- The work answers what P holds of, and only raises flags and moves the generator. -/
structure Rounds (P : α → Prop) (m : M α) : Prop where
  from_ : ∀ s, ∃ r t f seed, m s = .ok r t ∧ P r ∧ Claims.raised s f seed t

theorem Rounds.pure {P : α → Prop} {r : α} (h : P r) : Rounds P (pure r) :=
  ⟨fun s => ⟨r, s, _, _, rfl, h, raised_refl s⟩⟩

theorem Rounds.bind {P : α → Prop} {Q : β → Prop} {m : M α} {w : α → M β} (hm : Rounds P m)
    (hw : ∀ r, P r → Rounds Q (w r)) : Rounds Q (m >>= w) := ⟨fun s => by
  obtain ⟨r, t, _, _, run, hr, ht⟩ := hm.from_ s
  obtain ⟨q, u, _, _, run', hq, hu⟩ := (hw r hr).from_ t
  exact ⟨q, u, _, _, (M.bind_ok run).trans run', hq, raised_trans ht hu⟩⟩

theorem Rounds.ite {P : α → Prop} {c : Prop} [Decidable c] {m n : M α} (hm : Rounds P m) (hn : Rounds P n) :
    Rounds P (if c then m else n) := by
  by_cases h : c
  · rwa [if_pos h]
  · rwa [if_neg h]

theorem rounds_round (ty : Nat) (mode : Mode) (v : FVal) (f : Flags) : Rounds (fun _ => True) (round ty mode v f) :=
  ⟨fun s => by
    obtain ⟨t, run, ht⟩ := round_raises ty mode v f s
    exact ⟨_, t, _, _, run, trivial, ht⟩⟩

theorem rounds_masked (ty : Nat) (mode : Mode) (a b : Nat) (v : FVal) :
    Rounds (fun _ => True) (roundMasked ty mode a b v) := ⟨fun s => ⟨_, s, _, _, rfl, trivial, raised_refl s⟩⟩

theorem rounds_combine (vx : Vx) (op : Nat) (act : Bool) (a b : Nat) : Rounds (fun _ => True) (combine vx op act a b) :=
  .ite (.pure trivial) (.ite (rounds_round ..) (rounds_masked ..))

/-! ## The tree (R127) -/

theorem rounds_treeLevel (vx : Vx) (op : Nat) (xs : List Nat) (h : xs.length % 2 = 0) :
    Rounds (fun ys => 2 * ys.length = xs.length) (treeLevel vx op xs) := by
  induction xs using treeLevel.induct with
  | case1 a b l ih =>
    simp only [List.length_cons] at h ⊢
    refine .bind (rounds_combine ..) fun x _ => .bind (ih (by omega)) fun ys hys => .pure ?_
    rw [List.length_cons]
    omega
  | case2 xs odd =>
    cases xs with
    | nil => exact .pure rfl
    | cons a l =>
      cases l with
      | nil => simp at h
      | cons b l => exact absurd rfl (odd a b l)

theorem rounds_treeOf (vx : Vx) (op n : Nat) (xs : List Nat) (h : xs.length = 2 ^ n) :
    Rounds (fun ys => ys.length = 1) (treeOf vx op n xs) := by
  induction n generalizing xs with
  | zero => exact .pure h
  | succ n ih =>
    rw [Nat.pow_succ] at h
    exact .bind (rounds_treeLevel vx op xs (by omega)) fun ys hys => ih ys (by omega)

theorem lanes_eq_pow (vx : Vx) : lanesOf vx.type = 2 ^ treeDepth vx := by
  unfold treeDepth lanesOf
  split <;> rfl

/-! ## The scan (R128) -/

theorem rounds_scanPass (vx : Vx) (op : Nat) (m : BitVec 16) (k : Nat) (old : List Nat) (i : Nat) :
    Rounds (fun _ => True) (scanPass vx op m k old i) := by
  induction i with
  | zero => exact .pure trivial
  | succ i ih =>
    exact .ite (.bind (rounds_combine ..) fun _ _ => .bind ih fun _ _ => .pure trivial)
      (.bind (P := fun _ => True) (.pure trivial) fun _ _ => .bind ih fun _ _ => .pure trivial)

theorem rounds_scanOf (vx : Vx) (op : Nat) (m : BitVec 16) (n k : Nat) (xs : List Nat) :
    Rounds (fun _ => True) (scanOf vx op m n k xs) := by
  induction n generalizing k xs with
  | zero => exact .pure trivial
  | succ n ih => exact .bind (rounds_scanPass ..) fun _ _ => ih ..

/-- One lane of VSCAN after the passes: a NaN in lane 0, which no pass combines, becomes canonical (R125). -/
def scanLane (ty : Nat) (rs : List Nat) (i : Nat) : Nat :=
  placeElem ty (if i = 0 ∧ intType ty = false ∧ (decodeVal ty (rs.getD 0 0)).isNaN then canonNaN ty else rs.getD i 0)

/-- The flags that lane i of VSCAN raises after the passes. -/
def scanFlags (ty : Nat) (rs : List Nat) (i : Nat) : Flags :=
  if i = 0 ∧ intType ty = false ∧ (decodeVal ty (rs.getD 0 0)).isSig then flagNV else 0

theorem laneWork_scan (ty : Nat) (rs : List Nat) :
    LaneWork (fun i => do
      let c ← if i == 0 then quieted ty (rs.getD 0 0) else pure (rs.getD i 0)
      pure (placeElem ty c)) fun i seed => (scanLane ty rs i, scanFlags ty rs i, seed) := by
  intro i s
  by_cases hi : i = 0
  · subst hi
    cases ht : intType ty with
    | true => exact ⟨s, by simp [quieted, ht, scanLane], by simpa [scanFlags, ht] using raised_refl s⟩
    | false =>
      obtain ⟨t, run, hr⟩ := raise_raises (flagIf (decodeVal ty (rs.getD 0 0)).isSig flagNV) s
      refine ⟨t, ?_, by simpa [scanFlags, ht, flagIf] using hr⟩
      simp only [M.bind_run, BEq.rfl, if_true, quieted, ht, Bool.false_eq_true, if_false, run, M.pure_run, scanLane,
        true_and]
  · exact ⟨s, by simp [hi, scanLane], by simpa [scanFlags, hi] using raised_refl s⟩

/-- Lanes whose work leaves the generator alone. -/
theorem fill_still (g : Nat → Nat) (f : Nat → Flags) (m : BitVec 16) (old : Nat → Nat) (is : List Nat) (seed : DWord) :
    Claims.fill (fun i seed => (g i, f i, seed)) m old is seed =
      (is.map (fun i => if m.getLsbD i then g i else old i), is.foldr (fun i r => (if m.getLsbD i then f i else 0) ||| r) 0,
        seed) := by
  induction is with
  | nil => rfl
  | cons i is ih =>
    simp only [Claims.fill, ih]
    by_cases hi : m.getLsbD i <;> simp [hi]

/-- Only lane 0 of a scan raises flags after the passes. -/
theorem scan_fill (ty : Nat) (rs : List Nat) (m : BitVec 16) (old : Nat → Nat) (n : Nat) (hn : n ≠ 0) (seed : DWord) :
    let first := decodeVal ty (rs.getD 0 0)
    let real := m.getLsbD 0 && !intType ty
    Claims.fill (fun i seed => (scanLane ty rs i, scanFlags ty rs i, seed)) m old (List.range n) seed =
      ((List.range n).map fun i => if m.getLsbD i then
          placeElem ty (if i == 0 && real && first.isNaN then canonNaN ty else rs.getD i 0) else old i,
        if real && first.isSig then flagNV else 0, seed) := by
  have later : ∀ l : List Nat, (∀ i ∈ l, i ≠ 0) →
      l.foldr (fun i r => (if m.getLsbD i then scanFlags ty rs i else 0) ||| r) 0 = 0 := by
    intro l hl
    induction l with
    | nil => rfl
    | cons i l ih =>
      obtain ⟨hi, hl⟩ := List.forall_mem_cons.1 hl
      rw [List.foldr_cons, ih hl]
      simp [scanFlags, hi]
  obtain ⟨k, rfl⟩ := Nat.exists_eq_succ_of_ne_zero hn
  have flags : (List.range (k + 1)).foldr (fun i r => (if m.getLsbD i then scanFlags ty rs i else 0) ||| r) 0 =
      if m.getLsbD 0 && !intType ty && (decodeVal ty (rs.getD 0 0)).isSig then flagNV else 0 := by
    rw [List.range_succ_eq_map, List.foldr_cons, later _ (by simp)]
    cases hm : m.getLsbD 0 <;> cases hty : intType ty <;> simp [scanFlags, hty]
  have lane : ∀ i, (if m.getLsbD i then scanLane ty rs i else old i) = if m.getLsbD i then
      placeElem ty (if i == 0 && (m.getLsbD 0 && !intType ty) && (decodeVal ty (rs.getD 0 0)).isNaN then canonNaN ty
        else rs.getD i 0) else old i := by
    intro i
    by_cases hi : i = 0
    · subst hi
      cases hm : m.getLsbD 0 <;> cases hty : intType ty <;> simp [scanLane, hty]
    · simp [scanLane, hi]
  simp only [fill_still, flags, lane]

/-! ## The claim -/

theorem writeLane0_clean (hc : s.codesClean s.core = true) (vx : Vx) (d x : Nat) :
    writeLane0 vx d x s = writeV d (setLane (Claims.oldOf s d) (laneWidth vx.type) 0 x) s :=
  M.bind_ok (oldV_clean hc d)

theorem vdot_completes (h : s.issues (.vdot vx d a b)) (ha : s.givesV a.val x) (hb : s.givesV b.val y)
    (hd : s.takesV d.val) :
    let ty := vx.type
    let acts := (List.range (lanesOf ty)).filter (Claims.maskOf s vx.mask).getLsbD
    let sum := acts.foldl (fun t i => t + intOf ty (elemOf ty x i) * intOf ty (elemOf ty y i)) 0
    let e := dotVals (acts.map fun i => decodeVal ty (elemOf ty x i)) (acts.map fun i => decodeVal ty (elemOf ty y i))
    let r := if intType ty then (intLane ty sum, (0 : Flags), s.now.srseed)
      else Claims.rounded ty (Mode.ofCode vx.mode) (fun _ => e) 0 s.now.srseed
    ∃ t, Claims.raised s r.2.1 r.2.2 t ∧ exec (.vdot vx d a b) s = .next (s.finish (.vdot vx d a b) .seq
      (t.putV { sv := [a.val, b.val], dv := [d.val] } d.val (setLane (Claims.oldOf s d.val) (laneWidth ty) 0 r.1))) := by
  intro ty acts sum e r
  have hc := State.clean_of_issues h
  have ready := readyFor_lanes (gives_two ha hb) hd
  have total : ((acts.map (elemOf ty x)).zip (acts.map (elemOf ty y))).foldl (fun t p => t + intOf ty p.1 * intOf ty p.2) 0 =
      sum := by rw [List.zip_map', List.foldl_map]
  have exact_ : dotVals ((acts.map (elemOf ty x)).map (decodeVal ty)) ((acts.map (elemOf ty y)).map (decodeVal ty)) = e := by
    rw [List.map_map, List.map_map]
    rfl
  have reads : ∀ {w : V512 → V512 → BitVec 16 → M Flow}, (do
      let x ← readV a.val
      let y ← readV b.val
      w x y (← readM vx.mask) : M Flow) s = w x y (Claims.maskOf s vx.mask) s := fun {w} =>
    (M.bind_ok (readV_of_givesV hc ha)).trans ((M.bind_ok (readV_of_givesV hc hb)).trans (M.bind_ok (readM_clean hc _)))
  by_cases hty : intType ty
  · refine ⟨s, by simpa only [r, if_pos hty] using raised_refl s, unit_writesV h ready (reads.trans ?_)⟩
    refine (congrFun (if_pos hty) s).trans ?_
    simp only [r, if_pos hty, ← total, M.bind_run, writeLane0_clean hc]
    rfl
  · obtain ⟨t, run, ht⟩ := round_raises ty (Mode.ofCode vx.mode) e.1 e.2 s
    refine ⟨t, by simp only [r, if_neg hty]; exact ht, unit_writesV h ready (reads.trans ?_)⟩
    refine (congrFun (if_neg hty) s).trans ?_
    rw [← exact_] at run
    refine (M.bind_ok run).trans ?_
    rw [exact_, M.bind_run, writeLane0_clean ((clean_of_raised ht).trans hc), oldOf_raised ht, M.bind_run]
    simp only [r, if_neg hty]
    rfl

theorem vectorReductions : Claims.VectorReductions := by
  refine ⟨fun s vx d a b x y h ha hb hd => vdot_completes h ha hb hd, fun s vx d a op x h ha hd => ?vred,
    fun s vx d a op x h ha hd => ?vscan⟩
  all_goals
    have hc := State.clean_of_issues h
    have ready := readyFor_lanes (gives_one ha) hd
  case vred =>
    have lanes : (Claims.identityFilled s vx op x).length = 2 ^ treeDepth vx := by
      rw [Claims.identityFilled, List.length_map, List.length_range, lanes_eq_pow]
    obtain ⟨rs, t, _, _, run, one, ht⟩ := (rounds_treeOf vx op.val (treeDepth vx) _ lanes).from_ s
    obtain ⟨r, rfl⟩ := List.length_eq_one_iff.1 one
    refine ⟨r, t, run, unit_writesV h ready ?_⟩
    refine (M.bind_ok (readV_of_givesV hc ha)).trans ((M.bind_ok (readM_clean hc vx.mask)).trans ((M.bind_ok run).trans ?_))
    rw [M.bind_run, writeLane0_clean ((clean_of_raised ht).trans hc), oldOf_raised ht, M.bind_run]
    rfl
  case vscan =>
    obtain ⟨rs, t, _, _, run, -, ht⟩ := (rounds_scanOf vx op.val (Claims.maskOf s vx.mask) (treeDepth vx) 1
      (Claims.identityFilled s vx op x)).from_ s
    obtain ⟨u, hu, write⟩ := lanewise_writes (laneWork_scan vx.type rs) vx d.val ((clean_of_raised ht).trans hc)
    have some : lanesOf vx.type ≠ 0 := by
      rw [lanes_eq_pow]
      exact (Nat.two_pow_pos _).ne'
    rw [maskOf_raised ht, oldOf_raised ht, scan_fill vx.type rs _ _ _ some] at hu write
    refine ⟨rs, t, u, run, hu, unit_writesV h ready ?_⟩
    refine (M.bind_ok (readV_of_givesV hc ha)).trans ((M.bind_ok (readM_clean hc vx.mask)).trans ((M.bind_ok run).trans ?_))
    rw [M.bind_run, write, M.bind_run]

end Sys2Proof.Machine
end

section
/-! SUPPORT. VCVT, VQNT and VDQ (R141-R144), and O23. -/

namespace Sys2Proof.Machine

variable {s t : State} {vx : Vx} {d a : Vc} {x y : V512}

/-! ## VCVT (R141) -/

theorem laneWork_convert (vx : Vx) (src : Nat) (x : V512) :
    LaneWork (fun i => convertElem vx src (elemOf src x i)) fun i => Claims.converted vx src (elemOf src x i) := by
  intro i s
  unfold convertElem Claims.converted
  by_cases hty : vx.type = src
  · exact ⟨s, by simp [hty], by simpa [hty] using raised_refl s⟩
  · obtain ⟨t, run, ht⟩ := round_raises vx.type (Mode.ofCode vx.mode) (decodeVal src (elemOf src x i))
      (flagIf (decodeVal src (elemOf src x i)).isSig flagNV) s
    have differ : (vx.type == src) = false := by simpa using hty
    refine ⟨t, ?_, by simpa only [if_neg hty] using ht⟩
    simp only [differ, Bool.false_eq_true, if_false, if_neg hty]
    exact M.bind_ok run

/-- The lanes that both types have are converted, the others zero. -/
theorem converted_lanes (vx : Vx) (src : Nat) (x : V512) (m : BitVec 16) (old : Nat → Nat) (s : State) :
    let n := lanesOf vx.type
    let c := min (lanesOf src) n
    let r := Claims.fill (fun i => Claims.converted vx src (elemOf src x i)) m old (List.range c) s.now.srseed
    ∃ t, Claims.raised s r.2.1 r.2.2 t ∧ ((upTo n).mapM fun i =>
      if c ≤ i then pure 0 else if active m i then convertElem vx src (elemOf src x i) else pure (old i) : M (List Nat)) s =
        .ok (r.1 ++ List.replicate (n - c) 0) t := by
  intro n c r
  obtain ⟨t, run, ht⟩ := mapM_fill (laneWork_convert vx src x) m old (List.range c) s
  refine ⟨t, ht, ?_⟩
  have lanes : upTo n = List.range c ++ (List.range (n - c)).map (c + ·) := by
    rw [upTo, ← List.range_add, Nat.add_sub_cancel' (Nat.min_le_right ..)]
  have both : ∀ i ∈ List.range c, (if c ≤ i then pure 0 else if active m i then convertElem vx src (elemOf src x i)
      else pure (old i) : M Nat) = if active m i then convertElem vx src (elemOf src x i) else pure (old i) :=
    fun i hi => if_neg (Nat.not_le.2 (List.mem_range.1 hi))
  have beyond : ∀ i ∈ (List.range (n - c)).map (c + ·), (if c ≤ i then pure 0 else if active m i then
      convertElem vx src (elemOf src x i) else pure (old i) : M Nat) = pure 0 := by
    intro i hi
    obtain ⟨j, -, rfl⟩ := List.mem_map.1 hi
    exact if_pos (Nat.le_add_right ..)
  rw [lanes, List.mapM_append, mapM_congr_mem both, mapM_congr_mem beyond]
  have zeros : (((List.range (n - c)).map (c + ·)).mapM fun _ => (pure 0 : M Nat)) t = .ok (List.replicate (n - c) 0) t := by
    rw [List.mapM_pure, List.map_map, M.pure_run]
    exact congrArg (EStateM.Result.ok · t) (by simp [Function.comp_def])
  exact (M.bind_ok run).trans (M.bind_ok zeros)

/-! ## The pair of masks (R142) -/

theorem activePair_clean (hc : s.codesClean s.core = true) (vx : Vx) :
    activePair vx s = .ok (Claims.pairActive s vx.mask) s := by
  refine (M.bind_ok (readM_clean hc vx.mask)).trans ?_
  by_cases hm : vx.mask = 0
  · simp only [hm, BEq.rfl, if_true]
    rfl
  · simp only [beq_iff_eq, hm, if_false]
    refine (M.bind_ok (readM_clean hc _)).trans ?_
    refine congrArg (EStateM.Result.ok · s) (funext fun j => ?_)
    simp only [Claims.pairActive, if_neg hm, active]

/-! ## VQNT (R143) -/

/-- One element of a block in the fold of the claim: an active one is rounded to Q4, another is zero. -/
def quantStep (on : Nat → Bool) (mode : Mode) (e : Nat → FVal) (acc : List Nat × Flags × DWord) (j : Nat) :
    List Nat × Flags × DWord :=
  if on j then
    let c := roundStep 14 mode acc.2.2 (e j)
    (acc.1 ++ [c.1], acc.2.1 ||| c.2.1, c.2.2)
  else (acc.1 ++ [0], acc.2)

theorem mapM_quant (on : Nat → Bool) (mode : Mode) (e : Nat → FVal) (l : List Nat) (s : State) (pre : List Nat)
    (f : Flags) :
    let r := l.foldl (quantStep on mode e) (pre, f, s.now.srseed)
    ∃ xs t g, (l.mapM fun j => if on j then round 14 mode (e j) else pure 0) s = .ok xs t ∧ r.1 = pre ++ xs ∧
      r.2.1 = f ||| g ∧ Claims.raised s g r.2.2 t := by
  induction l generalizing s pre f with
  | nil => exact ⟨[], s, 0, rfl, by simp, by simp, raised_refl s⟩
  | cons j l ih =>
    rw [List.foldl_cons, List.mapM_cons]
    by_cases hj : on j
    · obtain ⟨t, run, ht⟩ := round_raises 14 mode (e j) 0 s
      have start : quantStep on mode e (pre, f, s.now.srseed) j = (pre ++ [(roundStep 14 mode s.now.srseed (e j)).1],
          f ||| (roundStep 14 mode s.now.srseed (e j)).2.1, t.now.srseed) := by
        rw [seed_of_raised ht, quantStep, if_pos hj]
      rw [start]
      obtain ⟨xs, u, g, run', codes, flags, hu⟩ := ih t (pre ++ [(roundStep 14 mode s.now.srseed (e j)).1])
        (f ||| (roundStep 14 mode s.now.srseed (e j)).2.1)
      rw [zero_or_flags] at ht
      refine ⟨_, u, _, ?_, codes.trans (List.append_assoc ..), flags.trans (BitVec.or_assoc ..), raised_trans ht hu⟩
      rw [if_pos hj]
      exact (M.bind_ok run).trans (M.bind_ok run')
    · have start : quantStep on mode e (pre, f, s.now.srseed) j = (pre ++ [0], f, s.now.srseed) := by
        rw [quantStep, if_neg hj]
      rw [start]
      obtain ⟨xs, u, g, run', codes, flags, hu⟩ := ih s (pre ++ [0]) f
      refine ⟨_, u, _, ?_, codes.trans (List.append_assoc ..), flags, hu⟩
      rw [if_neg hj]
      exact (M.bind_ok (M.pure_run 0)).trans (M.bind_ok run')

/-! ## VDQ (R144) -/

/-- One element of VDQ: element base + i of the block x. -/
def dequantLane (vx : Vx) (x : V512) (base : Nat) : Claims.LaneFn := fun i seed =>
  if fld x.toNat 128 8 = 255 then (canonNaN vx.type, 0, seed)
  else roundStep vx.type (Mode.ofCode vx.mode) seed
    ((decodeQ4 (fld x.toNat (4 * (base + i)) 4)).scale ((fld x.toNat 128 8 : Int) - 127))

theorem laneWork_dequant (vx : Vx) (x : V512) (base : Nat) : LaneWork (fun i =>
      if fld x.toNat 128 8 == 255 then pure (canonNaN vx.type)
      else round vx.type (roundingOf vx)
        ((decodeQ4 (fld x.toNat (4 * (base + i)) 4)).scale ((fld x.toNat 128 8 : Int) - 127)))
    (dequantLane vx x base) := by
  intro i s
  by_cases hs : fld x.toNat 128 8 = 255
  · exact ⟨s, by simp [hs, dequantLane], by simpa [hs, dequantLane] using raised_refl s⟩
  · obtain ⟨t, run, ht⟩ := round_raises vx.type (Mode.ofCode vx.mode)
      ((decodeQ4 (fld x.toNat (4 * (base + i)) 4)).scale ((fld x.toNat 128 8 : Int) - 127)) 0 s
    rw [zero_or_flags] at ht
    refine ⟨t, ?_, by simpa only [dequantLane, if_neg hs] using ht⟩
    simpa only [beq_iff_eq, dequantLane, if_neg hs, roundingOf] using run

/-- The work of VDQ on element j of the block, which goes to lane i of a destination. -/
def dequantWork (vx : Vx) (x : V512) (act : Nat → Bool) (old : V512) (j i : Nat) : M Nat :=
  if !act j then pure (laneOf old 32 i)
  else if fld x.toNat 128 8 == 255 then pure (canonNaN vx.type)
  else round vx.type (roundingOf vx) ((decodeQ4 (fld x.toNat (4 * j) 4)).scale (fld x.toNat 128 8 - 127))

/-- Sixteen elements of the block, from base on, under a mask. -/
theorem dequant_lanes (vx : Vx) (x : V512) (act : Nat → Bool) (m : BitVec 16) (old : V512) (base : Nat)
    (hact : ∀ i < 16, act (base + i) = m.getLsbD i) (s : State) :
    let r := Claims.fill (dequantLane vx x base) m (laneOf old 32) (List.range 16) s.now.srseed
    ∃ t, ((upTo 16).mapM fun i => dequantWork vx x act old (base + i) i) s = .ok r.1 t ∧ Claims.raised s r.2.1 r.2.2 t := by
  obtain ⟨t, run, ht⟩ := mapM_fill (laneWork_dequant vx x base) m (laneOf old 32) (List.range 16) s
  refine ⟨t, ?_, ht⟩
  rw [← run]
  refine congrFun (mapM_congr_mem fun i hi => ?_) s
  rw [dequantWork, hact i (List.mem_range.1 hi), active]
  cases m.getLsbD i <;> rfl

/-! ## The claims -/

theorem vqnt_completes (h : s.issues (.vqnt vx d a)) (ha : s.givesV a.val x) (hb : s.givesV (a.val + 1) y)
    (hd : s.takesV d.val) :
    let on := Claims.pairActive s vx.mask
    let e := fun j => decodeVal 9 (if j < 16 then laneOf x 32 j else laneOf y 32 (j - 16))
    let vs := ((List.range 32).filter on).map e
    let u : Uses := { sv := [a.val, a.val + 1], dv := [d.val] }
    if vs.any (fun v => !v.isFin) then
      ∃ t, Claims.raised s flagNV s.now.srseed t ∧ exec (.vqnt vx d a) s =
        .next (s.finish (.vqnt vx d a) .seq (t.putV u d.val (packBlock [] 255)))
    else
      let r := (List.range 32).foldl (quantStep on (Mode.ofCode vx.mode) fun j => (e j).scale (127 - (scaleCode vs : Int)))
        ([], 0, s.now.srseed)
      ∃ t, Claims.raised s r.2.1 r.2.2 t ∧ exec (.vqnt vx d a) s =
        .next (s.finish (.vqnt vx d a) .seq (t.putV u d.val (packBlock r.1 (scaleCode vs)))) := by
  intro on e vs u
  have hc := State.clean_of_issues h
  have ready := readyFor_lanes (gives_two ha hb) hd
  have reads : ∀ {w : V512 → V512 → (Nat → Bool) → M Flow}, (do
      let x ← readV a.val
      let y ← readV (a.val + 1)
      w x y (← activePair vx) : M Flow) s = w x y on s := fun {w} =>
    (M.bind_ok (readV_of_givesV hc ha)).trans ((M.bind_ok (readV_of_givesV hc hb)).trans
      (M.bind_ok (activePair_clean hc vx)))
  by_cases special : vs.any fun v => !v.isFin
  · rw [if_pos special]
    obtain ⟨t, run, ht⟩ := raise_raises flagNV s
    refine ⟨t, ht, unit_writesV h ready (reads.trans ?_)⟩
    exact (congrFun (if_pos special) s).trans (M.bind_ok run)
  · rw [if_neg special]
    obtain ⟨xs, t, g, run, codes, flags, ht⟩ := mapM_quant on (Mode.ofCode vx.mode)
      (fun j => (e j).scale (127 - (scaleCode vs : Int))) (List.range 32) s [] 0
    rw [zero_or_flags] at flags
    rw [← flags] at ht
    refine ⟨t, ht, unit_writesV h ready (reads.trans ?_)⟩
    rw [codes]
    exact (congrFun (if_neg special) s).trans (M.bind_ok run)

theorem vdq_completes (h : s.issues (.vdq vx d a)) (ha : s.givesV a.val x) (hd : s.takesV d.val)
    (hd' : s.takesV (d.val + 1)) :
    let lo := Claims.fill (dequantLane vx x 0) (Claims.maskOf s vx.mask) (laneOf (Claims.oldOf s d.val) 32) (List.range 16)
      s.now.srseed
    let hi := Claims.fill (dequantLane vx x 16) (Claims.maskOf s (if vx.mask = 0 then 0 else vx.mask + 1))
      (laneOf (Claims.oldOf s (d.val + 1)) 32) (List.range 16) lo.2.2
    ∃ t, Claims.raised s (lo.2.1 ||| hi.2.1) hi.2.2 t ∧
      exec (.vdq vx d a) s = .next (s.finish (.vdq vx d a) .seq (M.after (do
          writeV d.val (ofLanes 32 lo.1)
          writeV (d.val + 1) (ofLanes 32 hi.1)
          popAll { sv := [a.val], dv := [d.val, d.val + 1] }) t)) := by
  intro lo hi
  have hc := State.clean_of_issues h
  have ready : s.readyFor { sv := [a.val], dv := [d.val, d.val + 1] } :=
    ⟨List.forall_mem_nil _, gives_one ha, List.forall_mem_nil _,
      List.forall_mem_cons.2 ⟨hd, List.forall_mem_singleton.2 hd'⟩⟩
  obtain ⟨t, runLo, ht⟩ := dequant_lanes vx x (Claims.pairActive s vx.mask) (Claims.maskOf s vx.mask)
    (Claims.oldOf s d.val) 0 (fun i hi => by simp [Claims.pairActive, hi]) s
  obtain ⟨u, runHi, hu⟩ := dequant_lanes vx x (Claims.pairActive s vx.mask)
    (Claims.maskOf s (if vx.mask = 0 then 0 else vx.mask + 1)) (Claims.oldOf s (d.val + 1)) 16
    (fun i hi => by simp [Claims.pairActive]) t
  rw [seed_of_raised ht] at runHi hu
  obtain ⟨v, runD⟩ := writeV_answers d.val (ofLanes 32 lo.1) u
  obtain ⟨w, runD'⟩ := writeV_answers (d.val + 1) (ofLanes 32 hi.1) v
  refine ⟨u, raised_trans ht hu, ?_⟩
  have left : M.after (do
      writeV d.val (ofLanes 32 lo.1)
      writeV (d.val + 1) (ofLanes 32 hi.1)
      popAll { sv := [a.val], dv := [d.val, d.val + 1] }) u =
      M.after (popAll { sv := [a.val], dv := [d.val, d.val + 1] }) w := by
    simp only [M.after, M.bind_run, runD, runD']
  rw [left]
  refine unit_over_completes h ready ?_
  refine (M.bind_ok (readV_of_givesV hc ha)).trans ((M.bind_ok (activePair_clean hc vx)).trans ?_)
  refine (M.bind_ok (oldV_clean hc d.val)).trans ((M.bind_ok (oldV_clean hc (d.val + 1))).trans ?_)
  simp only [Nat.zero_add, Nat.add_comm 16] at runLo runHi
  exact (M.bind_ok runLo).trans ((M.bind_ok runHi).trans ((M.bind_ok runD).trans (M.bind_ok runD')))

theorem vectorConversions : Claims.VectorConversions := by
  refine ⟨fun s vx d a src x h ha hd => ?vcvt, fun s vx d a x y h ha hb hd => vqnt_completes h ha hb hd,
    fun s vx d a x h ha hd hd' => vdq_completes h ha hd hd'⟩
  have hc := State.clean_of_issues h
  obtain ⟨t, ht, run⟩ := converted_lanes vx src.val x (Claims.maskOf s vx.mask)
    (laneOf (Claims.oldOf s d.val) (laneWidth vx.type)) s
  refine ⟨t, ht, unit_writesV h (readyFor_lanes (gives_one ha) hd) ?_⟩
  refine (M.bind_ok (readV_of_givesV hc ha)).trans ((M.bind_ok (readM_clean hc vx.mask)).trans ?_)
  exact (M.bind_ok (oldV_clean hc d.val)).trans (M.bind_ok run)

end Sys2Proof.Machine

open Sys2Proof Sys2Proof.Machine

/-- Settles O23: each reduction and conversion only rounds, in the order of the claim, before its destination is written. -/
theorem reductionsAndConversions : Obligations.ReductionsAndConversions := ⟨vectorReductions, vectorConversions⟩
end

section
/-! SUPPORT. Bit fields: what a field reads after a write of one. -/

namespace Sys2Proof.Machine

theorem testBit_fld (x lo n i : Nat) : (fld x lo n).testBit i = (decide (i < n) && x.testBit (lo + i)) := by
  simp [fld, Nat.testBit_mod_two_pow, Nat.testBit_div_two_pow, Nat.add_comm]

/-- A write of a field, as the parts above it, in it and below it. -/
theorem setFld_eq (x lo n v : Nat) :
    setFld x lo n v = 2 ^ lo * (2 ^ n * (x / 2 ^ (lo + n)) + v % 2 ^ n) + x % 2 ^ lo := by
  have low : 2 ^ lo * (x / 2 ^ lo) + x % 2 ^ lo = x := Nat.div_add_mod ..
  have high : 2 ^ n * (x / 2 ^ (lo + n)) + fld x lo n = x / 2 ^ lo := by
    rw [Nat.pow_add, ← Nat.div_div_eq_div_mul]
    exact Nat.div_add_mod ..
  have parts : 2 ^ lo * (2 ^ n * (x / 2 ^ (lo + n))) + fld x lo n * 2 ^ lo + x % 2 ^ lo = x := by
    rw [Nat.mul_comm (fld x lo n), ← Nat.mul_add, high, low]
  rw [setFld, Nat.mul_add, Nat.mul_comm (v % 2 ^ n)]
  omega

theorem testBit_setFld (x lo n v i : Nat) :
    (setFld x lo n v).testBit i = if lo ≤ i ∧ i < lo + n then v.testBit (i - lo) else x.testBit i := by
  have below : x % 2 ^ lo < 2 ^ lo := Nat.mod_lt _ (Nat.two_pow_pos lo)
  have inside : v % 2 ^ n < 2 ^ n := Nat.mod_lt _ (Nat.two_pow_pos n)
  rw [setFld_eq, Nat.testBit_two_pow_mul_add _ below]
  by_cases hlo : i < lo
  · rw [if_pos hlo, if_neg (by omega), Nat.testBit_mod_two_pow]
    simp [hlo]
  · rw [if_neg hlo, Nat.testBit_two_pow_mul_add _ inside]
    by_cases hn : i - lo < n
    · rw [if_pos hn, if_pos (by omega), Nat.testBit_mod_two_pow]
      simp [hn]
    · rw [if_neg hn, if_neg (by omega), Nat.testBit_div_two_pow]
      congr 1
      omega

theorem fld_setFld_same (x lo n v : Nat) : fld (setFld x lo n v) lo n = v % 2 ^ n := by
  refine Nat.eq_of_testBit_eq fun i => ?_
  rw [testBit_fld, testBit_setFld, Nat.testBit_mod_two_pow]
  by_cases hi : i < n <;> simp [hi]

theorem fld_setFld_other {x lo n v lo' n' : Nat} (h : lo' + n' ≤ lo ∨ lo + n ≤ lo') :
    fld (setFld x lo n v) lo' n' = fld x lo' n' := by
  refine Nat.eq_of_testBit_eq fun i => ?_
  rw [testBit_fld, testBit_fld, testBit_setFld]
  by_cases hi : i < n'
  · rw [if_neg (by omega)]
  · simp [hi]

theorem setFld_lt {x lo n v m : Nat} (hx : x < 2 ^ m) (h : lo + n ≤ m) : setFld x lo n v < 2 ^ m := by
  refine Nat.lt_pow_two_of_testBit _ fun i hi => ?_
  rw [testBit_setFld, if_neg (by omega)]
  exact Nat.testBit_lt_two_pow (Nat.lt_of_lt_of_le hx (Nat.pow_le_pow_right (by decide) hi))

theorem toNat_ofNat_setFld {m lo n : Nat} (b : BitVec m) (v : Nat) (h : lo + n ≤ m) :
    (BitVec.ofNat m (setFld b.toNat lo n v)).toNat = setFld b.toNat lo n v := by
  rw [BitVec.toNat_ofNat, Nat.mod_eq_of_lt (setFld_lt b.isLt h)]

theorem fld_lt (x lo n : Nat) : fld x lo n < 2 ^ n := Nat.mod_lt _ (Nat.two_pow_pos n)

end Sys2Proof.Machine
end

section
/-! SUPPORT. The matrix product (R130, R146, R151): what a multiply leaves in its accumulator, and O26. -/

namespace Sys2Proof.Machine

variable {s t u : State} {f64 : Bool} {n i j w v : Nat}

/-! ## Tiles -/

theorem Tile.cell_mod (t : Tile) (w : Nat) : t.cell w % 2 ^ 32 = t.cell w := Nat.mod_eq_of_lt (fld_lt ..)

theorem Tile.cell_setCell (t : Tile) {w w' : Nat} (v : Nat) (hw : w < 256) :
    (t.setCell w v).cell w' = if w' = w then v % 2 ^ 32 else t.cell w' := by
  simp only [Tile.cell, Tile.setCell, toNat_ofNat_setFld t.acc v (show 32 * w + 32 ≤ 8192 by omega)]
  by_cases h : w' = w
  · rw [if_pos h, h, fld_setFld_same]
  · rw [if_neg h, fld_setFld_other (by omega)]

theorem Core.tile_setTile (k : Core) {n n' : Nat} (t : Tile) (hn : n < 4) (hn' : n' < 4) :
    (k.setTile n t).tile n' = if n' = n then t else k.tile n' := by
  have val : ∀ {m}, m < 4 → (Fin.ofNat 4 m).val = m := fun h => Nat.mod_eq_of_lt h
  simp only [Core.tile, Core.setTile, Fin.getElem_fin, Vector.getElem_set, val hn, val hn', eq_comm (a := n)]

/-! ## Work on tiles -/

/-- No element of a tile of the issuing core has an error, or is to get one. -/
def State.TilesSound (s : State) : Prop := s.nowCore.flips = [] ∧ s.armed s.core 7 = none

/-- What work on tiles leaves as it was. -/
structure State.OnTiles (s t : State) : Prop where
  mem : t.mem = s.mem
  core : t.core = s.core
  mgmt : t.mgmt = s.mgmt
  flips : t.nowCore.flips = s.nowCore.flips

theorem State.OnTiles.refl (s : State) : s.OnTiles s := ⟨rfl, rfl, rfl, rfl⟩

theorem State.OnTiles.trans (h : s.OnTiles t) (h' : t.OnTiles u) : s.OnTiles u :=
  ⟨h'.mem.trans h.mem, h'.core.trans h.core, h'.mgmt.trans h.mgmt, h'.flips.trans h.flips⟩

theorem State.OnTiles.sound (h : s.OnTiles t) (hs : s.TilesSound) : t.TilesSound := by
  refine ⟨h.flips.trans hs.1, ?_⟩
  have same : t.armed t.core 7 = s.armed s.core 7 := by
    unfold State.armed State.coreReg
    rw [h.mgmt, h.core]
  exact same.trans hs.2

theorem State.nowCore_updCore (s : State) (f : Core → Core) : (s.updCore s.core f).nowCore = f s.nowCore :=
  s.coreAt_updCore s.core f

theorem State.OnTiles.updCore (s : State) {f : Core → Core} (hf : (f s.nowCore).flips = s.nowCore.flips) :
    s.OnTiles (s.updCore s.core f) := ⟨rfl, rfl, rfl, by rw [State.nowCore_updCore, hf]⟩

theorem State.nowCore_updCtx (s : State) (f : Ctx → Ctx) :
    (s.updCtx s.core s.ctx f).nowCore = s.nowCore.setCtx s.ctx (f s.now) := s.coreAt_updCtx ..

theorem readCell_sound (hs : s.TilesSound) (n w : Nat) : readCell n w s = .ok ((s.nowCore.tile n).cell w) s := by
  obtain ⟨flips, -⟩ := hs
  rw [State.nowCore] at flips
  simp [readCell, flips, State.nowCore]

theorem updateCell_sound (hs : s.TilesSound) (hn : n < 4) (hw : w < 256) (v : Nat) : ∃ t,
    updateCell n w v s = .ok () t ∧ s.OnTiles t ∧ ∀ n' w', n' < 4 →
      (t.nowCore.tile n').cell w' = if n' = n ∧ w' = w then v % 2 ^ 32 else (s.nowCore.tile n').cell w' := by
  obtain ⟨flips, armed⟩ := hs
  let f := fun k : Core => k.setTile n ((k.tile n).setCell w v)
  have write : writeCell n w v s = .ok () (s.updCore s.core f) := by
    rw [State.nowCore] at flips
    simp [writeCell, f, State.updCore, Core.setTile, flips]
  have still : (s.updCore s.core f).armed (s.updCore s.core f).core 7 = none := armed
  refine ⟨s.updCore s.core f, ?_, .updCore s rfl, fun n' w' hn' => ?_⟩
  · simp only [updateCell, M.bind_run, write, M.get_run, still, M.pure_run]
  · rw [State.nowCore_updCore, Core.tile_setTile _ _ hn hn']
    by_cases h : n' = n
    · rw [if_pos h, h, Tile.cell_setCell _ _ hw]
      simp
    · rw [if_neg h, if_neg fun hh => h hh.1]

/-! ## Elements of an accumulator (R146) -/

/-- The tiles of the accumulator lie in the core. -/
abbrev accFits (f64 : Bool) (n : Nat) : Prop := (if f64 then n + 1 else n) < 4

/-- The range of an element's code. -/
abbrev accSpan (f64 : Bool) : Nat := 2 ^ (if f64 then 64 else 32)

theorem accOf_single (k : Core) (n i j : Nat) : Claims.accOf k false n i j = (k.tile n).cell (16 * i + j) :=
  Tile.cell_mod ..

theorem accOf_double (k : Core) (n i j : Nat) : Claims.accOf k true n i j =
    (k.tile (n + i / 8)).cell (2 * (16 * (i % 8) + j)) + 2 ^ 32 * (k.tile (n + i / 8)).cell (2 * (16 * (i % 8) + j) + 1) := by
  simp only [Claims.accOf, accCells, packWords, if_true, List.map_cons, List.map_nil, Tile.cell_mod, Nat.mul_zero,
    Nat.add_zero]

theorem readAcc_sound (hs : s.TilesSound) (f64 : Bool) (n i j : Nat) :
    readAcc f64 n i j s = .ok (Claims.accOf s.nowCore f64 n i j) s := by
  cases f64 <;>
    simp [readAcc, Claims.accOf, accCells, readCell_sound hs, List.mapM_cons]

/-- Two words of a double word. -/
theorem words_of_double (v : Nat) : fld v 0 32 % 2 ^ 32 + 2 ^ 32 * (fld v 32 32 % 2 ^ 32) = v % 2 ^ 64 := by
  simp only [fld]
  omega

theorem updateAcc_sound (hs : s.TilesSound) (hn : accFits f64 n) (hi : i < 16) (hj : j < 16) (v : Nat) : ∃ t,
    updateAcc f64 n i j v s = .ok () t ∧ s.OnTiles t ∧ Claims.accOf t.nowCore f64 n i j = v % accSpan f64 ∧
      ∀ i' j', i' < 16 → j' < 16 → ¬ (i' = i ∧ j' = j) →
        Claims.accOf t.nowCore f64 n i' j' = Claims.accOf s.nowCore f64 n i' j' := by
  cases f64 with
  | false =>
    have hn : n < 4 := hn
    obtain ⟨t, run, ht, cells⟩ := updateCell_sound hs hn (show 16 * i + j < 256 by omega) (fld v 0 32)
    refine ⟨t, ?_, ht, ?_, fun i' j' hi' hj' hne => ?_⟩
    · simp [updateAcc, accCells, run]
    · rw [accOf_single, cells _ _ hn, if_pos ⟨rfl, rfl⟩]
      simp [fld]
    · rw [accOf_single, accOf_single, cells _ _ hn, if_neg (by omega)]
  | true =>
    have hn : n + 1 < 4 := hn
    have tile : n + i / 8 < 4 := by omega
    obtain ⟨t, run, ht, cells⟩ := updateCell_sound hs tile (show 2 * (16 * (i % 8) + j) < 256 by omega) (fld v (32 * 0) 32)
    obtain ⟨u, run', hu, cells'⟩ := updateCell_sound (ht.sound hs) tile
      (show 2 * (16 * (i % 8) + j) + 1 < 256 by omega) (fld v (32 * 1) 32)
    refine ⟨u, ?_, ht.trans hu, ?_, fun i' j' hi' hj' hne => ?_⟩
    · simp only [updateAcc, accCells, if_true, List.zipIdx_cons, List.zipIdx_nil, List.forM_eq_forM, List.forM_cons,
        List.forM_nil, M.bind_run, run, Nat.zero_add, run', M.pure_run]
    · rw [accOf_double, cells' _ _ tile, cells' _ _ tile, cells _ _ tile, if_neg (by omega), if_pos ⟨rfl, rfl⟩,
        if_pos ⟨rfl, rfl⟩]
      exact words_of_double v
    · have tile' : n + i' / 8 < 4 := by omega
      rw [accOf_double, accOf_double, cells' _ _ tile', cells' _ _ tile', cells _ _ tile', cells _ _ tile',
        if_neg (by omega), if_neg (by omega), if_neg (by omega), if_neg (by omega)]

/-! ## The K-groups (R130) -/

/-- An element with some K-groups added. -/
def addGroups (f64 : Bool) (gs : List (List FVal × List FVal)) (old : Nat) : Nat :=
  gs.foldl (fun c g => (addGroup f64 c g.1 g.2).1 % accSpan f64) old

/-- The work makes each element that p names F of what it was, and leaves the others. -/
def Accumulates (f64 : Bool) (n : Nat) (F : Nat → Nat → Nat → Nat) (p : Nat → Nat → Prop) (m : M Unit) : Prop :=
  ∀ s : State, s.TilesSound → ∃ t, m s = .ok () t ∧ s.OnTiles t ∧ ∀ i j, i < 16 → j < 16 →
    (p i j → Claims.accOf t.nowCore f64 n i j = F i j (Claims.accOf s.nowCore f64 n i j)) ∧
    (¬ p i j → Claims.accOf t.nowCore f64 n i j = Claims.accOf s.nowCore f64 n i j)

theorem accumulate_accumulates (hn : accFits f64 n) (hi : i < 16) (hj : j < 16) (gs : List (List FVal × List FVal)) :
    Accumulates f64 n (fun _ _ => addGroups f64 gs) (fun i' j' => i' = i ∧ j' = j) (accumulate f64 n i j gs) := by
  induction gs with
  | nil => exact fun s _ => ⟨s, rfl, .refl s, fun _ _ _ _ => ⟨fun _ => rfl, fun _ => rfl⟩⟩
  | cons g gs ih =>
    intro s hs
    let r := addGroup f64 (Claims.accOf s.nowCore f64 n i j) g.1 g.2
    let s1 := s.updCtx s.core s.ctx fun q => { q with fexc := q.fexc ||| r.2 }
    have raised : s.OnTiles s1 := ⟨rfl, rfl, rfl, by rw [State.nowCore_updCtx]; rfl⟩
    have tiles : s1.nowCore.tiles = s.nowCore.tiles := by rw [State.nowCore_updCtx]; rfl
    have acc : ∀ i j, Claims.accOf s1.nowCore f64 n i j = Claims.accOf s.nowCore f64 n i j := by
      simp only [Claims.accOf, Core.tile, tiles, implies_true]
    obtain ⟨s2, run2, h2, new, old2⟩ := updateAcc_sound (raised.sound hs) hn hi hj r.1
    obtain ⟨t, run, ht, accT⟩ := ih s2 (h2.sound (raised.sound hs))
    refine ⟨t, ?_, (raised.trans h2).trans ht, fun i' j' hi' hj' => ⟨?_, fun hne => ?_⟩⟩
    · exact (M.bind_ok (readAcc_sound hs f64 n i j)).trans
        ((M.bind_ok (raise_run r.2)).trans ((M.bind_ok run2).trans run))
    · rintro ⟨rfl, rfl⟩
      rw [(accT i' j' hi' hj').1 ⟨rfl, rfl⟩, new]
      rfl
    · rw [(accT i' j' hi' hj').2 hne, old2 i' j' hi' hj' hne, acc]

variable {F : Nat → Nat → Nat → Nat}

theorem Accumulates.imp {G : Nat → Nat → Nat → Nat} {p : Nat → Nat → Prop} {m : M Unit} (h : Accumulates f64 n F p m)
    (hFG : ∀ i j, p i j → F i j = G i j) : Accumulates f64 n G p m := fun s hs => by
  obtain ⟨t, run, ht, acc⟩ := h s hs
  exact ⟨t, run, ht, fun i j hi hj => ⟨fun hp => hFG i j hp ▸ (acc i j hi hj).1 hp, (acc i j hi hj).2⟩⟩

/-- Elements that different members of a list name are worked on one after the other. -/
theorem Accumulates.forM {γ : Type} {p : γ → Nat → Nat → Prop} {m : γ → M Unit} {l : List γ}
    (h : ∀ c ∈ l, Accumulates f64 n F (p c) (m c)) (hd : l.Pairwise fun c d => ∀ i j, p c i j → ¬ p d i j) :
    Accumulates f64 n F (fun i j => ∃ c ∈ l, p c i j) (l.forM m) := by
  induction l with
  | nil => exact fun s _ => ⟨s, rfl, .refl s, fun i j _ _ => ⟨by simp, fun _ => rfl⟩⟩
  | cons c l ih =>
    obtain ⟨apart, hd⟩ := List.pairwise_cons.1 hd
    obtain ⟨hc, hl⟩ := List.forall_mem_cons.1 h
    intro s hs
    obtain ⟨t, run, ht, acc⟩ := hc s hs
    obtain ⟨u, run', hu, acc'⟩ := ih hl hd t (ht.sound hs)
    refine ⟨u, ?_, ht.trans hu, fun i j hi hj => ⟨?_, fun hn => ?_⟩⟩
    · simp only [List.forM_eq_forM, List.forM_cons, M.bind_run, run] at run' ⊢
      exact run'
    · rintro ⟨e, he, hp⟩
      rcases List.mem_cons.1 he with rfl | he
      · rw [(acc' i j hi hj).2 fun ⟨e', he', hp'⟩ => apart e' he' i j hp hp', (acc i j hi hj).1 hp]
      · rw [(acc' i j hi hj).1 ⟨e, he, hp⟩, (acc i j hi hj).2 fun hpc => apart e he i j hpc hp]
    · simp only [List.mem_cons, exists_eq_or_imp, not_or] at hn
      rw [(acc' i j hi hj).2 hn.2, (acc i j hi hj).2 hn.1]

/-- Every element of the accumulator gets its K-groups. -/
theorem product_accumulates (hn : accFits f64 n) (as bs : List (List FVal)) :
    Accumulates f64 n (fun i j => addGroups f64 ((lineGroups as i).zip (lineGroups bs j)))
      (fun i j => ∃ i' ∈ sixteen, ∃ j' ∈ sixteen, i = i' ∧ j = j') (product f64 n as bs) := by
  have distinct : sixteen.Pairwise (· ≠ ·) := List.nodup_range
  refine .forM (fun i hi => .forM (fun j hj => ?one) ?row) ?all
  case one =>
    refine (accumulate_accumulates hn (List.mem_range.1 hi) (List.mem_range.1 hj) _).imp fun i' j' h => ?_
    rw [h.1, h.2]
  case row => exact distinct.imp fun hne i' j' h h' => hne (h.2.symm.trans h'.2)
  case all =>
    refine distinct.imp fun hne i' j' h h' => ?_
    obtain ⟨-, -, h, -⟩ := h
    obtain ⟨-, -, h', -⟩ := h'
    exact hne (h.symm.trans h')

/-! ## A multiply (R151) -/

/-- What changes no element of any tile. -/
structure State.SameCells (s t : State) : Prop extends s.OnTiles t where
  cells : ∀ n w, n < 4 → (t.nowCore.tile n).cell w = (s.nowCore.tile n).cell w

theorem State.SameCells.refl (s : State) : s.SameCells s := ⟨.refl s, fun _ _ _ => rfl⟩

theorem State.SameCells.trans (h : s.SameCells t) (h' : t.SameCells u) : s.SameCells u :=
  ⟨h.toOnTiles.trans h'.toOnTiles, fun n w hn => (h'.cells n w hn).trans (h.cells n w hn)⟩

theorem State.SameCells.accOf (h : s.SameCells t) (hn : accFits f64 n) (hi : i < 16) (j : Nat) :
    Claims.accOf t.nowCore f64 n i j = Claims.accOf s.nowCore f64 n i j := by
  cases f64 with
  | false =>
    have hn : n < 4 := hn
    rw [accOf_single, accOf_single, h.cells _ _ hn]
  | true =>
    have hn : n + 1 < 4 := hn
    rw [accOf_double, accOf_double, h.cells _ _ (by omega), h.cells _ _ (by omega)]

theorem modTile_sameCells (s : State) (hn : n < 4) {f : Tile → Tile} (hf : ∀ t, (f t).acc = t.acc := by intro t; rfl) :
    ∃ t, modTile n f s = .ok () t ∧ s.SameCells t := by
  refine ⟨_, rfl, .updCore s rfl, fun n' w hn' => ?_⟩
  rw [State.nowCore_updCore, Core.tile_setTile _ _ hn hn']
  split
  · next h => rw [h, Tile.cell, hf, Tile.cell]
  · rfl

/-- The tiles of an accumulator. -/
abbrev accTilesOf (f64 : Bool) (n : Nat) : List Nat := if f64 then [n, n + 1] else [n]

theorem accTilesOf_lt (hn : accFits f64 n) : ∀ m ∈ accTilesOf f64 n, m < 4 := by
  cases f64 with
  | false => exact List.forall_mem_singleton.2 hn
  | true => exact List.forall_mem_cons.2 ⟨Nat.lt_of_succ_lt hn, List.forall_mem_singleton.2 hn⟩

theorem forM_sameCells {l : List Nat} {m : Nat → M Unit} (h : ∀ n ∈ l, ∀ s, ∃ t, m n s = .ok () t ∧ s.SameCells t)
    (s : State) : ∃ t, l.forM m s = .ok () t ∧ s.SameCells t := by
  induction l generalizing s with
  | nil => exact ⟨s, rfl, .refl s⟩
  | cons n l ih =>
    obtain ⟨hn, hl⟩ := List.forall_mem_cons.1 h
    obtain ⟨t, run, ht⟩ := hn s
    obtain ⟨u, run', hu⟩ := ih hl t
    refine ⟨u, ?_, ht.trans hu⟩
    simp only [List.forM_eq_forM, List.forM_cons, M.bind_run, run] at run' ⊢
    exact run'

theorem writeTile_zeroes (hs : s.TilesSound) (hn : n < 4) : ∃ t, writeTile n [] s = .ok () t ∧ s.OnTiles t ∧
    ∀ n' w, n' < 4 → (t.nowCore.tile n').cell w = if n' = n then 0 else (s.nowCore.tile n').cell w := by
  obtain ⟨flips, -⟩ := hs
  let u := s.updCore s.core fun k => k.setTile n { k.tile n with acc := BitVec.ofNat 8192 (packWords []) }
  have same : u.nowCore.flips = s.nowCore.flips := by rw [State.nowCore_updCore]; rfl
  refine ⟨_, rfl, .trans (t := u) (.updCore s rfl) (.updCore u ?_), fun n' w hn' => ?_⟩
  · simp only [same, flips, List.filter_nil]
  · show ((u.updCore u.core _).nowCore.tile n').cell w = _
    rw [State.nowCore_updCore]
    show (u.nowCore.tile n').cell w = _
    rw [State.nowCore_updCore, Core.tile_setTile _ _ hn hn']
    split
    · simp only [Tile.cell, packWords, BitVec.toNat_ofNat, Nat.zero_mod, fld, Nat.zero_div]
    · rfl

/-- MMAZ begins from zero. -/
theorem zeroed (hs : s.TilesSound) (hn : accFits f64 n) : ∃ t,
    (accTilesOf f64 n).forM (fun n => writeTile n []) s = .ok () t ∧ s.OnTiles t ∧
      ∀ i j, i < 16 → Claims.accOf t.nowCore f64 n i j = 0 := by
  cases f64 with
  | false =>
    have hn : n < 4 := hn
    obtain ⟨t, run, ht, cells⟩ := writeTile_zeroes hs hn
    refine ⟨t, by simp [accTilesOf, run], ht, fun i j _ => ?_⟩
    rw [accOf_single, cells _ _ hn, if_pos rfl]
  | true =>
    have hn : n + 1 < 4 := hn
    obtain ⟨t, run, ht, cells⟩ := writeTile_zeroes hs (show n < 4 by omega)
    obtain ⟨u, run', hu, cells'⟩ := writeTile_zeroes (ht.sound hs) hn
    refine ⟨u, by simp [accTilesOf, run, run'], ht.trans hu, fun i j hi => ?_⟩
    have zero : ∀ w, (u.nowCore.tile (n + i / 8)).cell w = 0 := fun w => by
      have tile : i / 8 = 0 ∨ i / 8 = 1 := by omega
      rcases tile with h | h <;> rw [h, cells' _ _ (by omega)]
      · rw [if_neg (by omega), cells _ _ (by omega), if_pos (by omega)]
      · rw [if_pos rfl]
    rw [accOf_double, zero, zero, Nat.mul_zero]

theorem begun (hs : s.TilesSound) (hn : accFits f64 n) (zero : Bool) : ∃ t,
    (if zero then (accTilesOf f64 n).forM fun n => writeTile n [] else pure () : M Unit) s = .ok () t ∧ s.OnTiles t ∧
      ∀ i j, i < 16 → Claims.accOf t.nowCore f64 n i j = if zero then 0 else Claims.accOf s.nowCore f64 n i j := by
  cases zero with
  | false => exact ⟨s, rfl, .refl s, fun _ _ _ => rfl⟩
  | true => exact zeroed hs hn

/-- The checksums and the validity bits are no elements of the accumulator. -/
theorem checks_sameCells (hn : accFits f64 n) (cks cv : Bool) (as bs : List (List FVal)) (k : Nat) (s : State) : ∃ t,
    (do
      (accTilesOf f64 n).forM fun n => modTile n fun t => { t with cv := false }
      if cks then
        checkProduct n as bs k
        modTile n fun t => { t with cv } : M Unit) s = .ok () t ∧ s.SameCells t := by
  have first : n < 4 := by
    cases f64 with
    | false => exact hn
    | true => exact Nat.lt_of_succ_lt hn
  obtain ⟨t, run, ht⟩ := forM_sameCells (m := fun n => modTile n fun t => { t with cv := false })
    (fun m hm s => modTile_sameCells s (accTilesOf_lt hn m hm)) s
  cases cks with
  | false => exact ⟨t, by simp only [M.bind_run, run, Bool.false_eq_true, if_false, M.pure_run], ht⟩
  | true =>
    obtain ⟨u, run', hu⟩ : ∃ u, checkProduct n as bs k t = .ok () u ∧ t.SameCells u := by
      unfold checkProduct
      exact modTile_sameCells t first fun _ => rfl
    obtain ⟨w, run'', hw⟩ := modTile_sameCells u first (f := fun t => { t with cv })
    exact ⟨w, by simp only [M.bind_run, run, if_true, run', run''], (ht.trans hu).trans hw⟩

theorem multiply_run (hs : s.TilesSound) (hn : accFits f64 n) (cks zero : Bool) (as bs : List (List FVal)) (k : Nat) :
    ∃ u, multiply n f64 cks zero as bs k s = .ok () u ∧ s.OnTiles u ∧ ∀ i j, i < 16 → j < 16 →
      Claims.accOf u.nowCore f64 n i j = addGroups f64 ((lineGroups as i).zip (lineGroups bs j))
        (if zero then 0 else Claims.accOf s.nowCore f64 n i j) := by
  obtain ⟨s1, run1, h1, start⟩ := begun hs hn zero
  obtain ⟨s2, run2, h2, acc⟩ := product_accumulates hn as bs s1 (h1.sound hs)
  obtain ⟨u, run3, h3⟩ := checks_sameCells hn cks (s.nowCore.tile n).cv as bs k s2
  refine ⟨u, ?_, (h1.trans h2).trans h3.toOnTiles, fun i j hi hj => ?_⟩
  · have read : tileAt n s = .ok (s.nowCore.tile n) s := rfl
    refine (M.bind_ok read).trans ?_
    cases zero with
    | false =>
      cases run1
      exact (M.bind_ok run2).trans run3
    | true => exact (M.bind_ok run1).trans ((M.bind_ok run2).trans run3)
  · rw [h3.accOf hn hi, (acc i j hi hj).1 ⟨i, List.mem_range.2 hi, j, List.mem_range.2 hj, rfl, rfl⟩, start i j hi]

end Sys2Proof.Machine

open Sys2Proof Sys2Proof.Machine

/-- Settles O26: one element's K-groups are added in order, and no other element's work reaches it. -/
theorem matrixProduct : Obligations.MatrixProduct := by
  intro t n f64 cks zero as bs k flips armed hn
  obtain ⟨u, run, hu, acc⟩ := multiply_run ⟨flips, armed⟩ hn cks zero as bs k
  exact ⟨u, run, hu.mem, acc⟩
end

section
/-! SUPPORT. What reset leaves (R9, R30, R49, R100, R113, R265, R296, R364, R404, R405, R409, R416, R426), and O55. -/

namespace Sys2Proof.Machine

/-! ## Nothing is listed at reset -/

theorem coreAt_reset (c : Nat) : State.reset.coreAt c = {} := rfl

theorem dieAt_reset (d : Nat) : State.reset.dieAt d = {} := by
  simp [State.dieAt, State.reset]

theorem byte_reset (a : Nat) : State.reset.mem.byte a = 0 := rfl

/-! ## What is read -/

theorem cls_reset (n : Nat) : ({} : Core).cls n = 0 :=
  show BitVec.ofNat 64 (setFld (0 : ClassEntry).toNat 25 1 0) = 0 by decide

theorem regs_reset (r : Fin 8) : ({} : Die).regs[r] = {} := by simp

theorem pad_reset (i : Nat) : State.reset.pad i = {} := by
  unfold State.pad
  split
  · rfl
  · split
    · rfl
    · rw [dieAt_reset]
      exact regs_reset _

theorem core_reset (c : Nat) :
    let k := State.reset.coreAt c
    k.last = 7 ∧ (∀ i : Fin 8, k.panes[i] = 15) ∧ (∀ i : Fin 2, k.hatch[i] = 64) ∧ (∀ n, k.cls n = 0) ∧
      k.runq = [] ∧ k.heldMsgs = [] ∧ k.stopped = false ∧ k.stopping = false ∧
      ∀ x : Fin 8, let q := k.ctxs[x]
        q.run = .free ∧ q.fexc = 0 ∧ q.rangeflag = 0 ∧ q.wb = 0 ∧ q.wp = 0 := by
  rw [coreAt_reset]
  have panes : ∀ i : Fin 8, ({} : Core).panes[i] = 15 := by decide
  have hatch : ∀ i : Fin 2, ({} : Core).hatch[i] = 64 := by decide
  have ctxs : ∀ x : Fin 8, ({} : Core).ctxs[x] = {} := by simp
  refine ⟨rfl, panes, hatch, cls_reset, rfl, rfl, rfl, rfl, fun x => ?_⟩
  rw [ctxs x]
  exact ⟨rfl, rfl, rfl, rfl, rfl⟩

theorem die_reset (d : Nat) :
    (State.reset.dieAt d).st = 0 ∧ (State.reset.dieAt d).cmd = 0 ∧ (State.reset.dieAt d).dbg = 0 := by
  rw [dieAt_reset]
  exact ⟨rfl, rfl, rfl⟩

/-- ALARMCTL's levels (R404). -/
theorem alarmctl_reset : ∀ src : Fin 6, fld State.reset.pkg.alarmctl.toNat (2 * src.val) 2 =
    if src.val < 3 ∨ src.val = 5 then 1 else 2 := by decide

/-- SOCTL's port, frame and timeout (R426). -/
theorem soctl_reset : fld State.reset.pkg.soctl.toNat 0 16 = 0x4C42 ∧ fld State.reset.pkg.soctl.toNat 16 16 = 9000 ∧
    fld State.reset.pkg.soctl.toNat 32 16 = 50 := by decide

end Sys2Proof.Machine

open Sys2Proof Sys2Proof.Machine

/-- Settles O55: nothing is listed at reset, so every register and place reads its default. -/
theorem resetValues : Obligations.ResetValues := by
  obtain ⟨port, frame, timeout⟩ := soctl_reset
  exact ⟨core_reset, pad_reset, die_reset, rfl, rfl, rfl, rfl, rfl, rfl, rfl, alarmctl_reset, port, frame, timeout,
    fun a => ⟨byte_reset a, rfl, rfl, rfl⟩⟩
end

section
/-! SUPPORT. The timer (R350), link flits (R107), trace records (R346), core stops (R352, R353) and the halting of a die
(R354), and O39. -/

namespace Sys2Proof.Machine

variable {s t u : State}

/-! ## Management registers -/

theorem State.coreReg_lt (s : State) (c idx : Nat) : s.coreReg c idx < 2 ^ 64 := (SMap.get 0 s.mgmt _).isLt

/-- A register whose new value is listed reads it. -/
theorem State.coreReg_setCoreReg {c idx v : Nat} (hv : v < 2 ^ 64) (h0 : v ≠ 0 ∨ rising (s.mgmt.map Prod.fst) = true) :
    (s.setCoreReg c idx v).coreReg c idx = v := by
  have value : (BitVec.ofNat 64 v).toNat = v := by rw [BitVec.toNat_ofNat, Nat.mod_eq_of_lt hv]
  have stored : SMap.get 0 (SMap.set 0 s.mgmt (coreOff c idx) (BitVec.ofNat 64 v)) (coreOff c idx) = BitVec.ofNat 64 v := by
    obtain hne | rises := h0
    · have listed : BitVec.ofNat 64 v ≠ 0 := fun h => hne (by rw [← value, h]; rfl)
      rw [SMap.set, if_neg listed, SMap.get_put_same]
    · exact SMap.get_set_same 0 _ rises
  exact (congrArg BitVec.toNat stored).trans value

theorem bit_setFld_below {x lo n v k : Nat} (h : k < lo) : bit (setFld x lo n v) k = bit x k := by
  rw [bit_eq_testBit, bit_eq_testBit, testBit_setFld, if_neg (by omega)]

theorem ne_zero_of_bit {x k : Nat} (h : bit x k = true) : x ≠ 0 := by
  rintro rfl
  simp [bit] at h

/-! ## The timer (R350) -/

theorem State.soon_coreAt (s : State) (n : Nat) (e : Due) (c : Nat) : (s.soon n e).coreAt c = s.coreAt c := by
  unfold State.soon
  split <;> rfl

theorem State.soon_coreReg (s : State) (n : Nat) (e : Due) (c idx : Nat) : (s.soon n e).coreReg c idx = s.coreReg c idx := by
  unfold State.soon
  split <;> rfl

/-- The core after an expiry, before the period restarts. -/
def State.expired (s : State) (c : Nat) : State :=
  if (s.coreAt c).timer then
    s.setCoreReg c 0x22 (setFld (s.coreReg c 0x22) 48 16 (min (fld (s.coreReg c 0x22) 48 16 + 1) 0xFFFF))
  else s.updCore c fun k => { k with timer := true }

theorem execTimerExpiry_enabled (core : Fin 1024) (h : bit (s.coreReg core.val 0x22) 0 = true) : execTimerExpiry core s =
    .next ((s.expired core.val).soon ((s.expired core.val).timerPeriod core.val) (.timer core.val)) :=
  if_neg (by simp [h])

/-- The counter of lost expiries stays a field of an enabled TIMER. -/
theorem coreReg_setLost {c : Nat} (h : bit (s.coreReg c 0x22) 0 = true) (n : Nat) :
    (s.setCoreReg c 0x22 (setFld (s.coreReg c 0x22) 48 16 n)).coreReg c 0x22 = setFld (s.coreReg c 0x22) 48 16 n := by
  refine State.coreReg_setCoreReg (setFld_lt (s.coreReg_lt ..) (by decide)) (.inl (ne_zero_of_bit (k := 0) ?_))
  rw [bit_setFld_below (by decide), h]

theorem timer_expires (core : Fin 1024) (h : bit (s.coreReg core.val 0x22) 0 = true) :
    ∃ t, exec (.timerExpiry core) s = .next t ∧ (t.coreAt core.val).timer = true ∧
      fld (t.coreReg core.val 0x22) 48 16 = (if (s.coreAt core.val).timer then
        min (fld (s.coreReg core.val 0x22) 48 16 + 1) 0xFFFF else fld (s.coreReg core.val 0x22) 48 16) ∧
      fld (t.coreReg core.val 0x22) 0 48 = fld (s.coreReg core.val 0x22) 0 48 := by
  refine ⟨_, execTimerExpiry_enabled core h, ?_⟩
  rw [State.soon_coreAt, State.soon_coreReg, State.expired]
  by_cases pending : (s.coreAt core.val).timer
  · rw [if_pos pending, if_pos pending, coreReg_setLost h]
    have small : min (fld (s.coreReg core.val 0x22) 48 16 + 1) 0xFFFF % 2 ^ 16 =
        min (fld (s.coreReg core.val 0x22) 48 16 + 1) 0xFFFF :=
      Nat.mod_eq_of_lt (Nat.lt_of_le_of_lt (Nat.min_le_right ..) (by decide))
    exact ⟨(congrArg Core.timer (s.coreAt_setCoreReg ..)).trans pending, (fld_setFld_same ..).trans small,
      fld_setFld_other (.inl (by decide))⟩
  · rw [if_neg pending, if_neg pending]
    exact ⟨by rw [State.coreAt_updCore], rfl, rfl⟩

theorem State.trap_untrapped {c : Nat} {x : Fin 8} (hts : (s.ctxAt c x).ts = false) (hx : x ≠ 7) (cause val : Nat) :
    s.trap c x cause val = s.updCtx c x fun q => q.vectored cause val (s.trapInst c q.pc.toNat) none := by
  have goes : ((s.ctxAt c x).ts || (x == 7 && cause != cBREAK)) = false := by simp [hts, hx]
  rw [State.trap, goes]
  rfl

theorem takesTimer_untrapped {c : Nat} {x : Fin 8} (h : s.takesTimer c x = true) : (s.ctxAt c x).ts = false ∧ x ≠ 7 := by
  simp only [State.takesTimer, Bool.and_eq_true, bne_iff_ne, ne_eq, Bool.not_eq_true'] at h
  obtain ⟨⟨⟨⟨⟨⟨-, hx⟩, hts⟩, -⟩, -⟩, -⟩, -⟩ := h
  exact ⟨hts, hx⟩

theorem execTimerEntry_takes (core : Fin 1024) (x : Fin 8) (h : s.takesTimer core.val x = true) :
    execTimerEntry core x s = .next ((s.updCore core.val fun k => { k with timer := false }).updCtx core.val x fun q =>
      { q.vectored cTIMER 0 (s.trapInst core.val q.pc.toNat) none with
        pc := BitVec.ofNat 64 (4 * fld (s.coreReg core.val 0x22) 2 14) }) := by
  obtain ⟨hts, hx⟩ := takesTimer_untrapped h
  have off : ((s.updCore core.val fun k => { k with timer := false }).ctxAt core.val x).ts = false := by
    rwa [State.ctxAt_updCore_kept]
  rw [execTimerEntry]
  simp only [h, Bool.not_true, Bool.false_eq_true, if_false]
  rw [State.trap_untrapped off hx, State.updCtx_updCtx]
  rfl

theorem timer_enters (core : Fin 1024) (x : Fin 8) (h : s.takesTimer core.val x = true) :
    ∃ t, exec (.timerEntry core x) s = .next t ∧ (t.coreAt core.val).timer = false ∧
      let q := s.ctxAt core.val x
      let p := t.ctxAt core.val x
      p.trapcause = 0x10 ∧ p.trappc = q.pc ∧ p.trapval = 0 ∧ p.savedMode = q.mode ∧ p.mode = true ∧ p.ts = true ∧
      p.sv = false ∧ p.pc = BitVec.ofNat 64 (4 * fld (s.coreReg core.val 0x22) 2 14) ∧ p.w = q.w ∧ p.g = q.g := by
  refine ⟨_, execTimerEntry_takes core x h, ?_⟩
  rw [State.coreAt_updCtx, State.ctxAt_updCtx, State.ctxAt_updCore_kept, State.coreAt_updCore]
  exact ⟨rfl, rfl, rfl, rfl, rfl, rfl, rfl, rfl, rfl, rfl, rfl⟩

theorem timerEvents : Claims.TimerEvents :=
  ⟨fun _ core h => timer_expires core h, fun _ core x h => timer_enters core x h⟩

/-! ## Link flits and trace records (R107, R346) -/

theorem Core.link_setLink (k : Core) (dir : Nat) (l : Link) : (k.setLink dir l).link dir = l :=
  Vector.getElem_set_self ..

theorem flit_arrives (core : Fin 1024) (dir : Fin 4) {f : Flit} {fs : List Flit}
    (h : ((s.coreAt core.val).link dir.val).flying = f :: fs) :
    ∃ t, exec (.linkFlitArrival core dir) s = .next t ∧
      let l := (s.coreAt core.val).link dir.val
      (t.coreAt core.val).link dir.val = { l with buf := l.buf ++ [f], flying := fs } := by
  have arm : exec (.linkFlitArrival core dir) s = execLinkFlitArrival core dir s := rfl
  rw [arm, execLinkFlitArrival]
  simp only [h]
  exact ⟨_, rfl, by rw [State.coreAt_updCore, Core.link_setLink]⟩

theorem trStep_position (c : Nat) (rises : rising (s.mgmt.map Prod.fst) = true) :
    fld ((s.trStep c).coreReg c 0x2B) 0 40 = (fld (s.coreReg c 0x2B) 0 40 + 1) % 2 ^ 40 := by
  have small : (fld (s.coreReg c 0x2B) 0 40 + 1) % 2 ^ 40 < 2 ^ 40 := Nat.mod_lt _ (by decide)
  rw [State.trStep, State.coreReg_setCoreReg (by split <;> omega) (.inr rises)]
  unfold fld at small ⊢
  split <;> omega

/-- The state in which a record leaves the buffer, and rs stay there. -/
def State.recordTaken (s : State) (c : Nat) (rs : List TraceRec) : State :=
  let u := s.updCore c fun k => { k with tbuf := rs }
  if rs = [] then u else u.later 4 (.traceWrite c)

/-- A record that has left the buffer is written, or lost. -/
def State.recordOut (s : State) (c : Nat) (r : TraceRec) : State :=
  let n := s.trLen c
  let pos := fld (s.coreReg c 0x2B) 0 40
  let p := s.coreptr c 0x28
  if n == 0 || !p.tag || s.malformed p || s.trFull c then s.trLost c
  else if !bit (s.coreReg c 0x2A) 5 && n ≤ pos then (s.setCoreReg c 0x2B (pos + 2 ^ 40)).trLost c
  else (s.enginePut p 0 (32 * (pos % n)) (bytesOf 32 r.bits.toNat) (some true) (1 + c) r.own).trStep c

theorem execTraceRecordWrite_cons (core : Fin 1024) {r : TraceRec} {rs : List TraceRec}
    (h : (s.coreAt core.val).tbuf = r :: rs) :
    execTraceRecordWrite core s = .next (match r.own with
      | some (act, _) => ((s.recordTaken core.val rs).recordOut core.val r).wakeOps act
      | none => (s.recordTaken core.val rs).recordOut core.val r) := by
  rw [execTraceRecordWrite, h]
  cases rs <;> rfl

/-- The registers of the trace object stay as they are when a record leaves the buffer. -/
theorem recordTaken_kept (c : Nat) (rs : List TraceRec) : (s.recordTaken c rs).mgmt = s.mgmt ∧
    (s.recordTaken c rs).mtags = s.mtags ∧ (s.recordTaken c rs).dies = s.dies := by
  rw [State.recordTaken]
  split <;> exact ⟨rfl, rfl, rfl⟩

theorem recordTaken_coreReg (c c' idx : Nat) (rs : List TraceRec) : (s.recordTaken c rs).coreReg c' idx = s.coreReg c' idx := by
  rw [State.coreReg, (recordTaken_kept c rs).1, State.coreReg]

theorem recordTaken_coreptr (c c' idx : Nat) (rs : List TraceRec) : (s.recordTaken c rs).coreptr c' idx = s.coreptr c' idx := by
  obtain ⟨-, tags, -⟩ := recordTaken_kept (s := s) c rs
  rw [State.coreptr, recordTaken_coreReg, recordTaken_coreReg, tags, State.coreptr]

theorem recordTaken_malformed (c : Nat) (rs : List TraceRec) (p : PReg) : (s.recordTaken c rs).malformed p = s.malformed p := by
  obtain ⟨-, -, dies⟩ := recordTaken_kept (s := s) c rs
  rw [State.malformed, State.dieAt, dies, State.malformed, State.dieAt]

/-- The trace object is there, and has room for a record. -/
structure State.RecordFits (s : State) (c : Nat) : Prop where
  len : s.trLen c ≠ 0
  tag : (s.coreptr c 0x28).tag = true
  wellFormed : s.malformed (s.coreptr c 0x28) = false
  notFull : s.trFull c = false
  room : bit (s.coreReg c 0x2A) 5 = true ∨ fld (s.coreReg c 0x2B) 0 40 < s.trLen c

theorem recordOut_fits {c : Nat} (fits : s.RecordFits c) (r : TraceRec) :
    s.recordOut c r = (s.enginePut (s.coreptr c 0x28) 0 (32 * (fld (s.coreReg c 0x2B) 0 40 % s.trLen c))
      (bytesOf 32 r.bits.toNat) (some true) (1 + c) r.own).trStep c := by
  have there : (s.trLen c == 0 || !(s.coreptr c 0x28).tag || s.malformed (s.coreptr c 0x28) || s.trFull c) = false := by
    simp [fits.len, fits.tag, fits.wellFormed, fits.notFull]
  have room : (!bit (s.coreReg c 0x2A) 5 && decide (s.trLen c ≤ fld (s.coreReg c 0x2B) 0 40)) = false := by
    obtain hwrap | hpos := fits.room
    · simp [hwrap]
    · simp [hpos]
  rw [State.recordOut]
  simp only [there, room, Bool.false_eq_true, if_false]

theorem recordTaken_trLen (c c' : Nat) (rs : List TraceRec) : (s.recordTaken c rs).trLen c' = s.trLen c' := by
  rw [State.trLen, recordTaken_coreptr, State.trLen]

theorem recordTaken_trFull (c c' : Nat) (rs : List TraceRec) : (s.recordTaken c rs).trFull c' = s.trFull c' := by
  rw [State.trFull, recordTaken_coreReg, recordTaken_coreReg, State.trFull]

theorem recordTaken_fits {c : Nat} (fits : s.RecordFits c) (rs : List TraceRec) : (s.recordTaken c rs).RecordFits c where
  len := by rw [recordTaken_trLen]; exact fits.len
  tag := by rw [recordTaken_coreptr]; exact fits.tag
  wellFormed := by rw [recordTaken_coreptr, recordTaken_malformed]; exact fits.wellFormed
  notFull := by rw [recordTaken_trFull]; exact fits.notFull
  room := by rw [recordTaken_coreReg, recordTaken_coreReg, recordTaken_trLen]; exact fits.room

theorem traceRecord_writes (core : Fin 1024) {r : TraceRec} {rs : List TraceRec}
    (h : (s.coreAt core.val).tbuf = r :: rs) (fits : s.RecordFits core.val) :
    let t := ((s.recordTaken core.val rs).enginePut (s.coreptr core.val 0x28) 0
      (32 * (fld (s.coreReg core.val 0x2B) 0 40 % s.trLen core.val)) (bytesOf 32 r.bits.toNat) (some true) (1 + core.val)
      r.own).trStep core.val
    exec (.traceRecordWrite core) s = .next (match r.own with
      | some (act, _) => t.wakeOps act
      | none => t) := by
  have arm : exec (.traceRecordWrite core) s = execTraceRecordWrite core s := rfl
  rw [arm, execTraceRecordWrite_cons core h, recordOut_fits (recordTaken_fits fits rs), recordTaken_trLen,
    recordTaken_coreptr, recordTaken_coreReg]

/-! ## Core stops (R352, R353) -/

theorem managed_served {f : State → Out} (h : s.pkg.recovery = false) : managed f s = f s := by
  rw [managed, h]
  rfl

theorem core_stops (core : Fin 1024) (served : s.pkg.recovery = false) (h : (s.coreAt core.val).stopping = false) :
    ∃ t, exec (.coreStop core) s = .next t ∧ (t.coreAt core.val).stopping = true ∧
      (t.coreAt core.val).stopped = (s.coreAt core.val).stopped := by
  have arm : exec (.coreStop core) s = execCoreStop core s := rfl
  rw [arm, execCoreStop, managed_served served]
  simp only [h, Bool.false_eq_true, if_false]
  exact ⟨_, rfl, by rw [State.coreAt_later, State.coreAt_updCore], by rw [State.coreAt_later, State.coreAt_updCore]⟩

theorem later_each_coreAt {α : Type} (f : α → Due) (n c : Nat) (l : List α) :
    (l.foldl (fun s a => s.later n (f a)) s).coreAt c = s.coreAt c := by
  induction l generalizing s with
  | nil => rfl
  | cons a l ih => exact ih

theorem core_goes (core : Fin 1024) (served : s.pkg.recovery = false) (h : (s.coreAt core.val).stopping = true) :
    ∃ t, exec (.coreGo core) s = .next t ∧ (t.coreAt core.val).stopping = false ∧
      (t.coreAt core.val).stopped = false ∧ (t.coreAt core.val).heldPreempts = [] ∧
      ((s.coreAt core.val).stopCause.bph = true →
        (t.coreAt core.val).passBp = some (s.coreAt core.val).stopCause.bpi) := by
  have arm : exec (.coreGo core) s = execCoreGo core s := rfl
  rw [arm, execCoreGo, managed_served served]
  simp only [h, Bool.not_true, Bool.false_eq_true, if_false]
  refine ⟨_, rfl, ?_⟩
  rw [State.coreAt_later, later_each_coreAt, State.coreAt_updCore]
  exact ⟨rfl, rfl, rfl, fun held => if_pos held⟩

theorem trPut_stopped (c : Nat) (r : BitVec 256) (own : Option (Nat × Nat)) (c' : Nat) :
    ((s.trPut c r own).coreAt c').stopped = (s.coreAt c').stopped := by
  rw [State.trPut]
  have taken : ∀ f : Core → Core, (∀ k, (f k).stopped = k.stopped) →
      ((s.updCore c f).coreAt c').stopped = (s.coreAt c').stopped := by
    intro f kept
    by_cases same : c' = c
    · rw [same, State.coreAt_updCore, kept]
    · rw [State.coreAt_updCore_other (h := same)]
  split
  · rw [State.trLost, State.coreAt_setCoreReg]
  · dsimp only
    split
    · rw [State.coreAt_later]
      exact taken _ fun _ => rfl
    · exact taken _ fun _ => rfl

theorem allAtRest (c : Nat) (h : ∀ x : Fin 8, (s.ctxAt c x).atRest = true) : (s.coreAt c).ctxs.toList.all (·.atRest) = true := by
  rw [List.all_eq_true]
  intro q hq
  obtain ⟨i, hi, rfl⟩ := List.getElem_of_mem hq
  exact h ⟨i, by simpa using hi⟩

theorem stop_completes (core : Fin 1024) (asked : (s.coreAt core.val).stopping = true)
    (going : (s.coreAt core.val).stopped = false) (rest : ∀ x : Fin 8, (s.ctxAt core.val x).atRest = true) :
    ∃ t, exec (.stopComplete core) s = .next t ∧ (t.coreAt core.val).stopped = true := by
  have arm : exec (.stopComplete core) s = execStopComplete core s := rfl
  have stopped : (((s.tallyCore core.val).updCore core.val fun k => { k with stopped := true }).coreAt core.val).stopped = true := by
    rw [State.coreAt_updCore]
  rw [arm, execStopComplete]
  simp only [asked, going, allAtRest core.val rest, Bool.not_true, Bool.or_self, Bool.false_eq_true, if_false]
  split
  · exact ⟨_, rfl, stopped⟩
  · exact ⟨_, rfl, (trPut_stopped ..).trans stopped⟩

/-! ## Halting a die (R354) -/

/-- The counters come up to date: memory and what runs in each context stay. -/
def tallied : Rule where
  rel s t := t.mem = s.mem ∧ ∀ c x, (t.ctxAt c x).run = (s.ctxAt c x).run ∧ (t.ctxAt c x).pc = (s.ctxAt c x).pc ∧
    (t.ctxAt c x).w = (s.ctxAt c x).w ∧ (t.ctxAt c x).p = (s.ctxAt c x).p
  stops _ := True
  refl _ := ⟨rfl, fun _ _ => ⟨rfl, rfl, rfl, rfl⟩⟩
  trans := by
    rintro s t u ⟨hm, hc⟩ ⟨hm', hc'⟩
    refine ⟨hm'.trans hm, fun c x => ?_⟩
    obtain ⟨run, pc, w, p⟩ := hc c x
    obtain ⟨run', pc', w', p'⟩ := hc' c x
    exact ⟨run'.trans run, pc'.trans pc, w'.trans w, p'.trans p⟩

theorem tallied_of_cores (hm : t.mem = s.mem) (hc : t.cores = s.cores) : tallied.rel s t := by
  have same : ∀ c x, t.ctxAt c x = s.ctxAt c x := fun c x => by simp only [State.ctxAt, State.coreAt, hc]
  exact ⟨hm, fun c x => by rw [same]; exact ⟨rfl, rfl, rfl, rfl⟩⟩

theorem tallied_updCore (s : State) (c : Nat) {f : Core → Core} (h : ∀ k, (f k).ctxs = k.ctxs) :
    tallied.rel s (s.updCore c f) :=
  ⟨rfl, fun c' x => by rw [State.ctxAt_updCore_kept s c h]; exact ⟨rfl, rfl, rfl, rfl⟩⟩

theorem tallied_updCtx (s : State) (c : Nat) (x : Fin 8) {f : Ctx → Ctx}
    (h : ∀ q, (f q).run = q.run ∧ (f q).pc = q.pc ∧ (f q).w = q.w ∧ (f q).p = q.p) : tallied.rel s (s.updCtx c x f) := by
  refine ⟨rfl, fun c' x' => ?_⟩
  by_cases other : c' ≠ c ∨ x' ≠ x
  · rw [State.ctxAt_updCtx_other (h := other)]
    exact ⟨rfl, rfl, rfl, rfl⟩
  · obtain ⟨rfl, rfl⟩ : c' = c ∧ x' = x := by simpa using other
    rw [State.ctxAt_updCtx]
    exact h _

theorem tallied_tallyCore (s : State) (c : Nat) : tallied.rel s (s.tallyCore c) := by
  unfold State.tallyCore
  extract_lets u
  split
  · exact tallied.refl s
  · exact tallied.trans (t := u) (tallied_updCore s c fun _ => rfl) (tallied_of_cores rfl rfl)

theorem tallied_tallyCtx (s : State) (c : Nat) (x : Fin 8) : tallied.rel s (s.tallyCtx c x) := by
  unfold State.tallyCtx
  extract_lets u
  split
  · exact tallied.refl s
  · exact tallied.trans (t := u) (tallied_updCtx s c x fun _ => ⟨rfl, rfl, rfl, rfl⟩) (tallied_of_cores rfl rfl)

theorem tallied_cores (cores : List Nat) (s : State) :
    tallied.rel s (cores.foldl (fun s c => allCtx.foldl (fun s x => s.tallyCtx c x) (s.tallyCore c)) s) :=
  tallied.foldl (fun s c => tallied.trans (tallied_tallyCore s c)
    (tallied.foldl (fun s x => tallied_tallyCtx s c x) allCtx _)) cores s

theorem halted_of_dbg {d : Nat} (h : (s.dieAt d).dbg = 3) : s.halted d = true := by
  rw [State.halted, h]
  decide

theorem die_halts (die : Fin 4) (served : s.pkg.recovery = false) (h : bit (s.dieAt die.val).dbg.toNat 1 = false) :
    ∃ t, exec (.dieHalt die) s = .next t ∧ t.halted die.val = true ∧ t.mem = s.mem ∧ ∀ c x,
      (t.ctxAt c x).run = (s.ctxAt c x).run ∧ (t.ctxAt c x).pc = (s.ctxAt c x).pc ∧
      (t.ctxAt c x).w = (s.ctxAt c x).w ∧ (t.ctxAt c x).p = (s.ctxAt c x).p := by
  have arm : exec (.dieHalt die) s = execDieHalt die s := rfl
  have runs : s.halted die.val = false := h
  rw [arm, execDieHalt, managed_served served]
  simp only [runs, Bool.false_eq_true, if_false]
  exact ⟨_, rfl, halted_of_dbg (by rw [State.dieAt_updDie]), tallied_cores _ s⟩

/-- Timers that stood still are shifted: memory and the heap's requests stay. -/
def shifted : Rule where
  rel s t := t.mem = s.mem ∧ t.reqs = s.reqs
  stops _ := True
  refl _ := ⟨rfl, rfl⟩
  trans := by
    rintro s t u ⟨hm, hr⟩ ⟨hm', hr'⟩
    exact ⟨hm'.trans hm, hr'.trans hr⟩

theorem die_runs (die : Fin 4) (served : s.pkg.recovery = false) (h : bit (s.dieAt die.val).dbg.toNat 1 = true) :
    ∃ t, exec (.dieRun die) s = .next t ∧ (t.dieAt die.val).dbg = 0 ∧ t.mem = s.mem ∧ t.reqs = s.reqs := by
  have arm : exec (.dieRun die) s = execDieRun die s := rfl
  have stands : s.halted die.val = true := h
  rw [arm, execDieRun, managed_served served]
  simp only [stands, Bool.not_true, Bool.false_eq_true, if_false]
  refine ⟨_, rfl, by rw [State.dieAt_updDie], ?_⟩
  refine shifted.foldl (fun s e => shifted.foldl (fun s x => ?_) allCtx s) s.cores s
  split
  · exact shifted.refl s
  · exact ⟨rfl, rfl⟩

theorem stopsAndTrace : Claims.StopsAndTrace :=
  ⟨fun _ core dir _ _ h => flit_arrives core dir h,
    fun _ core _ _ h hn htag hok hfull hroom => traceRecord_writes core h ⟨hn, htag, hok, hfull, hroom⟩,
    fun _ c rises => trStep_position c rises,
    fun _ core served h => core_stops core served h,
    fun _ core asked going rest => stop_completes core asked going rest,
    fun _ core served h => core_goes core served h,
    fun _ die served h => die_halts die served h,
    fun _ die served h => die_runs die served h⟩

end Sys2Proof.Machine

open Sys2Proof Sys2Proof.Machine

/-- Settles O39. -/
theorem timerStopsAndTrace : Obligations.TimerStopsAndTrace :=
  ⟨timerEvents, stopsAndTrace⟩
end

section
/-! SUPPORT. The mask instructions (R30, R145), and O24. -/

namespace Sys2Proof.Machine

variable {s : State} {i : Instr} {md ma mb : Mk}

/-- A unit whose encoding is not legal raises ILLEGAL, whatever its work is (R45). -/
theorem unit_illegal {body : M Flow} (h : s.attempts) (hwf : i.wf = false) :
    unit i body s = .next (s.takeTrap cILLEGAL 0 none none) := by
  obtain ⟨h7, hq, ho, -⟩ := h
  have unspent : s.spent = false := by
    unfold State.spent
    by_cases hx : s.ctx = 7
    · simpa [hx, State.now] using h7 hx
    · simp [hx]
  have refused : (s.ctxAt s.core s.ctx).accepts i = false := by simp [Ctx.accepts, hwf]
  simp [unit, runUnit, dropSifts_same ho, hq, refused, unspent]

theorem State.wf_of_issues (h : s.issues i) : i.wf = true := by
  obtain ⟨-, ha, -⟩ := h
  simp only [Ctx.accepts, Bool.and_eq_true] at ha
  exact ha.1.1

theorem writeM_withMask (hc : s.codesClean s.core = true) (hd : maskDest md = true) (v : BitVec 16) :
    writeM md v s = .ok () (Claims.withMask s md v) := by
  have named : md ≠ 0 := by
    rintro rfl
    exact absurd hd (by decide)
  rw [writeM_clean hc, Claims.withMask]
  simp only [named, if_false]

theorem mask2_completes {f : BitVec 16 → BitVec 16 → BitVec 16} (h : s.issues i) (hd : i.wf = maskDest md) :
    mask2 i md ma mb f s = .next (s.finish i .seq
      (Claims.withMask s md (f (Claims.maskOf s ma) (Claims.maskOf s mb)))) := by
  have hc := State.clean_of_issues h
  refine unit_completes h ?_
  simp only [M.bind_run, readM_clean hc, writeM_withMask hc (hd.symm.trans (State.wf_of_issues h)), M.pure_run]

theorem maskScalar_completes {f : BitVec 16 → Nat} {d : Nat} (h : s.issues i) (hd : s.takes d) :
    maskScalar i d ma f s =
      .next (s.finish i .seq (s.putS { ds := [d] } d (BitVec.ofNat 64 (f (Claims.maskOf s ma))))) :=
  unitS_completes h (fun _ hc => absurd hc List.not_mem_nil) hd
    (by simp only [M.bind_run, readM_clean (State.clean_of_issues h), M.pure_run])

/-- The instructions of two masks are mask2 over their function. -/
theorem maskTwo_exec : ∀ e ∈ Claims.maskTwo md ma mb,
    e.1.wf = maskDest md ∧ ∀ s, exec e.1 s = mask2 e.1 md ma mb e.2 s := by
  simp only [Claims.maskTwo, List.forall_mem_cons, List.not_mem_nil, false_implies, implies_true, and_true]
  exact ⟨⟨rfl, exec_arm (execMand md ma mb)⟩, ⟨rfl, exec_arm (execMor md ma mb)⟩, rfl, exec_arm (execMxor md ma mb)⟩

theorem toNat_bne_zero (x : BitVec 16) : (x != 0).toNat = if x = 0 then 0 else 1 := by
  by_cases h : x = 0
  · rw [h]
    rfl
  · rw [if_neg h, bne_iff_ne.2 h, Bool.toNat_true]

theorem toNat_beq_allOnes (x : BitVec 16) : (x == 0xFFFF).toNat = if x = 0xFFFF then 1 else 0 := by
  by_cases h : x = 0xFFFF
  · rw [h]
    rfl
  · rw [if_neg h, beq_eq_false_iff_ne.2 h, Bool.toNat_false]

theorem countOnes_eq (x : BitVec 16) (n : Nat) : countOnes x n = ((List.range n).filter x.getLsbD).length := by
  induction n with
  | zero => rfl
  | succ n ih =>
    rw [countOnes, ih, List.range_succ, List.filter_append, List.length_append, Nat.add_comm]
    cases h : x.getLsbD n <;> simp [h]

/-- The instructions that write a scalar from a mask are maskScalar over their function. -/
theorem maskScalars_exec {d : Sc} : ∀ e ∈ Claims.maskScalars d ma,
    ∀ s, exec e.1 s = maskScalar e.1 d.val ma e.2 s := by
  simp only [Claims.maskScalars, List.forall_mem_cons, List.not_mem_nil, false_implies, implies_true, and_true,
    ← toNat_bne_zero, ← toNat_beq_allOnes, ← countOnes_eq]
  exact ⟨exec_arm (execMany d ma), exec_arm (execMall d ma), exec_arm (execMpop d ma), exec_arm (execMfirst d ma),
    exec_arm (execMto d ma)⟩

theorem mfrom_completes {a : Sc} {x : DWord} (h : s.issues (.mfrom md a)) (ha : s.gives a.val x) :
    exec (.mfrom md a) s = .next (s.finish (.mfrom md a) .seq
      (Claims.popped (Claims.withMask s md (x.setWidth 16)) [a.val])) := by
  have hc := State.clean_of_issues h
  refine unit_over_completes h (readyFor_one ha) ?_
  simp only [M.bind_run, readS_of_gives hc ha, writeM_withMask hc (State.wf_of_issues h), M.pure_run]

theorem mset_completes {imm : BitVec 16} (h : s.issues (.mset md imm)) :
    exec (.mset md imm) s = .next (s.finish (.mset md imm) .seq (Claims.withMask s md imm)) := by
  refine unit_completes h ?_
  simp only [M.bind_run, writeM_withMask (State.clean_of_issues h) (State.wf_of_issues h), M.pure_run]

/-- No mask instruction names m0 (R30). -/
theorem destination_m0_illegal {a : Sc} {imm : BitVec 16} (h : s.attempts) :
    ∀ i ∈ [Instr.mand 0 ma mb, .mor 0 ma mb, .mxor 0 ma mb, .mnot 0 ma, .mfrom 0 a, .mset 0 imm],
      exec i s = .next (s.takeTrap cILLEGAL 0 none none) := by
  simp only [List.forall_mem_cons, List.not_mem_nil, false_implies, implies_true, and_true]
  exact ⟨unit_illegal h rfl, unit_illegal h rfl, unit_illegal h rfl, unit_illegal h rfl, unit_illegal h rfl,
    unit_illegal h rfl⟩

end Sys2Proof.Machine

open Sys2Proof Sys2Proof.Machine

/-- Settles O24: each instruction reads its masks as they stand, and its encoding names no m0 as destination. -/
theorem maskResults : Obligations.MaskResults := by
  refine ⟨fun s md ma mb e he h => ?two, fun s md ma h => mask2_completes h rfl, fun s d ma e he h hd => ?scalar,
    fun s md a x h ha => mfrom_completes h ha, fun s md imm h => mset_completes h,
    fun s ma mb a imm i hi h => destination_m0_illegal h i hi⟩
  case two =>
    obtain ⟨hwf, run⟩ := maskTwo_exec e he
    exact (run s).trans (mask2_completes h hwf)
  case scalar => exact (maskScalars_exec e he s).trans (maskScalar_completes h hd)
end

section
/-! SUPPORT. What refutes O27: TileMovesComplete does not ask that memory lists its bytes in rising order (Memory.wf, which
O57 has of every state that the machine comes to). Where it does not, a store may uncover a byte of the header that stands
before the object. -/

namespace Sys2Proof.Machine

/-- A memory whose byte 0 is listed behind byte 16, and so is not found while that stands: the header at 0 reads as zeros,
live. With byte 0 it is the header of a footprint that has been forwarded to the heap, where no page is mapped. -/
def coveredHeader : Memory :=
  { bytes := [(16, 5), (0, 0x10)], starts := [0, heapBase 0 / 32], fwd := [(0, heapBase 0)] }

/-- A pointer to the 64 bytes behind the header, which can be read and written. -/
def behindHeader : PReg := mkPtr 16 0 0 3 0 64 0

/-- Context 0 of core 0 with that pointer in every pointer register, and no tensor map. -/
def storingMap : State :=
  { State.reset.updCore 0 fun k =>
      { k with ctxs := k.ctxs.set 0 { k.ctxs[0] with run := .live, p := .replicate 16 behindHeader } } with
    mem := coveredHeader }

/-- Whether some work answers. -/
def completesIn (m : M Unit) (s : State) : Bool :=
  match m s with
  | .ok _ _ => true
  | .error _ _ => false

theorem completesIn_of_answers {m : M Unit} {s t : State} (answers : m.answers s () t) : completesIn m s = true := by
  unfold completesIn
  rw [show m s = .ok () t from answers]

/-- The first word of the map, zero, takes byte 16 off the list; the store then follows the header that it finds. -/
theorem storingMap_stops : completesIn (storeWords 0 ((List.range 16).map fun i =>
    fld storingMap.now.tm[(0 : Tm)].toNat (32 * i) 32)) storingMap = false := by decide +kernel

theorem storingMap_own : Claims.ownObject storingMap 0 16 0 (Header.ofNat 0) := by decide +kernel

theorem storingMap_quiet : Claims.quiet storingMap :=
  ⟨fun _ _ => rfl, rfl, by decide +kernel, by decide +kernel, by decide +kernel⟩

/-- Refutes O27, in TileMovesComplete: TMGET of a map of zeros into that object does not complete, for the memory is not
Memory.wf; the claim asks for that in no hypothesis. -/
theorem not_tilesAndMaps : ¬ Obligations.TilesAndMaps := by
  unfold Obligations.TilesAndMaps Claims.TileMovesComplete
  rintro ⟨-, -, complete⟩
  obtain ⟨-, -, -, tmget, -⟩ := complete storingMap 0 0 0 16 0 (Header.ofNat 0) storingMap_own storingMap_quiet
  have issues : storingMap.issues (.tmget 0 0) := by decide +kernel
  have holds : Claims.holdsAll storingMap 0 16 0 := by decide +kernel
  obtain ⟨t, stores, -⟩ := tmget issues (by decide +kernel) holds (by decide)
  exact absurd (storingMap_stops.symm.trans (completesIn_of_answers stores)) Bool.false_ne_true

end Sys2Proof.Machine
end

section
/-! SUPPORT. Reads of an object in the issuing core's own pad, whose stores hold no error: at every offset in range they
find the bytes as they stand and leave the machine as it is (R167, R174, R175, R187, R233, R386). -/

namespace Sys2Proof.Machine

variable {α β : Type} {s t : State} {p : Pr} {k f o n al : Nat} {h : Header}

/-! ## Work that leaves the state as it was, for each member of a list -/

theorem mapM_answers {γ : Type} {g : γ → M β} {v : γ → β} {l : List γ} (hg : ∀ c ∈ l, g c s = .ok (v c) s) :
    l.mapM g s = .ok (l.map v) s := by
  induction l with
  | nil => rfl
  | cons a l ih =>
    simp only [List.mapM_cons, M.bind_run, hg a List.mem_cons_self, ih fun c hc => hg c (List.mem_cons_of_mem _ hc),
      M.pure_run, List.map_cons]

theorem filterM_none {γ : Type} {g : γ → M Bool} {l : List γ} (hg : ∀ c ∈ l, g c s = .ok false s) :
    l.filterM g s = .ok [] s := by
  have walk : ∀ l : List γ, (∀ c ∈ l, g c s = .ok false s) → List.filterAuxM g l [] s = .ok [] s := by
    intro l
    induction l with
    | nil => exact fun _ => rfl
    | cons a l ih =>
      intro hg
      simp only [List.filterAuxM, M.bind_run, hg a List.mem_cons_self, cond_false]
      exact ih fun c hc => hg c (List.mem_cons_of_mem _ hc)
  simp only [List.filterM, M.bind_run, walk l hg, M.pure_run, List.reverse_nil]

/-! ## Places and the granules of a range (R164) -/

theorem PReg.len_lt (q : PReg) : q.len < 2 ^ 40 := fld_lt ..

/-- All places that a pointer into a local store reaches lie in that store. -/
theorem spaceOf_key_add {q : PReg} (hl : q.lvl = 0) (part : Nat) (ho : o < 2 ^ 40) :
    spaceOf (q.key part + o) = spaceOf (q.key part) := by
  have low := fld_lt q.addr 0 20
  simp only [PReg.key, hl, spaceOf, localBase, spaceSize]
  omega

/-- The granules of a range that begins and ends in a space lie there. -/
theorem spaceOf_granule {g : Nat} (hg : g ∈ granules k n) (hlast : spaceOf (k + n - 1) = spaceOf k) :
    spaceOf g = spaceOf k := by
  unfold granules at hg
  split at hg
  · cases hg
  · next some_ =>
    have : n ≠ 0 := by simpa using some_
    obtain ⟨i, hi, rfl⟩ := List.mem_map.1 hg
    have := List.mem_range.1 hi
    simp only [spaceOf, spaceSize] at hlast ⊢
    omega

/-! ## Bytes -/

theorem quiet_readBytes (hq : Claims.quiet s) (hcore : s.core < 1024) (hk : spaceOf k = s.core)
    (hlast : spaceOf (k + n - 1) = s.core) (hn : n ≠ 0) (need : Nat) :
    readBytes k n need s = .ok (s.mem.read k n) s := by
  obtain ⟨sound, flips, -⟩ := hq
  rw [readBytes_plain (plain_of_local (by omega)) hn fun g hg =>
    sound g ((spaceOf_granule hg (hlast.trans hk.symm)).trans hk)]
  rw [meetLocal_clean (hk ▸ flips)]

/-- A pointer that grants what is needed passes the check of R167. -/
theorem checkPerm_grants (hc : s.codesClean s.core = true) (htag : s.now.p[p].tag = true)
    (hform : s.malformed s.now.p[p] = false) {needR needW : Bool} (hr : needR = true → s.now.p[p].r = true)
    (hw : needW = true → s.now.p[p].w = true) : checkPerm p needR needW s = .ok s.now.p[p] s := by
  have granted : (s.now.p[p].tag && !s.malformed s.now.p[p] && (!needR || s.now.p[p].r) &&
      (!needW || s.now.p[p].w)) = true := by
    simp only [htag, hform, Bool.not_false, Bool.true_and, Bool.and_eq_true, Bool.or_eq_true, Bool.not_eq_true']
    exact ⟨needR.eq_false_or_eq_true.symm.imp_right hr, needW.eq_false_or_eq_true.symm.imp_right hw⟩
  simp only [checkPerm, M.bind_run, preg_clean hc, M.get_run, M.require_true granted, M.pure_run]

section
variable (ho : Claims.ownObject s p k f h)
include ho

theorem own_space (hlt : o < 2 ^ 40) : spaceOf (k + o) = s.core := by
  obtain ⟨-, -, -, hl, rfl, hspace, -⟩ := ho
  rw [spaceOf_key_add hl _ hlt, hspace]

theorem own_plain_at (hlt : o < 2 ^ 40) : Plain (k + o) := by
  have space := own_space ho hlt
  obtain ⟨hcore, -⟩ := ho
  exact plain_of_local (by omega)

/-- An object at level 0 is not copied up, so that its place is reached where it is. -/
theorem own_reach_up (up : Bool) : reach p up s = .ok (k, false) s := by
  have hup := own_locateUp ho
  obtain ⟨-, -, -, hl, hk, -, -, -, hlive, -⟩ := ho
  have alive : (h.state == stDead) = false := by rw [hlive]; rfl
  have low : eligible s.now.p[p] h s = .ok false s := by
    simp only [eligible, M.bind_run, M.get_run, M.me_run, M.pure_run, hl,
      decide_eq_false (Nat.not_succ_le_zero 0), Bool.false_and]
  simp only [reach, M.bind_run, M.me_run, ← hk, hup, alive, bne_self_eq_false, Bool.false_eq_true, if_false]
  cases up
  · obtain ⟨b, hb⟩ := eligible_answers s s.now.p[p] h
    simp only [hb, Bool.false_and, Bool.false_eq_true, if_false, M.pure_run]
  · simp only [Bool.true_and, low, Bool.false_eq_true, if_false, M.pure_run]

theorem own_readBytes (hq : Claims.quiet s) (hn : n ≠ 0) (hlen : o + n ≤ s.now.p[p].len) (need : Nat) :
    readBytes (k + o) n need s = .ok (s.mem.read (k + o) n) s := by
  have bound := PReg.len_lt s.now.p[p]
  have first := own_space ho (o := o) (by omega)
  have last := own_space ho (o := o + n - 1) (by omega)
  obtain ⟨hcore, -⟩ := ho
  exact quiet_readBytes hq hcore first (by rw [← last]; congr 1; omega) hn need

theorem own_readNat (hq : Claims.quiet s) (hn : n ≠ 0) (hlen : o + n ≤ s.now.p[p].len) :
    readNat (k + o) n s = .ok (natOf (s.mem.read (k + o) n)) s := by
  simp only [readNat, M.bind_run, own_readBytes ho hq hn hlen, M.pure_run]

theorem own_inPlaceOf (hc : s.codesClean s.core = true) : inPlaceOf p s = .ok (k, false) s := by
  have hup := own_locateUp ho
  obtain ⟨-, -, -, -, hk, -, -, -, hlive, -⟩ := ho
  have alive : (h.state == stDead) = false := by rw [hlive]; rfl
  simp only [inPlaceOf, inPlace, M.bind_run, preg_clean hc, M.me_run, ← hk, hup, alive, M.pure_run, M.get_run,
    bne_self_eq_false, Bool.false_and, Bool.false_eq_true, if_false]

theorem own_remoteReply : remoteReply p s = .ok () s := by
  obtain ⟨-, -, -, -, hk, hspace, -⟩ := ho
  simp only [remoteReply, M.bind_run, M.get_run, M.me_run, ← hk, hspace, beq_self_eq_true, if_true, M.pure_run]

theorem own_deadObject : deadObject p s = .ok false s := by
  have hup := own_locateUp ho
  obtain ⟨-, -, -, -, hk, -, -, -, hlive, -⟩ := ho
  have alive : (h.state == stDead) = false := by rw [hlive]; rfl
  simp only [deadObject, M.bind_run, M.me_run, ← hk, hup, alive, M.pure_run]

theorem own_checkPerm (hc : s.codesClean s.core = true) {needR needW : Bool} (hr : needR = true → s.now.p[p].r = true)
    (hw : needW = true → s.now.p[p].w = true) : checkPerm p needR needW s = .ok s.now.p[p] s := by
  obtain ⟨-, htag, hform, -⟩ := ho
  exact checkPerm_grants hc htag hform hr hw

/-- An access in range reaches the object's bytes. -/
theorem own_access_at (hc : s.codesClean s.core = true) {needR needW : Bool} (hr : needR = true → s.now.p[p].r = true)
    (hw : needW = true → s.now.p[p].w = true) (hal : o % al = 0) (hlen : o + n ≤ s.now.p[p].len) :
    access p o n al needR needW true s = .ok (some (k + o)) s := by
  have hperm := own_checkPerm ho hc hr hw
  have hreach := own_reach_up ho true
  obtain ⟨-, -, -, -, -, -, -, -, -, -, -, hperf, -⟩ := ho
  simp only [access, M.bind_run, hperm, M.require_true (b := o % al == 0) (by simp [hal]), Nat.not_lt.2 hlen, if_false,
    hreach, Bool.false_eq_true, afterAmoOn_performed hperf, M.pure_run]

/-- Several accesses in range reach the object's bytes. -/
theorem own_accessEach (hc : s.codesClean s.core = true) (hr : s.now.p[p].r = true) {offs : List Nat} (hne : offs ≠ [])
    (hal : ∀ o ∈ offs, o % al = 0) (hlen : ∀ o ∈ offs, o + n ≤ s.now.p[p].len) :
    accessEach p n al offs true false true s = .ok (k, offs) s := by
  have hperm := own_checkPerm ho hc (needR := true) (needW := false) (fun _ => hr) (by simp)
  have hreach := own_reach_up ho true
  have hdead := own_deadObject ho
  obtain ⟨-, -, -, -, -, -, -, -, -, -, -, hperf, -⟩ := ho
  have aligned : offs.find? (fun o => o % al != 0) = none := by simpa using hal
  have inside : offs.any (fun o => decide (o + n ≤ s.now.p[p].len)) = true := by
    obtain ⟨o, os, rfl⟩ := List.exists_cons_of_ne_nil hne
    simpa using .inl (hlen o List.mem_cons_self)
  have found : offs.find? (fun o => false || decide (s.now.p[p].len < o + n)) = none := by
    simpa using fun o ho => hlen o ho
  have all : offs.filter (fun o => !false && decide (o + n ≤ s.now.p[p].len)) = offs := by
    simpa using fun o ho => hlen o ho
  obtain ⟨o, os, rfl⟩ := List.exists_cons_of_ne_nil hne
  simp only [accessEach, M.bind_run, hperm, aligned, M.pure_run, inside, if_true, hdead, found, all, hreach,
    forM_same fun o _ => afterAmoOn_performed hperf (k + o) n]

/-- The words that a unit loads from an object are its bytes (R158, R187). -/
theorem own_loadWords (hc : s.codesClean s.core = true) (hq : Claims.quiet s) (hr : s.now.p[p].r = true) (hn : n ≠ 0)
    (hlen : 4 * n ≤ s.now.p[p].len) : loadWords p n s =
      .ok ((List.range n).map fun i => natOf (s.mem.read (k + 4 * i) 4)) s := by
  have inside : ∀ i < n, 4 * i + 4 ≤ s.now.p[p].len := fun i hi => by omega
  have some_ : (List.range n).map (4 * ·) ≠ [] := by simpa using hn
  have each : accessEach p 4 4 ((upTo n).map (4 * ·)) true false true s = .ok (k, (List.range n).map (4 * ·)) s := by
    refine own_accessEach ho hc hr some_ ?_ ?_
    · simp [upTo]
    · simpa [upTo] using inside
  have words : (upTo n).mapM (fun i => if ((List.range n).map (4 * ·)).contains (4 * i)
      then atOff p (4 * i) (readNat (k + 4 * i) 4) else pure 0) s =
      .ok ((List.range n).map fun i => natOf (s.mem.read (k + 4 * i) 4)) s := by
    refine mapM_answers fun i hi => ?_
    have reached : ((List.range n).map (4 * ·)).contains (4 * i) = true := by
      simpa using List.mem_range.1 hi
    rw [if_pos reached]
    exact tryCatch_ok (own_readNat ho hq (by decide) (inside i (List.mem_range.1 hi)))
  refine tryCatch_ok ?_
  have full : (((List.range n).map (4 * ·)).isEmpty) = false := by simpa using hn
  simp only [M.bind_run, each, words, full, Bool.not_false, if_true, own_remoteReply ho, M.pure_run]

/-- The granule at offset o of an object, as a pointer (R191). -/
theorem own_granule (hc : s.codesClean s.core = true) (hq : Claims.quiet s) (hlen : o + 16 ≤ s.now.p[p].len) :
    blockPtr p o s = .ok (Claims.granuleAt s (k + o)) s := by
  have bound := PReg.len_lt s.now.p[p]
  have inside : ¬ s.now.p[p].len < o + 16 := by omega
  have granule : readGranule (k + o) s = .ok (Claims.granuleAt s (k + o)) s := by
    simp only [readGranule, M.bind_run, own_readBytes ho hq (n := 16) (by decide) hlen,
      phys_plain (own_plain_at ho (o := o) (by omega)), M.get_run, M.pure_run, Claims.granuleAt]
  simp only [blockPtr, M.bind_run, preg_clean hc, inside, if_false, own_inPlaceOf ho hc, tryCatch_ok granule, atOff]

end

end Sys2Proof.Machine
end

section
/-! SUPPORT. MCMD (R160), and O28. -/

namespace Sys2Proof.Machine

variable {s t : State} {p : Pr} {k f : Nat} {h : Header}

/-! ## Words and bytes (R150) -/

theorem bytesOf_word (a b c d : Byte) (n x : Nat) :
    bytesOf (4 + n) (natOf [a, b, c, d] % 2 ^ 32 + 2 ^ 32 * x) = a :: b :: c :: d :: bytesOf n x := by
  obtain ⟨ha, hb, hc, hd⟩ := And.intro a.isLt (And.intro b.isLt (And.intro c.isLt d.isLt))
  rw [show 4 + n = n + 1 + 1 + 1 + 1 by omega]
  simp only [bytesOf, natOf, List.cons.injEq]
  refine ⟨?_, ?_, ?_, ?_, ?_⟩
  · exact BitVec.eq_of_toNat_eq (by simp only [BitVec.toNat_ofNat]; omega)
  · exact BitVec.eq_of_toNat_eq (by simp only [BitVec.toNat_ofNat]; omega)
  · exact BitVec.eq_of_toNat_eq (by simp only [BitVec.toNat_ofNat]; omega)
  · exact BitVec.eq_of_toNat_eq (by simp only [BitVec.toNat_ofNat]; omega)
  · congr 1
    omega

/-- The words of some bytes, packed, are those bytes. -/
theorem bytesOf_packWords (m : Memory) (k n : Nat) :
    bytesOf (4 * n) (packWords ((List.range n).map fun i => natOf (m.read (k + 4 * i) 4))) = m.read k (4 * n) := by
  induction n generalizing k with
  | zero => rfl
  | succ n ih =>
    have tail : ((List.range n).map fun i => natOf (m.read (k + 4 * (i + 1)) 4)) =
        (List.range n).map fun i => natOf (m.read (k + 4 + 4 * i) 4) := by
      refine List.map_congr_left fun i _ => ?_
      rw [show k + 4 * (i + 1) = k + 4 + 4 * i by omega]
    rw [List.range_succ_eq_map, List.map_cons, List.map_map, packWords, show 4 * (n + 1) = 4 + 4 * n by omega]
    simp only [Function.comp_def, Nat.succ_eq_add_one, tail]
    refine (bytesOf_word ..).trans ?_
    rw [ih, show 4 + 4 * n = 4 * n + 1 + 1 + 1 + 1 by omega]
    rfl

/-! ## The repeat count (R160, R182) -/

/-- The words of a range that begins and ends in a space lie there. -/
theorem spaceOf_word {w n : Nat} (hw : w ∈ wordsOf k n) (hlast : spaceOf (k + n - 1) = spaceOf k) :
    spaceOf w = spaceOf k := by
  unfold wordsOf at hw
  split at hw
  · cases hw
  · next some_ =>
    have : n ≠ 0 := by simpa using some_
    obtain ⟨i, hi, rfl⟩ := List.mem_map.1 hw
    have := List.mem_range.1 hi
    simp only [spaceOf, spaceSize] at hlast ⊢
    omega

theorem wordsOf_word {n w : Nat} (hw : w ∈ wordsOf k n) : wordsOf w 4 = [w] := by
  unfold wordsOf at hw
  split at hw
  · cases hw
  · obtain ⟨i, -, rfl⟩ := List.mem_map.1 hw
    have one : ((k / 4 + i) * 4 + 4 - 1) / 4 - (k / 4 + i) * 4 / 4 + 1 = 1 := by omega
    simp only [wordsOf, one, upTo]
    simp

/-- A waiting load of a full word of an object is granted at once (R182). -/
theorem own_tryNeed (ho : Claims.ownObject s p k f h) (hq : Claims.quiet s) {o : Nat}
    (hlen : o + 4 ≤ s.now.p[p].len) (hfull : ∀ w ∈ wordsOf (k + o) 4, s.mem.isFull w = true) :
    tryNeed s.core s.ctx (.words .load p 4 [o] []) s = .ok (.ok [natOf (s.mem.read (k + o) 4)]) s := by
  have hup := own_locateUp ho
  have hread := own_readNat ho hq (n := 4) (by decide) hlen
  have bound := PReg.len_lt s.now.p[p]
  have full : ∀ w ∈ wordsOf (k + o) 4, allFull w 4 true aR s = .ok true s := by
    intro w hw
    have plain : Plain w := by
      have first := own_space ho (o := o) (by omega)
      have last := own_space ho (o := o + 3) (by omega)
      have space := spaceOf_word hw (by rw [first, ← last]; rfl)
      obtain ⟨hcore, -⟩ := ho
      exact plain_of_local (by omega)
    simp only [allFull, wordsOf_word hw, List.mapM_cons, List.mapM_nil, M.bind_run, phys_plain plain, M.pure_run,
      M.get_run, List.all_cons, hfull w hw, List.all_nil, beq_self_eq_true, Bool.and_true]
  have none_ : ((wordsOf (k + o) 4).filterM fun w => do pure (!(← allFull w 4 true aR)) : M (List Nat)) s = .ok [] s := by
    refine filterM_none fun w hw => ?_
    simp only [M.bind_run, full w hw, M.pure_run, Bool.not_true]
  obtain ⟨-, -, -, -, hk, -⟩ := ho
  have here : (s.ctxAt s.core s.ctx).p[p].key (s.ctxAt s.core s.ctx).part.toNat = k := hk.symm
  have single : [o].flatMap (fun o => wordsOf (k + o) 4) = wordsOf (k + o) 4 := by
    simp only [List.flatMap_cons, List.flatMap_nil, List.append_nil]
  have loads : (FeKind.load != FeKind.fill) = true ∧ (FeKind.load == FeKind.fill) = false ∧
      (FeKind.load == FeKind.consume) = false := ⟨rfl, rfl, rfl⟩
  obtain ⟨notFill, isFill, consumes⟩ := loads
  simp only [tryNeed, M.bind_run, M.get_run, here, hup, single, notFill, isFill, consumes, Bool.false_eq_true, if_false,
    none_, List.min?_nil, List.mapM_cons, List.mapM_nil, hread, M.pure_run]

/-! ## A store in the own pad (R165, R180, R187) -/

section
variable {m : Memory} {bs : List Byte} {n : Nat}

/-- A store changes the bytes as a write does, beside tags and poison. -/
theorem Memory.store_eq (m : Memory) (k : Nat) (bs : List Byte) :
    ∃ tags poison, m.store k bs = { m.write k bs with tags, poison } := by
  have walk : ∀ (gs : List Nat) (w : Memory), ∃ tags poison, gs.foldl (fun m g =>
      let m := m.setTag g false
      if k ≤ g && g + 16 ≤ k + bs.length then m.setPoison g false else m) w = { w with tags, poison } := by
    intro gs
    induction gs with
    | nil => exact fun w => ⟨w.tags, w.poison, rfl⟩
    | cons g gs ih =>
      intro w
      obtain ⟨tags, poison, hgs⟩ := ih (if k ≤ g && g + 16 ≤ k + bs.length then (w.setTag g false).setPoison g false
        else w.setTag g false)
      refine ⟨tags, poison, hgs.trans ?_⟩
      split <;> rfl
  exact walk _ _

theorem Memory.write_rest (m : Memory) (k : Nat) (bs : List Byte) :
    (m.write k bs).starts = m.starts ∧ (m.write k bs).poison = m.poison := by
  induction bs generalizing m k with
  | nil => exact ⟨rfl, rfl⟩
  | cons b bs ih => exact ih (m.setByte k b) (k + 1)

theorem Memory.store_starts : (m.store k bs).starts = m.starts := by
  obtain ⟨tags, poison, h⟩ := m.store_eq k bs
  rw [h]
  exact (m.write_rest k bs).1

theorem Memory.store_byte (a : Nat) : (m.store k bs).byte a = (m.write k bs).byte a := by
  obtain ⟨tags, poison, h⟩ := m.store_eq k bs
  rw [h]
  rfl

theorem Memory.read_congr {m' : Memory} (h : ∀ a, k ≤ a → a < k + n → m.byte a = m'.byte a) :
    m.read k n = m'.read k n := by
  induction n generalizing k with
  | zero => rfl
  | succ n ih =>
    rw [Memory.read, Memory.read, h k (by omega) (by omega), ih fun a ha hlt => h a (by omega) (by omega)]

theorem Memory.store_read (hwf : m.wf) : (m.store k bs).read k bs.length = bs :=
  (Memory.read_congr fun a _ _ => Memory.store_byte a).trans (Memory.read_write hwf)

/-- A store leaves the bytes beside it. -/
theorem Memory.store_read_before (hwf : m.wf) {f : Nat} (hle : f + n ≤ k) : (m.store k bs).read f n = m.read f n := by
  refine Memory.read_congr fun a _ hlt => ?_
  rw [Memory.store_byte, Memory.byte_write hwf, if_neg (by omega)]

/-- A store poisons nothing. -/
theorem Memory.store_sound (hwf : m.wf) {a : Nat} (hsound : m.isPoisoned a = false) :
    (m.store k bs).isPoisoned a = false := by
  have walk : ∀ (gs : List Nat) (w : Memory), w.wf → w.isPoisoned a = false → (gs.foldl (fun m g =>
      let m := m.setTag g false
      if k ≤ g && g + 16 ≤ k + bs.length then m.setPoison g false else m) w).isPoisoned a = false := by
    intro gs
    induction gs with
    | nil => exact fun w _ h => h
    | cons g gs ih =>
      intro w hw h
      refine ih _ ?_ ?_
      · simp only []
        split
        · exact Memory.wf_setPoison (Memory.wf_setTag hw)
        · exact Memory.wf_setTag hw
      · simp only []
        split
        · rw [Memory.isPoisoned_setPoison (Memory.wf_setTag hw)]
          split
          · rfl
          · exact h
        · exact h
  refine walk _ _ (Memory.wf_write hwf) ?_
  rw [Memory.isPoisoned, (m.write_rest k bs).2]
  exact hsound

/-- The words of a list are full. -/
def Memory.fillWords (m : Memory) (ws : List Nat) : Memory := ws.foldl (fun m w => m.setFull w true) m

theorem Memory.fillWords_eq (m : Memory) (ws : List Nat) : ∃ full, m.fillWords ws = { m with full } := by
  induction ws generalizing m with
  | nil => exact ⟨m.full, rfl⟩
  | cons w ws ih =>
    obtain ⟨full, h⟩ := ih (m.setFull w true)
    exact ⟨full, h⟩

theorem Memory.isFull_fillWords (hwf : m.wf) {ws : List Nat} {w : Nat} (h : w ∈ ws ∨ m.isFull w = true) :
    (m.fillWords ws).isFull w = true := by
  induction ws generalizing m with
  | nil => exact h.resolve_left List.not_mem_nil
  | cons v ws ih =>
    refine ih (Memory.wf_setFull hwf) ?_
    rw [Memory.isFull_setFull hwf]
    rcases h with h | h
    · rcases List.mem_cons.1 h with rfl | h
      · exact .inr (if_pos rfl)
      · exact .inl h
    · exact .inr (by split <;> [rfl; exact h])

end

/-- What follows a write changes no memory, and brings no error. -/
theorem State.touched_kept (s : State) (k n : Nat) : (s.touched k n).mem = s.mem ∧
    ∀ c, (s.coreAt c).flips = [] → ((s.touched k n).coreAt c).flips = [] := by
  have peers : (s.revalidated k n).mem = s.mem ∧ (s.revalidated k n).cores = s.cores := by
    unfold State.revalidated
    split
    · exact ⟨rfl, rfl⟩
    · exact ⟨rfl, rfl⟩
  obtain ⟨mem, cores⟩ := peers
  unfold State.touched
  generalize s.revalidated k n = u at mem cores
  simp only []
  split
  · exact ⟨mem, fun c h => by rwa [State.coreAt, cores]⟩
  · refine ⟨mem, fun c h => ?_⟩
    simp only [State.coreAt]
    refine SMap.get_map (P := fun q : Core => q.flips = []) ?_ ?_
    · exact fun _ hq => hq
    · rw [cores]
      exact h

/-- A write into a local store that has no error, and none to come, leaves what it stored alone (R235). -/
theorem wrote_quiet (hq : Claims.quiet s) (hcore : s.core < 1024) (hk : spaceOf k = s.core) (n : Nat)
    (g : Memory → Memory) : (s.updMem g).wrote k n = s.updMem g := by
  obtain ⟨-, flips, armed, -⟩ := hq
  have low : ¬ (1024 ≤ s.core) := by omega
  have words : codeWords k n =
      some (s.core, 0, 8, fun w => decide (w * 8 < locOf k + n) && decide (locOf k < w * 8 + 8)) := by
    simp only [codeWords, hk, low, decide_false, Bool.false_and, Bool.false_eq_true, if_false, hcore, if_true,
      Nat.mod_eq_of_lt hcore, beq_self_eq_true]
  have fresh : (s.updMem g).newWords k n = s.updMem g := by
    simp only [State.newWords, words]
    exact if_pos (by rw [show ((s.updMem g).coreAt s.core).flips = [] from flips]; rfl)
  simp only [State.wrote, fresh, words, show (s.updMem g).armed s.core 0 = none from armed]

theorem fillWords_run {ws : List Nat} (hp : ∀ w ∈ ws, Plain w) : (ws.forM fun w => do
    let p ← phys w aW
    modify fun s => s.updMem fun m => m.setFull p true : M Unit) s = .ok () (s.updMem (·.fillWords ws)) := by
  induction ws generalizing s with
  | nil => rfl
  | cons w ws ih =>
    have rest := ih (s := s.updMem fun m => m.setFull w true) fun v hv => hp v (List.mem_cons_of_mem _ hv)
    simp only [List.forM_eq_forM, List.forM_cons, M.bind_run, phys_plain (hp w List.mem_cons_self), M.modify_run] at rest ⊢
    exact rest

/-- A store into the body of an object, whose words it fills. -/
theorem own_storeBytes (ho : Claims.ownObject s p k f h) (hq : Claims.quiet s) (hwf : s.mem.wf)
    (hb : Claims.bodyAt h f k) {o : Nat} {bs : List Byte} (hlt : o + bs.length < 2 ^ 40) (hbs : bs ≠ [])
    (hfoot : s.mem.footOf (k + o) = some f) : ∃ t, storeBytes p o (k + o) bs (some true) s = .ok () t ∧
      t.mem = (s.mem.store (k + o) bs).fillWords (wordsOf (k + o) bs.length) := by
  have space := own_space ho (o := o) (by omega)
  have last := own_space ho (o := o + bs.length - 1) (by omega)
  have some_ : bs.length ≠ 0 := by simpa using hbs
  obtain ⟨hcore, -, -, -, -, hspace, hf, hh, hlive, ⟨hsound, hflips⟩, -⟩ := ho
  obtain ⟨hkind, hbelow⟩ := hb
  have plain : ∀ w ∈ wordsOf (k + o) bs.length, Plain w := fun w hw => plain_of_local <| by
    rw [spaceOf_word hw (by rw [space, ← last]; congr 1; omega), space]
    exact hcore
  have header_space : spaceOf f = s.core := (spaceOf_footOf hf).trans hspace
  obtain ⟨mem, flips⟩ := (s.updMem (·.store (k + o) bs)).touched_kept (k + o) bs.length
  let v := ((s.updMem (·.store (k + o) bs)).touched (k + o) bs.length).updMem (·.fillWords (wordsOf (k + o) bs.length))
  have vmem : v.mem = (s.mem.store (k + o) bs).fillWords (wordsOf (k + o) bs.length) :=
    congrArg (Memory.fillWords · _) mem
  obtain ⟨full, filled⟩ := (s.mem.store (k + o) bs).fillWords_eq (wordsOf (k + o) bs.length)
  have vfoot : v.mem.footOf (k + o) = some f := by
    rw [vmem, filled]
    exact (congrArg (fun starts => { s.mem with starts }.footOf (k + o)) Memory.store_starts).trans hfoot
  have vheader : v.headerAt f = h := by
    rw [hh, State.headerAt, vmem, filled]
    exact congrArg (Header.ofNat ∘ natOf)
      ((Memory.read_congr fun _ _ _ => rfl).trans (Memory.store_read_before (bs := bs) (n := 16) hwf (by omega)))
  have vsound : ∀ g ∈ granules f 16, v.mem.isPoisoned g = false := by
    intro g hg
    rw [vmem, filled]
    exact Memory.store_sound hwf (hsound g hg)
  have found := header_plain (s := v) (plain_of_local (by omega)) (header_space ▸ flips s.core hflips) vsound
  rw [vheader] at found
  have sameKind : (h.kind == 4) = false := by simpa using hkind
  refine ⟨v, ?_, vmem⟩
  simp only [storeBytes, posted, M.bind_run, M.get_run]
  refine tryCatch_ok ?_
  simp only [putBytes, M.bind_run, writeRaw_plain (plain_of_local (space ▸ hcore)) hbs,
    wrote_quiet hq hcore space, fillWords_run plain, bumpVersion, locate_live vfoot found hlive, v]
  rw [sameKind]
  rfl

/-! ## The command (R160) -/

variable {s1 s2 s3 s4 s5 u : State} {a : Sc} {v : DWord} {r : Nat} {vs ws : List Nat} {pa pb : PReg}

/-- What a waiting access is granted at once, its unit gets. -/
theorem waited_granted {need : Need} (hneed : tryNeed s.core s.ctx need s = .ok (.ok vs) t) :
    waited need s = .ok vs t.settled := by
  simp only [waited, M.bind_run, M.get_run, hneed, M.modify_run, M.pure_run]

/-- The repeat count of MCMD's block, which it waits for. -/
def repeatCount (p : Pr) : M Nat := atOff p 12 do
  match (← me).latch with
  | some vs => pure (vs.headD 0)
  | none =>
    match ← access p 12 4 4 true false with
    | none => pure 0
    | some _ => pure ((← waited (.words .load p 4 [12] [])).headD 0)

/-- What MCMD does with target, once it has read the block: a count of zero ends the command, any other sends it. -/
def commandWork (p : Pr) (target r : Nat) (ws : List Nat) (pa pb : PReg) : M Flow := do
  if r == 0 then
    match ← access p 8 4 4 false true with
    | none => pure ()
    | some k => atOff p 8 (storeBytes p 8 k (bytesOf 4 1) (some true))
    modify State.settled
  else
    let st ← get
    let x ← me
    let away := fld target 13 9 != st.pkg.pkgid.toNat || fld target 7 6 != coreClu st.core
    let dst := if away then st.core else fld target 3 10
    let blk := bytesOf 192 (packWords ws)
    let c : MCmd :=
      { blk, pa, pb, repeats := r, done := ← preg p, key := BitVec.ofNat 32 (leAt blk 4 4)
        core := st.core, ctx := st.ctx, actId := x.actId, part := x.part, away }
    modify fun s => s.request s.core s.ctx x.actId dst x.prio (.matrix c) (.mcmdAccept dst) 6
  pure .seq

theorem mcmd_exec (s : State) : exec (.mcmd a p) s = unit (.mcmd a p) (using_ { ss := [a.val] } do
    let _ ← checkPerm p true true
    let r ← repeatCount p
    let ws ← loadWords p 48
    let pa ← blockPtr p 16
    let pb ← blockPtr p 32
    commandWork p (← readS a.val).toNat r ws pa pb) s := rfl

theorem repeatCount_granted (hlatch : s.now.latch = none) (haccess : access p 12 4 4 true false true s = .ok (some k) s1)
    (hcount : tryNeed s1.core s1.ctx (.words .load p 4 [12] []) s1 = .ok (.ok (r :: vs)) s2) :
    repeatCount p s = .ok r s2.settled := by
  refine tryCatch_ok ?_
  simp only [M.bind_run, M.me_run, hlatch, haccess, waited_granted hcount, M.pure_run, List.headD_cons]

/-- MCMD completes as its work on what it has read does. -/
theorem mcmd_completes (hi : s.issues (.mcmd a p)) (hg : s.gives a.val v) (hg5 : s5.gives a.val v)
    (hc5 : s5.codesClean s5.core = true) (hperm : checkPerm p true true s = .ok s.now.p[p] s)
    (hcount : repeatCount p s = .ok r s2) (hblock : loadWords p 48 s2 = .ok ws s3)
    (ha : blockPtr p 16 s3 = .ok pa s4) (hb : blockPtr p 32 s4 = .ok pb s5)
    (hwork : commandWork p v.toNat r ws pa pb s5 = .ok .seq u) :
    exec (.mcmd a p) s = .next (s.finish (.mcmd a p) .seq (Claims.popped u [a.val])) := by
  refine (mcmd_exec s).trans (unit_over_completes hi (readyFor_one hg) ?_)
  simp only [M.bind_run, hperm, hcount, hblock, ha, hb, readS_of_gives hc5 hg5, hwork]

/-- A count of zero completes the command at once: its word at 8 becomes 1, and full. -/
theorem commandWork_ends {k8 target : Nat} (hend : access p 8 4 4 false true true s = .ok (some k8) t)
    (hstore : storeBytes p 8 k8 (bytesOf 4 1) (some true) t = .ok () u) :
    commandWork p target 0 ws pa pb s = .ok .seq u.settled := by
  have store : atOff p 8 (storeBytes p 8 k8 (bytesOf 4 1) (some true)) t = .ok () u := tryCatch_ok hstore
  simp only [commandWork, beq_self_eq_true, if_true, M.bind_run, hend, store, M.modify_run, M.pure_run]

/-- Any other count sends it. -/
theorem commandWork_sends (hc : s.codesClean s.core = true) (hr : r ≠ 0) : commandWork p v.toNat r ws pa pb s =
    .ok .seq (Claims.commanded s (Claims.command s v (bytesOf 192 (packWords ws)) pa pb s.now.p[p] r)) := by
  have some_ : (r == 0) = false := by simpa using hr
  simp only [commandWork, some_, Bool.false_eq_true, if_false, M.bind_run, M.get_run, M.me_run, preg_clean hc,
    M.modify_run, M.pure_run]
  rfl

end Sys2Proof.Machine

open Sys2Proof Sys2Proof.Machine

/-- Settles O28: MCMD reads its count and its block, and its work on them completes; of an object in the core's own pad
each read answers with the bytes. -/
theorem remoteCommands : Obligations.RemoteCommands := by
  refine ⟨fun s s1 s2 s3 s4 s5 a p k r vs ws pa pb v hi hlatch hg hg5 hc5 htag hform hr hw haccess hcount hblock ha hb =>
    ?wherever, fun s a p k f h v hi hlatch hg ho hq hr hw hlen hsettled hfull => ?own⟩
  case wherever =>
    have hc := State.clean_of_issues hi
    have completes := fun u => mcmd_completes (u := u) hi hg hg5 hc5
      (checkPerm_grants hc htag hform (fun _ => hr) fun _ => hw) (repeatCount_granted hlatch haccess hcount) hblock ha hb
    refine ⟨fun k8 s6 s7 hzero hend hstore => ?_, fun hsome => ?_⟩
    · subst hzero
      exact completes _ (commandWork_ends hend hstore)
    · exact completes _ (commandWork_sends hc5 hsome)
  case own =>
    have hc := State.clean_of_issues hi
    have reached := own_access_at ho hc (o := 12) (n := 4) (al := 4) (needR := true) (needW := false) (fun _ => hr)
      (by simp) rfl (by omega)
    have count := repeatCount_granted hlatch reached (own_tryNeed ho hq (by omega) hfull)
    rw [hsettled] at count
    have block := own_loadWords ho hc hq hr (n := 48) (by decide) hlen
    have completes := fun u => mcmd_completes (u := u) hi hg hg hc (own_checkPerm ho hc (fun _ => hr) fun _ => hw) count
      block (own_granule ho hc hq (o := 16) (by omega)) (own_granule ho hc hq (o := 32) (by omega))
    refine ⟨fun hsome => ?_, fun hzero hwf hbody hfoot => ?_⟩
    · have sent := completes _ (commandWork_sends hc hsome)
      rwa [bytesOf_packWords s.mem k 48] at sent
    · obtain ⟨t, hstore, hmem⟩ :=
        own_storeBytes ho hq hwf hbody (o := 8) (bs := bytesOf 4 1) (by decide) (by decide) hfoot
      have reached := own_access_at ho hc (o := 8) (n := 4) (al := 4) (needR := false) (needW := true) (by simp)
        (fun _ => hw) rfl (by omega)
      rw [hzero] at completes
      refine ⟨t, completes _ (commandWork_ends reached hstore), ?_, ?_⟩
      · obtain ⟨full, filled⟩ := (s.mem.store (k + 8) (bytesOf 4 1)).fillWords_eq (wordsOf (k + 8) 4)
        rw [hmem, show (bytesOf 4 1).length = 4 from rfl, filled]
        exact (Memory.read_congr fun _ _ _ => rfl).trans (Memory.store_read (k := k + 8) (bs := bytesOf 4 1) hwf)
      · intro w hword
        rw [hmem]
        exact Memory.isFull_fillWords (Memory.wf_store hwf) (.inl hword)
end

section
/-! SUPPORT. What becoming the owner of tiles leaves as it was (R147): all but the tiles of the issuing core. -/

namespace Sys2Proof.Machine

variable {s t : State} {p : Pr} {k f : Nat} {h : Header}

/-! ## Lists over the cores -/

/-- A list gathered from all cores does not change where a core's part of it does not. -/
theorem SMap.flatMap_put {α β : Type} {g : α → List β} {d : α} (hd : g d = []) (m : SMap α) {k : Nat} {x : α}
    (hx : g x = g (SMap.get d m k)) : (SMap.put m k x).flatMap (fun e => g e.2) = m.flatMap fun e => g e.2 := by
  induction m with
  | nil => simpa [SMap.put, SMap.get, hd] using hx
  | cons e m ih =>
    obtain ⟨j, y⟩ := e
    simp only [SMap.put, SMap.get] at hx ⊢
    by_cases hj : (j == k) = true
    · rw [if_pos hj] at hx ⊢
      simp only [List.flatMap_cons, hx]
    · rw [if_neg hj] at hx ⊢
      by_cases hlt : k < j
      · rw [if_pos hlt] at hx ⊢
        simp only [List.flatMap_cons, hx, hd, List.nil_append]
      · rw [if_neg hlt] at hx ⊢
        simp only [List.flatMap_cons, ih hx]

theorem State.opsOut_updCore (s : State) (c : Nat) {f : Core → Core} (hf : ∀ k, (f k).handler = k.handler)
    (act : Nat) : (s.updCore c f).opsOut act = s.opsOut act := by
  let own := fun k : Core => k.handler.filterMap fun h => if h.actId == act then some (h.id, h.op, h.rel) else none
  have kept : own (f (s.coreAt c)) = own (s.coreAt c) := by simp only [own, hf]
  exact congrArg (_ ++ ·) (SMap.flatMap_put (g := own) (d := {}) rfl s.cores kept)

theorem State.tracesOut_updCore (s : State) (c : Nat) {f : Core → Core} (hf : ∀ k, (f k).tbuf = k.tbuf) (act : Nat) :
    (s.updCore c f).tracesOut act = s.tracesOut act := by
  let own := fun k : Core => k.tbuf.map TraceRec.own
  have kept : own (f (s.coreAt c)) = own (s.coreAt c) := by simp only [own, hf]
  exact congrArg (fun l => (l ++ s.posts.map Post.own).filterMap fun o =>
    if ownRecord act o then o.map Prod.snd else none) (SMap.flatMap_put (g := own) (d := {}) rfl s.cores kept)

/-! ## Other tiles -/

/-- s with other tiles in the issuing core. -/
def State.withTiles (s : State) (g : Core → Vector Tile 4) : State := s.updCore s.core fun k => { k with tiles := g k }

variable (g : Core → Vector Tile 4)

theorem State.nowCore_withTiles (s : State) : (s.withTiles g).nowCore = { s.nowCore with tiles := g s.nowCore } :=
  s.nowCore_updCore _

theorem State.now_withTiles (s : State) : (s.withTiles g).now = s.now := by
  show (s.withTiles g).nowCore.ctxs[s.ctx] = s.nowCore.ctxs[s.ctx]
  rw [State.nowCore_withTiles]

theorem State.flips_withTiles (s : State) : (s.withTiles g).nowCore.flips = s.nowCore.flips := by
  rw [State.nowCore_withTiles]

theorem State.codesKept_withTiles (s : State) : s.CodesKept (s.withTiles g) := by
  refine ⟨rfl, fun c => ?_⟩
  by_cases hc : c = s.core
  · subst hc
    exact s.flips_withTiles g
  · exact congrArg Core.flips (s.coreAt_updCore_other _ hc)

theorem State.opsOut_withTiles (s : State) (act : Nat) : (s.withTiles g).opsOut act = s.opsOut act := by
  refine s.opsOut_updCore s.core (fun k => ?_) act
  rfl

theorem State.tracesOut_withTiles (s : State) (act : Nat) : (s.withTiles g).tracesOut act = s.tracesOut act := by
  refine s.tracesOut_updCore s.core (fun k => ?_) act
  rfl

theorem performed_withTiles (hp : s.performed) : (s.withTiles g).performed := by
  rw [State.performed, State.now_withTiles, State.amosOut, State.amos, State.opsOut_withTiles,
    State.tracesOut_withTiles]
  exact hp

theorem released_withTiles (hr : s.released) : (s.withTiles g).released := by
  rw [State.released, State.now_withTiles, State.relsOut, State.opsOut_withTiles]
  exact hr

theorem own_withTiles (ho : Claims.ownObject s p k f h) : Claims.ownObject (s.withTiles g) p k f h := by
  obtain ⟨hcore, htag, hform, hl, hk, hspace, hfoot, hh, hlive, ⟨hsound, hflips⟩, hdie, hperf, hrel⟩ := ho
  have clean : Claims.clean (s.withTiles g) f 16 := ⟨hsound, (s.flips_withTiles g).trans hflips⟩
  have perf := performed_withTiles g hperf
  have rel := released_withTiles g hrel
  rw [Claims.ownObject]
  simp only [State.now_withTiles g s]
  exact ⟨hcore, htag, hform, hl, hk, hspace, hfoot, hh, hlive, clean, hdie, perf, rel⟩

theorem quiet_withTiles (hq : Claims.quiet s) : Claims.quiet (s.withTiles g) := by
  obtain ⟨hsound, hflips, hstore, htile, hrange⟩ := hq
  exact ⟨hsound, (s.flips_withTiles g).trans hflips, hstore, htile,
    (congrArg Ctx.rangectl (s.now_withTiles g)).trans hrange⟩

/-! ## Taking tiles (R147) -/

/-- Some tiles of a core become those of context x. -/
def Core.giveTiles (k : Core) (x : Fin 8) (ns : List Nat) : Core :=
  ns.foldl (fun k n => k.setTile n { k.tile n with owner := some x }) k

theorem Core.giveTiles_eq (k : Core) (x : Fin 8) (ns : List Nat) :
    k.giveTiles x ns = { k with tiles := (k.giveTiles x ns).tiles } := by
  induction ns generalizing k with
  | nil => rfl
  | cons n ns ih => exact ih (k.setTile n { k.tile n with owner := some x })

theorem State.updCore_updCore (s : State) (c : Nat) (f f' : Core → Core) :
    (s.updCore c f).updCore c f' = s.updCore c fun k => f' (f k) := by
  show (s.setCore c _).setCore c (f' ((s.updCore c f).coreAt c)) = _
  rw [s.coreAt_updCore c f, s.setCore_setCore]
  rfl

theorem giveTiles_run (x : Fin 8) (ns : List Nat) (f : Core → Core) :
    (ns.forM fun n => modTile n fun t => { t with owner := some x } : M Unit) (s.updCore s.core f) =
      .ok () (s.updCore s.core fun k => (f k).giveTiles x ns) := by
  induction ns generalizing f with
  | nil => rfl
  | cons n ns ih =>
    have first : modTile n (fun t => { t with owner := some x }) (s.updCore s.core f) =
        .ok () (s.updCore s.core fun k => (f k).giveTiles x [n]) :=
      congrArg (EStateM.Result.ok ()) (s.updCore_updCore s.core f fun k => k.giveTiles x [n])
    have rest := ih fun k => (f k).giveTiles x [n]
    simp only [List.forM_eq_forM, List.forM_cons, M.bind_run, first] at rest ⊢
    exact rest

/-- Tiles that are free or its own become the issuing context's. -/
theorem takeTiles_takes (n : Nat) (ns : List Nat) (hfree : Claims.tilesFree s (n :: ns)) :
    takeTiles (n :: ns) s = .ok () (s.withTiles fun k => (k.giveTiles s.ctx (n :: ns)).tiles) := by
  simp only [takeTiles, M.bind_run, M.get_run]
  rw [if_neg]
  case hnc =>
    simp only [List.any_eq_true, not_exists, not_and]
    intro m hm
    rcases hfree m hm with h | h <;> rw [State.nowCore] at h <;> simp [h]
  have first : modTile n (fun t => { t with owner := some s.ctx }) s =
      .ok () (s.updCore s.core fun k => k.giveTiles s.ctx [n]) := rfl
  have rest := giveTiles_run (s := s) s.ctx ns fun k => k.giveTiles s.ctx [n]
  have whole : (s.updCore s.core fun k => (k.giveTiles s.ctx [n]).giveTiles s.ctx ns) =
      s.withTiles fun k => (k.giveTiles s.ctx (n :: ns)).tiles :=
    congrArg (s.updCore s.core) (funext fun k => k.giveTiles_eq s.ctx (n :: ns))
  rw [whole] at rest
  simp only [List.forM_eq_forM, List.forM_cons, M.bind_run, first] at rest ⊢
  exact rest

/-- A tile of another context makes it wait. -/
theorem takeTiles_waits {ns : List Nat} (hheld : ¬ Claims.tilesFree s ns) :
    takeTiles ns s = .error (.wait sMATRIX) s := by
  simp only [takeTiles, M.bind_run, M.get_run]
  rw [if_pos]
  · rfl
  simp only [Claims.tilesFree, not_forall, not_or] at hheld
  obtain ⟨n, hn, hsome, hother⟩ := hheld
  obtain ⟨x, hx⟩ := Option.ne_none_iff_exists'.1 hsome
  rw [State.nowCore] at hx hother
  have other : x ≠ s.ctx := fun h => hother (by rw [hx, h])
  exact List.any_eq_true.2 ⟨n, hn, by simpa [hx] using other⟩

end Sys2Proof.Machine
end

section
/-! SUPPORT. The elements of an operand in memory (R151, R152), for any class of work that its reads belong to; and for an
object in the core's own pad, work that answers and leaves the core without an error. -/

namespace Sys2Proof.Machine

variable {α β : Type} {s t : State} {c : Nat}

/-! ## The reads of an operand's elements -/

/-- A class of work that contains what answers alone, and what is made of its members. -/
structure WorkClass (W : (α : Type) → M α → Prop) : Prop where
  pure : ∀ {α : Type} (v : α), W α (pure v)
  bind : ∀ {α β : Type} {m : M α} {w : α → M β}, W α m → (∀ v, W β (w v)) → W β (m >>= w)
  atOff : ∀ {α : Type} {m : M α} (r : Fin 16) (off : Nat), W α m → W α (atOff r off m)

section
variable {W : (α : Type) → M α → Prop} {src : Option Nat} {o : Operand}

theorem WorkClass.mapM (hW : WorkClass W) {γ : Type} {g : γ → M β} {l : List γ} (hg : ∀ x ∈ l, W β (g x)) :
    W (List β) (l.mapM g) := by
  induction l with
  | nil => exact hW.pure _
  | cons x l ih =>
    rw [List.mapM_cons]
    exact hW.bind (hg x List.mem_cons_self) fun _ =>
      hW.bind (ih fun y hy => hg y (List.mem_cons_of_mem _ hy)) fun _ => hW.pure _

/-- The reads of what an operand's pointer reaches, and the records of what lies beyond, belong to a class of work. -/
structure Operand.ReadsBy (o : Operand) (src : Option Nat) (W : (α : Type) → M α → Prop) : Prop extends WorkClass W where
  read : ∀ off n, off + n ≤ o.ptr.len → W Nat (readNat (o.at_ + off) n)
  record : ∀ k ∈ src, ∀ off, W Unit (recordRange o.reg off false k)

variable (hW : o.ReadsBy src W)
include hW

/-- What is out of range is recorded for a unit, and reads zero (R152). -/
theorem Operand.ReadsBy.beyond (off : Nat) (v : α) : W α (do
    match src with
    | some k => recordRange o.reg off false k
    | none => Pure.pure ()
    Pure.pure v) := by
  cases src with
  | none => exact hW.bind (hW.pure ()) fun _ => hW.pure v
  | some k => exact hW.bind (hW.record k rfl off) fun _ => hW.pure v

theorem Operand.ReadsBy.elemCode (esz : Nat) (e : Int) : W (Option Nat) (elemCode o src esz e) := by
  unfold Machine.elemCode
  simp only []
  split
  · exact hW.beyond _ none
  · next inside =>
    simp only [Bool.or_eq_true, decide_eq_true_eq, not_or, Nat.not_lt] at inside
    exact hW.bind (hW.atOff _ _ (hW.read _ _ inside.2)) fun _ => hW.pure _

theorem Operand.ReadsBy.blockScale (e : Int) : W Nat (blockScale o src e) := by
  unfold Machine.blockScale
  split
  · exact hW.pure _
  · simp only []
    split
    · exact hW.beyond _ 0
    · next inside =>
      simp only [Bool.or_eq_true, decide_eq_true_eq, not_or, Nat.not_lt] at inside
      exact hW.atOff _ _ (hW.read _ _ inside.2)

theorem Operand.ReadsBy.elemVal (e : Int) (flips : Nat) : W FVal (elemVal o src e flips) := by
  unfold Machine.elemVal
  refine hW.bind (hW.elemCode _ _) fun code => ?_
  cases code with
  | none => exact hW.pure _
  | some x =>
    simp only []
    split
    · exact hW.bind (hW.blockScale _) fun _ => hW.pure _
    · split
      · exact hW.pure _
      · exact hW.pure _

theorem Operand.ReadsBy.elemAt (i0 i1 : Nat) : W FVal (elemAt o src i0 i1) := by
  unfold Machine.elemAt
  split
  · exact hW.pure _
  · exact hW.elemVal _ _

theorem Operand.ReadsBy.readA (first : Nat) : W (List (List FVal)) (readA o src first) :=
  hW.mapM fun _ _ => hW.mapM fun _ _ => hW.elemAt _ _

theorem Operand.ReadsBy.readB (len first : Nat) : W (List (List FVal)) (readB o src len first) :=
  hW.bind (hW.mapM fun _ _ => hW.mapM fun _ _ => hW.elemAt _ _) fun _ => hW.pure _

end

/-! ## Work on a quiet core -/

/-- Work that answers on every quiet state of core c, and leaves one. -/
def QuietWork (c : Nat) (α : Type) (m : M α) : Prop :=
  ∀ s : State, s.core = c → Claims.quiet s → ∃ v t, m s = .ok v t ∧ t.core = c ∧ Claims.quiet t

theorem quietWork_class : WorkClass (QuietWork c) where
  pure v s hc hq := ⟨v, s, rfl, hc, hq⟩
  bind hm hw s hc hq := by
    obtain ⟨v, t, run, ht, htq⟩ := hm s hc hq
    obtain ⟨v', u, run', hu, huq⟩ := hw v t ht htq
    exact ⟨v', u, (M.bind_ok run).trans run', hu, huq⟩
  atOff r off hm s hc hq := by
    obtain ⟨v, t, run, ht⟩ := hm s hc hq
    exact ⟨v, t, tryCatch_ok run, ht⟩

/-- A change of the issuing context alone, but for RANGECTL. -/
theorem quietWork_modMe {f : Ctx → Ctx} (hf : ∀ q, (f q).rangectl = q.rangectl) : QuietWork c Unit (modMe f) := by
  intro s hc ⟨hsound, hflips, hstore, htile, hrange⟩
  refine ⟨(), s.updCtx s.core s.ctx f, rfl, hc, hsound, ?_, hstore, htile, ?_⟩
  · rw [State.nowCore_updCtx]
    exact hflips
  · rw [s.now_updCtx, hf]
    exact hrange

/-- What is out of range is recorded, and where RANGECTL does not ask for it raises nothing (R167). -/
theorem quietWork_recordRange (r : Fin 16) (off : Nat) (write : Bool) (src : Nat) :
    QuietWork c Unit (recordRange r off write src) := by
  intro s hc hq
  obtain ⟨_, t, run, ht, htq⟩ := quietWork_modMe (c := c)
    (f := fun x => { x with rangeflag := s.now.rangeNoted r off write src }) (fun _ => rfl) s hc hq
  obtain ⟨-, -, -, -, hrange⟩ := hq
  refine ⟨(), t, ?_, ht, htq⟩
  simp only [recordRange, M.bind_run, M.me_run, hrange, Bool.false_eq_true, if_false, M.pure_run]
  rw [run]

/-- Bytes of the core's own store are read. -/
theorem quietWork_readNat {k n : Nat} (hcore : c < 1024)
    (hspace : n ≠ 0 → spaceOf k = c ∧ spaceOf (k + n - 1) = c) : QuietWork c Nat (readNat k n) := by
  intro s hc hq
  by_cases hn : n = 0
  · subst hn
    exact ⟨0, s, rfl, hc, hq⟩
  · obtain ⟨first, last⟩ := hspace hn
    subst hc
    have run : readNat k n s = .ok (natOf (s.mem.read k n)) s := by
      simp only [readNat, M.bind_run, quiet_readBytes hq hcore first last hn, M.pure_run]
    exact ⟨_, s, run, rfl, hq⟩

/-! ## Operands of an object in the own pad -/

variable {p : Pr} {k f : Nat} {h : Header}

theorem own_readsBy (ho : Claims.ownObject s p k f h) {o : Operand} (hptr : o.ptr = s.now.p[p]) (hat : o.at_ = k)
    (src : Option Nat) : o.ReadsBy src (QuietWork s.core) where
  toWorkClass := quietWork_class
  record _ _ _ := quietWork_recordRange _ _ _ _
  read off n hlen := by
    have bound := PReg.len_lt s.now.p[p]
    rw [hptr] at hlen
    rw [hat]
    refine quietWork_readNat (by obtain ⟨hcore, -⟩ := ho; exact hcore) fun hn => ⟨own_space ho (by omega), ?_⟩
    rw [show k + off + n - 1 = k + (off + n - 1) by omega]
    exact own_space ho (by omega)

theorem own_openOperand (ho : Claims.ownObject s p k f h) (hc : s.codesClean s.core = true) (map : V512) (ty : Nat) :
    openOperand p map ty s = .ok { reg := p, ptr := s.now.p[p], at_ := k, dead := false, map, pane := Claims.paneFor s p
                                   fmt := paneFmt (Claims.paneFor s p) ty } s := by
  have place := own_inPlaceOf ho hc
  obtain ⟨-, -, -, -, -, -, -, -, -, -, -, hperf, -⟩ := ho
  simp only [openOperand, openWith, paneOf, M.bind_run, preg_clean hc, M.myCore_run, M.pure_run,
    afterAmos_performed hperf, place]
  rfl

end Sys2Proof.Machine
end

section
/-! SUPPORT. MMA, MMAZ and MCKS (R151-R154), and O25. -/

namespace Sys2Proof.Machine

variable {s t u : State} {i : Instr} {c : Tl} {pa pb : Pr} {tma tmb : Tm} {ty : Nat} {f64 cks zero : Bool}
  {g : Core → Vector Tile 4}

/-! ## What a multiply reads of its operands -/

theorem discard_ok {α : Type} {m : M α} {v : α} (hm : m s = .ok v t) : discard m s = .ok () t := by
  show (Functor.map (fun _ => ()) m) s = _
  rw [M.map_run, hm]

theorem readMap_clean (hc : s.codesClean s.core = true) (tm : Tm) : readMap tm s = .ok s.now.tm[tm] s := by
  simp only [readMap, M.bind_run, M.get_run, consume_clean hc, M.me_run, M.pure_run]

theorem paneOf_run (p : Pr) : paneOf s.now.p[p] s = .ok (Claims.paneFor s p) s := rfl

theorem isF64_run (hc : s.codesClean s.core = true) : isF64 pa pb ty s = .ok (Claims.double s pa pb ty) s := by
  simp only [isF64, M.bind_run, preg_clean hc, paneOf_run, M.pure_run, Claims.double]

theorem operandMap_fits (hc : s.codesClean s.core = true) {p : Pr} {tm : Tm} (hfit : Claims.fits s p tm ty)
    (which : Nat) : operandMap p tm ty which s = .ok s.now.tm[tm] s := by
  obtain ⟨hvalid, hsize, -⟩ := hfit
  have valid : (s.now.tm[tm] != 0) = true := by simpa using hvalid
  have size : (tmEsz s.now.tm[tm] == fmtEsz (paneFmt (Claims.paneFor s p) ty)) = true := by simpa using hsize
  simp only [operandMap, M.bind_run, readMap_clean hc, M.require_true valid, preg_clean hc, paneOf_run,
    M.require_true size, M.pure_run]

theorem operandMap_invalid (hc : s.codesClean s.core = true) {p : Pr} {tm : Tm} (hinvalid : s.now.tm[tm] = 0)
    (which : Nat) : operandMap p tm ty which s = .error (.trap cILLEGAL which none none) s := by
  have invalid : (s.now.tm[tm] != 0) = false := by simpa using hinvalid
  simp only [operandMap, M.bind_run, readMap_clean hc, M.require_false invalid]

theorem meetTile_clean (hflips : ∀ f ∈ s.nowCore.flips, f.1 ≠ 7) (n : Nat) : meetTile n s = .ok () s := by
  have none_ : (s.coreAt s.core).flips.filter (fun f => f.1 == 7 && f.2.1 / 256 == n) = [] := by
    refine List.filter_eq_nil_iff.2 fun f hf => ?_
    simp [hflips f hf]
  simp [meetTile, none_]

theorem awaitBuffer_ready (hc : s.codesClean s.core = true) (hready : Claims.bufferReady s pb tmb) :
    awaitBuffer pb s.now.tm[tmb] s = .ok (Claims.bufferBits s pb tmb) s := by
  obtain ⟨hfilled, hflips⟩ := hready
  simp only [awaitBuffer, M.bind_run, M.myCore_run, Claims.bufferBits]
  cases hb : s.nowCore.opbuf with
  | none => rfl
  | some b =>
    simp only [M.bind_run, preg_clean hc]
    have same : (b.ptr == s.now.p[pb] && b.map == s.now.tm[tmb]) =
        decide (b.ptr = s.now.p[pb] ∧ b.map = s.now.tm[tmb]) := by
      rw [Bool.decide_and]
      rfl
    by_cases holds : b.ptr = s.now.p[pb] ∧ b.map = s.now.tm[tmb]
    · have filled : ¬ b.filled < b.rows := Nat.not_lt.2 (hfilled b (by rw [hb]; rfl) holds.1 holds.2)
      have sound : (s.nowCore.flips.any fun f => f.1 == 9) = false := by simpa using fun a b c h => hflips (a, b, c) h
      simp only [same, decide_eq_true holds, if_pos holds, Bool.not_true, Bool.false_eq_true, if_false, filled, sound,
        M.pure_run]
    · simp only [same, decide_eq_false holds, if_neg holds, Bool.not_false, if_true, M.pure_run]

/-! ## The unit -/

/-- The instructions are one unit, with checksums or from zero. -/
theorem multiplies_exec {ty : Fin 16} : ∀ e ∈ Claims.multiplies c pa tma pb tmb ty,
    ∀ s, exec e.1 s = mmaUnit e.1 c pa tma pb tmb ty.val e.2.1 e.2.2 s := by
  simp only [Claims.multiplies, List.forall_mem_cons, List.not_mem_nil, false_implies, implies_true, and_true]
  exact ⟨exec_arm (execMma c pa tma pb tmb ty), exec_arm (execMmaz c pa tma pb tmb ty),
    exec_arm (execMcks c pa tma pb tmb ty)⟩

/-- What a multiply does once its tiles are its context's. -/
def multiplyWork (c : Tl) (pa : Pr) (tma : Tm) (pb : Pr) (tmb : Tm) (ty : Nat) (f64 cks zero : Bool) : M Flow := do
  discard (readMap tma)
  discard (readMap tmb)
  if !zero then (Claims.accTiles f64 c).forM meetTile
  let ma ← operandMap pa tma ty 0
  require (tmExt ma 0 ≤ 4096) cILLEGAL 0
  let mb ← operandMap pb tmb ty 1
  discard (checkPerm pa true false)
  discard (checkPerm pb true false)
  let wrong ← awaitBuffer pb mb
  let (as, bs, k) ← readOperands pa ma pb mb ty wrong
  multiply c.val f64 cks zero as bs k
  pure .seq

/-- The work of a multiply, which first takes its tiles. -/
def multiplyBody (c : Tl) (pa : Pr) (tma : Tm) (pb : Pr) (tmb : Tm) (ty : Nat) (cks zero : Bool) : M Flow := do
  meetAll { ps := [pa, pb] }
  let f64 ← isF64 pa pb ty
  require (!(f64 && (c.val % 2 == 1 || cks))) cILLEGAL
  takeTiles (Claims.accTiles f64 c)
  multiplyWork c pa tma pb tmb ty f64 cks zero

theorem mmaUnit_eq (s : State) :
    mmaUnit i c pa tma pb tmb ty cks zero s = unit i (multiplyBody c pa tma pb tmb ty cks zero) s := rfl

/-- A pair of tiles begins at an even one and has no checksums (R152): such a multiply takes its tiles. -/
theorem multiplyBody_takes (hc : s.codesClean s.core = true)
    (hlegal : Claims.double s pa pb ty = true → c.val % 2 = 0 ∧ cks = false) :
    multiplyBody c pa tma pb tmb ty cks zero s = (do
      takeTiles (Claims.accTiles (Claims.double s pa pb ty) c)
      multiplyWork c pa tma pb tmb ty (Claims.double s pa pb ty) cks zero) s := by
  have met : meetAll { ps := [pa, pb] } s = .ok () s := meetAll_of_readyFor hc (by simp [State.readyFor])
  have legal : (!(Claims.double s pa pb ty && (c.val % 2 == 1 || cks))) = true := by
    cases hd : Claims.double s pa pb ty
    · rfl
    · obtain ⟨heven, hcks⟩ := hlegal hd
      simp [heven, hcks]
  simp only [multiplyBody, M.bind_run, met, isF64_run hc, M.require_true legal]

section
variable (hc : s.codesClean s.core = true) (htiles : ∀ f ∈ s.nowCore.flips, f.1 ≠ 7)
include hc htiles

/-- Maps and tiles without an error are met before anything else, and leave nothing behind. -/
theorem multiplyWork_meets {w : M Flow} : (do
    discard (readMap tma)
    discard (readMap tmb)
    if !zero then (Claims.accTiles f64 c).forM meetTile
    w) s = w s := by
  have met := forM_same (s := s) (l := Claims.accTiles f64 c) fun n _ => meetTile_clean htiles n
  cases zero
  · simp only [M.bind_run, discard_ok (readMap_clean hc _), Bool.not_false, if_true, met]
  · simp only [M.bind_run, discard_ok (readMap_clean hc _), Bool.not_true, Bool.false_eq_true, if_false]

theorem multiplyWork_invalidA (hA : s.now.tm[tma] = 0) :
    multiplyWork c pa tma pb tmb ty f64 cks zero s = .error (.trap cILLEGAL 0 none none) s := by
  refine (multiplyWork_meets hc htiles).trans ?_
  simp only [M.bind_run, operandMap_invalid hc hA]

theorem multiplyWork_invalidB (hA : Claims.fits s pa tma ty) (hext : tmExt s.now.tm[tma] 0 ≤ 4096)
    (hB : s.now.tm[tmb] = 0) : multiplyWork c pa tma pb tmb ty f64 cks zero s = .error (.trap cILLEGAL 1 none none) s := by
  refine (multiplyWork_meets hc htiles).trans ?_
  simp only [M.bind_run, operandMap_fits hc hA, M.require_true (decide_eq_true hext), operandMap_invalid hc hB]

/-- The operands of a multiply answer, and the multiply completes. -/
theorem multiplyWork_completes (hfit : Claims.operandsFit s pa tma pb tmb ty) {as bs : List (List FVal)} {k : Nat}
    (hread : readOperands pa s.now.tm[tma] pb s.now.tm[tmb] ty (Claims.bufferBits s pb tmb) s = .ok (as, bs, k) t)
    (hmul : multiply c.val f64 cks zero as bs k t = .ok () u) :
    multiplyWork c pa tma pb tmb ty f64 cks zero s = .ok .seq u := by
  obtain ⟨hA, hext, hB, hready⟩ := hfit
  obtain ⟨-, -, htag, hform, hr⟩ := id hA
  obtain ⟨-, -, htag', hform', hr'⟩ := id hB
  refine (multiplyWork_meets hc htiles).trans ?_
  simp only [M.bind_run, operandMap_fits hc hA, M.require_true (decide_eq_true hext), operandMap_fits hc hB,
    discard_ok (checkPerm_reads hc htag hform hr), discard_ok (checkPerm_reads hc htag' hform' hr'),
    awaitBuffer_ready hc hready, hread, hmul, M.pure_run]

end

/-! ## A multiply in the state that owns its tiles (R147) -/

theorem owning_accTiles (hfree : Claims.tilesFree s (Claims.accTiles f64 c)) : ∃ g,
    takeTiles (Claims.accTiles f64 c) s = .ok () (s.withTiles g) ∧
      Claims.owning s (Claims.accTiles f64 c) = s.withTiles g := by
  obtain ⟨n, ns, hns⟩ : ∃ n ns, Claims.accTiles f64 c = n :: ns := by
    cases f64
    · exact ⟨_, _, rfl⟩
    · exact ⟨_, _, rfl⟩
  rw [hns] at hfree ⊢
  have takes := takeTiles_takes n ns hfree
  exact ⟨_, takes, M.after_ok takes⟩

theorem paneFor_withTiles (p : Pr) : Claims.paneFor (s.withTiles g) p = Claims.paneFor s p := by
  simp only [Claims.paneFor, State.nowCore_withTiles, State.now_withTiles]

theorem fits_withTiles {p : Pr} {tm : Tm} (hfit : Claims.fits s p tm ty) : Claims.fits (s.withTiles g) p tm ty := by
  simp only [Claims.fits, paneFor_withTiles, State.now_withTiles]
  exact hfit

theorem bufferBits_withTiles : Claims.bufferBits (s.withTiles g) pb tmb = Claims.bufferBits s pb tmb := by
  simp only [Claims.bufferBits, State.nowCore_withTiles, State.now_withTiles]

theorem operandsFit_withTiles (hfit : Claims.operandsFit s pa tma pb tmb ty) :
    Claims.operandsFit (s.withTiles g) pa tma pb tmb ty := by
  obtain ⟨hA, hext, hB, hready⟩ := hfit
  refine ⟨fits_withTiles hA, ?_, fits_withTiles hB, ?_⟩
  · rw [State.now_withTiles]
    exact hext
  · simp only [Claims.bufferReady, State.nowCore_withTiles, State.now_withTiles]
    exact hready

theorem codesClean_withTiles (hc : s.codesClean s.core = true) :
    (s.withTiles g).codesClean (s.withTiles g).core = true :=
  State.CodesKept.clean (s.codesKept_withTiles g) hc

/-- A unit whose work traps, having met no error of a code word, leaves only the trap. -/
theorem unit_traps_kept {body : M Flow} {cause v : Nat} (h : s.issues i) (hkept : s.CodesKept t)
    (hb : body s = .error (.trap cause v none none) t) : unit i body s = .next (s.takeTrap cause v none none) := by
  refine (unit_stops h hb).trans (congrArg _ ?_)
  show (if decide (cause ≤ cPRIV) || (s.ctxAt s.core s.ctx).windowOk then (s.keepMet t).takeTrap cause v none none
    else (s.keepMet t).takeTrap cWINDOW 0 none none) = _
  rw [State.windowOk_of_issues h, Bool.or_true, if_pos rfl, State.keepMet_codesKept hkept]

/-- A pair that begins at an even tile lies in the core. -/
theorem accFits_even (heven : f64 = true → c.val % 2 = 0) : accFits f64 c.val := by
  have := c.isLt
  cases f64 with
  | false => exact this
  | true =>
    have := heven rfl
    show c.val + 1 < 4
    omega

/-- Both operands in the core's own pad are read, and the multiply answers. -/
theorem own_multiplies {ka fa kb fb : Nat} {ha hb : Header} (hc : s.codesClean s.core = true)
    (hoA : Claims.ownObject s pa ka fa ha) (hoB : Claims.ownObject s pb kb fb hb) (hq : Claims.quiet s)
    (hn : accFits f64 c.val) (ma mb : V512) (wrong : List Nat) : ∃ as bs k t u,
    readOperands pa ma pb mb ty wrong s = .ok (as, bs, k) t ∧ multiply c.val f64 cks zero as bs k t = .ok () u := by
  have openA := own_openOperand hoA hc ma ty
  have openB := own_openOperand hoB hc mb ty
  obtain ⟨as, t, readsA, htc, htq⟩ := (own_readsBy hoA (o := {
    reg := pa, ptr := s.now.p[pa], at_ := ka, dead := false, map := ma, pane := Claims.paneFor s pa
    fmt := paneFmt (Claims.paneFor s pa) ty }) rfl rfl (some 1)).readA 0 s rfl hq
  obtain ⟨bs, u, readsB, -, huq⟩ := (own_readsBy hoB (o := {
    reg := pb, ptr := s.now.p[pb], at_ := kb, dead := false, map := mb, pane := Claims.paneFor s pb
    fmt := paneFmt (Claims.paneFor s pb) ty, wrong }) rfl rfl (some 1)).readB (tmExt ma 0) 0 t htc htq
  obtain ⟨-, hflips, -, htile, -⟩ := huq
  obtain ⟨w, mul, -⟩ := multiply_run ⟨hflips, htile⟩ hn cks zero as bs (tmExt ma 0)
  refine ⟨as, bs, tmExt ma 0, u, w, ?_, mul⟩
  simp only [readOperands, M.bind_run, openA, openB, readsA, readsB, M.pure_run]

end Sys2Proof.Machine

open Sys2Proof Sys2Proof.Machine

/-- Settles O25: a multiply takes its tiles, and then reads its maps, its operands and the buffer in R229's order;
taking tiles changes nothing that it reads. -/
theorem matrixMultiplies : Obligations.MatrixMultiplies := by
  intro s c pa tma pb tmb ty e he f64 h
  have hc := State.clean_of_issues h
  have run := multiplies_exec e he s
  rw [mmaUnit_eq] at run
  have completes : ∀ t u, Claims.mayMultiply s c f64 e.2.1 → Claims.operandsFit s pa tma pb tmb ty.val →
      Claims.multiplied s c f64 pa tma pb tmb ty.val e.2.1 e.2.2 t u → exec e.1 s = .next (s.finish e.1 .seq u) := by
    rintro t u ⟨hlegal, hfree, htiles⟩ hfit ⟨as, bs, k, hread, hmul⟩
    obtain ⟨g, takes, owns⟩ := owning_accTiles hfree
    have hc' := codesClean_withTiles (g := g) hc
    have htiles' : ∀ f ∈ (s.withTiles g).nowCore.flips, f.1 ≠ 7 := by rwa [State.flips_withTiles]
    rw [M.answers, owns] at hread
    have work := multiplyWork_completes (cks := e.2.1) (zero := e.2.2) (f64 := f64) hc' htiles'
      (operandsFit_withTiles hfit) (by rwa [State.now_withTiles, bufferBits_withTiles]) hmul
    refine run.trans (unit_completes h ?_)
    rw [multiplyBody_takes hc hlegal]
    exact (M.bind_ok takes).trans work
  have illegal : ∀ v, Claims.mayMultiply s c f64 e.2.1 → (∀ g, (s.withTiles g).codesClean (s.withTiles g).core = true →
      (∀ f ∈ (s.withTiles g).nowCore.flips, f.1 ≠ 7) →
        multiplyWork c pa tma pb tmb ty.val f64 e.2.1 e.2.2 (s.withTiles g) =
          .error (.trap cILLEGAL v none none) (s.withTiles g)) →
      exec e.1 s = .next (s.takeTrap cILLEGAL v none none) := by
    rintro v ⟨hlegal, hfree, htiles⟩ work
    obtain ⟨g, takes, -⟩ := owning_accTiles hfree
    refine run.trans (unit_traps_kept h (s.codesKept_withTiles g) ?_)
    rw [multiplyBody_takes hc hlegal]
    exact (M.bind_ok takes).trans (work g (codesClean_withTiles hc) (by rwa [State.flips_withTiles]))
  refine ⟨fun ka fa kb fb ha hb hmay hfit hoA hoB hq => ?own, completes, fun hlegal hheld => ?waits,
    fun hmay hA => illegal 0 hmay fun g hc' htiles => multiplyWork_invalidA hc' htiles (by rwa [State.now_withTiles]),
    fun hmay hA hext hB => illegal 1 hmay fun g hc' htiles => multiplyWork_invalidB hc' htiles (fits_withTiles hA)
      (by rwa [State.now_withTiles]) (by rwa [State.now_withTiles])⟩
  case own =>
    obtain ⟨hlegal, hfree, -⟩ := id hmay
    obtain ⟨g, -, owns⟩ := owning_accTiles hfree
    obtain ⟨as, bs, k, t, u, hread, hmul⟩ := own_multiplies (cks := e.2.1) (zero := e.2.2) (ty := ty.val)
      (codesClean_withTiles (g := g) hc) (own_withTiles g hoA) (own_withTiles g hoB) (quiet_withTiles g hq)
      (accFits_even fun hd => (hlegal hd).1) s.now.tm[tma] s.now.tm[tmb] (Claims.bufferBits s pb tmb)
    have answers : Claims.multiplied s c f64 pa tma pb tmb ty.val e.2.1 e.2.2 t u := ⟨as, bs, k, by rwa [owns], hmul⟩
    exact ⟨t, u, answers, completes t u hmay hfit answers⟩
  case waits =>
    refine run.trans (unit_waits h (t := s) ?_)
    rw [multiplyBody_takes hc hlegal]
    rw [M.bind_run, show takeTiles _ s = _ from takeTiles_waits hheld]
end


section
/-! SUPPORT. Reads of a live object in a die pad, which leave the machine as it is (R166, R175, R233). -/

namespace Sys2Proof.Machine

variable {α β : Type} {s t : State} {k f n : Nat}

/-! ## Work that leaves the state as it was -/

/-- Work that answers and leaves the state as it was, or, if it may, rolls back and leaves it as it was. -/
def StillWork (may : Prop) (s : State) (α : Type) (m : M α) : Prop :=
  (∃ v, m s = .ok v s) ∨ (may ∧ ∃ c v, m s = .error (.rollback c v) s)

theorem stillWork_class (may : Prop) (s : State) : WorkClass (StillWork may s) where
  pure v := .inl ⟨v, rfl⟩
  bind hm hw := by
    rcases hm with ⟨v, run⟩ | ⟨ok, c, v, stop⟩
    · rcases hw v with ⟨v', run'⟩ | ⟨ok, c, v', stop⟩
      · exact .inl ⟨v', (M.bind_ok run).trans run'⟩
      · exact .inr ⟨ok, c, v', (M.bind_ok run).trans stop⟩
    · exact .inr ⟨ok, c, v, by rw [M.bind_run, stop]⟩
  atOff r off hm := by
    rcases hm with ⟨v, run⟩ | ⟨ok, c, v, stop⟩
    · exact .inl ⟨v, tryCatch_ok run⟩
    · exact .inr ⟨ok, c, v, tryCatch_error stop⟩

/-- Still work that may not roll back answers. -/
theorem stillWork_answers {m : M α} (h : StillWork False s α m) : ∃ v, m s = .ok v s := by
  rcases h with answers | ⟨no, -⟩
  · exact answers
  · exact no.elim

/-! ## Places in a die pad (R164) -/

theorem spaceOf_of_die (h : levelOf k = 2) : 2048 ≤ spaceOf k ∧ spaceOf k < 3072 := by
  unfold levelOf at h
  simp only [] at h
  by_cases h1 : spaceOf k < 1024
  · simp [h1] at h
  · by_cases h2 : spaceOf k < 2048
    · simp [h1, h2] at h
    · by_cases h3 : spaceOf k < 3072
      · exact ⟨Nat.not_lt.1 h2, h3⟩
      · simp [h1, h2, h3] at h

theorem plain_of_die (h : levelOf k = 2) : Plain k := by
  obtain ⟨-, below⟩ := spaceOf_of_die h
  refine ⟨?_, by rw [h]; decide⟩
  simp only [isHeap, decide_eq_false_iff_not]
  omega

/-- All places that a pointer into a pad reaches lie in that pad. -/
theorem spaceOf_key_add_pad {q : PReg} {part o : Nat} (hpad : spaceOf (q.key part) < 8192) (ho : o < 2 ^ 40) :
    spaceOf (q.key part + o) = spaceOf (q.key part) := by
  have core := fld_lt q.addr 0 20
  have clu := fld_lt q.addr 0 25
  have die := fld_lt q.addr 0 28
  unfold PReg.key at hpad ⊢
  split
  · simp only [spaceOf, localBase, spaceSize]
    omega
  · simp only [spaceOf, cluBase, spaceSize]
    omega
  · simp only [spaceOf, dieBase, spaceSize]
    omega
  · next h0 h1 h2 =>
    exfalso
    split at hpad
    · next h => exact h0 h
    · next h => exact h1 h
    · next h => exact h2 h
    · simp only [spaceOf, heapBase, spaceSize] at hpad
      omega

/-- The granules of a part of a range are among the range's. -/
theorem granules_within {o len g : Nat} (hg : g ∈ granules (k + o) n) (hlen : o + n ≤ len) : g ∈ granules k len := by
  unfold granules at hg ⊢
  split at hg
  · cases hg
  · next some_ =>
    have : n ≠ 0 := by simpa using some_
    obtain ⟨i, hi, rfl⟩ := List.mem_map.1 hg
    have := List.mem_range.1 hi
    rw [if_neg (by simp; omega)]
    exact List.mem_map.2 ⟨(k + o) / 16 + i - k / 16, List.mem_range.2 (by omega), by omega⟩

/-- Where a granule is poisoned, its reader rolls back (R233). -/
theorem readBytes_poisoned (h : Plain k) (hn : n ≠ 0) {g : Nat} (hg : g ∈ granules k n)
    (hp : s.mem.isPoisoned g = true) (need : Nat) :
    readBytes k n need s = .error (.rollback cECC 0) (s.meetLocal k n) := by
  have some_ : ∃ g ∈ granules k n, s.mem.isPoisoned g = true := ⟨g, hg, hp⟩
  simp [readBytes, piecesOf_plain h hn, some_]

/-! ## The object -/

section
variable {q : PReg} {part : Nat} (hd : Claims.inDiePad s q part 0 1)
include hd

theorem die_locateUp : ∃ f h, locateUp (q.key part) s = .ok (q.key part, some (f, h)) s ∧ h.state = stLive := by
  obtain ⟨-, level, running, f, hfoot, hsound, hlive⟩ := hd
  rw [Nat.add_zero] at level running hfoot
  obtain ⟨above, below⟩ := spaceOf_of_die level
  have space := spaceOf_footOf hfoot
  have plain : Plain f := plain_of_die (by rw [levelOf, space]; exact level)
  have met : s.meetLocal f 16 = s := by
    rw [State.meetLocal, if_pos (by omega)]
  have head : header f s = .ok (s.headerAt f) s := by
    simp only [header, header?, M.bind_run, phys_plain plain, M.modify_run, met, M.get_run, hsound, Bool.false_eq_true,
      if_false, M.pure_run, State.headerAt]
  have moved : s.siftHolds (q.key part) (q.key part) = false := by simp [State.siftHolds]
  refine ⟨f, s.headerAt f, ?_, hlive⟩
  simp only [locateUp, M.bind_run, locate_live hfoot head hlive, M.get_run, running, moved, Bool.and_false,
    Bool.or_false, Bool.false_eq_true, if_false, M.pure_run]

theorem die_plain_at {o : Nat} (ho : o < 2 ^ 40) : Plain (q.key part + o) ∧ 1024 ≤ spaceOf (q.key part + o) := by
  obtain ⟨-, level, -⟩ := hd
  rw [Nat.add_zero] at level
  obtain ⟨above, below⟩ := spaceOf_of_die level
  have space := spaceOf_key_add_pad (q := q) (part := part) (by omega) ho
  exact ⟨plain_of_die (by rw [levelOf, space]; exact level), by omega⟩

/-- Bytes of the object are read as they stand, or, where a granule is poisoned, roll the reader back (R233). -/
theorem die_readNat {o : Nat} {may : Prop} (hlen : o + n ≤ q.len)
    (hmay : ∀ g ∈ granules (q.key part) q.len, s.mem.isPoisoned g = false ∨ may) :
    StillWork may s Nat (readNat (q.key part + o) n) := by
  by_cases hn : n = 0
  · subst hn
    exact .inl ⟨0, rfl⟩
  · have bound := PReg.len_lt q
    obtain ⟨plain, high⟩ := die_plain_at hd (o := o) (by omega)
    have met : s.meetLocal (q.key part + o) n = s := by rw [State.meetLocal, if_pos high]
    by_cases sound : ∀ g ∈ granules (q.key part + o) n, s.mem.isPoisoned g = false
    · have run := readBytes_plain (s := s) plain hn sound aR
      rw [met] at run
      exact .inl ⟨_, by rw [readNat, M.bind_ok run, M.pure_run]⟩
    · obtain ⟨g, hg, bad⟩ : ∃ g ∈ granules (q.key part + o) n, s.mem.isPoisoned g = true := by simpa using sound
      have stop := readBytes_poisoned (s := s) plain hn hg bad aR
      rw [met] at stop
      refine .inr ⟨(hmay g (granules_within hg hlen)).resolve_left (by simp [bad]), cECC, 0, ?_⟩
      rw [readNat, M.bind_run, stop]

/-- The elements of the object are read, or roll their reader back. -/
theorem die_readsBy {o : Operand} {may : Prop} (hptr : o.ptr = q) (hat : o.at_ = q.key part)
    (hmay : ∀ g ∈ granules (q.key part) q.len, s.mem.isPoisoned g = false ∨ may) :
    o.ReadsBy none (StillWork may s) where
  toWorkClass := stillWork_class may s
  record _ h := by cases h
  read off n hlen := by
    rw [hptr] at hlen
    rw [hat]
    exact die_readNat hd hlen hmay

end

end Sys2Proof.Machine
end

section
/-! SUPPORT. Refills of a stream and fills of the operand buffer (R154, R271). -/

namespace Sys2Proof.Machine

variable {α β : Type} {s t : State} {n : Nat}

/-! ## Work of an engine -/

theorem M.bind_answers {m : M α} {w : α → M β} {v : β} (h : (m >>= w) s = .ok v t) :
    ∃ a u, m s = .ok a u ∧ w a u = .ok v t := by
  rw [M.bind_run] at h
  split at h
  · next a u hm => exact ⟨a, u, hm, h⟩
  · cases h

/-- Work that answers meets no block that has to be filled. -/
theorem filled_ok {m : M α} {v : α} (h : m s = .ok v t) : M.filled m s = .ok v t := by
  show M.fillFirst m s.badCodes s = _
  cases s.badCodes with
  | zero => exact h
  | succ n => simp only [M.fillFirst, h]

theorem as_ok {m : M α} {v : α} {c : Nat} {x : Fin 8} (h : m (s.asCtx c x) = .ok v t) :
    M.as c x m s = .ok v (t.asCtx s.core s.ctx) := by
  have filled := filled_ok h
  rw [State.asCtx] at filled
  simp only [M.as, filled, State.asCtx]

/-! ## Refills (R271) -/

variable {core : Fin 1024} {x i : Fin 8} {b : Stream}

/-- A refill ends with a strip more fetched ahead. -/
theorem refill_ends (h : refill i.val b s = .ok () t) : ∃ (u : State) (strip : Option V512),
    t = u.updCtx u.core u.ctx fun q => q.setStream i.val (some { b with ahead := b.ahead ++ [strip] }) := by
  unfold refill at h
  obtain ⟨-, s1, -, h⟩ := M.bind_answers h
  obtain ⟨⟨k, dead⟩, s2, -, h⟩ := M.bind_answers h
  obtain ⟨strip, s3, -, h⟩ := M.bind_answers h
  exact ⟨s3, strip, (EStateM.Result.ok.inj h).2.symm⟩

theorem strm_setStream (q : Ctx) (v : Option Stream) : (q.setStream i.val v).strm[i] = v := by
  have same : (Fin.ofNat 8 i.val).val = i.val := Nat.mod_eq_of_lt i.isLt
  simp only [Ctx.setStream, Fin.getElem_fin, Vector.getElem_set, same, if_true]

theorem strm_refilled (u : State) (strip : Option V512) :
    (((u.updCtx u.core u.ctx fun q => q.setStream i.val (some { b with ahead := b.ahead ++ [strip] })).ctxAt
      u.core u.ctx).strm[i]) = some { b with ahead := b.ahead ++ [strip] } := by
  rw [u.ctxAt_updCtx, strm_setStream]

/-- Up to four strips are fetched ahead. -/
theorem streamRefill_refills (hb : (s.ctxAt core.val x).strm[i] = some b) (hahead : b.ahead.length < 4)
    (hmore : b.popped + b.ahead.length < b.strips) (h : refill i.val b (s.asCtx core.val x) = .ok () t) :
    exec (.streamRefill core x i) s = .next ((t.asCtx s.core s.ctx).soon 1 (.strmRefill core.val x.val i.val)) := by
  show execStreamRefill core x i s = _
  have room : (decide (4 ≤ b.ahead.length) || decide (b.strips ≤ b.popped + b.ahead.length)) = false := by
    simp only [Bool.or_eq_false_iff, decide_eq_false_iff_not]
    omega
  simp only [execStreamRefill, hb, room, Bool.false_eq_true, if_false, as_ok h]

theorem Operand.ReadsBy.stripAt {W : (α : Type) → M α → Prop} {o : Operand} (hW : o.ReadsBy none W) (n : Nat) :
    W V512 (stripAt o b n) := by
  unfold Machine.stripAt
  simp only []
  refine hW.bind (hW.mapM fun i _ => ?_) fun _ => hW.pure _
  split
  · exact hW.pure _
  · unfold streamElem
    split
    · exact hW.bind (hW.elemCode _ _) fun _ => hW.pure _
    · exact hW.bind (hW.elemVal _ _) fun _ => hW.pure _

section
variable (hd : Claims.inDiePad s b.ptr s.now.part.toNat 0 1)
include hd

theorem die_inPlace : inPlace b.ptr s = .ok (b.ptr.key s.now.part.toNat, false) s := by
  obtain ⟨f, h, run, hlive⟩ := die_locateUp hd
  have alive : (h.state == stDead) = false := by rw [hlive]; rfl
  simp only [inPlace, M.bind_run, M.me_run, run, alive, M.pure_run]

/-- The strip of an object in a die pad joins those fetched ahead, and nothing else changes. -/
theorem die_refill (hperf : s.performed) : ∃ strip : Option V512, refill i.val b s =
    .ok () (s.updCtx s.core s.ctx fun q => q.setStream i.val (some { b with ahead := b.ahead ++ [strip] })) := by
  have place := die_inPlace hd
  let o : Operand := { reg := 0, ptr := b.ptr, at_ := b.ptr.key s.now.part.toNat, dead := false, map := b.map
                       pane := b.pane.toNat, fmt := b.fmt }
  have reads := die_readsBy hd (may := True) (o := o) rfl rfl fun _ _ => Or.inr trivial
  rcases reads.stripAt (b := b) (b.popped + b.ahead.length) with ⟨strip, run⟩ | ⟨-, c, v, stop⟩
  · have got : (do pure (some (← stripAt o b (b.popped + b.ahead.length))) : M (Option V512)) s =
        .ok (some strip) s := by
      rw [M.bind_ok run, M.pure_run]
    refine ⟨some strip, ?_⟩
    simp only [refill, M.bind_ok (afterAmos_performed hperf), M.bind_ok place]
    rw [M.bind_ok (tryCatch_ok got), M.modMe_run]
  · have lost : (do pure (some (← stripAt o b (b.popped + b.ahead.length))) : M (Option V512)) s =
        .error (.rollback c v) s := by
      rw [M.bind_run, stop]
    refine ⟨none, ?_⟩
    simp only [refill, M.bind_ok (afterAmos_performed hperf), M.bind_ok place]
    rw [M.bind_run, tryCatch_error lost]
    rfl

end

/-! ## The operand buffer (R154, R235) -/

theorem State.cores_disarm (s : State) (c : Nat) : (s.disarm c).cores = s.cores := s.setCoreReg_cores c _ _

theorem State.mem_disarm (s : State) (c : Nat) : (s.disarm c).mem = s.mem := s.setCoreReg_mem c _ _

theorem State.coreAt_disarm (s : State) (c c' : Nat) : (s.disarm c).coreAt c' = s.coreAt c' := by
  rw [State.coreAt, State.cores_disarm, State.coreAt]

/-- An injection on a row of the buffer changes at most which of its bits stand wrong, and none without one. -/
theorem injectRow_kept {c row : Nat} {b : OpBuf} (hb : (s.coreAt c).opbuf = some b) : ∃ wrong,
    ((s.injectRow c row b).coreAt c).opbuf = some { b with wrong } ∧ (s.injectRow c row b).mem = s.mem ∧
      (s.armed c 9 = none → wrong = b.wrong) := by
  unfold State.injectRow
  cases harm : s.armed c 9 with
  | none => exact ⟨b.wrong, hb, rfl, fun _ => rfl⟩
  | some v =>
    simp only []
    split
    · exact ⟨b.wrong, hb, rfl, fun _ => rfl⟩
    · have mem := s.mem_disarm c
      have same := s.coreAt_disarm c c
      generalize s.disarm c = u at mem same ⊢
      split
      · generalize b.wrong ++ List.map _ _ = wrong
        rw [State.coreAt_updCore]
        exact ⟨wrong, rfl, (State.updCore_mem ..).trans mem, fun h => by cases h⟩
      · rw [State.coreAt_updCore, same]
        exact ⟨b.wrong, hb, (State.updCore_mem ..).trans mem, fun _ => rfl⟩

theorem mldFill_fills {b : OpBuf} (hb : (s.coreAt core.val).opbuf = some b) :
    ∃ t b', exec (.mldFill core) s = .next t ∧ (t.coreAt core.val).opbuf = some b' ∧
      b' = { b with filled := min b.rows (b.filled + 1), wrong := b'.wrong } ∧
      (s.armed core.val 9 = none → b'.wrong = b.wrong) ∧ t.mem = s.mem := by
  let row : OpBuf := { b with filled := min b.rows (b.filled + 1) }
  let u := s.updCore core.val fun k => { k with opbuf := some row }
  have hu : (u.coreAt core.val).opbuf = some row := by rw [State.coreAt_updCore]
  obtain ⟨wrong, hbuf, hmem, harmed⟩ := injectRow_kept (row := b.filled) hu
  have run : exec (.mldFill core) s = .next (if row.filled < b.rows then
      (u.injectRow core.val b.filled row).later 1 (.mldFill core.val) else u.injectRow core.val b.filled row) := by
    show execMldFill core s = _
    simp only [execMldFill, hb]
    rfl
  refine ⟨_, { row with wrong }, run, ?_, rfl, harmed, ?_⟩
  · split
    · exact hbuf
    · exact hbuf
  · split
    · exact hmem
    · exact hmem

end Sys2Proof.Machine
end

section
/-! SUPPORT. Remote commands at the matrix unit (R160, R161, R238). -/

namespace Sys2Proof.Machine

variable {s t : State} {core : Fin 1024} {c : MCmd} {cs : List MCmd} {x : Fin 8}

/-! ## Acceptance -/

/-- A choice between two, repeated along a list, chooses one of them. -/
theorem foldl_choice {γ : Type} (takes : γ → γ → Bool) (l : List γ) (a : γ) :
    l.foldl (fun a b => if takes a b then b else a) a = a ∨ l.foldl (fun a b => if takes a b then b else a) a ∈ l := by
  induction l generalizing a with
  | nil => exact .inl rfl
  | cons b l ih =>
    rw [List.foldl_cons]
    split
    · exact .inr ((ih b).elim (fun h => by rw [h]; exact List.mem_cons_self) (List.mem_cons_of_mem _))
    · exact (ih a).imp_right (List.mem_cons_of_mem _)

/-- The first request on its way is one of those asked for, and waits for nothing. -/
theorem firstSent_asked {P : Req → Bool} {r : Req} (h : s.firstSent P = some r) :
    P r = true ∧ s.behind r = false ∧ s.arrivalWaits r = false := by
  unfold State.firstSent at h
  simp only [] at h
  split at h
  · cases h
  · next q qs hqs =>
    have member : r ∈ q :: qs := by
      cases h
      rcases foldl_choice _ qs q with heq | hmem
      · rw [heq]
        exact List.mem_cons_self
      · exact List.mem_cons_of_mem _ hmem
    rw [← hqs] at member
    obtain ⟨-, hr⟩ := List.mem_filter.1 member
    simp only [Bool.and_eq_true, Bool.not_eq_true'] at hr
    obtain ⟨⟨⟨⟨hP, -⟩, -⟩, hbehind⟩, hwaits⟩ := hr
    exact ⟨hP, hbehind, hwaits⟩

theorem Req.command_of_res {r : Req} {n : Nat} (h : r.res = .command n) : ∃ c, r.load = .matrix c ∧ r.dst = n := by
  unfold Req.res at h
  split at h
  case h_4 c hload => exact ⟨c, hload, Res.command.inj h⟩
  all_goals cases h

/-- A command for which there is room is accepted, also where the port of its core has changed. -/
theorem present_command {r : Req} {n p : Nat} (hload : r.load = .matrix c) (hdst : r.dst = n)
    (hroom : Claims.hasRoom s r) : (s.updCore n fun k => { k with port := p }).present r =
      (s.updCore n fun k => { k with port := p }).acceptReq r := by
  subst hdst
  obtain ⟨hbehind, hfits, hqueue⟩ := hroom
  have res : r.res = .command r.dst := by simp only [Req.res, hload]
  simp only [State.roomFor, hload] at hfits
  simp only [res, State.resv] at hqueue
  let t := s.updCore r.dst fun k => { k with port := p }
  have ports : t.coreAt r.dst = { s.coreAt r.dst with port := p } := s.coreAt_updCore ..
  have stays : t.redirect r = (r, t) := by simp [State.redirect, State.goal, hload]
  have behind : t.behind r = false := hbehind
  have free : t.arrivalWaits r = false := by simp [State.arrivalWaits, hload]
  have fits : t.roomFor r = true := by
    simp only [State.roomFor, hload, ports]
    exact hfits
  have empty : (t.resv r.res).queue = [] := by
    simp only [res, State.resv, ports]
    exact hqueue
  show t.present r = t.acceptReq r
  simp only [State.present, stays, behind, free, fits, empty, Bool.or_self, Bool.false_eq_true, if_false,
    List.isEmpty_nil, Bool.and_self, if_true]

/-- A command comes to the core that it is for, whose port does not decide whether there is room. -/
theorem command_accepted {r : Req} (h : (s.firstSent fun q => q.res == .command core.val) = some r)
    (hroom : Claims.hasRoom s r) : exec (.matrixCommandAccept core) s =
      .next ((s.updCore core.val fun k => { k with port := r.source }).acceptReq r) := by
  obtain ⟨hres, -, -⟩ := firstSent_asked h
  obtain ⟨c, hload, hdst⟩ := Req.command_of_res (by simpa using hres)
  show execMatrixCommandAccept core s = _
  rw [execMatrixCommandAccept]
  simp only [h]
  rw [present_command hload hdst hroom]

/-! ## Repeats -/

section
variable (hcmds : (s.coreAt core.val).cmds = c :: cs)
include hcmds

theorem command_refused (h : c.owner (s.coreAt core.val) = none ∨ c.lost = true) :
    exec (.matrixCommandRepeat core) s = .next (s.endCmd core.val c 3) := by
  show execMatrixCommandRepeat core s = _
  simp only [execMatrixCommandRepeat, hcmds]
  cases howner : c.owner (s.coreAt core.val) with
  | none => rfl
  | some x =>
    have lost : c.lost = true := h.resolve_left (by simp [howner])
    simp only [lost, if_true]

theorem command_performed (howner : c.owner (s.coreAt core.val) = some x) (hkept : c.lost = false)
    (hwork : cmdWork c (s.asCtx core.val x) = .ok () t) : exec (.matrixCommandRepeat core) s = .next
      (if c.field 0 4 = 3 ∨ c.repeats ≤ c.finished + 1 then (t.asCtx s.core s.ctx).endCmd core.val c 1
      else ((t.asCtx s.core s.ctx).updCore core.val fun k => { k with
        cmds := { c with finished := c.finished + 1 } :: cs }).later 1 (.mcmdRepeat core.val)) := by
  show execMatrixCommandRepeat core s = _
  have filled : M.filled (cmdWork c) { s with core := core.val, ctx := x } = .ok () t := filled_ok hwork
  simp only [execMatrixCommandRepeat, hcmds, howner, hkept, filled, Bool.false_eq_true, if_false, Bool.or_eq_true,
    beq_iff_eq, decide_eq_true_eq]
  split
  · rfl
  · rfl

end

theorem tile_updCore (s : State) {n : Nat} (hn : n < 4) (f : Tile → Tile) :
    (s.updCore s.core fun k => k.setTile n (f (k.tile n))).nowCore.tile n = f (s.nowCore.tile n) := by
  rw [State.nowCore_updCore, Core.tile_setTile _ _ hn hn, if_pos rfl]

/-- A repeat that only clears its tile leaves zeros in it, and checksums that are valid (R157, R160). -/
theorem cmdWork_clears (hop : c.field 0 4 = 3) : ∃ t, cmdWork c s = .ok () t ∧ t.mem = s.mem ∧ t.core = s.core ∧
    t.nowCore.tile (c.field 4 2) = { s.nowCore.tile (c.field 4 2) with acc := 0, cr := 0, cc := 0, cv := true } := by
  let n := c.field 4 2
  have hn : n < 4 := fld_lt ..
  let s1 := s.updCore s.core fun k => k.setTile n { k.tile n with acc := BitVec.ofNat 8192 (packWords []) }
  let s2 := s1.updCore s1.core fun k => { k with flips := k.flips.filter fun f => !(f.1 == 7 && f.2.1 / 256 == n) }
  have run : cmdWork c s = .ok () (s2.updCore s2.core fun k =>
      k.setTile n { k.tile n with cr := 0, cc := 0, cv := true }) := by
    simp only [cmdWork, hop, M.bind_run, M.myCore_run, beq_self_eq_true, if_true]
    rfl
  have same : s2.nowCore.tile n = s1.nowCore.tile n := by
    rw [State.nowCore_updCore]
    rfl
  have zeros : s1.nowCore.tile n = { s.nowCore.tile n with acc := 0 } :=
    tile_updCore s hn fun t => { t with acc := BitVec.ofNat 8192 (packWords []) }
  have tiles := tile_updCore s2 hn fun t => { t with cr := 0, cc := 0, cv := true }
  rw [same, zeros] at tiles
  exact ⟨_, run, rfl, rfl, tiles⟩

end Sys2Proof.Machine
end

section
/-! SUPPORT. The clauses of StreamAndCommandEvents that a state alone decides (R154, R160, R271). -/

namespace Sys2Proof.Machine

variable {s t : State} {core : Fin 1024} {c : MCmd} {cs : List MCmd} {x i : Fin 8} {b : Stream}

theorem State.soon_mem (s : State) (n : Nat) (e : Due) : (s.soon n e).mem = s.mem := by
  unfold State.soon
  split
  · rfl
  · rfl

theorem streamRefill_die (hb : (s.ctxAt core.val x).strm[i] = some b) (hahead : b.ahead.length < 4)
    (hmore : b.popped + b.ahead.length < b.strips) (hperf : (s.asCtx core.val x).performed)
    (hd : Claims.inDiePad s b.ptr (s.ctxAt core.val x).part.toNat 0 1) :
    ∃ t strip, exec (.streamRefill core x i) s = .next t ∧ t.mem = s.mem ∧
      (t.ctxAt core.val x).strm[i] = some { b with ahead := b.ahead ++ [strip] } := by
  obtain ⟨strip, run⟩ := die_refill (s := s.asCtx core.val x) (i := i) hd hperf
  refine ⟨_, strip, streamRefill_refills hb hahead hmore run, ?_, ?_⟩
  · rw [State.soon_mem]
    rfl
  · rw [State.ctxAt, State.soon_coreAt, ← State.ctxAt]
    exact strm_refilled (s.asCtx core.val x) strip

theorem command_cleared (hcmds : (s.coreAt core.val).cmds = c :: cs) (howner : c.owner (s.coreAt core.val) = some x)
    (hkept : c.lost = false) (hop : c.field 0 4 = 3) :
    ∃ t : State, exec (.matrixCommandRepeat core) s = .next (t.endCmd core.val c 1) ∧ t.mem = s.mem ∧
      let v := (t.coreAt core.val).tile (c.field 4 2)
      v.acc = 0 ∧ v.cr = 0 ∧ v.cc = 0 ∧ v.cv = true := by
  obtain ⟨t, run, mem, hcore, tile⟩ := cmdWork_clears (s := s.asCtx core.val x) hop
  refine ⟨t.asCtx s.core s.ctx, ?_, mem, ?_⟩
  · rw [command_performed hcmds howner hkept run, if_pos (.inl hop)]
  · have place : (t.asCtx s.core s.ctx).coreAt core.val = t.nowCore := by
      rw [State.nowCore, hcore]
      rfl
    simp only [place, tile, and_self]

end Sys2Proof.Machine

open Sys2Proof Sys2Proof.Machine

theorem streamAndCommandEvents : Claims.StreamAndCommandEvents := by
  refine ⟨fun s t core x i b hb hahead hmore h => ⟨streamRefill_refills hb hahead hmore h, ?_⟩,
    fun s core x i b hb hahead hmore hperf hd => streamRefill_die hb hahead hmore hperf hd,
    fun s core b hb => mldFill_fills hb, fun s core r h hroom => command_accepted h hroom,
    fun s t core c cs x hcmds howner hkept h => ⟨fun hlast => ?_, fun hop hgoes => ?_⟩,
    fun s core c cs hcmds h => command_refused hcmds h,
    fun s core c cs x hcmds howner hkept hop => command_cleared hcmds howner hkept hop⟩
  · obtain ⟨u, strip, rfl⟩ := refill_ends h
    exact ⟨strip, strm_refilled u strip⟩
  · rw [command_performed hcmds howner hkept h, if_pos hlast]
  · rw [command_performed hcmds howner hkept h, if_neg (not_or.2 ⟨hop, Nat.not_le.2 hgoes⟩)]
end

section
/-! SUPPORT. Work that merges partials into the tiles of the issuing core (R276, R277). -/

namespace Sys2Proof.Machine

variable {α β : Type} {s t u : State} {W : (α : Type) → M α → Prop}

theorem WorkClass.forM (hW : WorkClass W) {γ : Type} {g : γ → M Unit} {l : List γ} (hg : ∀ x ∈ l, W Unit (g x)) :
    W Unit (l.forM g) := by
  induction l with
  | nil => exact hW.pure ()
  | cons x l ih =>
    rw [List.forM_eq_forM, List.forM_cons]
    exact hW.bind (hg x List.mem_cons_self) fun _ => ih fun y hy => hg y (List.mem_cons_of_mem _ hy)

/-- What merging leaves as it was: all but tiles and flags of the issuing context's core. -/
structure State.OnMerge (s t : State) : Prop extends s.OnTiles t where
  ctx : t.ctx = s.ctx
  clusters : t.clusters = s.clusters

theorem State.OnMerge.refl (s : State) : s.OnMerge s := ⟨.refl s, rfl, rfl⟩

theorem State.OnMerge.trans (h : s.OnMerge t) (h' : t.OnMerge u) : s.OnMerge u :=
  ⟨h.toOnTiles.trans h'.toOnTiles, h'.ctx.trans h.ctx, h'.clusters.trans h.clusters⟩

theorem State.OnMerge.updCore (s : State) {f : Core → Core} (hf : (f s.nowCore).flips = s.nowCore.flips) :
    s.OnMerge (s.updCore s.core f) := ⟨.updCore s hf, rfl, rfl⟩

/-- Work that answers where no element of a tile has an error or is to get one, and only merges. -/
def MergeWork (α : Type) (m : M α) : Prop := ∀ s : State, s.TilesSound → ∃ v t, m s = .ok v t ∧ s.OnMerge t

theorem mergeWork_class : WorkClass MergeWork where
  pure v s _ := ⟨v, s, rfl, .refl s⟩
  bind hm hw s hs := by
    obtain ⟨v, t, run, ht⟩ := hm s hs
    obtain ⟨v', u, run', hu⟩ := hw v t (ht.sound hs)
    exact ⟨v', u, (M.bind_ok run).trans run', ht.trans hu⟩
  atOff r off hm s hs := by
    obtain ⟨v, t, run, ht⟩ := hm s hs
    exact ⟨v, t, tryCatch_ok run, ht⟩

theorem mergeWork_raise (f : Flags) : MergeWork Unit (raise f) := by
  intro s _
  refine ⟨(), _, raise_run f, ⟨rfl, rfl, rfl, ?_⟩, rfl, rfl⟩
  rw [State.nowCore_updCtx]
  rfl

theorem mergeWork_readCell (n w : Nat) : MergeWork Nat (readCell n w) :=
  fun s hs => ⟨_, s, readCell_sound hs n w, .refl s⟩

theorem mergeWork_updateCell (n w v : Nat) : MergeWork Unit (updateCell n w v) := by
  intro s ⟨flips, armed⟩
  have write : writeCell n w v s = .ok () (s.updCore s.core fun k => k.setTile n ((k.tile n).setCell w v)) := by
    rw [State.nowCore] at flips
    simp [writeCell, State.updCore, Core.setTile, flips]
  refine ⟨(), _, ?_, .updCore s (f := fun k => k.setTile n ((k.tile n).setCell w v)) rfl⟩
  have still : (s.updCore s.core fun k => k.setTile n ((k.tile n).setCell w v)).armed s.core 7 = none := armed
  simp only [updateCell, M.bind_run, write, M.get_run, State.updCore_core, still, M.pure_run]

theorem mergeWork_mergePartial (n : Nat) (p : List Nat) : MergeWork Unit (mergePartial n p) :=
  mergeWork_class.forM fun _ _ => mergeWork_class.bind (mergeWork_readCell _ _) fun _ =>
    mergeWork_class.bind (mergeWork_raise _) fun _ => mergeWork_updateCell _ _ _

theorem mergeWork_partialsOf (as bs : List (List FVal)) (k : Nat) (keep : Nat → Bool) :
    MergeWork (List (List Nat × Nat)) (partialsOf as bs k keep) :=
  mergeWork_class.mapM fun _ _ => mergeWork_class.bind
    (mergeWork_class.mapM fun _ _ => mergeWork_class.bind (mergeWork_raise _) fun _ => mergeWork_class.pure _)
    fun _ => mergeWork_class.pure _

/-- The checksums of a tile that merging has changed are no longer valid. -/
theorem merged_stale {m : M Unit} {n : Nat} (hm : MergeWork Unit m) (hn : n < 4) (hs : s.TilesSound) :
    ∃ t, (do m; modTile n fun t => { t with cv := false }) s = .ok () t ∧ s.OnMerge t ∧
      (t.nowCore.tile n).cv = false := by
  obtain ⟨⟨⟩, t, run, ht⟩ := hm s hs
  refine ⟨_, (M.bind_ok run).trans rfl, ht.trans (.updCore t rfl), ?_⟩
  rw [tile_updCore t hn fun t => { t with cv := false }]

theorem tilesSound_of_sound {c : Nat} {x : Fin 8} (h : Claims.sound s c) : (s.asCtx c x).TilesSound := by
  obtain ⟨flips, quiet⟩ := h
  refine ⟨flips, ?_⟩
  show s.armed c 7 = none
  simp [State.armed, quiet]

/-! ## The partials of a core (R277) -/

/-- The partial that a search for the first in slice order goes on with. -/
def firstOf (b : Option Partial) (p : Partial) : Option Partial :=
  match b with
  | some e => if p.slice < e.slice then some p else b
  | none => some p

theorem firstPartial_eq (c : Nat) (ps : List Partial) :
    firstPartial c ps = (ps.filter (·.core == c)).foldl firstOf none := rfl

/-- The search finds the partial that it began with or one of the list, and none of these has a lower slice. -/
theorem foldl_firstOf {l : List Partial} {b : Option Partial} {p : Partial} (h : l.foldl firstOf b = some p) :
    (p ∈ b ∨ p ∈ l) ∧ (∀ e ∈ b, p.slice ≤ e.slice) ∧ ∀ e ∈ l, p.slice ≤ e.slice := by
  induction l generalizing b with
  | nil =>
    have h : b = some p := h
    subst h
    simp
  | cons a l ih =>
    obtain ⟨found, least, rest⟩ := ih h
    cases b with
    | none =>
      have below : p.slice ≤ a.slice := least a rfl
      simp only [firstOf, Option.mem_some_iff] at found
      grind
    | some e =>
      simp only [firstOf] at found least
      grind

theorem firstPartial_least {c : Nat} {ps : List Partial} {p : Partial} (h : firstPartial c ps = some p) :
    p ∈ ps ∧ p.core = c ∧ ∀ e ∈ ps, e.core = c → p.slice ≤ e.slice := by
  rw [firstPartial_eq] at h
  obtain ⟨found, -, least⟩ := foldl_firstOf h
  obtain ⟨member, hcore⟩ := List.mem_filter.1 (found.resolve_left (by simp))
  exact ⟨member, by simpa using hcore, fun e he hce => least e (List.mem_filter.2 ⟨he, by simpa using hce⟩)⟩

/-! ## Merging -/

section
variable {core : Fin 1024} {x : Fin 8} {d : DWord} {p : Partial} (hmember : (s.coreAt core.val).member = some x)
  (hfirst : firstPartial core.val (s.cluAt (coreClu core.val)).partials = some p)
  (hsheet : (s.ctxAt core.val x).sheet = some d)
include hmember hfirst hsheet

theorem partialMerge_merges (h : Claims.merged (shC d) p (s.asCtx core.val x) = .ok () t) :
    let u := (t.asCtx s.core s.ctx).updClu (coreClu core.val) fun k =>
      { k with partials := k.partials.filter (· != p) }
    exec (.sheetPartialMerge core) s = .next
      (if (firstPartial core.val (u.cluAt (coreClu core.val)).partials).isSome then u.later 2 (.sheetMerge core.val)
       else u.updCtx core.val x fun q => { q with run := .live, latch := some [] }) := by
  intro u
  show execSheetPartialMerge core s = _
  rw [Claims.merged] at h
  simp only [execSheetPartialMerge, hmember, hfirst, hsheet, h]
  split
  · rfl
  · rfl

theorem partialMerge_sound (hs : Claims.sound s core.val) :
    let rest := (s.cluAt (coreClu core.val)).partials.filter (· != p)
    ∃ t, exec (.sheetPartialMerge core) s = .next t ∧ t.mem = s.mem ∧
      (t.cluAt (coreClu core.val)).partials = rest ∧
      (firstPartial core.val rest = none →
        (t.ctxAt core.val x).run = .live ∧ (t.ctxAt core.val x).latch = some []) := by
  intro rest
  have tile : shC d < 4 := fld_lt ..
  obtain ⟨t, run, kept, -⟩ := merged_stale (mergeWork_mergePartial (shC d)
    ((upTo 256).map fun w => fld p.acc.toNat (32 * w) 32)) tile (tilesSound_of_sound (x := x) hs)
  have merges := partialMerge_merges hmember hfirst hsheet run
  simp only [] at merges
  generalize hu : (t.asCtx s.core s.ctx).updClu (coreClu core.val) _ = u at merges
  have clu : (t.asCtx s.core s.ctx).cluAt (coreClu core.val) = s.cluAt (coreClu core.val) := by
    show SMap.get {} t.clusters _ = _
    rw [kept.clusters]
    rfl
  have partials : (u.cluAt (coreClu core.val)).partials = rest := by rw [← hu, State.cluAt_updClu, clu]
  have mem : u.mem = s.mem := by
    rw [← hu, State.updClu_mem]
    exact kept.mem
  rw [partials] at merges
  refine ⟨_, merges, ?_, ?_, fun hnone => ?_⟩
  · split
    · exact mem
    · exact mem
  · split
    · exact partials
    · exact partials
  · rw [hnone, if_neg (by simp), State.ctxAt_updCtx]
    exact ⟨rfl, rfl⟩

end

end Sys2Proof.Machine
end

section
/-! SUPPORT. The collective of a sheet with one member, whose operands lie in die pads (R276). -/

namespace Sys2Proof.Machine

variable {α : Type} {s t u : State} {core : Fin 1024} {x : Fin 8} {d : DWord} {m : Member} {ms : List Member} {v : α}

theorem sheetPairing_performs (hmember : (s.coreAt core.val).member = some x)
    (hsheet : (s.ctxAt core.val x).sheet = some d)
    (hms : s.sheetMembers d (s.ctxAt core.val x).sheetN none core.val = some ms) (h : s.collective d ms ms = .ok t) :
    exec (.sheetPairing core) s = .next (ms.foldl (fun t e => t.memberDone d e) t) := by
  show execSheetPairing core s = _
  simp only [execSheetPairing, hmember, hsheet, hms, h]

/-! ## Work as a member -/

theorem asMember_ok {f : M α} (h : f (s.asCtx m.core m.ctx) = .ok v t) :
    asMember m f s = .ok v (t.asCtx s.core s.ctx) := by
  simp only [asMember, M.bind_run, M.get_run, M.set_run, h, M.modify_run, M.pure_run]

theorem asMember_still {f : M α} (h : f (s.asCtx m.core m.ctx) = .ok v (s.asCtx m.core m.ctx)) :
    asMember m f s = .ok v s := (asMember_ok h).trans rfl

/-! ## Operands in die pads -/

section
variable {p : Pr} (hc : s.codesClean s.core = true) (hperf : s.performed)
include hc hperf

/-- An operand in a die pad is opened where it lies. -/
theorem die_openWith (hd : Claims.inDiePad s s.now.p[p] s.now.part.toNat 0 1) (map : V512) (ty pane : Nat) :
    openWith p map ty pane s = .ok { reg := p, ptr := s.now.p[p], at_ := s.now.p[p].key s.now.part.toNat, dead := false
                                     map, pane, fmt := paneFmt pane ty } s := by
  obtain ⟨f, h, run, hlive⟩ := die_locateUp hd
  have alive : (h.state == stDead) = false := by rw [hlive]; rfl
  simp only [openWith, inPlaceOf, inPlace, M.bind_run, afterAmos_performed hperf, preg_clean hc, M.me_run, run, alive,
    M.pure_run, M.get_run, bne_self_eq_false, Bool.false_and, Bool.false_eq_true, if_false]

theorem die_rowsA (hd : Claims.inDiePad s s.now.p[m.pa] s.now.part.toNat 0 1)
    (hsound : ∀ g ∈ granules (s.now.p[m.pa].key s.now.part.toNat) s.now.p[m.pa].len, s.mem.isPoisoned g = false)
    (first : Nat) (keep : Nat → Bool) : ∃ v, m.rowsA none first keep s = .ok v s := by
  have reads := die_readsBy hd (may := False) (o := {
    reg := m.pa, ptr := s.now.p[m.pa], at_ := s.now.p[m.pa].key s.now.part.toNat, dead := false
    map := s.now.tm[m.tma], pane := m.panes.1, fmt := paneFmt m.panes.1 m.ty }) rfl rfl fun g hg => .inl (hsound g hg)
  rw [Member.rowsA, M.bind_ok (readMap_clean hc _), M.bind_ok (die_openWith hc hperf hd _ _ _)]
  refine stillWork_answers (reads.mapM fun i _ => reads.mapM fun k _ => ?_)
  split
  · exact reads.elemAt _ _
  · exact reads.pure _

theorem die_colsB (hd : Claims.inDiePad s s.now.p[m.pb] s.now.part.toNat 0 1)
    (hsound : ∀ g ∈ granules (s.now.p[m.pb].key s.now.part.toNat) s.now.p[m.pb].len, s.mem.isPoisoned g = false)
    (len first : Nat) (keep : Nat → Bool) : ∃ v, m.colsB none len first keep s = .ok v s := by
  have reads := die_readsBy hd (may := False) (o := {
    reg := m.pb, ptr := s.now.p[m.pb], at_ := s.now.p[m.pb].key s.now.part.toNat, dead := false
    map := s.now.tm[m.tmb], pane := m.panes.2, fmt := paneFmt m.panes.2 m.ty }) rfl rfl fun g hg => .inl (hsound g hg)
  rw [Member.colsB, M.bind_ok (readMap_clean hc _), M.bind_ok (die_openWith hc hperf hd _ _ _)]
  refine stillWork_answers (reads.bind (reads.mapM fun k _ => reads.mapM fun j _ => ?_) fun _ => reads.pure _)
  split
  · exact reads.elemAt _ _
  · exact reads.pure _

end

/-! ## A sheet of one core (R275) -/

theorem codesClean_of_sound {c : Nat} {x : Fin 8} (h : Claims.sound s c) :
    (s.asCtx c x).codesClean (s.asCtx c x).core = true := by
  obtain ⟨flips, quiet⟩ := h
  show s.codesClean c = true
  simp [State.codesClean, flips, quiet]

/-- The only core of a sheet is at its first place, and is its own partner. -/
theorem sheet_of_one {c : Nat} (hw : shW d = 1) (hh : shH d = 1) (hin : shInside d c = true) :
    shPos d c = (0, 0) ∧ shCore d c 0 0 = c := by
  simp only [shInside, hw, hh, Bool.and_eq_true, decide_eq_true_eq] at hin
  obtain ⟨⟨⟨left, right⟩, top⟩, bottom⟩ := hin
  refine ⟨?_, ?_⟩
  · simp only [shPos, Prod.mk.injEq]
    omega
  · simp only [shCore]
    omega

/-- The only member of a sheet reads both operands, and its partials join its own tile. -/
theorem memberWork_alone (hpos : shPos d m.core = (0, 0)) (hcore : shCore d m.core 0 0 = m.core) (hks : shKs d = false)
    (hs : Claims.sound s m.core) (hperf : (s.asCtx m.core m.ctx).performed)
    (hops : ∀ p ∈ [(s.asCtx m.core m.ctx).now.p[m.pa], (s.asCtx m.core m.ctx).now.p[m.pb]],
      s.malformed p = false ∧ Claims.inDiePad s p (s.asCtx m.core m.ctx).now.part.toNat 0 1 ∧
      ∀ g ∈ granules (p.key (s.asCtx m.core m.ctx).now.part.toNat) p.len, s.mem.isPoisoned g = false) :
    ∃ t, memberWork d [m] m s = .ok () t ∧ t.mem = s.mem ∧ ((t.coreAt m.core).tile (shC d)).cv = false := by
  have clean := codesClean_of_sound (x := m.ctx) hs
  have tiles := tilesSound_of_sound (x := m.ctx) hs
  obtain ⟨⟨-, dieA, soundA⟩, ⟨-, dieB, soundB⟩, -⟩ := List.forall_mem_cons.1 hops |>.imp_right List.forall_mem_cons.1
  have lenK : asMember m m.lenK s = .ok (tmExt (s.asCtx m.core m.ctx).now.tm[m.tma] 0) s := by
    refine asMember_still ?_
    simp only [Member.lenK, M.bind_run, readMap_clean clean, M.pure_run]
  obtain ⟨as, rows⟩ := die_rowsA (s := s.asCtx m.core m.ctx) clean hperf dieA soundA 0 fun _ => true
  obtain ⟨bs, cols⟩ := die_colsB (s := s.asCtx m.core m.ctx) clean hperf dieB soundB
    (tmExt (s.asCtx m.core m.ctx).now.tm[m.tma] 0) 0 fun _ => true
  have joins := mergeWork_class.bind
    (mergeWork_partialsOf as bs (tmExt (s.asCtx m.core m.ctx).now.tm[m.tma] 0) fun _ => true)
    fun ps => mergeWork_class.forM (l := ps) fun p _ => mergeWork_mergePartial (shC d) p.1
  obtain ⟨t, run, kept, stale⟩ := merged_stale joins (n := shC d) (fld_lt ..) tiles
  rw [bind_assoc] at run
  have found : [m].find? (fun e => e.core == m.core) = some m := by simp
  refine ⟨t.asCtx s.core s.ctx, ?_, kept.mem, ?_⟩
  · simp only [memberWork, hpos, hks, hcore, found, Nat.mul_zero, M.bind_run, lenK, asMember_still rows,
      asMember_still cols, Bool.false_eq_true, if_false]
    exact asMember_ok run
  · have place : (t.asCtx s.core s.ctx).coreAt m.core = t.nowCore := by
      rw [State.nowCore, kept.core]
      rfl
    rw [place, stale]

theorem collective_alone (h : memberWork d [m] m s = .ok () t) : s.collective d [m] [m] = .ok t := by
  simp only [State.collective, h]

theorem memberDone_live (hks : shKs d = false) : ((t.memberDone d m).ctxAt m.core m.ctx).run = .live := by
  rw [State.memberDone, State.ctxAt_updCtx]
  simp only [hks, Bool.false_and, Bool.false_eq_true, if_false]

end Sys2Proof.Machine

open Sys2Proof Sys2Proof.Machine

theorem sheetEvents : Claims.SheetEvents := by
  refine ⟨fun s t core x d ms hmember hsheet hms h => sheetPairing_performs hmember hsheet hms h,
    fun s t core x d p hmember hfirst hsheet h => partialMerge_merges hmember hfirst hsheet h,
    fun s core x d m n hmember hsheet hcore hms hw hh hks hin hs hperf hops hn => ?alone,
    fun s core x d p hmember hfirst hsheet hs => partialMerge_sound hmember hfirst hsheet hs,
    fun c ps p h => firstPartial_least h⟩
  case alone =>
    rw [← hcore] at hs hperf hops hin ⊢
    obtain ⟨hpos, hself⟩ := sheet_of_one hw hh hin
    obtain ⟨t, work, mem, stale⟩ := memberWork_alone hpos hself hks hs hperf hops
    have performs := collective_alone work
    have pairs := sheetPairing_performs hmember hsheet hms performs
    exact ⟨t, performs, pairs, mem, memberDone_live hks, by rw [hn, stale]⟩

/-- Settles O49: a refill and a fill end with a strip or a row more; a command meets a port that does not decide whether
there is room; and what merges partials changes only tiles, so that each repeat of the search finds the rest. -/
theorem streamAndSheetEvents : Obligations.StreamAndSheetEvents := ⟨streamAndCommandEvents, sheetEvents⟩
end
